-- ==== Sys2Proof/Word.lean ====
section
/-! DEFINITION. The word types of the Varvo and the sparse table that every unit array is held in. -/

namespace Sys2Proof

/-- One byte (R4). -/
abbrev Byte := BitVec 8
/-- One 64-bit data flit (R44). -/
abbrev Flit := BitVec 64
/-- A 32-bit set-up register (R436). -/
abbrev Reg := BitVec 32
/-- The 33-bit master identity of R14. -/
abbrev Master := BitVec 33
/-- A 12-bit transaction tag (R45). -/
abbrev Tag := BitVec 12
/-- A litter epoch (R15). -/
abbrev Epoch := BitVec 8
/-- A field index, 0-83 (R11). -/
abbrev Field := Fin 84
/-- A cluster within its field, 0-95 (R11). -/
abbrev Loc := Fin 96
/-- A core within its cluster, 0-47 (R12). -/
abbrev CoreIx := Fin 48
/-- A function: PF0 or VF1-VF63 (R34). -/
abbrev Func := Fin 64
/-- A ring, 0-4,095 (R303). -/
abbrev RingIx := Fin 4096
/-- A sequence slot, 0-1,023 (R256). -/
abbrev SlotIx := Fin 1024
/-- A Nelion port, 0-15 (R354). -/
abbrev PortIx := Fin 16
/-- A wafer ID, 0-31 (R13). -/
abbrev Wafer := Fin 32
/-- A wafer- or span-scope barrier index (R26). -/
abbrev BarIx := BitVec 16

/-- A sparse table: key and value pairs, keys strictly rising, no entry equal to the default. -/
abbrev Tbl (α : Type) := List (Nat × α)

end Sys2Proof
end

