-- ==== Sys2Proof/Types.lean ====
section
/-! DEFINITION. The named things that commands, messages and state share: status codes, scopes, operation codes,
identities, kennel requests, barrier messages, partials, verdicts, sideband bodies. -/

namespace Sys2Proof

/-- The status codes of R17. -/
inductive Status where
  | ok | timeout | gone | abandoned | notOwner | phantom | poison | suspect | aborted | noResource | overrun
  | fenced | spanLost
  deriving DecidableEq, Repr

/-- The kennel operations of Table - Operation codes (R78). -/
inductive KOp where
  | load | store | swap | cas | add | and | or | xor | umax | umin | smax | smin
  | semWait | semSignal | semSet | semRead | tokTake | tokReturn | tokSet | tokRead
  | lockAcq | lockRel | lockConfirm | lockCancel | lockRenew | lockRead | withdraw
  deriving DecidableEq, Repr

/-- A cluster by field and place (R11). -/
structure Cluster where
  field : Field
  loc : Loc
  deriving DecidableEq, Repr

/-- The cluster ID of R11, FIELD in [13:7] and LOCAL in [6:0]. -/
def Cluster.id (c : Cluster) : Nat := c.field.val * 128 + c.loc.val

/-- A core by cluster and index (R12). -/
structure CoreRef where
  cl : Cluster
  ix : CoreIx
  deriving DecidableEq, Repr

/-- The core ID of R12, cluster ID in [19:6] and core index in [5:0]. -/
def CoreRef.id (c : CoreRef) : Nat := c.cl.id * 64 + c.ix.val

/-- The operands of a kennel operation (R77): what core software or a KENNEL descriptor gives.
LIMIT and COUNT of SEM_SET and TOK_SET lie in [63:32] and [31:0] of `a`. -/
structure KArgs where
  scope : BitVec 2
  pub : Bool
  ret : Bool
  cls : BitVec 4
  index : BitVec 20
  n : BitVec 16
  m : BitVec 16
  leash : Byte
  tmo : Byte
  wait : Bool
  ahead : Bool
  ctag : Tag
  a : BitVec 64
  b : BitVec 64
  deriving DecidableEq, Repr

/-- A kennel request as it stands at its home hub, but for its operation code: operands, master and tag (R77). -/
structure KMsg where
  args : KArgs
  master : Master
  tag : Tag
  deriving DecidableEq, Repr

/-- A kennel reply or deferred end (R78, R91). `dfr`: it is the end of a queued request, which decides DEF of
SB_KRSP (R367; assumption 8, DEDUCED). `src`: the unit address it comes from (R45). -/
structure KRsp where
  dfr : Bool
  src : BitVec 14
  op : KOp
  status : Status
  flag : Bool
  grant : BitVec 16
  aux : BitVec 32
  result : BitVec 64
  master : Master
  tag : Tag
  deriving DecidableEq, Repr

/-- The causes a WHISTLE carries (R91). -/
inductive Cause where
  | lock | bar | tick | sem | abort | leash
  deriving DecidableEq, Repr

/-- One lane of a partial: the exact accumulator, the element and index, and the side byte (R146). -/
structure Lane where
  acc : Int
  elem : BitVec 64
  idx : BitVec 32
  psn : Bool
  nocand : Bool
  negz : Bool
  ninf : Bool
  pinf : Bool
  nan : Bool
  deriving DecidableEq, Repr

/-- A partial (R146): the lane records in lane order and the OR-folded side word. -/
structure Partial where
  lanes : List Lane
  side : BitVec 64
  deriving DecidableEq, Repr

/-- The CSN verdict flit (R214). -/
structure Verdict where
  zrow : BitVec 16
  zcol : BitVec 16
  ntile : BitVec 20
  nbad : Byte
  nanr : Bool
  lost : Bool
  low : Bool
  sus : Bool
  deriving DecidableEq, Repr

/-- The load verdict flit (R428). -/
structure LoadVerdict where
  crc : BitVec 32
  npkt : BitVec 24
  bad : Bool
  deriving DecidableEq, Repr

/-- What ends a CSN's ARRIVE to a barrier in ROLE 1 (R214, R428). -/
inductive CsnVerdict where
  | none
  | abft (v : Verdict)
  | load (v : LoadVerdict)
  deriving DecidableEq, Repr

/-- The two hub verdict flits (R215). -/
structure HubVerdict where
  zrow : BitVec 16
  zcol : BitVec 16
  mask : BitVec 96
  deriving DecidableEq, Repr

/-- ARRIVE from a CSN (R121, R140, R214): NCL is 1, STAT is OK or POISON as `pois` says. `proxy`: it comes of a proxy leg,
for the cluster named (R215, R226; how the hub tells it from one of the source's own leg: assumption 86, DEDUCED). -/
structure CArrive where
  src : Nat
  proxy : Option Nat
  bar : BarIx
  gen : Byte
  pepoch : Epoch
  pois : Bool
  body : List Byte
  verd : CsnVerdict
  deriving DecidableEq, Repr

/-- ARRIVE from a hub (R121, R146, R215). -/
structure FArrive where
  bar : BarIx
  gen : Byte
  ncl : Nat
  nlost : Nat
  pepoch : Epoch
  stat : Status
  pois : Bool
  part : Partial
  verd : HubVerdict
  deriving DecidableEq, Repr

/-- The result part of a released reduction (R139, R141): the result region, the lane flags and NCONT. -/
structure WinRes where
  bytes : List Byte
  flags : List Byte
  ncont : Nat
  deriving DecidableEq, Repr

/-- RELEASE (R122). `lanes` is 0 for a plain barrier. -/
structure Release where
  bar : BarIx
  gen : Byte
  nlost : Nat
  stat : Status
  pois : Bool
  res : WinRes
  deriving DecidableEq, Repr

/-- The kinds of RESET_NOTE (R389). -/
inductive NoteKind where
  | core | cluster | function | contain
  deriving DecidableEq, Repr

/-- RESET_NOTE (R389). `shared`: the note reports a mismatch in a field-shared action, which belongs to no function (R233;
the body has no bit of it: assumption 29, DEDUCED). -/
structure ResetNote where
  kind : NoteKind
  newEp : Epoch
  cls : Byte
  func : Func
  shared : Bool
  master : Master
  deriving DecidableEq, Repr

/-- ABORT (R390). -/
structure AbortMsg where
  func : Func
  reason : BitVec 3
  stat : Status
  deriving DecidableEq, Repr

/-- TICK_NOTE (R169). -/
structure TickNote where
  tick : BitVec 32
  pch : Bool
  lvl : Bool
  per : BitVec 27
  deriving DecidableEq, Repr

/-- ALERT_NOTE (R204). CAUSE 0 is reg_alert_n; 1-7 are reserved. -/
structure AlertNote where
  asrt : Bool
  cause : BitVec 3
  opb : BitVec 3
  time : BitVec 32
  deriving DecidableEq, Repr

/-- TELEM (R186). -/
structure Telem where
  pavg : BitVec 16
  ipk : BitVec 16
  vout : BitVec 12
  opf : BitVec 3
  alr : Bool
  seq : BitVec 16
  step : BitVec 12
  slew : BitVec 12
  tmax : BitVec 12
  tavg : BitVec 12
  drp : BitVec 16
  rows : List (BitVec 16)
  deriving DecidableEq, Repr

/-- One phase of a pitch list (R245). -/
structure Phase where
  opp : BitVec 3
  dh : BitVec 32
  bars : List BarIx
  deriving DecidableEq, Repr

/-- One binding record (R245). -/
structure Binding where
  bar : BarIx
  ph : BitVec 3
  slot0 : BitVec 10
  nl : BitVec 6
  deriving DecidableEq, Repr

/-- A pitch list image as read from its header and records (R245). -/
structure PitchImage where
  utag : BitVec 32
  count : BitVec 32
  eh : BitVec 32
  heel : BarIx
  commit : BarIx
  var : BitVec 16
  cevery : BitVec 16
  cring : BitVec 12
  vaddr : BitVec 22
  cmt : Bool
  vonly : Bool
  phases : List Phase
  binds : List Binding
  deriving DecidableEq, Repr

/-- PITCH (R255). -/
structure PitchMsg where
  func : Func
  plid : BitVec 11
  rpl : BitVec 2
  cmt : Bool
  tick : BitVec 32
  heel : BarIx
  commit : BarIx
  step : BitVec 32
  gops : List (BitVec 3)
  phases : List (List BarIx)
  bounds : List (BitVec 3 × BarIx)
  deriving DecidableEq, Repr

/-- A proxy record (R225). -/
structure Proxy where
  func : Func
  x : Nat
  s : Nat
  epoch : BitVec 32
  deriving DecidableEq, Repr

/-- The body of a loaded packet (R65): FUNC, SEQ, ADDR and 128 bytes. -/
structure LoadPkt where
  func : Func
  seq : BitVec 32
  addr : BitVec 22
  data : List Byte
  deriving DecidableEq, Repr

/-- The load manifest (R427). -/
structure Manifest where
  base : BitVec 32
  lenb : BitVec 32
  npkt : BitVec 32
  crc : BitVec 32
  relcore : Bool
  entry : BitVec 32
  deriving DecidableEq, Repr

/-- The kinds of unit the error history names (R396). -/
inductive UnitKind where
  | csn | hub | rootSite | hubMash | rootMash | router | meshLink | expressLink | spine | sideband | packProc
  | regArray | wafer
  deriving DecidableEq, Repr

/-- A unit ID (R396). -/
structure UnitId where
  kind : UnitKind
  idx : BitVec 19
  deriving DecidableEq, Repr

/-- The structures of Table - Owners of protected state (R384) that a damaged word may belong to. -/
inductive Struct where
  | csnArray (cl : Nat)
  | kennelEntry (k : Nat)
  | barrierRec (bar : Nat)
  | partialBuf (hub : Option Nat) (bar : Nat)
  | ofFn (f : Option Func)
  | shared
  | routeTable
  | distCopy
  deriving DecidableEq, Repr

/-- LOG (R401). PERM: 0 transient, 1 permanent, 2 undetermined. -/
structure LogMsg where
  cls : Byte
  uid : UnitId
  sev : BitVec 3
  perm : BitVec 2
  func : BitVec 6
  fv : Bool
  act : BitVec 4
  cnt : BitVec 16
  d1 : BitVec 64
  d2 : BitVec 64
  deriving DecidableEq, Repr

/-- What a MGMT message carries to a hub: an allowance word (R202) or a repair order (R429). -/
inductive MgmtMsg where
  | allowance (word : BitVec 16)
  | repairTarget (x : Loc)
  | repairDonor (d : Loc) (x : Nat) (tepoch : Epoch)
  | opForce (force : Bool)
  deriving DecidableEq, Repr

/-- An up link between two wafers of a span, by wafer ID and port at each end (R359). -/
structure UpLink where
  a : Wafer
  pa : PortIx
  b : Wafer
  pb : PortIx
  deriving DecidableEq, Repr

/-- SB_TICK (R362). -/
structure SbTick where
  tick : BitVec 48
  pch : Bool
  lvl : Bool
  etime : BitVec 48
  stbf : Byte
  per : BitVec 27
  deriving DecidableEq, Repr

/-- SB_PITCH (R363). -/
structure SbPitch where
  func : Func
  plid : BitVec 11
  rpl : BitVec 2
  gops : List (BitVec 3)
  step : BitVec 32
  deriving DecidableEq, Repr

/-- SB_ARRIVE (R365). -/
structure SbArrive where
  src : Wafer
  func : Func
  bar : BarIx
  gen : Byte
  pepoch : Epoch
  stat : Status
  pois : Bool
  ncl : Nat
  nlost : Nat
  nsus : Nat
  zrow : BitVec 16
  zcol : BitVec 16
  part : Partial
  deriving DecidableEq, Repr

/-- SB_RELEASE (R366). -/
structure SbRelease where
  rel : Release
  epoch : BitVec 32
  deriving DecidableEq, Repr

/-- SB_KILN (R369). -/
structure SbKiln where
  src : Wafer
  func : Func
  bud : BitVec 32
  head : BitVec 32
  intv : BitVec 16
  cands : List (BitVec 11 × BitVec 27 × BitVec 26)
  deriving DecidableEq, Repr

/-- The SWITCH form of SB_FORM (R377): T, the new SGEN, lead, this wafer's new ID, the formed mask,
and CEP and CKPT of every job. -/
structure FormSwitch where
  t : BitVec 48
  sgen : BitVec 16
  lead : Wafer
  self : Wafer
  mask : BitVec 32
  stays : Bool
  jobs : List (Func × BitVec 32 × BitVec 32)
  deriving DecidableEq, Repr

/-- One span-record carry (R378). -/
structure CarryRec where
  bar : BarIx
  gen : Byte
  wexp : Nat
  deriving DecidableEq, Repr

/-- One kennel entry of the carry list's blocks (R378): kennel index and the 128-bit entry of R74. -/
structure CarryEntry where
  k : Nat
  word : BitVec 128
  deriving DecidableEq, Repr

/-- One kiln history entry carried (R378), in nanojoules and nanoseconds. -/
structure CarryHist where
  plid : BitVec 11
  n : Nat
  mE : Nat
  dE : Nat
  mT : Nat
  dT : Nat
  deriving DecidableEq, Repr

/-- The CARRY form of SB_FORM (R378). -/
structure FormCarry where
  recs : List CarryRec
  hist : List CarryHist
  per : BitVec 27
  stbf : Byte
  entries : List CarryEntry
  deriving DecidableEq, Repr

/-- A memory-port entry of a cluster's distance record, as the data mesh gives it (R70, R71). -/
structure PortEnt where
  cl : Cluster
  port : Fin 24
  word : BitVec 32
  deriving DecidableEq, Repr

/-- A hub whose two sequencers take a command, and whether their comparator finds that they disagree (R232, R233). -/
structure HubIn where
  hub : Field
  differ : Bool
  deriving DecidableEq, Repr

/-- The body of SB_PACK JOIN: the member's litter epoch, and the payload descriptor of its pack (R364, R365). -/
structure JoinIn where
  pepoch : Epoch
  pay : BitVec 32
  deriving DecidableEq, Repr

/-- The report of the start-up tests that bring-up takes from outside the Varvo or from its own self-tests
(R407-R413): what failed in each step. -/
structure BringUp where
  firmwareValid : Bool
  factoryValid : Bool
  siteFails : List Nat
  hubFails : List Field
  routerFails : List Cluster
  linkFails : List Nat
  spineFails : List Field
  katFails : List Cluster
  dist : List PortEnt
  deriving DecidableEq, Repr

/-- A PLDM firmware chunk (R426). -/
structure FwChunk where
  offset : BitVec 32
  data : List Byte
  deriving DecidableEq, Repr

/-- How core software names a barrier (R116): an entry index of its CSN, or a class 0x3 handle's INDEX. -/
inductive BarName where
  | entry (ix : Byte)
  | handle (b : BarIx)
  deriving DecidableEq, Repr

/-- Whose publish invalidation an inv_ack answers (R286, R287): a core's request, or a ring command. -/
inductive InvWho where
  | core (c : CoreRef) (t : Tag)
  | ring (r : RingIx) (sqi : BitVec 16)
  deriving DecidableEq, Repr

end Sys2Proof
end

