-- ==== Sys2Proof/Syntax.lean ====
section
/-! DEFINITION. The commands of the Varvo: one constructor per row of the opcode table, with the row's operands.
A command is an event at a boundary of a unit, a message reaching a unit, a register or ring access, or a moment the
unit's own timer reaches. The docstring of each names its row and the rule that governs it. -/

namespace Sys2Proof

/-- The commands. -/
inductive Instr where
  /-- KEN_ISSUE (R79). -/
  | kenIssue (c : CoreRef) (op : BitVec 5) (q : KArgs)
  /-- LOAD (R81). -/
  | load (hub : Field) (tep : Epoch) (q : KMsg)
  /-- STORE (R81). -/
  | store (hub : Field) (tep : Epoch) (q : KMsg)
  /-- SWAP (R81). -/
  | swap (hub : Field) (tep : Epoch) (q : KMsg)
  /-- CAS (R81). -/
  | cas (hub : Field) (tep : Epoch) (q : KMsg)
  /-- ADD (R81). -/
  | add (hub : Field) (tep : Epoch) (q : KMsg)
  /-- AND (R81). -/
  | and (hub : Field) (tep : Epoch) (q : KMsg)
  /-- OR (R81). -/
  | or (hub : Field) (tep : Epoch) (q : KMsg)
  /-- XOR (R81). -/
  | xor (hub : Field) (tep : Epoch) (q : KMsg)
  /-- UMAX (R81). -/
  | umax (hub : Field) (tep : Epoch) (q : KMsg)
  /-- UMIN (R81). -/
  | umin (hub : Field) (tep : Epoch) (q : KMsg)
  /-- SMAX (R81). -/
  | smax (hub : Field) (tep : Epoch) (q : KMsg)
  /-- SMIN (R81). -/
  | smin (hub : Field) (tep : Epoch) (q : KMsg)
  /-- SEM_WAIT (R83). -/
  | semWait (hub : Field) (tep : Epoch) (q : KMsg)
  /-- SEM_SIGNAL (R83). -/
  | semSignal (hub : Field) (tep : Epoch) (q : KMsg)
  /-- SEM_SET (R83). -/
  | semSet (hub : Field) (tep : Epoch) (q : KMsg)
  /-- SEM_READ (R83). -/
  | semRead (hub : Field) (tep : Epoch) (q : KMsg)
  /-- TOK_TAKE (R83). -/
  | tokTake (hub : Field) (tep : Epoch) (q : KMsg)
  /-- TOK_RETURN (R83). -/
  | tokReturn (hub : Field) (tep : Epoch) (q : KMsg)
  /-- TOK_SET (R83). -/
  | tokSet (hub : Field) (tep : Epoch) (q : KMsg)
  /-- TOK_READ (R83). -/
  | tokRead (hub : Field) (tep : Epoch) (q : KMsg)
  /-- LOCK_ACQ (R85). -/
  | lockAcq (hub : Field) (tep : Epoch) (q : KMsg)
  /-- LOCK_REL (R85). -/
  | lockRel (hub : Field) (tep : Epoch) (q : KMsg)
  /-- LOCK_CONFIRM (R85). -/
  | lockConfirm (hub : Field) (tep : Epoch) (q : KMsg)
  /-- LOCK_CANCEL (R85). -/
  | lockCancel (hub : Field) (tep : Epoch) (q : KMsg)
  /-- LOCK_RENEW (R88). -/
  | lockRenew (hub : Field) (tep : Epoch) (q : KMsg)
  /-- LOCK_READ (R78). -/
  | lockRead (hub : Field) (tep : Epoch) (q : KMsg)
  /-- WITHDRAW (R100). -/
  | withdraw (hub : Field) (tep : Epoch) (q : KMsg)
  /-- LEASH_EXPIRY (R88). -/
  | leashExpiry (k : Fin 1376256)
  /-- WAIT_TIMEOUT (R89). -/
  | waitTimeout (k : Fin 1376256) (m : Master) (t : Tag)
  /-- KEN_RSP (R78). -/
  | kenRsp (tep : Epoch) (r : KRsp)
  /-- WHISTLE (R91). -/
  | whistle (c : CoreRef) (tep : Epoch) (cause : Cause) (r : KRsp)
  /-- KEN_REQ_SPAN (R367). -/
  | kenReqSpan (src : Cluster) (tep : Epoch) (op : KOp) (q : KMsg)
  /-- BAR_INIT (R116). -/
  | barInit (c : CoreRef) (ix : Byte) (exp : Byte)
  /-- BAR_FREE (R116). -/
  | barFree (c : CoreRef) (ix : Byte)
  /-- BAR_ARRIVE (R117). -/
  | barArrive (c : CoreRef) (b : BarName)
  /-- BAR_WAIT (R118). -/
  | barWait (c : CoreRef) (b : BarName) (g : Byte) (wait : Bool)
  /-- BAR_SYNC (R116). -/
  | barSync (c : CoreRef) (b : BarName)
  /-- BAR_READ (R116). -/
  | barRead (c : CoreRef) (b : BarName)
  /-- TICK_ARM (R171). -/
  | tickArm (c : CoreRef)
  /-- TICK_READ (R171). -/
  | tickRead (c : CoreRef)
  /-- CMT_READ (R219). -/
  | cmtRead (c : CoreRef)
  /-- CORE_DIST_READ (R72). -/
  | coreDistRead (c : CoreRef) (entry : BitVec 7)
  /-- SYNC_FENCE (R282). -/
  | syncFence (c : CoreRef) (scope : BitVec 2) (w : Bool) (inv : Bool)
  /-- FENCE_COMPLETE (R283). -/
  | fenceComplete (c : CoreRef) (lost : Bool)
  /-- BROADCAST_READ (R64). -/
  | broadcastRead (c : CoreRef) (addr : BitVec 22)
  /-- CM_WRITE_SNOOP (R64). -/
  | cmWriteSnoop (cl : Cluster) (addr : BitVec 22)
  /-- ABFT_RECORD (R211). -/
  | abftRecord (cl : Cluster) (zr : BitVec 32) (zc : BitVec 32) (accepted : Bool)
  /-- DROOP_EVENT (R449). -/
  | droopEvent (c : CoreRef)
  /-- CINV_ACK (R280). -/
  | cinvAck (c : CoreRef)
  /-- INV_ACK (R288). -/
  | invAck (who : InvWho)
  /-- INV_TIMEOUT (R288). -/
  | invTimeout (who : InvWho)
  /-- TICK_NOTE (R170). -/
  | tickNote (hub : Field) (cl : Option Loc) (n : TickNote)
  /-- EDGE (R63). -/
  | edge (cl : Cluster)
  /-- TICK_EDGE (R172). -/
  | tickEdge (cl : Cluster)
  /-- SPINE_EDGE_MISSING (R63). -/
  | spineEdgeMissing (hub : Field)
  /-- ABORT (R390). -/
  | abort (hub : Field) (cl : Option Loc) (tep : Epoch) (m : AbortMsg)
  /-- RESET_NOTE (R102). -/
  | resetNote (hub : Field) (n : ResetNote)
  /-- RESET_NOTE_AT_ROOT (R389). -/
  | resetNoteAtRoot (n : ResetNote)
  /-- RESET_NOTE_CONTAIN (R389). -/
  | resetNoteContain (n : ResetNote)
  /-- ALERT_NOTE (R204). -/
  | alertNote (hub : Field) (n : AlertNote)
  /-- LINK_NOTE (R58). -/
  | linkNote (link : BitVec 17)
  /-- ARRIVE (R112). -/
  | arrive (hub : HubIn) (tep : Epoch) (a : CArrive)
  /-- FIELD_ARRIVE (R111). -/
  | fieldArrive (hub : Field) (tep : Epoch) (a : FArrive)
  /-- MASH_FOLD (R147). -/
  | mashFold (hub : Option Field) (residueBad : Bool)
  /-- BARRIER_RESULT_READY (R111). -/
  | barrierResultReady (bar : BarIx)
  /-- RELEASE (R130). -/
  | release (hub : HubIn) (tep : Epoch) (r : Release)
  /-- RELEASE_BEGIN (R130). -/
  | releaseBegin (hub : HubIn)
  /-- RELEASE_WAVE (R129). -/
  | releaseWave (hub : Field)
  /-- RELEASE_AT_CSN (R120). -/
  | releaseAtCsn (cl : Cluster) (tep : Epoch) (r : Release)
  /-- BARRIER_TIMEOUT (R126). -/
  | barrierTimeout (hub : Field) (bar : BarIx)
  /-- PITCH (R255). -/
  | pitch (hub : HubIn) (tep : Epoch) (m : PitchMsg)
  /-- PROXY_RECORD (R225): its TEPOCH and the record. -/
  | proxyRecord (hub : HubIn) (p : Epoch × Proxy)
  /-- LOAD_MC (R65). -/
  | loadMc (cl : Cluster) (p : LoadPkt)
  /-- LOAD_UC (R429). -/
  | loadUc (cl : Cluster) (tep : Epoch) (p : LoadPkt)
  /-- MC_BRANCH_DROP (R65). -/
  | mcBranchDrop (router : Cluster)
  /-- TELEM (R186). -/
  | telem (hub : Field) (t : Telem)
  /-- TELEM_INTERVAL_END (R185). -/
  | telemIntervalEnd (hub : Field)
  /-- TELEM_LOSS (R187). -/
  | telemLoss (hub : Field)
  /-- TELEM_MISSED (R188). -/
  | telemMissed (hub : Field)
  /-- ALERT_FORCE_LIFT (R205). -/
  | alertForceLift (hub : Field)
  /-- THERMAL_FORCE_LIFT (R207). -/
  | thermalForceLift (hub : Field)
  /-- DROOP_LIMIT_EXPIRY (R203). -/
  | droopLimitExpiry (hub : Field)
  /-- ALERT_CEIL_EXPIRY (R206). -/
  | alertCeilExpiry (hub : Field)
  /-- LOG (R401). -/
  | log (m : LogMsg)
  /-- MGMT (R202). -/
  | mgmt (hub : Field) (tep : Epoch) (m : MgmtMsg)
  /-- ROUTE_LOAD (R58). -/
  | routeLoad (router : Field × Option Loc) (entries : List (Nat × BitVec 4 × BitVec 4))
  /-- LINK_RETRY (R53). -/
  | linkRetry (link : BitVec 17) (errBits : BitVec 7)
  /-- ROUTE_RELOAD (R58), with the memory-port entries that have changed (R71, R414). -/
  | routeReload (ports : List PortEnt)
  /-- RD_DRP (R449). -/
  | rdDrp (cl : Cluster)
  /-- LOAD_OPEN (R427). -/
  | loadOpen (cl : Cluster)
  /-- LOAD_CHECK (R428). -/
  | loadCheck (cl : Cluster) (bytes : List Byte)
  /-- LOAD_SEND (R429). -/
  | loadSend (donor : Cluster) (target : Cluster) (tepoch : Epoch) (bytes : List Byte)
  /-- LEG_BIND (R107). -/
  | legBind (cl : Cluster) (bar : BarIx) (exp : Byte) (gen : Byte) (proxyFor : Option Cluster)
  /-- LEG_FREE (R449). -/
  | legFree (cl : Cluster) (bar : BarIx) (proxyFor : Option Cluster)
  /-- EPOCH_LOAD (R50). -/
  | epochLoad (cl : Cluster) (tab : List (Nat × Epoch)) (part : Option Epoch)
  /-- RUN_WRITE (R167). -/
  | runWrite (run : Bool)
  /-- TICK_NOW_LATCH (R165). -/
  | tickNowLatch
  /-- DISPATCH_CUT (R195). -/
  | dispatchCut
  /-- TICK_NOTE_INJECT (R169). -/
  | tickNoteInject
  /-- HOLD_POINT (R177). -/
  | holdPoint
  /-- HELD_EDGE (R177). -/
  | heldEdge
  /-- TICK_DEADLINE (R179). -/
  | tickDeadline
  /-- FOLLOW_EDGE (R181). -/
  | followEdge
  /-- OP_CHANGE_COMPLETE (R175). -/
  | opChangeComplete (hub : Field)
  /-- AVS_READ (R451). -/
  | avsRead (hub : Field) (cur : BitVec 16) (volt : BitVec 12)
  /-- THERMAL_READ (R451). -/
  | thermalRead (hub : Field) (t0 : BitVec 12) (t1 : BitVec 12) (t2 : BitVec 12) (t3 : BitVec 12)
  /-- PMBUS_READ (R451). -/
  | pmbusRead (hub : Field) (vin : BitVec 16) (step : BitVec 12) (slew : BitVec 12)
  /-- FCLK_ACK (R451). -/
  | fclkAck (hub : Field)
  /-- FCLK_OP_REPEAT (R462). -/
  | fclkOpRepeat (hub : Field)
  /-- REG_ALERT_ASSERT (R204). -/
  | regAlertAssert (hub : Field)
  /-- REG_ALERT_DEASSERT (R204). -/
  | regAlertDeassert (hub : Field)
  /-- KILN_REPORT_SEND (R369). -/
  | kilnReportSend
  /-- SUBSTITUTE_BIND (R225). -/
  | substituteBind (f : Func)
  /-- REPLAY_READY_TIMEOUT (R229). -/
  | replayReadyTimeout (f : Func)
  /-- CASK_RECORD_WRITE (R235). -/
  | caskRecordWrite (f : Func)
  /-- CASK_UNIT_WRITE (R416). -/
  | caskUnitWrite
  /-- CASK_DEFER (R416). -/
  | caskDefer
  /-- HOLDUP_LOSS (R416). -/
  | holdupLoss
  /-- VIEW_SEND (R265). -/
  | viewSend (plid : BitVec 11)
  /-- VSF_HIF_DB_SQ (R307). -/
  | vsfHifDbSq (f : Func) (r : RingIx) (pidx : BitVec 16)
  /-- VSF_HIF_DB_CQ (R307). -/
  | vsfHifDbCq (f : Func) (r : RingIx) (head : BitVec 16)
  /-- DESC_FETCH_DONE (R308). -/
  | descFetchDone (r : RingIx) (descs : List (BitVec 512))
  /-- NOP (R310). -/
  | nop (r : RingIx) (sqi : BitVec 16)
  /-- KENNEL_DESC (R311). -/
  | kennelDesc (r : RingIx) (sqi : BitVec 16)
  /-- PACK_SET (R107). -/
  | packSet (r : RingIx) (sqi : BitVec 16) (img : List Byte)
  /-- PACK_CLEAR (R108). -/
  | packClear (r : RingIx) (sqi : BitVec 16)
  /-- CMT_SET (R224). -/
  | cmtSet (r : RingIx) (sqi : BitVec 16) (img : List Byte)
  /-- CASK_BAR (R235). -/
  | caskBar (r : RingIx) (sqi : BitVec 16)
  /-- PITCH_ADMIT (R248). -/
  | pitchAdmit (r : RingIx) (sqi : BitVec 16) (img : List Byte)
  /-- PITCH_RETIRE (R251). -/
  | pitchRetire (r : RingIx) (sqi : BitVec 16)
  /-- SEQ_ADMIT (R257). -/
  | seqAdmit (r : RingIx) (sqi : BitVec 16) (img : List Byte)
  /-- SEQ_READ (R256). -/
  | seqRead (r : RingIx) (sqi : BitVec 16)
  /-- SEQ_CTL_PAUSE (R263). -/
  | seqCtlPause (r : RingIx) (sqi : BitVec 16)
  /-- SEQ_CTL_RESUME (R263). -/
  | seqCtlResume (r : RingIx) (sqi : BitVec 16)
  /-- SEQ_CTL_CANCEL (R263). -/
  | seqCtlCancel (r : RingIx) (sqi : BitVec 16)
  /-- SEQ_CTL_BUDGET (R263). -/
  | seqCtlBudget (r : RingIx) (sqi : BitVec 16)
  /-- COPY_IN (R314). -/
  | copyIn (r : RingIx) (sqi : BitVec 16)
  /-- COPY_OUT (R314). -/
  | copyOut (r : RingIx) (sqi : BitVec 16)
  /-- DIST_READ (R314). -/
  | distRead (r : RingIx) (sqi : BitVec 16)
  /-- DMA_DONE (R314). -/
  | dmaDone (r : RingIx) (sqi : BitVec 16)
  /-- DMA_ERR (R314). -/
  | dmaErr (r : RingIx) (sqi : BitVec 16) (fenced : Bool)
  /-- HOST_BUS_ERROR (R322). -/
  | hostBusError (r : RingIx) (sqi : BitVec 16)
  /-- COMPLETION_POST (R318). -/
  | completionPost (r : RingIx)
  /-- MSIX_TIMEOUT (R321). -/
  | msixTimeout (r : RingIx)
  /-- RING_ENABLE (R306). -/
  | ringEnable (f : Func) (r : RingIx)
  /-- RING_DISABLE (R306). -/
  | ringDisable (f : Func) (r : RingIx)
  /-- RING_SPARGE (R306). -/
  | ringSparge (f : Func) (r : RingIx)
  /-- SPARGE_DRAINED (R306). -/
  | spargeDrained (r : RingIx)
  /-- PART_CREATE (R333). -/
  | partCreate (block : BitVec 512) (img : List Byte)
  /-- PART_DESTROY (R334). -/
  | partDestroy
  /-- QUOTA_SET (R329). -/
  | quotaSet (block : BitVec 512)
  /-- GRANT (R328). -/
  | grant (block : BitVec 512)
  /-- REVOKE (R328). -/
  | revoke (block : BitVec 512)
  /-- MBX_SET (R332). -/
  | mbxSet (block : BitVec 512)
  /-- MBX_REPLY (R340). -/
  | mbxReply
  /-- NOTE (R341). -/
  | note
  /-- DLOG_SET (R346). -/
  | dlogSet (block : BitVec 512)
  /-- DLOG_SWAP (R348). -/
  | dlogSwap
  /-- HOLD (R349). -/
  | hold (block : BitVec 512)
  /-- HOST_HELD (R349). -/
  | hostHeld (f : Func)
  /-- MBX_REQ (R335). -/
  | mbxReq (f : Func)
  /-- OBJ_ALLOC (R338). -/
  | objAlloc (f : Func) (hdr : BitVec 128) (pay : BitVec 128)
  /-- OBJ_FREE (R339). -/
  | objFree (f : Func) (hdr : BitVec 128) (pay : BitVec 64)
  /-- POOL_QUERY (R337). -/
  | poolQuery (f : Func) (hdr : BitVec 128)
  /-- ASK (R340). -/
  | ask (f : Func) (hdr : BitVec 128)
  /-- FORM (R377). -/
  | form (img : List Byte) (links : List UpLink) (spansOk : Bool) (leadHasJobs : Bool) (inSpan : Bool)
  /-- LEAVE (R380). -/
  | leave
  /-- FORM_JOIN_TIMEOUT (R376). -/
  | formJoinTimeout
  /-- SB_TICK_CUT (R362). -/
  | sbTickCut (sgen : BitVec 16) (m : SbTick)
  /-- SB_TICK_EDGE (R362). -/
  | sbTickEdge (sgen : BitVec 16) (m : SbTick)
  /-- SB_HOLD (R181). -/
  | sbHold (sgen : BitVec 16) (src : Wafer) (tick : BitVec 48) (req : Bool)
  /-- SB_THROT (R182). -/
  | sbThrot (sgen : BitVec 16) (src : Wafer) (asrt : Bool) (field : BitVec 7) (opb : BitVec 3)
  /-- SB_PITCH (R363). -/
  | sbPitch (sgen : BitVec 16) (m : SbPitch)
  /-- SB_ABORT (R371). -/
  | sbAbort (sgen : BitVec 16) (src : Wafer) (f : Func) (code : BitVec 4) (waf : Wafer)
  /-- SB_RESETN (R368). -/
  | sbResetn (sgen : BitVec 16) (src : Wafer) (m : Master)
  /-- SB_ARRIVE (R364). -/
  | sbArrive (sgen : BitVec 16) (a : SbArrive)
  /-- SB_RELEASE (R366). -/
  | sbRelease (sgen : BitVec 16) (r : SbRelease)
  /-- SB_KREQ (R367). -/
  | sbKreq (sgen : BitVec 16) (src : Wafer) (f : Func) (rtag : BitVec 12) (op : KOp) (q : KMsg)
  /-- SB_KRSP (R367). -/
  | sbKrsp (sgen : BitVec 16) (rtag : BitVec 12) (deferred : Bool) (r : KRsp)
  /-- SB_CMT (R229). -/
  | sbCmt (sgen : BitVec 16) (src : Wafer) (f : Func) (epoch : BitVec 32) (nsub : BitVec 7)
  /-- SB_PACK_JOIN (R364). -/
  | sbPackJoin (sgen : BitVec 16) (src : Wafer) (f : Func) (bar : BarIx) (join : JoinIn)
  /-- SB_PACK_LEAVE (R364). -/
  | sbPackLeave (sgen : BitVec 16) (src : Wafer) (f : Func) (bar : BarIx)
  /-- SB_PACK_ACK (R364). -/
  | sbPackAck (sgen : BitVec 16) (bar : BarIx) (gen : Byte)
  /-- SB_PACK_NACK (R364). -/
  | sbPackNack (sgen : BitVec 16) (bar : BarIx)
  /-- SB_KILN (R369). -/
  | sbKiln (sgen : BitVec 16) (m : SbKiln)
  /-- SB_FORM_JOIN (R377). -/
  | sbFormJoin (src : Wafer) (sgen : BitVec 16)
  /-- SB_FORM_SWITCH (R377). -/
  | sbFormSwitch (m : FormSwitch)
  /-- SB_FORM_CARRY (R378). -/
  | sbFormCarry (m : FormCarry)
  /-- SB_TSYNC (R361). -/
  | sbTsync (port : PortIx) (t1 : BitVec 64) (t2 : BitVec 64) (t3 : BitVec 64) (t4 : BitVec 64)
  /-- TSYNC_INTERVAL (R361). -/
  | tsyncInterval
  /-- SB_HELLO (R357). -/
  | sbHello (port : PortIx) (ident : BitVec 64) (wid : Wafer) (sgen : BitVec 16)
  /-- SB_ELECT (R372). -/
  | sbElect (src : Wafer) (reach : BitVec 32) (formed : BitVec 32)
  /-- ELECT_FLOOD (R372). -/
  | electFlood
  /-- ELECT_STABLE (R372). -/
  | electStable
  /-- SB_LIVE (R357). -/
  | sbLive (port : PortIx)
  /-- SB_LIVE_SEND (R357). -/
  | sbLiveSend (port : PortIx)
  /-- SB_NAK (R356). -/
  | sbNak (port : PortIx) (lseq : BitVec 12) (links : List UpLink)
  /-- SB_FRAME_ERROR (R356). `last`: LSEQ of the last frame received in order on the link (R355). -/
  | sbFrameError (port : PortIx) (last : BitVec 12) (lenReserved : Bool)
  /-- SB_LINK_SILENT (R357). -/
  | sbLinkSilent (port : PortIx) (links : List UpLink)
  /-- NEL_UP_DEASSERT (R357). -/
  | nelUpDeassert (port : PortIx) (links : List UpLink)
  /-- NEL_LINK_UP (R357). -/
  | nelLinkUp (port : PortIx) (links : List UpLink)
  /-- SCRUB_PASS (R383). -/
  | scrubPass (uid : UnitId) (what : Struct) (word : BitVec 64) (errBits : BitVec 4)
  /-- PARTITION_RESET (R391). -/
  | partitionReset (f : Func) (cls : Byte)
  /-- PARTITION_RESET_COMPLETE (R391). -/
  | partitionResetComplete (f : Func)
  /-- RESET_ESCALATE (R405). -/
  | resetEscalate (f : Func)
  /-- EPOCH_ADVANCE (R388). -/
  | epochAdvance (cl : Cluster)
  /-- CORE_RESET (R101). -/
  | coreReset (c : CoreRef)
  /-- CORE_RETIRE_DONE (R101). -/
  | coreRetireDone (c : CoreRef)
  /-- CORE_RETIRE_TIMEOUT (R101). -/
  | coreRetireTimeout (c : CoreRef)
  /-- FUNCTION_LEVEL_RESET (R392). -/
  | functionLevelReset (f : Func)
  /-- VRST (R404). -/
  | vrst (v : Reg)
  /-- VARVO_RESET (R404). -/
  | varvoReset (b : BringUp)
  /-- REINIT (R392). -/
  | reinit (v : Reg)
  /-- MANAGER_ABORT (R390). -/
  | managerAbort (v : Reg)
  /-- HISTORY_CLEAR (R406). -/
  | historyClear (v : Reg)
  /-- PP_WATCHDOG_EXPIRY (R394). -/
  | ppWatchdogExpiry (p : Fin 2)
  /-- PP_SELF_CHECK_PASS (R394). -/
  | ppSelfCheckPass (p : Fin 2)
  /-- CPER_POST (R403). -/
  | cperPost
  /-- PWRCYC_REPEAT (R462). -/
  | pwrcycRepeat
  /-- POWER_GOOD (R407). -/
  | powerGood (b : BringUp)
  /-- MTEST_RES (R414). -/
  | mtestRes (cl : Cluster) (pass : Bool)
  /-- MTEST_DONE (R414). -/
  | mtestDone
  /-- MTEST_TIMEOUT (R414). -/
  | mtestTimeout
  /-- REPAIR_ROUND_DONE (R429). -/
  | repairRoundDone
  /-- RECIPE_WRITE (R420). -/
  | recipeWrite (img : List Byte)
  /-- RECIPE_READ (R420). -/
  | recipeRead
  /-- RECIPE_CLEAR (R420). -/
  | recipeClear
  /-- FW_STAGE (R425). -/
  | fwStage (img : List Byte)
  /-- FW_COMMIT (R425). -/
  | fwCommit (readBackOk : Bool)
  /-- MAP_READ (R412). -/
  | mapRead
  /-- BOOT_LOAD (R431). -/
  | bootLoad
  /-- REQUEST_UPDATE (R426). -/
  | requestUpdate
  /-- PASS_COMPONENT_TABLE (R426). -/
  | passComponentTable
  /-- UPDATE_COMPONENT (R426). -/
  | updateComponent (len : BitVec 32)
  /-- FIRMWARE_DATA (R426). -/
  | firmwareData (c : FwChunk)
  /-- ACTIVATE_FIRMWARE (R426). -/
  | activateFirmware
  /-- CANCEL_UPDATE (R426). -/
  | cancelUpdate
  /-- ENTDAA (R453). -/
  | entdaa (addr : BitVec 7)
  /-- REG_WRITE (R438). -/
  | regWrite (f : Func) (off : BitVec 20) (be : BitVec 4) (v : Reg)
  /-- WHISTLE_CAUSE_WRITE (R92). -/
  | whistleCauseWrite (c : CoreRef) (v : Reg)
  /-- CM_RSP (R64). -/
  | cmRsp (cl : Cluster) (addr : BitVec 22) (bytes : List Byte) (pois : Bool)
  /-- STORE_COUNTS_ZERO (R284). -/
  | storeCountsZero (c : CoreRef) (own : Byte) (waf : Byte) (spn : Byte)
  /-- MSIX_UNMASK (R321). -/
  | msixUnmask (f : Func) (vec : BitVec 11)
  /-- AON_PG_DEASSERT (R452). -/
  | aonPgDeassert
  /-- NEL_UP_ASSERT (R357). -/
  | nelUpAssert (port : PortIx)
  /-- WATCH_WINDOW_EXPIRY (R399). -/
  | watchWindowExpiry (uid : UnitId)
  /-- CSN_SPINE_INPUT_FAIL (R63). -/
  | csnSpineInputFail (cl : Cluster)
  deriving DecidableEq, Repr

end Sys2Proof
end

