-- ==== Sys2Proof/Decode.lean ====
section
/-! DEFINITION. The word decoder of the opcode table. The table gives no row any bits: a command of the Varvo is an event
at one of its boundaries and is spelt by no word. The decoder therefore answers none for every word. -/

namespace Sys2Proof

/-- The command that a word spells by the opcode table's bits: none, since no row of the table has bits. -/
def decodeTableWord (_nbits _w : Nat) : Option Instr := none

end Sys2Proof
end

