-- ==== Sys2Proof/Config.lean ====
section
/-! DEFINITION. What an implementation fixes and the specification leaves open, as constants without a body. -/

namespace Sys2Proof.Config

/-- A free value: the number the hardware picks where the specification states none.
It is applied to the counter `State.fresh`, which each use advances (assumption 3). -/
opaque free : Nat → Nat

/-- Whether a firmware image's signing key matches the mask-ROM digest and its ECDSA P-384 signature
over SHA-384 verifies (R423): a cryptographic function of the image bytes (assumption 5). -/
opaque signatureValid : List (BitVec 8) → Bool

/-- What a reserved encoding of POL (0 LEVEL, 1 STRETCH, 2 SHED) or of MODE acts as: unpredictable under R7, and so a free
value of the register's word (assumption 3). -/
opaque reservedCode : BitVec 32 → Fin 3

/-- The known-answer pitch list i of a firmware image's section of TYPE 3, and the result that it expects of its commit
barrier: the section's layout is not stated (R422; assumption 88). -/
opaque katImage : List (BitVec 8) → Nat → Option PitchImage
opaque katExpected : List (BitVec 8) → Nat → List (BitVec 8)

/-- The packs of that list: barrier, local count at every cluster, time code, payload descriptor (R269; assumption 88). -/
opaque katPacks : List (BitVec 8) → Nat → List (BitVec 16 × BitVec 8 × BitVec 8 × BitVec 32)

end Sys2Proof.Config
end

