-- ==== Sys2Proof/Machine/State.lean ====
section
/-! DEFINITION. The state of the Varvo of one wafer, unit by unit, as plain data; the faults and refusals of a step;
the state after reset. Each field's docstring gives: width; file and rule of the specification; reset value. -/

namespace Sys2Proof.Machine

open Sys2Proof

/-- Why a command has no next state: no command of the Varvo is without one. What the specification calls unpredictable is an
outcome that R9 confines, and the Varvo goes on (assumption 12). -/
inductive Fault
  deriving DecidableEq, Repr

/-- Why a command is refused. -/
inductive Refusal where
  /-- The command has no meaning in the model yet. Raised by the dispatch alone. Safe. -/
  | notModelled (mnemonic : String)
  deriving DecidableEq, Repr

/-- A rational number in lowest terms: the kiln's energies and durations (R190-R194). -/
structure Q where
  num : Int
  den : Nat
  deriving DecidableEq, Repr

/-! ### The CSN and its cores -/

/-- Where a core's kennel request stands before its KEN_REQ leaves the CSN (R284, R286), or that it has left. -/
inductive ReqPhase where
  | stores
  | cinv (left : List Nat)
  | inv (since : Nat)
  | sent
  deriving DecidableEq, Repr

/-- One outstanding kennel request of a core (R79). `silent`: its end is consumed without delivery (R101, R103);
`back`: if that end is a grant, the CSN returns it (R103); `own`: the CSN's own WITHDRAW or return; `wd`: the core has
withdrawn it; `gone`: the end that an ABORT gave it has come before that ABORT, and was consumed (R103). -/
structure Req where
  tag : Tag
  op : KOp
  args : KArgs
  phase : ReqPhase
  silent : Bool
  back : Bool
  own : Bool
  wd : Bool
  gone : Bool
  deriving DecidableEq, Repr

/-- An operation held at a stalled sync port (R79, R117-R119). -/
inductive PortOp where
  | ken (op : KOp) (q : KArgs)
  | arrive (b : BarName)
  | wait (b : BarName) (g : Byte) (w : Bool)
  | sync (b : BarName)
  deriving DecidableEq, Repr

/-- A pending SYNC_FENCE (R282). -/
structure Fence where
  scope : BitVec 2
  w : Bool
  i : Bool
  inv : Bool
  deriving DecidableEq, Repr

/-- The sync-port state of one core. -/
structure Core where
  /-- 8 bits; 00_scope R15; reset 0 at module power cycle. -/
  epoch : Epoch
  /-- time of the last epoch advance; 14_faults R388; reset none. -/
  epochAt : Option Nat
  /-- core in reset, and since when; 03_kennel R101; reset: held until the boot load releases it (R431). -/
  rst : Option Nat
  /-- 1 bit: core_rst_n released; 15_bringup R431, 17 R458; reset 0. -/
  go : Bool
  /-- 32 bits, the whistle cause register; 03_kennel R92; reset 0x0000_0F80. -/
  wcr : Reg
  /-- up to 4 outstanding requests; 03_kennel R79; reset none. -/
  reqs : List Req
  /-- the operation held at the stalled port; 03_kennel R79, 04 R117-R119; reset none. -/
  stall : Option PortOp
  /-- 1 bit: armed for the next edge; 06_tick R171; reset 0. -/
  armed : Bool
  /-- the pending BAR_WAIT: entry and generation; 04_barriers R119; reset none. -/
  bwait : Option (Nat × Byte)
  /-- the pending SYNC_FENCE; 10_memory R282; reset none. -/
  fence : Option Fence
  /-- 8 bits each: incomplete-store counts; 10_memory R274, 17 R448; reset 0. -/
  stOwn : Byte
  stWaf : Byte
  stSpn : Byte
  /-- 1 bit: a link was declared lost while stores to other wafers were outstanding; 10_memory R283; reset 0. -/
  spnCut : Bool
  deriving DecidableEq, Repr

/-- One CSN barrier entry (R113). -/
structure BarEntry where
  /-- 2 bits; 04_barriers R113; reset 0 free. -/
  mode : BitVec 2
  /-- 16 bits; 04_barriers R113; reset 0. -/
  bar : BarIx
  /-- 8 bits; 04_barriers R113; reset 0. -/
  gen : Byte
  /-- 8 bits; 04_barriers R113; reset 0. -/
  exp : Byte
  /-- 8 bits; 04_barriers R113; reset 0. -/
  arr : Byte
  /-- 8 bits; 04_barriers R113; reset 0. -/
  early : Byte
  /-- 8 bits, a status; 04_barriers R113; reset OK (code 0). -/
  rstat : Status
  /-- 8 bits; 04_barriers R113; reset 0. -/
  rgen : Byte
  /-- 1 bit; 04_barriers R113; reset 0. -/
  psn : Bool
  /-- 48 bits; 04_barriers R113; reset 0. -/
  waitm : BitVec 48
  /-- 64 bits: the result placed at the ports for RGEN; 05_mash R141; reset 0. -/
  res : BitVec 64
  /-- the cluster whose role a proxy leg plays; 08_commit R226; reset none. -/
  proxy : Option Nat
  deriving DecidableEq, Repr

/-- A cluster-memory read with the broadcast attribute (R64): line, time it entered, the cores it serves, and whether it
is an open merge or stands for itself (unmerged, or closed by a write). -/
structure Merge where
  line : Nat
  since : Nat
  cores : List Nat
  opn : Bool
  deriving DecidableEq, Repr

/-- A payload read in progress for a leg's ARRIVE (R140): the window's address, the pieces still to come as offset and
length, what has come of the payload region (bytes outside the pieces 0), and whether a piece was poisoned. -/
structure PayRead where
  ent : Nat
  gen : Byte
  win : Nat
  left : List (Nat × Nat)
  body : List Byte
  pois : Bool
  verd : CsnVerdict
  deriving DecidableEq, Repr

/-- A command of the CSN status path (R449). -/
inductive StatusCmd where
  | rdDrp
  | loadOpen
  | loadCheck (bytes : List Byte)
  | loadSend (target : Nat) (tep : Epoch) (bytes : List Byte)
  | legBind (bar : BarIx) (exp gen : Byte) (proxy : Option Nat)
  | legFree (bar : BarIx) (proxy : Option Nat)
  | epochLoad (tab : List (Nat × Epoch)) (part : Option Epoch)
  deriving DecidableEq, Repr

/-- One Cluster Sync Node. -/
structure Csn where
  /-- 8 bits; 00_scope R15; reset 0. -/
  epoch : Epoch
  /-- time of the last epoch advance; 14_faults R388; reset none. -/
  epochAt : Option Nat
  /-- a deferred epoch advance is waiting; 14_faults R388; reset 0. -/
  epochDue : Bool
  /-- 8 bits: epoch of the cluster's partition; 02_sync_mesh R50; reset 0. -/
  pepoch : Epoch
  /-- 86 × 8 bits: epochs of the hubs (0-83) and root sites (84, 85); 02_sync_mesh R50; reset 0. -/
  eptab : Tbl Epoch
  /-- CSN in reset, and since when; 14_faults R391; reset none. -/
  rst : Option Nat
  /-- 256 entries of 128 bits; 04_barriers R113; reset all free. -/
  ents : Tbl BarEntry
  /-- 32 bits: tick number adopted at the last edge; 06_tick R170; reset 0. -/
  tick : BitVec 32
  /-- 32 bits: TICK of the note for the coming edge; 06_tick R170; reset none. -/
  note : Option (BitVec 32)
  /-- time at which the edge was delivered; 06_tick R171; reset 0. -/
  edgeAt : Nat
  /-- the delivered edge waits for the heel release; 06_tick R172; reset 0. -/
  edgeWait : Bool
  /-- 3 bits: current phase of the cluster's partition; 06_tick R171; reset 0. -/
  phase : BitVec 3
  /-- 64 bits: the commit word of the last edge; 08_commit R219; reset none: CEP is CKPT, RPL 0, own ID, SD 0. -/
  cmtw : Option (BitVec 64)
  /-- 32 bits each (F32): largest residuals; 08_commit R211; reset 0. -/
  zrow : BitVec 32
  zcol : BitVec 32
  /-- 20 bits; 08_commit R211; reset 0. -/
  ntile : BitVec 20
  /-- 8 bits; 08_commit R211; reset 0. -/
  nbad : Byte
  /-- 1 bit; 08_commit R211; reset 0. -/
  nanr : Bool
  /-- 1 bit; 08_commit R211; reset 0. -/
  lost : Bool
  /-- up to 8 open merges; 02_sync_mesh R64; reset none. -/
  merges : List Merge
  /-- payload reads in progress; 05_mash R140; reset none. -/
  reads : List PayRead
  /-- 16 bits, saturating; 17_block_boundary R449; reset 0. -/
  droop : BitVec 16
  /-- stale-reply counter; 02_sync_mesh R49; reset 0. -/
  stale : Nat
  /-- messages discarded at the ejection port; 02_sync_mesh R67; reset 0. -/
  eject : Nat
  /-- a load is open, and NRCV; 15_bringup R427; reset closed, 0. -/
  loadOpen : Bool
  nrcv : Nat
  /-- the first manifest received; 15_bringup R427; reset none. -/
  manifest : Option Manifest
  /-- 22 bits: ENTRY of the last boot load; 15_bringup R431; reset 0. -/
  entry : BitVec 22
  /-- 1 bit: own spine input failed, EDGE messages in use; 02_sync_mesh R63; reset 0. -/
  spineFail : Bool
  /-- cores whose invalidation the coming phase waits for; 10_memory R280; reset none. -/
  phaseInv : List Nat
  /-- what that invalidation holds back, oldest first: the edge (none) or a release; 10_memory R280; reset none. -/
  phaseTodo : List (Option Release)
  /-- 1 bit: muzzled; 14_faults R399; reset 0. -/
  muz : Bool
  /-- status-path commands that wait for the end of the CSN's reset, oldest first; 02_sync_mesh R67; reset none. -/
  held : List StatusCmd
  deriving DecidableEq, Repr

/-! ### The kennel and the hubs -/

/-- The KIND of a kennel entry (R74). -/
inductive Kind where
  | free | semaphore | tokenPool | atomicWord | lock | system
  deriving DecidableEq, Repr

/-- The STATE of a lock (R74). -/
inductive LockSt where
  | free | held | heldAhead
  deriving DecidableEq, Repr

/-- Where a timer runs (R94, R95). -/
inductive TimerLoc where
  | none
  | comparator (i : Nat)
  | scan
  deriving DecidableEq, Repr

/-- One waiter record (R75). `idx` is its place in the hub's pool. -/
structure Waiter where
  idx : Nat
  master : Master
  tag : Tag
  op : KOp
  n : BitVec 16
  m : BitVec 16
  leash : Byte
  deadline : Option (BitVec 32)
  timer : TimerLoc
  deriving DecidableEq, Repr

/-- One 16-byte kennel entry (R74). WAITERS, WHEAD and WTAIL are read from `queue`. -/
structure KEntry where
  /-- 4 bits; 03_kennel R74; reset FREE. -/
  kind : Kind
  /-- 6 bits; 03_kennel R74; reset 0. -/
  func : Func
  /-- 32 bits; 03_kennel R74; reset 0. -/
  limit : BitVec 32
  /-- 32 bits; 03_kennel R74; reset 0. -/
  count : BitVec 32
  /-- 64 bits; 03_kennel R74; reset 0. -/
  value : BitVec 64
  /-- 2 bits; 03_kennel R74; reset FREE. -/
  st : LockSt
  /-- 1 bit; 03_kennel R74; reset 0. -/
  abnd : Bool
  /-- 1 bit; 03_kennel R74; reset 0. -/
  phn : Bool
  /-- LARM, LSCAN, LCMP: where the leash runs; 03_kennel R74; reset none. -/
  leash : TimerLoc
  /-- 33 bits; 03_kennel R74; reset 0. -/
  owner : Master
  /-- 32 bits, 64 ns units; 03_kennel R74; reset 0. -/
  deadline : BitVec 32
  /-- the queued waiters, head first (WAITERS, WHEAD, WTAIL); 03_kennel R74, R75; reset none. -/
  queue : List Waiter
  deriving DecidableEq, Repr

/-- What a hub timer times (R94). -/
inductive TimerOf where
  | leash (k : Nat)
  | wait (k : Nat) (m : Master) (t : Tag)
  | barrier (bar : Nat)
  deriving DecidableEq, Repr

/-- A running timer: its use, its deadline and the function it counts against. -/
structure Timer where
  use : TimerOf
  deadline : BitVec 32
  func : Func
  deriving DecidableEq, Repr

/-- The states of a hub's field record (R112). -/
inductive HubSt where
  | idle | gather | armed | sent
  deriving DecidableEq, Repr

/-- A hub's field record (R114), with the field partial (R138) and the folded verdicts (R215). -/
structure FieldRec where
  /-- 96 bits; 04_barriers R114; reset 0. -/
  mem : BitVec 96
  /-- 2 bits; 04_barriers R112; reset IDLE. -/
  st : HubSt
  /-- TRUN, and where the timeout runs; 04_barriers R114; reset none. -/
  timer : TimerLoc
  /-- 7 bits; 04_barriers R114; reset 0. -/
  exp : Nat
  /-- 7 bits; 04_barriers R114; reset 0. -/
  arr : Nat
  /-- 8 bits; 04_barriers R114; reset 0. -/
  gen : Byte
  /-- 1 bit; 04_barriers R114; reset 0. -/
  psn : Bool
  /-- members lost during GEN; 04_barriers R121; reset 0. -/
  lostGen : Nat
  /-- the field's partial buffer; 05_mash R138; reset empty. -/
  part : Partial
  /-- the folded verdict flits; 08_commit R215; reset 0. -/
  ver : HubVerdict
  deriving DecidableEq, Repr

/-- A queued contribution at a hub's mash units (R147): the arrival and its class. -/
structure HubFold where
  cls : Nat
  a : CArrive
  deriving DecidableEq, Repr

/-- The release a hub is running (R129, R130). -/
structure WaveRun where
  rel : Release
  waves : List (List Nat)
  k : Nat
  spc : Nat
  nextAt : Nat
  deriving DecidableEq, Repr

/-- The step of one partition as a hub walks it (R246, R255). -/
structure HubWalk where
  msg : PitchMsg
  edge : Bool
  started : Bool
  phase : Nat
  deriving DecidableEq, Repr

/-- One Field Hub. -/
structure Hub where
  /-- 8 bits; 00_scope R15; reset 0. -/
  epoch : Epoch
  /-- 1 bit: muzzled; 01_architecture R30; reset 0. -/
  muz : Bool
  /-- comparators 10-63; 03_kennel R94; reset all free. -/
  cmp : Tbl (Option Timer)
  /-- the kennel share of the scan list, at most 1,984; 03_kennel R95; reset empty. -/
  scan : List Timer
  /-- the barrier share of the scan list, at most 64; 03_kennel R95; reset empty. -/
  scanBar : List Timer
  /-- fold queue of 64 contributions; 05_mash R147; reset empty. -/
  folds : List HubFold
  /-- 8 bits: mash units in service; 05_mash R147; reset 0xFF. -/
  mash : Byte
  /-- wave queue of 256 releases; 04_barriers R130; reset empty. -/
  waveQ : List Release
  /-- the release begun; 04_barriers R130; reset none. -/
  run : Option WaveRun
  /-- 16 bits: the di/dt allowance word; 04_barriers R128; reset 0. -/
  allow : BitVec 16
  /-- 3 bits: operating point in force; 06_tick R175; reset OP0. -/
  op : BitVec 3
  /-- the faster point waiting for its voltage; 06_tick R175; reset none. -/
  opNext : Option (BitVec 3)
  /-- the function whose phase grant asked for it; 07_kiln R193; reset none. -/
  opBy : Option Nat
  /-- 1 bit: the field is forced to OP7, by the alert wire or by the kiln; 07_kiln R204, R205, R207, R187; reset 0. -/
  force : Bool
  /-- 1 bit: the rail voltage of a slower point is written after fclk_ack; 17_block_boundary R451; reset 0. -/
  voltDue : Bool
  /-- fclk_op sent and not acknowledged; 17 R450; reset 0. -/
  fclkWait : Bool
  /-- 1 bit: reg_alert_n asserted; 07_kiln R204; reset 0. -/
  alert : Bool
  /-- ALR of the running interval; 07_kiln R186; reset 0. -/
  alr : Bool
  /-- the interval's AVSBus pairs, current and voltage; 17 R451; reset none. -/
  avs : List (BitVec 16 × BitVec 12)
  /-- the four latest thermal readings, 12 bits; 17 R451; reset 0. -/
  temps : List (BitVec 12)
  /-- latest READ_VIN; 17 R451; reset 0. -/
  vin : BitVec 16
  /-- latest STEP; 17 R451; reset 0. -/
  step : BitVec 12
  /-- latest SLEW; 17 R451; reset 0. -/
  slew : BitVec 12
  /-- 16 bits: interval number; 07_kiln R186; reset 0. -/
  intv : BitVec 16
  /-- droop counts read of its CSNs in this interval, by cluster row; 07_kiln R185, 17_block_boundary R449; reset 0. -/
  drp : List Nat
  /-- tick-base counter of the repeater: the edge it predicts now, not yet issued by it; 02_sync_mesh R63; reset none. -/
  edgeAt : Option Nat
  /-- 1 bit: spine input muzzled, edges from the counter; 02_sync_mesh R63; reset 0. -/
  spineMuz : Bool
  /-- the partitions' steps; 09_loops R255; reset none. -/
  walks : Tbl (Option HubWalk)
  /-- proxy records homed here; 08_commit R225; reset none. -/
  proxies : List Proxy
  /-- the field's suspect mask per commit barrier, kept for the root-claim check; 08_commit R234; reset none. -/
  masks : Tbl (BitVec 96)
  deriving DecidableEq, Repr

/-! ### The root: barriers -/

/-- The states of the root record (R111). -/
inductive RootSt where
  | free | idle | gather | armed | deciding
  deriving DecidableEq, Repr

/-- A PACK_SET waiting for the lead's answer, with its image (R364). -/
structure JoinWait where
  ring : Nat
  sqi : BitVec 16
  img : List Byte
  deriving DecidableEq, Repr

/-- The pack root table record (R115), with what the root keeps beside it. -/
structure RootRec where
  /-- 84 bits; 04_barriers R115; reset 0. -/
  mfs : BitVec 84
  /-- 3 bits; 04_barriers R111; reset FREE. -/
  st : RootSt
  /-- 1 bit; 04_barriers R115; reset 0. -/
  auto : Bool
  /-- 2 bits; 04_barriers R115; reset 0. -/
  scope : BitVec 2
  /-- 6 bits; 04_barriers R115; reset 0. -/
  func : Func
  /-- 8 bits; 04_barriers R115; reset 0. -/
  pepoch : Epoch
  /-- 8 bits; 04_barriers R115; reset 0. -/
  gen : Byte
  /-- 7 bits; 04_barriers R115; reset 0. -/
  fexp : Nat
  /-- 7 bits; 04_barriers R115; reset 0. -/
  farr : Nat
  /-- 13 bits; 04_barriers R115; reset 0. -/
  ncl : Nat
  /-- 13 bits; 04_barriers R115; reset 0. -/
  nlost : Nat
  /-- 8 bits, a status; 04_barriers R115; reset OK. -/
  wstat : Status
  /-- 8 bits; 04_barriers R115; reset 0. -/
  tmo : Byte
  /-- 32 bits; 04_barriers R115, 05 R137; reset 0. -/
  payload : BitVec 32
  /-- 2 bits; 04_barriers R115; reset 0. -/
  role : BitVec 2
  /-- 1 bit: an open is held; 04_barriers R109; reset 0. -/
  held : Bool
  /-- 1 bit: an early decision is marked; 04_barriers R111; reset 0. -/
  early : Bool
  /-- 84 bits: fields arrived for GEN; 04_barriers R134; reset 0. -/
  arrived : BitVec 84
  /-- the root's partial buffer; 05_mash R138; reset empty. -/
  part : Partial
  /-- 1 bit: a partial carried poison; 05_mash R159; reset 0. -/
  pois : Bool
  /-- the commit engine's field masks; 08_commit R213, R216; reset none. -/
  masks : Tbl (BitVec 96)
  /-- 16 bits each: largest residuals of GEN; 08_commit R217; reset 0. -/
  zrow : BitVec 16
  zcol : BitVec 16
  /-- earlier releases within the step whose STEP is `seqStep`; 05_mash R150; reset 0. -/
  seq : Byte
  seqStep : BitVec 32
  /-- times of the first and last field arrival of GEN; 06_tick R182; reset none. -/
  firstAt : Option Nat
  lastAt : Nat
  /-- partial buffers reserved at PACK_SET, at the root and at the hubs of `bufs`; 05_mash R138; reset 0. -/
  resv : Bool
  bufs : BitVec 84
  /-- the PACK_SET waiting for the lead's answer; 13_span R364; reset none. -/
  join : Option JoinWait
  /-- the status the member root gives when the lead's release is awaited; 13_span R364; reset 0. -/
  awaitLead : Bool
  deriving DecidableEq, Repr

/-- What folds at the root: a field's partial, or a wafer's at the lead of a span (R145). -/
inductive RootSrc where
  | field (h : Nat) (a : FArrive)
  | wafer (a : SbArrive)
  deriving DecidableEq, Repr

/-- A queued partial at the root's mash units (R147). -/
structure RootFold where
  cls : Nat
  src : RootSrc
  deriving DecidableEq, Repr

/-! ### The tick generator -/

/-- Tick generator states (R167). -/
inductive TickSt where
  | stopped | running | held | follow
  deriving DecidableEq, Repr

/-- The tick generator of the active root. -/
structure Tick where
  /-- 06_tick R167; reset STOPPED. -/
  st : TickSt
  /-- 48 bits: number of the current tick; 06_tick R163; reset 0. -/
  num : BitVec 48
  /-- whether an edge has been issued since the Varvo reset; 06_tick R163; reset 0. -/
  any : Bool
  /-- time of the predicted edge; 06_tick R164; reset 0. -/
  pred : Nat
  /-- period of the current tick, ns; 06_tick R164; reset 0. -/
  per : Nat
  /-- period latched for the coming tick, ns; 06_tick R164; reset 0. -/
  perNext : Nat
  /-- LVL of the coming tick; 06_tick R169; reset 0. -/
  lvl : Bool
  /-- deadline D of the held edge; 06_tick R167; reset 0. -/
  dead : Nat
  /-- D has come in this cycle, and a heel point's release may still be decided in it; 06_tick R178; reset 0. -/
  dueNow : Bool
  /-- RUN was written 0: stop at the next cut; 06_tick R167; reset 0. -/
  stopReq : Bool
  /-- the cut of the coming edge has been made; 06_tick R167; reset 0. -/
  cutDone : Bool
  /-- the note of the coming edge has been injected; 06_tick R167; reset 0. -/
  noted : Bool
  /-- the hold point of the coming edge has been passed; 06_tick R177; reset 0. -/
  passed : Bool
  /-- the announced time of the coming edge, in a span; 13_span R362; reset none. -/
  etime : Option Nat
  /-- functions whose heel point was unreleased at the hold point; 06_tick R177; reset none. -/
  late : List Nat
  /-- time of the last heel release of a held tick; 06_tick R177; reset none. -/
  lastHeel : Option Nat
  /-- 32 bits each: VSF_TCK_PERIOD, VSF_TCK_CTRL; 06_tick R165; reset 0x0007_A120, 0x0000_1000. -/
  period : Reg
  ctrl : Reg
  /-- 16 bits: latch of TICK_HI; 06_tick R165; reset 0. -/
  hiLatch : BitVec 16
  /-- STBF announced by the lead; 13_span R362; reset 0. -/
  stbfLead : Byte
  /-- the edge time and tick announced by the lead; 13_span R362; reset none. -/
  lead : Option SbTick
  deriving DecidableEq, Repr

/-! ### The kiln -/

/-- The kiln's view of one field (R185-R207). -/
structure KField where
  /-- the newest SEQ received; 07_kiln R187; reset none. -/
  seq : Option (BitVec 16)
  /-- the interval in which the last TELEM came; 07_kiln R187; reset 0. -/
  heard : Nat
  /-- every interval below this number is received or declared missed, and those beyond it that are; 07_kiln R188; reset 0, none. -/
  acctTo : Nat
  ahead : List Nat
  /-- 16 bits: the allowance word last computed; 07_kiln R202; reset 0. -/
  word : BitVec 16
  /-- TMAX of the last TELEM, 1/8 degree; 07_kiln R207; reset 0. -/
  tmax : BitVec 12
  /-- the telemetry-loss force; 07_kiln R187; reset 0. -/
  lossForce : Bool
  /-- the alert force, and its quiet intervals; 07_kiln R205; reset 0. -/
  alertForce : Bool
  quiet : Nat
  /-- the thermal force, and its cool intervals; 07_kiln R207; reset 0. -/
  thermForce : Bool
  cool : Nat
  /-- consecutive intervals over DTH, and at or below it; 07_kiln R203; reset 0. -/
  overN : Nat
  underN : Nat
  /-- words still to be halved; 07_kiln R203; reset 0. -/
  halve : Nat
  /-- speed limits of R203 and R206; 07_kiln; reset none. -/
  droopLim : Option (BitVec 3)
  ceilLim : Option (BitVec 3)
  /-- times of recent alerts, newest first; 07_kiln R206; reset none. -/
  alerts : List Nat
  /-- OPF of the last TELEM; 07_kiln R186; reset 0. -/
  opf : BitVec 3
  deriving DecidableEq, Repr

/-- A tick whose energy is not yet settled (R188, R190), in nanojoules. -/
structure Unsettled where
  tick : Nat
  start : Nat
  stop : Option Nat
  w : Q
  forecast : Q
  got : Q
  plid : Option Nat
  norm : Q
  normT : Q
  dur : Option Nat
  clean : Bool
  deriving DecidableEq, Repr

/-- A history entry of a pitch list (R192, R193): settled steps, means and deviations (nJ, ns). -/
structure Hist where
  n : Nat
  /-- when the entry started; 07_kiln R192; reset 0. -/
  since : Nat
  mE : Q
  dE : Q
  mT : Q
  dT : Q
  deriving DecidableEq, Repr

/-- The kiln. -/
structure Kiln where
  /-- time of the last Varvo reset, from which the telemetry intervals count; 07_kiln R185; reset 0. -/
  base : Nat
  /-- 32 bits each: VSF_KLN_LIMIT, IDLE, THERM, DIDT, RCV; 07_kiln R189; reset 0x7D00_01C2, 0x3E8, 0x0069_5F05,
  0x0100_4000, 0x020A_0304. -/
  limit : Reg
  idle : Reg
  therm : Reg
  didt : Reg
  rcv : Reg
  /-- those five as in force since the last cut; 07_kiln R189; reset as above. -/
  limitF : Reg
  idleF : Reg
  thermF : Reg
  didtF : Reg
  rcvF : Reg
  /-- per field; 07_kiln R185; reset as above. -/
  fields : Tbl KField
  /-- 2,048 history entries; 07_kiln R193; reset none. -/
  hist : Tbl Hist
  /-- 8 energy factors; 07_kiln R194, 15 R421; reset the base recipe's. -/
  rho : List Q
  /-- 32 bits: VSF_SEQ_KA; 09_loops R271; reset 0x0040_0010. -/
  ka : Reg
  /-- the members' SB_KILN reports, and when each came; 07_kiln R200; reset none. -/
  reports : List (SbKiln × Nat)
  deriving DecidableEq, Repr

/-! ### Functions and partitions -/

/-- Commit states (R223). -/
inductive CmtSt where
  | idle | running | deciding | suspect | replaying | failed | poisoned
  deriving DecidableEq, Repr

/-- A substitute in force (R224-R227): the cluster it stands for, the substitute, bound or not. -/
structure Sub where
  x : Nat
  s : Nat
  deriving DecidableEq, Repr

/-- A step chosen at a cut for the coming tick (R195). `image` is the PLID whose image runs (R253); `step` its STEP; `norm`
and `normT` the ratios of R194. -/
structure Choice where
  plid : Nat
  image : Nat
  /-- the image as the cut found it, or with which the step to replay began; 09_loops R253. -/
  img : PitchImage
  gops : List (BitVec 3)
  replay : Bool
  step : BitVec 32
  energy : Q
  dur : Q
  norm : Q
  normT : Q
  /-- bound slots that are ACTIVE at the cut; 09_loops R257, R267. -/
  slots : List Nat
  deriving DecidableEq, Repr

/-- The step a partition runs in the current tick, as the root walks it (R246). -/
structure Run where
  plid : Nat
  image : Nat
  /-- the image with which the step began; 09_loops R249, R253. -/
  img : PitchImage
  /-- the slots whose decisions the step forms; 09_loops R257, R267. -/
  slots : List Nat
  gops : List (BitVec 3)
  rpl : BitVec 2
  tick : Nat
  /-- STEP of the stochastic key while the list has no commit barrier; 05_mash R150, 13_span R362. -/
  key : BitVec 32
  phase : Nat
  opened : Nat
  waitOrd : Bool
  bound : List Nat
  commitOpen : Bool
  commitDone : Bool
  heelOpen : Bool
  heelDone : Bool
  counted : Bool
  start : Nat
  /-- the releases that closed a phase: the phase each began, its barrier and generation; 10_memory R280. -/
  closers : List (Nat × BarIx × Byte)
  deriving DecidableEq, Repr

/-- The status path of a function's throttle (R182, R208). -/
structure Thr where
  /-- a notice received since the last cut, and one in force; 06_tick R182; reset 0. -/
  noticed : Bool
  inForce : Bool
  /-- the notice is by skew, by a forced field; 06_tick R182, 07_kiln R208; reset 0. -/
  bySkew : Bool
  byForce : Bool
  /-- tick of the last heel spread; 06_tick R182; reset 0. -/
  skewTick : Nat
  /-- consecutive ticks with a spread over the threshold, and within it; 06_tick R182, 07_kiln R208; reset 0. -/
  wide : Nat
  narrow : Nat
  /-- consecutive overruns under STRETCH; 06_tick R183; reset 0. -/
  overruns : Nat
  deriving DecidableEq, Repr

/-- A pending cask barrier (R235). -/
structure CaskReq where
  ring : Nat
  sqi : BitVec 16
  epoch : BitVec 32
  job : BitVec 64
  deriving DecidableEq, Repr

/-- How far a partition reset has come (R391): none, or begun with its class and whether a register reset is due. -/
structure ResetRun where
  cls : Byte
  regs : Bool
  since : Nat
  begun : Bool
  deriving DecidableEq, Repr

/-- Mailbox request states (R335). -/
inductive MbxSt where
  | idle | serving | forwarded | done
  deriving DecidableEq, Repr

/-- A record ready for a ring's completion queue (R318): the 256 bits but for P and SQH; whether it belongs to a
command's place, or to a slot's ENDING. -/
structure Rec where
  bits : BitVec 256
  cmd : Option (BitVec 16)
  slot : Option Nat
  pl : Option Nat
  note : Bool
  deriving DecidableEq, Repr

/-- One function: PF0 or a virtual function, with its partition and register set. -/
structure Fn where
  /-- 8 bits: litter epoch of the function; 00_scope R15; reset 0. -/
  epoch : Epoch
  /-- 8 bits: litter epoch of the partition; 00_scope R15; reset 0. -/
  pepoch : Epoch
  /-- time of the last partition epoch advance; 14_faults R388; reset none. -/
  epochAt : Option Nat
  /-- cluster IDs of the partition, rising; 12_vf R326; reset none. -/
  members : List Nat
  /-- granted blocks by class (0x0, 0x1, 0x3) and slot blocks; 12_vf R327; reset none. -/
  blk0 : List Nat
  blk1 : List Nat
  blk3 : List Nat
  slotBlk : List Nat
  /-- rings held, and the ring of the last descriptor started; 12_vf R327, 11_rings R308; reset none, 0. -/
  rings : List Nat
  turn : Nat
  /-- quotas QWAIT, QSCAN, QPH, QPR, QPL; 12_vf R327; reset 0. -/
  qwait : Nat
  qscan : Nat
  qph : Nat
  qpr : Nat
  qpl : Nat
  /-- 32-bit counters NOWN, STALE, UNTIMED, STR, OVR, COOL, DENY; 16_registers R441, R442; reset 0. -/
  nown : Reg
  stale : Reg
  untimed : Reg
  str : Reg
  ovr : Reg
  coolCnt : Reg
  deny : Reg
  /-- VSF_TCK_THR; 06_tick R165; reset 0x0000_0100. -/
  thr : Reg
  /-- VSF_KLN_CAP, and as in force since the last cut; 07_kiln R189; reset 0x0400_0000. -/
  cap : Reg
  capF : Reg
  /-- VSF_KLN_ACC; 07_kiln R189; reset 0. -/
  acc : Reg
  /-- VSF_CMT_CTRL, VSF_CMT_TOL, and as in force since the last cut; 08_commit R241; reset 0x0000_0028, 0x4080_0000. -/
  cmtCtrl : Reg
  cmtTol : Reg
  cmtCtrlF : Reg
  cmtTolF : Reg
  /-- VSF_CMT_CNT; 08_commit R241; reset 0. -/
  cmtCnt : Reg
  /-- VSF_SEQ_CTRL, VSF_SEQ_CNT; 09_loops R271; reset 0x0000_4000, 0. -/
  seqCtrl : Reg
  seqCnt : Reg
  /-- VSF_HIF_EVR; 11_rings R320; reset 0. -/
  evr : Reg
  /-- VEC, NPEND and RST of VSF_VFN_MBX; 12_vf R335; reset 0, 0, IDLE. -/
  mbxVec : BitVec 11
  npend : Bool
  mbxSt : MbxSt
  /-- mailbox page and link; 12_vf R332; reset none. -/
  mbxPage : Option (BitVec 64 × BitVec 2)
  /-- VSF_VFN_DLOG: EN, ACT, OVF, HOLD, HELD; 12_vf R346; reset 0. -/
  dlEn : Bool
  dlAct : Bool
  dlOvf : Bool
  hold : Bool
  held : Bool
  /-- DLOG_SET: two buffers, window base and pages; 12_vf R346; reset none. -/
  dlBuf : Option (BitVec 64 × BitVec 64 × BitVec 64 × BitVec 32)
  /-- pages logged in the current buffer by link (link × 2^32 + page); 12_vf R347; reset none. -/
  dlBits : List Nat
  /-- VSF_ERR_FSTAT: NRST and LCLS; 14_faults R406; reset 0. -/
  nrst : BitVec 16
  lcls : Byte
  /-- VSF_ERR_FCFG; 14_faults R406; reset 0. -/
  fcfg : Reg
  /-- commit record: CST, RPL, CKPT, CEP, STEP; 08_commit R222; reset IDLE, 0, 0, 0, 0. -/
  cst : CmtSt
  rpl : BitVec 2
  ckpt : BitVec 32
  cep : BitVec 32
  step : BitVec 32
  /-- NSUB: the substitutes in force; 08_commit R222; reset none. -/
  subs : List Sub
  /-- clusters suspect in any run of the open step, and lost during it; 08_commit R224; reset none. -/
  suspects : List Nat
  lostNow : List Nat
  /-- suspects of the open step that a replay has found clear; 08_commit R228; reset none. -/
  cleared : List Nat
  /-- the tick at which each epoch after CKPT committed, newest first; 08_commit R237; reset none. -/
  commits : List (BitVec 32 × BitVec 48)
  /-- clusters that need a substitute before the replay; 08_commit R224; reset none. -/
  needSub : List Nat
  /-- substitutes bound and members ready: the replay may be dispatched; 08_commit R223; reset 0. -/
  ready : Bool
  /-- ticks the members have not reported ready; 08_commit R229; reset 0. -/
  readyWait : Nat
  /-- members that reported ready; 08_commit R229; reset none. -/
  readyFrom : List Nat
  /-- PLID of the step to replay, and the PLID and image that it ran; 09_loops R253; reset none. -/
  replayOf : Option (Nat × Nat × PitchImage)
  /-- the spare set; 08_commit R224; reset none. -/
  spares : List Nat
  /-- admission order of pitch lists; 09_loops R249; reset none. -/
  order : List Nat
  /-- the choice latched for the coming tick; 06_tick R167; reset none. -/
  choice : Option Choice
  /-- the running step; 09_loops R246; reset none. -/
  run : Option Run
  /-- A of the energy account, in nJ; 07_kiln R190; reset 0. -/
  bal : Q
  /-- ticks not settled, newest first; 07_kiln R190; reset none. -/
  open_ : List Unsettled
  /-- throttle state; 06_tick R182; reset clear. -/
  throt : Thr
  /-- the outstanding cask barrier; 08_commit R235; reset none. -/
  cask : Option CaskReq
  /-- an erase of the cask records not yet done; 12_vf R333; reset 0. -/
  erase : Bool
  /-- partition reset in progress; 14_faults R391; reset none. -/
  rst : Option ResetRun
  /-- records waiting for the event ring: P-less records; 11_rings R318, R320; reset none. -/
  evq : List Rec
  /-- the forecast of a span job's last dispatched step on a member; 13_span R369; reset none. -/
  jobFc : Option Q
  /-- clusters in service at the last cut; 07_kiln R209; reset 0. -/
  nLive : Nat
  /-- the edge has passed while the RELEASE of the span job's heel point is on its way here: the step of the choice waits for it;
  06_tick R172, R181; reset 0. -/
  edgeHeld : Bool
  /-- a span member's tick that is cool unless the lead dispatches its job; 07_kiln R197, R200; reset 0. -/
  coolDue : Bool
  /-- ticks since the last known-answer run; 09_loops R269; reset 0. -/
  kaAge : Nat
  /-- a span job on this function, broken or not; 13_span R353, R371; reset no. -/
  job : Bool
  broken : Bool
  /-- MSI-X entries masked, and pending; 11_rings R321; reset none. -/
  mskd : List (BitVec 11)
  pend : List (BitVec 11)
  /-- the barriers of the step last overrun, which the ABORT of REASON 3 in flight ends at hubs and CSNs; 14_faults
  R390; reset none. -/
  ovrBars : List Nat
  /-- tags of the root's own WITHDRAWs that are outstanding; 11_rings R306, 14_faults R391; reset none. -/
  ownTags : List Tag
  deriving DecidableEq, Repr

/-! ### Known-answer steps -/

/-- A known-answer step chosen at a cut or running (R269): the function on whose partition it runs, none for the clusters of
no partition; its list and the tick it is for; the clusters it runs on; whether it is the rerun after a mismatch; the clusters
that its commit barrier found; its walk. -/
structure KatRun where
  owner : Option Nat
  ix : Nat
  set : List Nat
  again : Bool
  begun : Bool
  bad : List Nat
  run : Run
  deriving DecidableEq, Repr

/-- A known-answer pitch list: its image, the result it expects, its packs (barrier, local count, time code, payload). -/
structure KatList where
  img : PitchImage
  expected : List Byte
  packs : List (BarIx × Byte × Byte × BitVec 32)
  deriving DecidableEq, Repr

/-- The known-answer runs (R269, R270). -/
structure Kat where
  /-- the known-answer pitch lists at PLIDs 2,032 and up; 09_loops R269, 15_bringup R413; reset none. -/
  lists : List KatList
  /-- the known-answer step chosen or running; 09_loops R269; reset none. -/
  cur : Option KatRun
  /-- reruns that are due: owner, list, clusters; 14_faults R398; reset none. -/
  retry : List (Option Nat × Nat × List Nat)
  /-- ticks since the last run on the clusters of no partition; 09_loops R269; reset 0. -/
  age : Nat
  deriving DecidableEq, Repr

/-! ### Pitch lists, slots, rings -/

/-- Pitch list states (R251). -/
inductive PlSt where
  | free | queued | running | held | variant
  deriving DecidableEq, Repr

/-- One pitch list (R251). -/
structure PitchList where
  st : PlSt
  func : Func
  img : PitchImage
  /-- an image that takes effect at the heel release; 09_loops R249; reset none. -/
  nextImg : Option PitchImage
  /-- steps counted; 09_loops R254; reset 0. -/
  steps : BitVec 32
  /-- the retirement that waits for the heel release: ring and index; 09_loops R251; reset none. -/
  retire : Option (Nat × BitVec 16)
  /-- slot view: VSEQ; 09_loops R264; reset 0. -/
  vseq : BitVec 32
  /-- a bound slot changed state other than by an application; 09_loops R265; reset 0. -/
  viewDue : Bool
  /-- the image whose application's view has still to be sent; 09_loops R253, R265; reset none. -/
  viewApp : Option PitchImage
  /-- the packets of the view last sent, which a replay sends again; 09_loops R265; reset none. -/
  view : List LoadPkt
  deriving DecidableEq, Repr

/-- Slot states (R256). -/
inductive SlotSt where
  | free | active | waitpage | paused | ending
  deriving DecidableEq, Repr

/-- End reasons (R262). -/
inductive EndR where
  | stop | maxlen | nan | evict | cancel | retire | poison
  deriving DecidableEq, Repr

/-- A pending decision of a slot (R260). -/
structure Decision where
  last : BitVec 32
  pos : BitVec 20
  ends : Option EndR
  deriving DecidableEq, Repr

/-- A slot record (R256). -/
structure Slot where
  stops : List (BitVec 32)
  seed : BitVec 64
  last : BitVec 32
  utag : BitVec 32
  pos : BitVec 20
  maxlen : BitVec 20
  shp : BitVec 20
  shv : Bool
  pgsh : BitVec 4
  cring : BitVec 12
  plid : BitVec 11
  func : Func
  st : SlotSt
  wtk : Byte
  pages : BitVec 20
  /-- NEW and PGN of the next view; 09_loops R264; reset 0. -/
  isNew : Bool
  pgn : Bool
  /-- the pending decision; 09_loops R260; reset none. -/
  dec : Option Decision
  /-- why the slot is ENDING; 09_loops R262; reset none. -/
  why : Option EndR
  /-- PAUSE or CANCEL received while a decision was pending; 09_loops R267; reset none. -/
  after : Option EndR
  pauseAfter : Bool
  deriving DecidableEq, Repr

/-- Ring states (R304). -/
inductive RingSt where
  | off | run | sparge | drained
  deriving DecidableEq, Repr

/-- A fetched descriptor with its submission index. -/
structure Desc where
  sqi : BitVec 16
  bits : BitVec 512
  deriving DecidableEq, Repr

/-- A started command of a ring (R308). `done`: its record is ready or posted. `tag`: tag of its kennel request. -/
structure Cmd where
  d : Desc
  begun : Bool
  tag : Option Tag
  waiting : Bool
  inv : Option Nat
  op : Option KOp
  done : Bool
  deriving DecidableEq, Repr

/-- One ring (R303-R308). -/
structure Ring where
  /-- 32 bits each: the ring block; 11_rings R304; reset 0 but RCFG 0x0000_0006, RMOD 0x0100_0000. -/
  sqbLo : Reg
  sqbHi : Reg
  cqbLo : Reg
  cqbHi : Reg
  rcfg : Reg
  rmod : Reg
  /-- 32 bits: RMOD as the last record found it; 11_rings R305, R324; reset 0x0100_0000. -/
  rmodF : Reg
  /-- STATE and EN; 11_rings R304; reset OFF, 0. -/
  st : RingSt
  en : Bool
  /-- submission consumer index and producer index exposed; 11_rings R307; reset 0. -/
  sqc : Nat
  pi : Nat
  /-- descriptor reads are issued up to this index; 11_rings R308; reset 0. -/
  asked : Nat
  /-- completion producer index, head, unacknowledged records, phase; 11_rings R306, R319; reset 0, 0, 0, 1. -/
  cqp : Nat
  head : Nat
  unack : Nat
  phase : Bool
  /-- descriptors fetched and not started; 11_rings R308; reset none. -/
  fetched : List Desc
  /-- commands started and not posted, at most 64; 11_rings R308; reset none. -/
  started : List Cmd
  /-- records ready and not written, and how many of them were ready before this cycle; 11_rings R318; reset none, 0. -/
  ready : List Rec
  old : Nat
  /-- MSI-X count and the time of the first record; 11_rings R321; reset 0, none. -/
  cnt : Nat
  firstAt : Option Nat
  deriving DecidableEq, Repr

/-! ### The mesh, the span, errors and bring-up -/

/-- The state of one link: corrected errors, malformed messages, retries of the flit in error, down. -/
structure Link where
  corrected : Nat
  /-- corrected events not yet in a LOG, and when the last such LOG went; 14_faults R401; reset 0. -/
  ceSum : Nat
  ceAt : Option Nat
  malformed : Nat
  retries : Nat
  down : Bool
  deriving DecidableEq, Repr

/-- The mesh, the distance table and the defect map. -/
structure Mesh where
  /-- per link (R396 numbering; 65,536 + child field for express links); 02_sync_mesh R52, R53, R58; reset clear. -/
  links : Tbl Link
  /-- route table entries: router × 2^14 + destination, primary and alternate output; 02_sync_mesh R58; reset none. -/
  routes : Tbl (BitVec 4 × BitVec 4)
  /-- multicast-drop counters per router; 02_sync_mesh R65; reset 0. -/
  mcDrop : Tbl Nat
  /-- routers that failed their start-up test; 02_sync_mesh R61; reset none. -/
  dead : List Nat
  /-- a route recomputation is in progress; 02_sync_mesh R58; reset 0. -/
  reloading : Bool
  /-- 32 bits: GEN of the distance table; 02_sync_mesh R69; reset 1. -/
  gen : BitVec 32
  /-- active and standby root site: 0 is field 41, 1 is field 46; 01_architecture R42; reset 0. -/
  root : Bool
  /-- parent and depth of each hub on the express tree, and the mesh hops to a parent it reaches over the mesh (0: by an
  express link), as of the table's generation; 02_sync_mesh R60, R69; reset none. -/
  tree : Tbl (Nat × Nat × Nat)
  /-- mesh hops of a cluster to its hub where its column is not whole, as of the table's generation; 02_sync_mesh R70;
  reset none. -/
  far : Tbl Nat
  /-- hubs that the table's generation shows muzzled; 02_sync_mesh R70; reset none. -/
  shownMuz : List Nat
  /-- memory-port entries, cluster × 32 + port; 02_sync_mesh R71; reset 0. -/
  ports : Tbl (BitVec 32)
  /-- WHY bits of each cluster of the defect map, 0 in service; 15_bringup R411, R412; reset none absent. -/
  why : Tbl (BitVec 6)
  /-- epochs of the two root sites; 00_scope R15; reset 0. -/
  siteEpoch : List Epoch
  /-- messages held for a reload, and messages discarded by one; 02_sync_mesh R58; reset 0. -/
  discarded : Nat
  deriving DecidableEq, Repr

/-- Span states (R374). SWITCHING is shown while a formation is in progress. -/
inductive SpanSt where
  | none | member | lead | electing
  deriving DecidableEq, Repr

/-- One Nelion sideband port (R354-R357, R374). -/
structure Port where
  /-- nel_up, and since when; 13_span R357; reset 0. -/
  nelUp : Bool
  upAt : Nat
  /-- UP; 13_span R374; reset 0. -/
  up : Bool
  /-- PEER, and the peer's identity word and SGEN; 13_span R357, R374; reset 0. -/
  peer : BitVec 5
  peerId : BitVec 64
  peerSgen : BitVec 16
  helloAt : Option Nat
  /-- RETRY and DOWNS, 12 bits saturating; 13_span R374; reset 0. -/
  retry : BitVec 12
  downs : BitVec 12
  /-- failures of the frame at the head; 13_span R356; reset 0. -/
  fails : Nat
  /-- last LSEQ received in order, as the last frame error told it; 13_span R355; reset 0. -/
  lastIn : BitVec 12
  /-- times of the last frame sent and received; 13_span R357; reset 0. -/
  sentAt : Nat
  recvAt : Nat
  /-- offset to the peer's time base; 13_span R361; reset 0. -/
  off : Int
  /-- LSEQ of the frame at the head that last failed; 13_span R356; reset 0. -/
  nakSeq : BitVec 12
  /-- muzzled; 14_faults R399; reset 0. -/
  muz : Bool
  deriving DecidableEq, Repr

/-- The lead's span record of a barrier (R364). -/
structure SpanRec where
  open_ : Bool
  deciding : Bool
  wexp : Nat
  warr : Nat
  gen : Byte
  members : List (Nat × Epoch)
  /-- the payload descriptor that the first JOIN brought; 13_span R364, 05_mash R145; reset 0. -/
  pay : BitVec 32
  arrived : List Nat
  wstat : Status
  early : Bool
  pois : Bool
  part : Partial
  ncl : Nat
  nlost : Nat
  nsus : Nat
  /-- times of the first and last wafer arrival of GEN; 06_tick R182; reset none. -/
  firstAt : Option Nat
  lastAt : Nat
  deriving DecidableEq, Repr

/-- A relayed span-scope request: relay tag, the core or function it serves (R367). -/
structure Relay where
  rtag : BitVec 12
  master : Master
  tag : Tag
  op : KOp
  func : Func
  deriving DecidableEq, Repr

/-- A span formation in progress (R377). -/
structure Forming where
  self : Nat
  lead : Nat
  mask : BitVec 32
  jobs : BitVec 64
  ids : List (BitVec 64)
  carry : List (BitVec 32)
  joined : List Nat
  sgenMax : BitVec 16
  since : Nat
  switch : Option FormSwitch
  carryDue : Bool
  /-- this wafer is the coordinator -/
  coord : Bool
  deriving DecidableEq, Repr

/-- The span controller. -/
structure Span where
  /-- STATE, WID, LEAD; 13_span R374; reset NONE, 0, 0. -/
  st : SpanSt
  wid : BitVec 5
  lead : BitVec 5
  /-- up links between members, from which DEPTH and every port's TREE follow; 13_span R359, R374; reset none. -/
  links : List UpLink
  /-- formed member mask; 13_span R372; reset 0. -/
  formed : BitVec 32
  /-- reachable-member mask, and since when it is unchanged; 13_span R372; reset 0. -/
  reach : BitVec 32
  reachAt : Nat
  /-- SGEN; 13_span R374; reset 0. -/
  sgen : BitVec 16
  /-- 64 bits: the identity word; 13_span R374; reset from the factory block. -/
  ident : BitVec 64
  /-- VSF_SPN_CMD_LO, HI, OP, GO, STATUS; 13_span R374; reset 0. -/
  cmdLo : Reg
  cmdHi : Reg
  op : Byte
  go : Bool
  status : Status
  /-- VSF_SPN_CTRL, VSF_SPN_EVT; 13_span R374; reset 0x001F_0000, 0. -/
  ctrl : Reg
  evt : Reg
  /-- 16 ports; 13_span R374; reset as above. -/
  ports : Tbl Port
  /-- span records; 13_span R364; reset IDLE. -/
  recs : Tbl SpanRec
  /-- members holding the edge; 13_span R181; reset none. -/
  holds : List Nat
  /-- relayed requests; 13_span R367; reset none. -/
  relays : List Relay
  /-- fields of members that force a job, and the point before the force; 13_span R358; reset none. -/
  throt : List (Nat × BitVec 7 × BitVec 3)
  /-- formation in progress; 13_span R377; reset none. -/
  forming : Option Forming
  /-- LEAVE accepted, taken at the lead's next cut; 13_span R380; reset 0. -/
  leaving : Bool
  /-- carried out: old wafer ID, for 50 microseconds; 13_span R379; reset none. -/
  oldId : Option (BitVec 5 × Nat)
  /-- JOINs received before this wafer's own FORM: wafer and SGEN; 13_span R377; reset none. -/
  joins : List (Nat × BitVec 16)
  /-- the new lead waits for the carry; 13_span R377; reset 0. -/
  carryWait : Bool
  /-- members whose LEAVE the lead takes at its next cut; 13_span R380; reset none. -/
  leavers : List Nat
  deriving DecidableEq, Repr

/-- Service states of a history record (R397). -/
inductive HistSt where
  | service | watch | muzzled
  deriving DecidableEq, Repr

/-- One history record (R397). -/
structure HistRec where
  uid : UnitId
  st : HistSt
  lcls : Byte
  tcnt : BitVec 16
  pcnt : BitVec 8
  cecnt : BitVec 24
  wbeg : BitVec 48
  last : BitVec 48
  /-- times of the transient events within the window, by class; 14_faults R399; reset none. -/
  events : List (Byte × BitVec 48)
  /-- when the corrected count was last written to the cask store; 14_faults R397; reset none. -/
  ceAt : Option (BitVec 48)
  clear : Bool
  deriving DecidableEq, Repr

/-- The error handling of the root (R382-R406). -/
structure Err where
  /-- VSF_ERR_CTRL: VEC, FUNC, and VRST, REINIT, ABORT pending; 14_faults R406; reset 0. -/
  vec : BitVec 11
  func : Func
  vrst : Bool
  reinit : Bool
  abort : Bool
  /-- VSF_ERR_STAT: LCLS, LFUNC and the W1C bits; 14_faults R406; reset 0. -/
  lcls : Byte
  lfunc : BitVec 6
  bits : BitVec 6
  /-- UNIT of VSF_ERR_HCLR; 14_faults R406; reset 0. -/
  unit : BitVec 24
  hclr : Bool
  /-- the history as the root holds it; 14_faults R396, R397; reset as in the cask store. -/
  hist : List HistRec
  /-- corrections of a word within the last 24 h, and words rebuilt and not read since; 14_faults R385, R398; reset none. -/
  corr : List (UnitId × BitVec 64 × BitVec 48)
  rebuilt : List (UnitId × BitVec 64)
  /-- corrected events of a unit not yet in a LOG, and when its last such LOG went; 14_faults R401; reset none. -/
  ce : List (UnitId × Nat × Nat)
  /-- 256 CPER records queued; 14_faults R403; reset empty. -/
  cper : List LogMsg
  /-- always-on error buffer of 16 records; 14_faults R403; reset empty. -/
  aon : List LogMsg
  /-- power-cycle request, and since when; 14_faults R405, 17 R462; reset 0. -/
  pwrcyc : Bool
  pwrcycAt : Nat
  /-- a Varvo reset is due, and whether an error caused it; 14_faults R404; reset 0. -/
  resetDue : Bool
  byError : Bool
  /-- hubs that have not yet applied the manager's ABORT; 14_faults R406; reset none. -/
  abortLeft : List Nat
  /-- units whose uncorrectable word is read back at the next reset of its owner, with that function; 14_faults R398; reset
  none. -/
  retest : List (UnitId × Option Func)
  /-- pack processors: halted, muzzled, time of the last watchdog expiry; 14_faults R394; reset running. -/
  ppHalt : List Bool
  ppMuz : List Bool
  ppExp : List (Option Nat)
  /-- mash units in service at the root, 32 bits; 05_mash R147; reset 0xFFFF_FFFF. -/
  rootMash : BitVec 32
  deriving DecidableEq, Repr

/-- A recipe entry (R418). -/
structure RecipeEnt where
  key : BitVec 16
  sel : Byte
  val : BitVec 32
  deriving DecidableEq, Repr

/-- A recipe slot of the cask store (R418, R420): SEQ and the image as stored. -/
structure RecipeSlot where
  seq : BitVec 32
  img : List Byte
  deriving DecidableEq, Repr

/-- A cask record (R237). -/
structure CaskRec where
  nwaf : BitVec 5
  lead : BitVec 5
  func : Func
  job : BitVec 64
  tick : BitVec 48
  seq : BitVec 32
  cep : BitVec 32
  deriving DecidableEq, Repr

/-- A firmware pointer record (R425). -/
structure FwPtr where
  region : Bool
  minsvn : BitVec 16
  seq : BitVec 32
  deriving DecidableEq, Repr

/-- What waits to be written to the cask store, by class (R417). -/
inductive CaskJob where
  | record (f : Func) (r : CaskRec)
  | erase (f : Func)
  | history (r : HistRec)
  | counters
  | recipe (slot : Bool) (r : RecipeSlot) (left : Nat)
  | recipeErase
  | firmware (left : Nat) (ok : Bool)
  deriving DecidableEq, Repr

/-- The cask store (R415), 64 MiB of on-wafer MRAM. -/
structure Cask where
  /-- factory block: identity word; 15_bringup R415; reset 1 (DESIGN CHOICE). -/
  ident : BitVec 64
  /-- factory block: absent cores of each cluster (true floor plan); 15_bringup R411; reset none absent (DESIGN CHOICE). -/
  floor : Tbl (BitVec 48)
  /-- factory block: grade, 0 W3-372, 1 W3-360, 2 W3-344; 15_bringup R412; reset 0 (DESIGN CHOICE). -/
  grade : BitVec 2
  /-- factory block: express map, hub to the hubs it is wired to; 02_sync_mesh R60; reset (DESIGN CHOICE). -/
  express : Tbl (List Nat)
  /-- recipe slots 0 and 1; 15_bringup R415; reset empty. -/
  rcp0 : Option RecipeSlot
  rcp1 : Option RecipeSlot
  /-- firmware pointer records; 15_bringup R425; reset region 0, MINSVN 0 (DESIGN CHOICE). -/
  ptr0 : FwPtr
  ptr1 : FwPtr
  /-- cask records, function × 2 + slot; 08_commit R237; reset none. -/
  recs : Tbl (Option CaskRec)
  /-- CPER record sequence; 14_faults R402; reset 0. -/
  cperSeq : BitVec 64
  /-- powered time in ms; 15_bringup R415; reset 0. -/
  powered : BitVec 48
  /-- Varvo reset times (powered ms) for R405; 15_bringup R415; reset none. -/
  resets : List (BitVec 48)
  /-- 16,384 history records; 14_faults R397; reset none. -/
  hist : List HistRec
  /-- the images in firmware regions 0 and 1; 15_bringup R415, R422; reset no byte (DESIGN CHOICE). -/
  fw0 : List Byte
  fw1 : List Byte
  deriving DecidableEq, Repr

/-- A broadcast load in progress (R427-R431). -/
structure Load where
  func : Option Nat
  set : List Nat
  man : Manifest
  round : Nat
  bad : List Nat
  bads : Tbl Nat
  checking : Bool
  donors : List (Nat × Nat)
  /-- sent; while false it waits for the partition reset -/
  begun : Bool
  deriving DecidableEq, Repr

/-- The firmware-update session of the management path (R426). -/
inductive FwSess where
  | idle | requested | offered | transfer | applied
  deriving DecidableEq, Repr

/-- Bring-up, recipe, firmware and the management bus (R407-R433, R453). -/
structure Bru where
  /-- STEP, 4 bits; 15_bringup R433; reset 0x1. -/
  step : BitVec 4
  /-- RCP, FWR, STG, NIGN; 15_bringup R433; reset 0. -/
  rcp : BitVec 2
  fwr : Bool
  stg : Bool
  nign : BitVec 16
  /-- VSF_BRU_CMD_LO, HI, OP, FUNC, GO, STATUS, CERR; 15_bringup R433; reset 0. -/
  cmdLo : Reg
  cmdHi : Reg
  op : Byte
  func : Func
  go : Bool
  status : Status
  cerr : BitVec 3
  /-- VSF_BRU_FWVER and SVN; 15_bringup R433; reset from the image in force. -/
  fwver : BitVec 32
  svnMin : BitVec 16
  svnCur : BitVec 16
  /-- staging area of root SRAM; 15_bringup R425; reset empty. -/
  stage : List Byte
  sess : FwSess
  sessLen : BitVec 32
  /-- writes waiting for the cask store, and how long the head has been deferred (ms); 15_bringup R416, R417; reset none. -/
  caskQ : List CaskJob
  deferred : Nat
  /-- units of a firmware commit already written; 15_bringup R425; reset 0. -/
  fwUnits : Nat
  /-- holdup_ok; 15_bringup R416; reset 0. -/
  holdup : Bool
  /-- aon_pg; 15_bringup R407; reset 0. -/
  aonPg : Bool
  /-- 1 bit: the bring-up in progress includes the memory test; 15_bringup R407, R409; reset 0. -/
  full : Bool
  /-- the load in progress; 15_bringup R427; reset none. -/
  load : Option Load
  /-- mtest_go, and the clusters reported; 15_bringup R414; reset 0, none. -/
  mtest : Bool
  mtestSeen : List Nat
  mtestAt : Nat
  /-- recipe keys outside the registers: thresholds, FLIT_RETRY limit, scrub period; 15_bringup R421; reset base. -/
  thresholds : List (Nat × Nat)
  flitLim : Nat
  scrub : Nat
  /-- I3C dynamic address; 17 R453; reset none. -/
  i3c : Option (BitVec 7)
  /-- reset values that the recipe in force gives the register fields, by key × 64 + function; 15_bringup R419; reset none. -/
  rv : Tbl (Option (BitVec 32))
  deriving DecidableEq, Repr

/-- The manager's command interface (R330, R340). -/
structure Mgr where
  /-- VSF_VFN_CMD_LO, HI, FUNC, GO, STATUS; 12_vf R330; reset 0. -/
  cmdLo : Reg
  cmdHi : Reg
  func : Func
  go : Bool
  status : Status
  /-- 1 bit: PART_CREATE waits for the erase of FUNC's cask records; 12_vf R333; reset 0. -/
  erasing : Bool
  /-- 1 bit: PART_DESTROY waits for the partition reset of FUNC; 12_vf R334; reset 0. -/
  destroying : Bool
  /-- VSF_VFN_MGR; 12_vf R340; reset 0. -/
  vec : BitVec 11
  /-- VSF_VFN_FWD_LO and HI; 12_vf R340; reset 0. -/
  fwd : BitVec 64
  /-- round-robin order of mailbox service: last function served; 12_vf R342; reset 0. -/
  lastMbx : Nat
  deriving DecidableEq, Repr

/-! ### Messages in flight and outputs -/

/-- Sideband frames sent (R358). -/
inductive Frame where
  | tickCut (m : SbTick)
  | tickEdge (m : SbTick)
  | hold (tick : BitVec 48) (req : Bool)
  | throt (asrt : Bool) (field : BitVec 7) (opb : BitVec 3)
  | pitch (m : SbPitch)
  | abort (f : Func) (code : BitVec 4) (waf : BitVec 5)
  | resetn (m : Master)
  | arrive (a : SbArrive)
  | release (r : SbRelease)
  | kreq (f : Func) (rtag : BitVec 12) (op : KOp) (q : KMsg)
  | krsp (rtag : BitVec 12) (deferred : Bool) (r : KRsp)
  | cmt (f : Func) (epoch : BitVec 32) (nsub : BitVec 7)
  | packJoin (f : Func) (bar : BarIx) (pepoch : Epoch) (pay : BitVec 32)
  | packLeave (f : Func) (bar : BarIx)
  | packAck (bar : BarIx) (gen : Byte)
  | packNack (bar : BarIx)
  | kiln (m : SbKiln)
  | formJoin (sgen : BitVec 16)
  | formSwitch (m : FormSwitch)
  | formCarry (m : FormCarry)
  | tsync (port : Nat)
  | hello (port : Nat) (ident : BitVec 64) (wid : BitVec 5) (sgen : BitVec 16)
  | elect (reach : BitVec 32) (formed : BitVec 32)
  | live (port : Nat)
  | nak (port : Nat) (lseq : BitVec 12)
  deriving DecidableEq, Repr

/-- Messages of the sync mesh (R48) and of the sideband, in flight. `hub` and `cl` name the destination. -/
inductive Msg where
  | kenReq (hub : Nat) (tep : Epoch) (op : KOp) (q : KMsg)
  | kenReqRoot (src : Nat) (tep : Epoch) (op : KOp) (q : KMsg)
  | kenRsp (tep : Epoch) (r : KRsp)
  | whistle (core : Nat) (tep : Epoch) (cause : Cause) (r : KRsp)
  | tickNote (hub : Nat) (cl : Option Nat) (n : TickNote)
  | edge (cl : Nat)
  | abort (hub : Nat) (cl : Option Nat) (tep : Epoch) (m : AbortMsg)
  | resetNote (hub : Option Nat) (n : ResetNote)
  | alertNote (hub : Nat) (n : AlertNote)
  | linkNote (link : Nat)
  | arrive (hub : Nat) (tep : Epoch) (a : CArrive)
  | fieldArrive (hub : Nat) (tep : Epoch) (a : FArrive)
  | release (hub : Nat) (tep : Epoch) (r : Release)
  | releaseCsn (cl : Nat) (tep : Epoch) (wave : Nat) (r : Release)
  | pitch (hub : Nat) (tep : Epoch) (m : PitchMsg)
  | proxy (hub : Nat) (tep : Epoch) (p : Proxy)
  | loadMc (dest : List Nat) (p : LoadPkt) (since : Nat)
  | loadUc (cl : Nat) (tep : Epoch) (p : LoadPkt)
  | telem (hub : Nat) (t : Telem)
  | log (m : LogMsg)
  | mgmt (hub : Nat) (tep : Epoch) (m : MgmtMsg)
  | routeLoad (dest : Nat) (entries : List (Nat × BitVec 4 × BitVec 4))
  | status (cl : Nat) (cmd : Nat)
  | sb (dst : Option Nat) (f : Frame)
  deriving DecidableEq, Repr

/-- What leaves the Varvo at a signal or bus, in order (R448-R454, R292). -/
inductive Sig where
  | portTag (core : Nat) (t : Tag)
  | portOk (core : Nat)
  | portAny (core : Nat) (st : Status)
  | portKen (core : Nat) (r : KRsp)
  | portBar (core : Nat) (st : Status) (rgen : Byte) (res : BitVec 64)
  | portGen (core : Nat) (st : Status) (gen : Byte)
  | portWord (core : Nat) (w : BitVec 64)
  | portEntry (core : Nat) (w : BitVec 128)
  | fenceDone (core : Nat) (st : Status)
  | cinvReq (core : Nat)
  | invReq (who : InvWho) (scope : BitVec 2) (f : Func) (pepoch : Epoch)
  | coreRst (core : Nat) (low : Bool)
  | coreGo (cl : Nat) (entry : BitVec 22)
  | cmRead (cl : Nat) (addr : Nat) (len : Nat)
  | cmWrite (cl : Nat) (addr : Nat) (bytes : List Byte)
  | cmData (cl : Nat) (cores : List Nat) (line : Nat) (bytes : List Byte)
  | rdDrp (cl : Nat) (count : BitVec 16)
  | legIndex (cl : Nat) (ix : Option Nat)
  | statusAck (cl : Nat)
  | fclkOp (hub : Nat) (op : BitVec 3)
  | avsTarget (hub : Nat) (op : BitVec 3)
  | spineEdge (tick : BitVec 48)
  | csnEdge (hub : Nat)
  | regData (w : Reg)
  | sqRead (ring : Nat) (idx : Nat) (n : Nat)
  | record (ring : Nat) (idx : Nat) (bits : BitVec 256)
  | hostImage (f : Func) (addr : BitVec 64) (bytes : List Byte)
  | hostRead (f : Func) (addr : BitVec 64) (len : Nat)
  | dirtyRmw (f : Func) (link : Nat) (page : Nat)
  | msix (f : Func) (vec : BitVec 11)
  | dmaReq (f : Func) (ring : Nat) (sqi : BitVec 16) (out : Bool) (addr : BitVec 64) (waddr : BitVec 64) (len : BitVec 32)
  | dmaEnd (f : Func)
  | mtestGo
  | pwrcycReq (level : Bool)
  | cper (bytes : List Byte)
  | ibi
  | pldm (code : Nat)
  | caskUnit (job : CaskJob)
  deriving DecidableEq, Repr

/-! ### The whole state -/

/-- The state of the Varvo of one wafer. -/
structure State where
  /-- the root time base, in cycles of the fixed 3.0 GHz clock; 17_block_boundary R455; reset 0. -/
  now : Nat
  /-- the model's own: how many free values have been drawn (assumption 3); reset 0 (DESIGN CHOICE). -/
  fresh : Nat
  /-- the model's own: commands waiting, first in, first out; reset empty. -/
  pending : List Instr
  /-- messages in flight; 02_sync_mesh R44; reset none. -/
  net : List Msg
  /-- what has left at the signals and buses, oldest first; 17_block_boundary R448; reset none. -/
  out : List Sig
  /-- 8,064 CSNs by cluster ID; 01_architecture R21; reset as `Csn`. -/
  csn : Tbl Csn
  /-- 387,072 sync ports by core ID; 01_architecture R21; reset as `Core`. -/
  core : Tbl Core
  /-- 84 hubs by field; 01_architecture R21; reset as `Hub`. -/
  hub : Tbl Hub
  /-- 1,376,256 kennel entries by kennel index; 01_architecture R28; reset FREE. -/
  ken : Tbl KEntry
  /-- field records by field × 65,536 + barrier; 04_barriers R114; reset IDLE. -/
  frec : Tbl FieldRec
  /-- 65,536 root records; 04_barriers R115; reset FREE. -/
  prec : Tbl RootRec
  /-- the root's fold queue of 128; 05_mash R147; reset empty. -/
  rfolds : List RootFold
  /-- the tick generator; 06_tick R167. -/
  tick : Tick
  /-- the kiln; 07_kiln R185. -/
  kiln : Kiln
  /-- 64 functions; 12_vf R326. -/
  fn : Tbl Fn
  /-- known-answer steps; 09_loops R269. -/
  kat : Kat
  /-- 2,048 pitch lists; 09_loops R251; reset FREE. -/
  pl : Tbl PitchList
  /-- 1,024 slots; 09_loops R256; reset FREE. -/
  slot : Tbl Slot
  /-- 4,096 rings; 11_rings R303; reset OFF. -/
  ring : Tbl Ring
  /-- the manager's interface; 12_vf R330. -/
  mgr : Mgr
  /-- the mesh; 02_sync_mesh. -/
  mesh : Mesh
  /-- the span controller; 13_span. -/
  span : Span
  /-- error handling; 14_faults. -/
  err : Err
  /-- bring-up; 15_bringup. -/
  bru : Bru
  /-- the cask store; 15_bringup R415. -/
  cask : Cask
  deriving DecidableEq, Repr

/-! ### Reset values -/

def Core.init : Core :=
  { epoch := 0, epochAt := none, rst := none, go := false, wcr := 0x00000F80, reqs := [], stall := none,
    armed := false, bwait := none, fence := none, stOwn := 0, stWaf := 0, stSpn := 0,
    spnCut := false }

def BarEntry.init : BarEntry :=
  { mode := 0, bar := 0, gen := 0, exp := 0, arr := 0, early := 0, rstat := .ok, rgen := 0, psn := false, waitm := 0,
    res := 0, proxy := none }

def Csn.init : Csn :=
  { epoch := 0, epochAt := none, epochDue := false, pepoch := 0, eptab := [], rst := none, ents := [], tick := 0,
    note := none, edgeAt := 0, edgeWait := false, phase := 0, cmtw := none, zrow := 0, zcol := 0, ntile := 0, nbad := 0,
    nanr := false, lost := false, merges := [], reads := [], droop := 0, stale := 0, eject := 0, loadOpen := false,
    nrcv := 0, manifest := none, entry := 0, spineFail := false, phaseInv := [], phaseTodo := [], muz := false, held := [] }

def KEntry.init : KEntry :=
  { kind := .free, func := 0, limit := 0, count := 0, value := 0, st := .free, abnd := false, phn := false,
    leash := .none, owner := 0, deadline := 0, queue := [] }

def Partial.init : Partial := { lanes := [], side := 0 }

def HubVerdict.init : HubVerdict := { zrow := 0, zcol := 0, mask := 0 }

def FieldRec.init : FieldRec :=
  { mem := 0, st := .idle, timer := .none, exp := 0, arr := 0, gen := 0, psn := false, lostGen := 0,
    part := Partial.init, ver := HubVerdict.init }

def Hub.init : Hub :=
  { epoch := 0, muz := false, cmp := [], scan := [], scanBar := [], folds := [], mash := 0xFF, waveQ := [],
    run := none, allow := 0, op := 0, opNext := none, opBy := none, force := false, voltDue := false, fclkWait := false, alert := false, alr := false, avs := [],
    temps := [0, 0, 0, 0], vin := 0, step := 0, slew := 0, intv := 0, drp := List.replicate 8 0, edgeAt := none, spineMuz := false, walks := [], proxies := [],
    masks := [] }

def RootRec.init : RootRec :=
  { mfs := 0, st := .free, auto := false, scope := 0, func := 0, pepoch := 0, gen := 0, fexp := 0, farr := 0, ncl := 0,
    nlost := 0, wstat := .ok, tmo := 0, payload := 0, role := 0, held := false, early := false, arrived := 0,
    part := Partial.init, pois := false, masks := [], zrow := 0, zcol := 0, seq := 0, seqStep := 0, firstAt := none,
    lastAt := 0, resv := false, bufs := 0, join := none, awaitLead := false }

def Tick.init : Tick :=
  { st := .stopped, num := 0, any := false, pred := 0, per := 0, perNext := 0, lvl := false, dead := 0, dueNow := false,
    stopReq := false, cutDone := false, noted := false, passed := false, etime := none, late := [], lastHeel := none, period := 0x0007A120,
    ctrl := 0x00001000, hiLatch := 0, stbfLead := 0, lead := none }

def KField.init : KField :=
  { seq := none, heard := 0, word := 0, acctTo := 0, ahead := [], tmax := 0, lossForce := false, alertForce := false, quiet := 0, thermForce := false,
    cool := 0, overN := 0, underN := 0, halve := 0, droopLim := none, ceilLim := none, alerts := [], opf := 0 }

def Hist.init : Hist := { n := 0, since := 0, mE := ⟨0, 1⟩, dE := ⟨0, 1⟩, mT := ⟨0, 1⟩, dT := ⟨0, 1⟩ }

/-- The base recipe's energy factors, the exact decimals of R194's table (DEDUCED: a recipe's own entries are times
65,536, R421). -/
def rhoBase : List Q := [⟨1, 1⟩, ⟨9, 10⟩, ⟨81, 100⟩, ⟨73, 100⟩, ⟨33, 50⟩, ⟨3, 5⟩, ⟨11, 20⟩, ⟨51, 100⟩]

/-- The same factors times 65,536, rounded to nearest, as the entries of an image carry them (R421). -/
def rhoCodes : List Nat := [65536, 58982, 53084, 47841, 43254, 39322, 36045, 33423]

def Kiln.init : Kiln :=
  { base := 0, limit := 0x7D0001C2, idle := 0x000003E8, therm := 0x00695F05, didt := 0x01004000, rcv := 0x020A0304,
    limitF := 0x7D0001C2, idleF := 0x000003E8, thermF := 0x00695F05, didtF := 0x01004000, rcvF := 0x020A0304,
    fields := [], hist := [], rho := rhoBase, ka := 0x00400010, reports := [] }

def Thr.init : Thr := { noticed := false, inForce := false, bySkew := false, byForce := false, skewTick := 0, wide := 0, narrow := 0, overruns := 0 }

def Fn.init : Fn :=
  { epoch := 0, pepoch := 0, epochAt := none, members := [], blk0 := [], blk1 := [], blk3 := [], slotBlk := [],
    rings := [], turn := 0, qwait := 0, qscan := 0, qph := 0, qpr := 0, qpl := 0, nown := 0, stale := 0, untimed := 0, str := 0,
    ovr := 0, coolCnt := 0, deny := 0, thr := 0x00000100, cap := 0x04000000, capF := 0x04000000, acc := 0,
    cmtCtrl := 0x00000028, cmtTol := 0x40800000, cmtCtrlF := 0x00000028, cmtTolF := 0x40800000, cmtCnt := 0,
    seqCtrl := 0x00004000, seqCnt := 0, evr := 0, mbxVec := 0, npend := false, mbxSt := .idle, mbxPage := none,
    dlEn := false, dlAct := false, dlOvf := false, hold := false, held := false, dlBuf := none, dlBits := [],
    nrst := 0, lcls := 0, fcfg := 0, cst := .idle, rpl := 0, ckpt := 0, cep := 0, step := 0, subs := [],
    suspects := [], lostNow := [], cleared := [], commits := [], needSub := [], ready := false, readyWait := 0, readyFrom := [], replayOf := none, spares := [],
    order := [], choice := none, run := none, bal := ⟨0, 1⟩, open_ := [], throt := Thr.init, cask := none,
    erase := false, rst := none, evq := [], jobFc := none, nLive := 0, edgeHeld := false, coolDue := false, kaAge := 0, job := false, broken := false,
    mskd := [], pend := [], ovrBars := [], ownTags := [] }

def Kat.init : Kat := { lists := [], cur := none, retry := [], age := 0 }

def PitchImage.init : PitchImage :=
  { utag := 0, count := 0, eh := 0, heel := 0, commit := 0, var := 0xFFFF, cevery := 0, cring := 0, vaddr := 0,
    cmt := false, vonly := false, phases := [], binds := [] }

def PitchList.init : PitchList :=
  { st := .free, func := 0, img := PitchImage.init, nextImg := none, steps := 0, retire := none, vseq := 0,
    viewDue := false, viewApp := none, view := [] }

def Slot.init : Slot :=
  { stops := [], seed := 0, last := 0, utag := 0, pos := 0, maxlen := 0, shp := 0, shv := false, pgsh := 0, cring := 0,
    plid := 0, func := 0, st := .free, wtk := 0, pages := 0, isNew := false, pgn := false, dec := none, why := none,
    after := none, pauseAfter := false }

def Ring.init : Ring :=
  { sqbLo := 0, sqbHi := 0, cqbLo := 0, cqbHi := 0, rcfg := 0x00000006, rmod := 0x01000000, rmodF := 0x01000000, st := .off, en := false,
    sqc := 0, pi := 0, asked := 0, cqp := 0, head := 0, unack := 0, phase := true, fetched := [], started := [], ready := [],
    old := 0, cnt := 0, firstAt := none }

def Link.init : Link := { corrected := 0, ceSum := 0, ceAt := none, malformed := 0, retries := 0, down := false }

def Mesh.init : Mesh :=
  { links := [], routes := [], mcDrop := [], dead := [], reloading := false, gen := 1, root := false, tree := [],
    far := [], shownMuz := [], ports := [], why := [], siteEpoch := [0, 0], discarded := 0 }

def Port.init : Port :=
  { nelUp := false, upAt := 0, up := false, peer := 0, peerId := 0, peerSgen := 0, helloAt := none,
    retry := 0, downs := 0, fails := 0, lastIn := 0, sentAt := 0, recvAt := 0, off := 0, nakSeq := 0, muz := false }

def SpanRec.init : SpanRec :=
  { open_ := false, deciding := false, wexp := 0, warr := 0, gen := 0, members := [], pay := 0, arrived := [], wstat := .ok,
    early := false, pois := false, part := Partial.init, ncl := 0, nlost := 0, nsus := 0, firstAt := none, lastAt := 0 }

def Span.init : Span :=
  { st := .none, wid := 0, lead := 0, links := [], formed := 0, reach := 0, reachAt := 0, sgen := 0, ident := 0,
    cmdLo := 0, cmdHi := 0, op := 0, go := false, status := .ok, ctrl := 0x001F0000, evt := 0, ports := [],
    recs := [], holds := [], relays := [], throt := [], forming := none, leaving := false, oldId := none, joins := [],
    carryWait := false, leavers := [] }

def Err.init : Err :=
  { vec := 0, func := 0, vrst := false, reinit := false, abort := false, lcls := 0, lfunc := 0, bits := 0, unit := 0,
    hclr := false, hist := [], corr := [], rebuilt := [], ce := [], cper := [], aon := [], pwrcyc := false, pwrcycAt := 0, resetDue := false, byError := false, abortLeft := [], retest := [],
    ppHalt := [false, false], ppMuz := [false, false], ppExp := [none, none], rootMash := 0xFFFFFFFF }

def FwPtr.init : FwPtr := { region := false, minsvn := 0, seq := 0 }

/-- The express map the factory block holds at reset: each hub with hubs that its express ports are wired to (assumption 6,
DESIGN CHOICE). From either root site it gives a tree that places every hub (R60). -/
def expressBase : Tbl (List Nat) :=
  [(11, [0, 1, 2, 3]), (12, [4, 5, 6, 7]), (13, [8, 9, 10, 15]), (14, [16, 17, 18, 19]), (30, [20, 21, 22, 24]),
    (31, [23, 25, 26, 27]), (32, [28, 29, 47, 48]), (33, [49, 50, 51, 52]), (34, [53, 54, 55, 56]), (35, [11, 30, 33, 34]),
    (36, [12, 31, 37, 38]), (37, [57, 58, 59, 60]), (38, [61, 62, 63, 64]), (39, [65, 66, 67, 68]), (40, [13, 14, 32, 39]),
    (41, [35, 36, 40, 42, 81, 82, 83]), (42, [43, 44, 45]), (43, [69, 70, 71, 72]), (44, [73, 74, 75, 76]),
    (45, [77, 78, 79, 80]), (46, [35, 36, 40, 42, 81, 82, 83])]

def Cask.init : Cask :=
  { ident := 1, floor := [], grade := 0, express := expressBase, rcp0 := none, rcp1 := none, ptr0 := FwPtr.init,
    ptr1 := FwPtr.init, recs := [], cperSeq := 0, powered := 0, resets := [], hist := [], fw0 := [], fw1 := [] }

/-- Rows 1-9 of the muzzle thresholds (R399): transient-event count and window in minutes. -/
def thresholdsBase : List (Nat × Nat) :=
  [(4, 1440), (6, 43200), (3, 1440), (0, 0), (3, 1440), (1, 1440), (3, 60), (3, 1440), (2, 1440)]

def Bru.init : Bru :=
  { step := 1, rcp := 0, fwr := false, stg := false, nign := 0, cmdLo := 0, cmdHi := 0, op := 0, func := 0,
    go := false, status := .ok, cerr := 0, fwver := 0, svnMin := 0, svnCur := 0, stage := [], sess := .idle,
    sessLen := 0, caskQ := [], deferred := 0, fwUnits := 0, holdup := false, aonPg := false, full := false, load := none,
    mtest := false, mtestSeen := [], mtestAt := 0, thresholds := thresholdsBase, flitLim := 10000, scrub := 100,
    i3c := none, rv := [] }

def Mgr.init : Mgr :=
  { cmdLo := 0, cmdHi := 0, func := 0, go := false, status := .ok, erasing := false, destroying := false, vec := 0, fwd := 0,
    lastMbx := 0 }

/-- The state right after a module power cycle, before always-on power good (R407): STEP 0x1, every litter epoch 0,
every register field at its base reset value, nothing allocated, the tick generator STOPPED (R408). -/
def State.reset : State :=
  { now := 0, fresh := 0, pending := [], net := [], out := [], csn := [], core := [], hub := [], ken := [],
    frec := [], prec := [], rfolds := [], tick := Tick.init, kiln := Kiln.init, fn := [], kat := Kat.init, pl := [], slot := [],
    ring := [], mgr := Mgr.init, mesh := Mesh.init, span := Span.init, err := Err.init, bru := Bru.init,
    cask := Cask.init }

end Sys2Proof.Machine
end

