-- ==== Sys2Proof/Machine/Ops.lean ====
section
/-! DEFINITION. The operations every unit shares: sparse tables, free values, messages and outputs, time and time codes,
status codes and their rank, identities, homing, reports, rationals, bit fields and bytes, CRC-32. -/

namespace Sys2Proof.Machine

open Sys2Proof

/-! ### Sparse tables -/

/-- Reading a sparse table: an unlisted key holds the default. -/
def tget {α : Type} (d : α) : Tbl α → Nat → α
  | [], _ => d
  | (k', v) :: t, k => if k' = k then v else tget d t k

/-- Inserting a non-default entry at its place. -/
def tins {α : Type} : Tbl α → Nat → α → Tbl α
  | [], k, v => [(k, v)]
  | (k', v') :: t, k, v =>
    if k < k' then (k, v) :: (k', v') :: t
    else if k' = k then (k, v) :: t
    else (k', v') :: tins t k v

/-- Removing a key. -/
def tdel {α : Type} : Tbl α → Nat → Tbl α
  | [], _ => []
  | (k', v') :: t, k => if k' = k then t else (k', v') :: tdel t k

/-- Writing a sparse table: the default is never listed. -/
def tset {α : Type} [DecidableEq α] (d : α) (t : Tbl α) (k : Nat) (v : α) : Tbl α :=
  if v = d then tdel t k else tins t k v

def tupd {α : Type} [DecidableEq α] (d : α) (t : Tbl α) (k : Nat) (g : α → α) : Tbl α := tset d t k (g (tget d t k))

/-- The canonical form: keys strictly rising, no entry equal to the default. -/
def twf {α : Type} [DecidableEq α] (d : α) : Tbl α → Bool
  | [] => true
  | [(_, v)] => v != d
  | (k, v) :: (k', v') :: t => v != d && decide (k < k') && twf d ((k', v') :: t)

/-- Rewriting every entry of a table; entries that become the default leave it. -/
def tmapv {α : Type} [DecidableEq α] (d : α) (g : Nat → α → α) (t : Tbl α) : Tbl α :=
  t.filterMap (fun (p : Nat × α) =>
    let v := g p.1 p.2
    if v = d then none else some (p.1, v))

/-- The table that holds g i at every key i below n. -/
def tabulate {α : Type} [DecidableEq α] (d : α) (n : Nat) (g : Nat → α) : Tbl α :=
  (List.range n).filterMap (fun (i : Nat) => if g i = d then none else some (i, g i))

/-- The listed keys. -/
def tkeys {α : Type} (t : Tbl α) : List Nat := t.map Prod.fst

/-! ### The tables of State -/

/-- The Csn of a cluster ID (R11). -/
def State.csnAt (s : State) (k : Nat) : Csn := tget Csn.init s.csn k
def State.setCsn (s : State) (k : Nat) (v : Csn) : State := { s with csn := tset Csn.init s.csn k v }
def State.updCsn (s : State) (k : Nat) (g : Csn → Csn) : State := s.setCsn k (g (s.csnAt k))

/-- The Core of a core ID (R12). -/
def State.coreAt (s : State) (k : Nat) : Core := tget Core.init s.core k
def State.setCore (s : State) (k : Nat) (v : Core) : State := { s with core := tset Core.init s.core k v }
def State.updCore (s : State) (k : Nat) (g : Core → Core) : State := s.setCore k (g (s.coreAt k))

/-- The Hub of a field (R11). -/
def State.hubAt (s : State) (k : Nat) : Hub := tget Hub.init s.hub k
def State.setHub (s : State) (k : Nat) (v : Hub) : State := { s with hub := tset Hub.init s.hub k v }
def State.updHub (s : State) (k : Nat) (g : Hub → Hub) : State := s.setHub k (g (s.hubAt k))

/-- The KEntry of a kennel index (R28). -/
def State.kenAt (s : State) (k : Nat) : KEntry := tget KEntry.init s.ken k
def State.setKen (s : State) (k : Nat) (v : KEntry) : State := { s with ken := tset KEntry.init s.ken k v }
def State.updKen (s : State) (k : Nat) (g : KEntry → KEntry) : State := s.setKen k (g (s.kenAt k))

/-- The FieldRec of a field × 65,536 + barrier (R114). -/
def State.frecAt (s : State) (k : Nat) : FieldRec := tget FieldRec.init s.frec k
def State.setFrec (s : State) (k : Nat) (v : FieldRec) : State := { s with frec := tset FieldRec.init s.frec k v }
def State.updFrec (s : State) (k : Nat) (g : FieldRec → FieldRec) : State := s.setFrec k (g (s.frecAt k))

/-- The RootRec of a barrier (R115). -/
def State.precAt (s : State) (k : Nat) : RootRec := tget RootRec.init s.prec k
def State.setPrec (s : State) (k : Nat) (v : RootRec) : State := { s with prec := tset RootRec.init s.prec k v }
def State.updPrec (s : State) (k : Nat) (g : RootRec → RootRec) : State := s.setPrec k (g (s.precAt k))

/-- The Fn of a function (R34). -/
def State.fnAt (s : State) (k : Nat) : Fn := tget Fn.init s.fn k
def State.setFn (s : State) (k : Nat) (v : Fn) : State := { s with fn := tset Fn.init s.fn k v }
def State.updFn (s : State) (k : Nat) (g : Fn → Fn) : State := s.setFn k (g (s.fnAt k))

/-- The PitchList of a PLID (R251). -/
def State.plAt (s : State) (k : Nat) : PitchList := tget PitchList.init s.pl k
def State.setPl (s : State) (k : Nat) (v : PitchList) : State := { s with pl := tset PitchList.init s.pl k v }
def State.updPl (s : State) (k : Nat) (g : PitchList → PitchList) : State := s.setPl k (g (s.plAt k))

/-- The Slot of a slot (R256). -/
def State.slotAt (s : State) (k : Nat) : Slot := tget Slot.init s.slot k
def State.setSlot (s : State) (k : Nat) (v : Slot) : State := { s with slot := tset Slot.init s.slot k v }
def State.updSlot (s : State) (k : Nat) (g : Slot → Slot) : State := s.setSlot k (g (s.slotAt k))

/-- The Ring of a ring (R303). -/
def State.ringAt (s : State) (k : Nat) : Ring := tget Ring.init s.ring k
def State.setRing (s : State) (k : Nat) (v : Ring) : State := { s with ring := tset Ring.init s.ring k v }
def State.updRing (s : State) (k : Nat) (g : Ring → Ring) : State := s.setRing k (g (s.ringAt k))

/-- Every core, hub, field record, kennel entry, ring or function rewritten. -/
def State.mapCore (s : State) (g : Core → Core) : State := { s with core := tmapv Core.init (fun _ x => g x) s.core }
def State.mapHub (s : State) (g : Hub → Hub) : State := { s with hub := tmapv Hub.init (fun _ x => g x) s.hub }
def State.mapFrec (s : State) (g : Nat → FieldRec → FieldRec) : State := { s with frec := tmapv FieldRec.init g s.frec }
def State.mapKen (s : State) (g : KEntry → KEntry) : State := { s with ken := tmapv KEntry.init (fun _ x => g x) s.ken }
def State.mapRing (s : State) (g : Ring → Ring) : State := { s with ring := tmapv Ring.init (fun _ x => g x) s.ring }
def State.mapFn (s : State) (g : Fn → Fn) : State := { s with fn := tmapv Fn.init (fun _ x => g x) s.fn }

/-- Every hub, every CSN below n written. -/
def State.tabHub (s : State) (n : Nat) (g : Nat → Hub) : State := { s with hub := tabulate Hub.init n g }
def State.tabCsn (s : State) (n : Nat) (g : Nat → Csn) : State := { s with csn := tabulate Csn.init n g }

/-- The canonical form of every unit table of the state. -/
def State.wf (s : State) : Bool :=
  twf Csn.init s.csn && twf Core.init s.core && twf Hub.init s.hub && twf KEntry.init s.ken &&
  twf FieldRec.init s.frec && twf RootRec.init s.prec && twf Fn.init s.fn && twf PitchList.init s.pl &&
  twf Slot.init s.slot && twf Ring.init s.ring

/-- An entry of a CSN (R113). -/
def Csn.entAt (c : Csn) (i : Nat) : BarEntry := tget BarEntry.init c.ents i
def Csn.setEnt (c : Csn) (i : Nat) (e : BarEntry) : Csn := { c with ents := tset BarEntry.init c.ents i e }

/-- The kiln's view of a field. -/
def State.kfAt (s : State) (f : Nat) : KField := tget KField.init s.kiln.fields f
def State.updKf (s : State) (f : Nat) (g : KField → KField) : State :=
  { s with kiln := { s.kiln with fields := tupd KField.init s.kiln.fields f g } }

/-- A Nelion port. -/
def State.portAt (s : State) (p : Nat) : Port := tget Port.init s.span.ports p
def State.updPort (s : State) (p : Nat) (g : Port → Port) : State :=
  { s with span := { s.span with ports := tupd Port.init s.span.ports p g } }

/-- A span record (R364). -/
def State.srecAt (s : State) (b : Nat) : SpanRec := tget SpanRec.init s.span.recs b
def State.updSrec (s : State) (b : Nat) (g : SpanRec → SpanRec) : State :=
  { s with span := { s.span with recs := tupd SpanRec.init s.span.recs b g } }

/-- A link. -/
def State.linkAt (s : State) (l : Nat) : Link := tget Link.init s.mesh.links l
def State.updLink (s : State) (l : Nat) (g : Link → Link) : State :=
  { s with mesh := { s.mesh with links := tupd Link.init s.mesh.links l g } }

/-! ### Free values, messages, outputs -/

/-- The free value the next draw gives (assumption 3). -/
def State.peek (s : State) : Nat := Config.free s.fresh
/-- The number of the coming edge: 0 at the first after a Varvo reset (R163). -/
def Tick.nextNum (t : Tick) : BitVec 48 := if t.any then t.num + 1 else 0

/-- The state once that free value is drawn. -/
def State.drawn (s : State) : State := { s with fresh := s.fresh + 1 }

/-- Every status code, in the order of R17. -/
def statuses : List Status :=
  [.ok, .timeout, .gone, .abandoned, .notOwner, .phantom, .poison, .suspect, .aborted, .noResource, .overrun, .fenced,
   .spanLost]

/-- The status of an outcome that the specification calls unpredictable: R9 lets it be any status code, so it is a free
value (assumption 12). -/
def State.anyStatus (s : State) : Status := (statuses[s.peek % 13]?).getD .ok

/-- Whether an uncorrectable word also fails when it is written and read back (R398): a free value (assumption 96). -/
def State.readBackFails (s : State) : Bool := s.peek % 2 == 1

/-- Sending a message: it is in flight from now (R44). -/
def State.send (s : State) (m : Msg) : State := { s with net := s.net ++ [m] }
def State.sendAll (s : State) (ms : List Msg) : State := { s with net := s.net ++ ms }
/-- A message that arrives is in flight no longer. -/
def State.taken (s : State) (m : Msg) : State := { s with net := s.net.erase m }
/-- An output at a signal or a bus. -/
def State.emit (s : State) (g : Sig) : State := { s with out := s.out ++ [g] }
def State.emitAll (s : State) (gs : List Sig) : State := { s with out := s.out ++ gs }

/-! ### Time -/

/-- Nanoseconds of the root time base (R455). -/
def State.ns (s : State) : Nat := s.now / 3
/-- The hub time base in 64 ns units (R80), 32 bits. -/
def State.units (s : State) : BitVec 32 := BitVec.ofNat 32 (s.now / 192)
def cyc (ns : Nat) : Nat := 3 * ns

/-- The first moment at or after a time that lies on the generator's 1 ns grid (R163). -/
def gridUp (t : Nat) : Nat := (t + 2) / 3 * 3

/-- The time codes of R80 in 64 ns units: 0 is no timer. -/
def timeCode (c : Byte) : Nat :=
  if c = 0 then 0 else (16 + c.toNat % 16) * 2 ^ (c.toNat / 16)

/-- The deadline a time code gives now. -/
def State.deadlineOf (s : State) (c : Byte) : BitVec 32 := s.units + BitVec.ofNat 32 (timeCode c)

/-- Whether a 32-bit deadline has passed, compared modulo 2^32 (assumption 1, DEDUCED). -/
def passed (now d : BitVec 32) : Bool := (now - d).toInt ≥ 0

/-- Powered time in milliseconds (R397, R415): what the cask store held at power-up and the time since. -/
def State.poweredMs (s : State) : Nat := s.cask.powered.toNat + s.now / 3000000

/-! ### Status codes -/

/-- The codes of R17. -/
def statusCode : Status → Byte
  | .ok => 0x00 | .timeout => 0x01 | .gone => 0x02 | .abandoned => 0x03 | .notOwner => 0x04 | .phantom => 0x05
  | .poison => 0x06 | .suspect => 0x07 | .aborted => 0x08 | .noResource => 0x09 | .overrun => 0x0A
  | .fenced => 0x0B | .spanLost => 0x0C

/-- The place of a code in the order of R19, 0 first. -/
def statusRank : Status → Nat
  | .fenced => 0 | .gone => 1 | .aborted => 2 | .spanLost => 3 | .poison => 4 | .overrun => 5 | .suspect => 6
  | .notOwner => 7 | .noResource => 8 | .timeout => 9 | .phantom => 10 | .abandoned => 11 | .ok => 12

/-- The code reported when both conditions hold at once (R19). -/
def worseOf (a b : Status) : Status := if statusRank a ≤ statusRank b then a else b

/-! ### Bits and bytes -/

/-- Bits [lo + w - 1 : lo] of a number. -/
def bits (n lo w : Nat) : Nat := n / 2 ^ lo % 2 ^ w

/-- Bit i of a number. -/
def bit (n i : Nat) : Bool := n / 2 ^ i % 2 == 1

def b2n (b : Bool) : Nat := if b then 1 else 0

/-- The number that little-endian bytes spell (R4). -/
def leNat : List Byte → Nat
  | [] => 0
  | b :: t => b.toNat + 256 * leNat t

/-- A number as n little-endian bytes (R4). -/
def leBytes : Nat → Nat → List Byte
  | 0, _ => []
  | n + 1, v => BitVec.ofNat 8 v :: leBytes n (v / 256)

/-- n bytes of an image at an offset, 0 beyond its end. -/
def sliceAt (img : List Byte) (off n : Nat) : List Byte :=
  let t := (img.drop off).take n
  t ++ List.replicate (n - t.length) 0

/-- The number in an n-byte field at an offset. -/
def fieldAt (img : List Byte) (off n : Nat) : Nat := leNat (sliceAt img off n)

/-- Writing bits [lo + w - 1 : lo] of a bit vector. -/
def setBits {n : Nat} (v : BitVec n) (lo w : Nat) (x : Nat) : BitVec n :=
  let m : BitVec n := (BitVec.ofNat n (2 ^ w - 1)) <<< lo
  (v &&& ~~~m) ||| ((BitVec.ofNat n x <<< lo) &&& m)

/-- Counting the ones below bit n. -/
def popCount (v : Nat) : Nat → Nat
  | 0 => 0
  | n + 1 => b2n (bit v n) + popCount v n

/-- The smallest number not in a list (at most its length). -/
def leastFree (used : List Nat) : Nat :=
  ((List.range (used.length + 1)).find? (fun i => !used.contains i)).getD 0

/-- The first of n, n + 1, … modulo m that is not in use; `fuel` bounds the search. -/
def firstFreeFrom (used : List Nat) (m : Nat) : Nat → Nat → Nat
  | 0, n => n % m
  | fuel + 1, n => if used.contains (n % m) then firstFreeFrom used m fuel (n + 1) else n % m

/-- One byte of the CRC-32 of IEEE 802.3 (reflected polynomial 0xEDB8_8320). -/
def crcStep : Nat → Nat → Nat
  | 0, c => c
  | n + 1, c => crcStep n (if c % 2 = 1 then Nat.xor (c / 2) 0xEDB88320 else c / 2)

def crcGo : Nat → List Byte → Nat
  | c, [] => c
  | c, b :: t => crcGo (crcStep 8 (Nat.xor c b.toNat)) t

/-- CRC-32 of IEEE 802.3 (R69, R397, R418, R428). -/
def crc32 (bs : List Byte) : BitVec 32 := BitVec.ofNat 32 (Nat.xor (crcGo 0xFFFFFFFF bs) 0xFFFFFFFF)

/-- Adding one to a saturating counter. -/
def satInc {n : Nat} (v : BitVec n) : BitVec n := if v.toNat + 1 < 2 ^ n then v + 1 else v
/-- Adding to a saturating counter. -/
def satAdd {n : Nat} (v : BitVec n) (k : Nat) : BitVec n :=
  if v.toNat + k < 2 ^ n then BitVec.ofNat n (v.toNat + k) else BitVec.ofNat n (2 ^ n - 1)

/-! ### Rationals -/

/-- A rational in lowest terms. -/
def mkQ (a : Int) (b : Nat) : Q :=
  let g := Nat.gcd a.natAbs b
  if b = 0 then ⟨0, 1⟩ else if g = 0 then ⟨0, 1⟩ else ⟨a / (g : Int), b / g⟩

def Q.ofNat (n : Nat) : Q := ⟨(n : Int), 1⟩
def Q.ofInt (n : Int) : Q := ⟨n, 1⟩
def Q.add (a b : Q) : Q := mkQ (a.num * b.den + b.num * a.den) (a.den * b.den)
def Q.neg (a : Q) : Q := ⟨-a.num, a.den⟩
def Q.sub (a b : Q) : Q := a.add b.neg
def Q.mul (a b : Q) : Q := mkQ (a.num * b.num) (a.den * b.den)
/-- a / b; 0 where b is 0. -/
def Q.div (a b : Q) : Q :=
  if b.num = 0 then ⟨0, 1⟩
  else if b.num > 0 then mkQ (a.num * b.den) (a.den * b.num.natAbs) else mkQ (-(a.num * b.den)) (a.den * b.num.natAbs)
def Q.lt (a b : Q) : Bool := decide (a.num * b.den < b.num * a.den)
def Q.le (a b : Q) : Bool := decide (a.num * b.den ≤ b.num * a.den)
def Q.max (a b : Q) : Q := if a.le b then b else a
def Q.min (a b : Q) : Q := if a.le b then a else b
def Q.abs (a : Q) : Q := ⟨(a.num.natAbs : Int), a.den⟩
/-- The largest integer not above. -/
def Q.floor (a : Q) : Int := a.num / (a.den : Int)
def Q.zero : Q := ⟨0, 1⟩

/-! ### Identities -/

/-- A cluster ID that R11 lets name a cluster. -/
def clusterIdOk (c : Nat) : Bool := c / 128 < 84 && c % 128 < 96 && c < 16384

/-- The field of a cluster ID. -/
def fieldOf (c : Nat) : Nat := c / 128
/-- The LOCAL of a cluster ID. -/
def localOf (c : Nat) : Nat := c % 128
/-- Row of a cluster in its field (R41). -/
def rowOf (c : Nat) : Nat := localOf c / 12
def colOf (c : Nat) : Nat := localOf c % 12
/-- The cluster of a core ID. -/
def clusterOf (core : Nat) : Nat := core / 64

/-- Cluster absent from the defect map (R11, R411). -/
def State.absent (s : State) (c : Nat) : Bool := !clusterIdOk c || tget (0 : BitVec 6) s.mesh.why c != 0

/-- Cluster in service: present, its CSN and its hub not muzzled (R8, R30). -/
def State.inService (s : State) (c : Nat) : Bool :=
  !s.absent c && !(s.csnAt c).muz && !(s.hubAt (fieldOf c)).muz

/-- The function whose partition holds a cluster (R326). -/
def State.fnOf (s : State) (c : Nat) : Option Nat := (s.fn.find? (fun p => p.2.members.contains c)).map Prod.fst

/-- The clusters of a function's partition. -/
def State.clustersOf (s : State) (f : Nat) : List Nat := (s.fnAt f).members
/-- The clusters of a function's partition in one field. -/
def State.clustersIn (s : State) (f fld : Nat) : List Nat := (s.fnAt f).members.filter (fun c => fieldOf c == fld)
/-- The fields in which a function has clusters. -/
def State.fieldsOf (s : State) (f : Nat) : List Nat :=
  (List.range 84).filter (fun fld => (s.fnAt f).members.any (fun c => fieldOf c == fld))

/-- A master identity (R14). -/
def masterOf (wafer core epoch : Nat) : Master := BitVec.ofNat 33 (wafer * 2 ^ 28 + core * 2 ^ 8 + epoch)
def Master.wafer (m : Master) : Nat := bits m.toNat 28 5
def Master.core (m : Master) : Nat := bits m.toNat 8 20
def Master.epoch (m : Master) : Epoch := BitVec.ofNat 8 m.toNat
/-- Whether a master is a function (R34): FIELD 127. -/
def Master.isFn (m : Master) : Bool := Master.core m / 64 / 128 == 127
/-- The function a function master names (R34): LOCAL. -/
def Master.fnIx (m : Master) : Nat := Master.core m / 64 % 128

/-- The master identity of a core (R14). -/
def State.coreMaster (s : State) (c : Nat) : Master := masterOf s.span.wid.toNat c (s.coreAt c).epoch.toNat
/-- The master identity of a function (R34). -/
def State.fnMaster (s : State) (f : Nat) : Master :=
  masterOf s.span.wid.toNat ((127 * 128 + f) * 64) (s.fnAt f).epoch.toNat

/-- The function a master of this wafer belongs to (R27, R34). -/
def State.masterFn (s : State) (m : Master) : Option Nat :=
  if Master.isFn m then some (Master.fnIx m) else s.fnOf (Master.core m / 64)

/-- The kennel index of R28. -/
def kennelIndex (cls ix : Nat) : Nat :=
  if cls = 0 then ix else if cls = 1 then 1048576 + ix else 1310720 + ix

/-- The largest INDEX of a class, plus one (R26). -/
def classRange (cls : Nat) : Nat :=
  if cls = 0 then 1048576 else if cls = 1 then 262144 else if cls = 2 then 65536 else if cls = 3 then 65536 else 256

/-- The home hub of a kennel index (R28). -/
def homeHub (k : Nat) : Nat := k * 40507 % 1376256 % 84
/-- The slot of a kennel index in its hub's slice (R28). -/
def homeSlot (k : Nat) : Nat := k * 40507 % 1376256 / 84

/-- The field of the active root (R42). -/
def State.rootField (s : State) : Nat := if s.mesh.root then 46 else 41
def State.standbyField (s : State) : Nat := if s.mesh.root then 41 else 46
/-- The litter epoch of the active root site. -/
def State.rootEpoch (s : State) : Epoch := (s.mesh.siteEpoch[b2n s.mesh.root]?).getD 0

/-- The epoch a CSN's epoch table holds for a hub, or for a root site at 84 and 85 (R50). -/
def State.epTab (s : State) (cl u : Nat) : Epoch := tget 0 (s.csnAt cl).eptab u

/-- Hubs in service, in field order. -/
def State.hubsUp (s : State) : List Nat := (List.range 84).filter (fun f => !(s.hubAt f).muz)

/-- The largest function number, plus one. -/
def nFn : Nat := 64

/-! ### Reports -/

/-- UIDX and UKIND as the 24-bit unit ID of R396. -/
def unitKindCode : UnitKind → Nat
  | .csn => 0 | .hub => 1 | .rootSite => 2 | .hubMash => 3 | .rootMash => 4 | .router => 5 | .meshLink => 6
  | .expressLink => 7 | .spine => 8 | .sideband => 9 | .packProc => 10 | .regArray => 11 | .wafer => 12

def unitCode (u : UnitId) : Nat := unitKindCode u.kind * 2 ^ 19 + u.idx.toNat
def unitId (k : UnitKind) (i : Nat) : UnitId := ⟨k, BitVec.ofNat 19 i⟩

/-- A LOG of `cnt` events (R401) with two detail flits. -/
def mkLog (cls : Nat) (u : UnitId) (sev perm act : Nat) (f : Option Nat) (cnt : Nat) (d1 d2 : Nat) : LogMsg :=
  { cls := BitVec.ofNat 8 cls, uid := u, sev := BitVec.ofNat 3 sev, perm := BitVec.ofNat 2 perm,
    func := BitVec.ofNat 6 (f.getD 0), fv := f.isSome, act := BitVec.ofNat 4 act, cnt := BitVec.ofNat 16 cnt,
    d1 := BitVec.ofNat 64 d1, d2 := BitVec.ofNat 64 d2 }

/-- A unit sends its LOG to the root (R401). The class-specific detail is not stated: it is a free value. -/
def State.report (s : State) (cls : Nat) (u : UnitId) (sev perm act : Nat) (f : Option Nat) (cnt : Nat := 1) : State :=
  s.drawn.drawn.send (.log (mkLog cls u sev perm act f cnt s.peek s.drawn.peek))

/-! ### The pack processors (R35, R394) -/

/-- The pack processor that holds a role, 0 control and 1 service: its own, or the other one where that is halted or muzzled. -/
def Err.roleAt (e : Err) (role : Nat) : Option Nat :=
  if !((e.ppHalt[role]?).getD true) then some role
  else if !((e.ppHalt[1 - role]?).getD true) then some (1 - role)
  else none

/-! ### Outcomes -/

abbrev Out := Host.Outcome State Fault Refusal

/-- Folding a state transformer over a list. -/
def forAll {α : Type} (l : List α) (g : State → α → State) (s : State) : State := l.foldl g s

end Sys2Proof.Machine
end

