-- ==== Sys2Proof/Machine/Flags.lean ====
section
/-! DEFINITION. Flag and status computations: the whistle cause register, write-1-to-clear, the kennel's flags, lock grant
codes. -/

namespace Sys2Proof.Machine

open Sys2Proof

/-- The bit of a cause in the whistle cause register (R92). -/
def causeBit : Cause → Nat
  | .lock => 0 | .bar => 1 | .tick => 2 | .sem => 3 | .abort => 4 | .leash => 5

/-- The CAUSE code of a WHISTLE (R91). -/
def causeCode : Cause → Nat
  | .lock => 0 | .bar => 1 | .tick => 2 | .sem => 3 | .abort => 4 | .leash => 5

/-- Setting a cause bit (R92). -/
def setCause (w : Reg) (c : Cause) : Reg := w ||| (1#32 <<< causeBit c)

/-- Placing KTAG and KSTAT of a kennel result carried by WHISTLE (R92). -/
def setKtag (w : Reg) (t : Tag) (st : Status) : Reg :=
  setBits (setBits w 24 8 (statusCode st).toNat) 12 12 t.toNat

/-- The whistle line: some cause bit and its enable are both 1 (R92). EN [7] enables LOCK and LEASH. -/
def whistleLine (w : Reg) : Bool :=
  let n := w.toNat
  ((bit n 0 || bit n 5) && bit n 7) || (bit n 1 && bit n 8) || (bit n 2 && bit n 9) || (bit n 3 && bit n 10)
    || (bit n 4 && bit n 11)

/-- A core's write of its whistle cause register: causes are W1C, EN is RW, the rest RO (R92). -/
def writeCause (w v : Reg) : Reg :=
  setBits (w &&& ~~~(v &&& 0x0000003F#32)) 7 4 (bits v.toNat 7 4)

/-- A write of a register with W1C bits under `m` (R5). -/
def w1c (cur v m : Reg) : Reg := cur &&& ~~~(v &&& m)

/-- COUNT := min(COUNT + N, LIMIT), and whether it was clipped (R83). -/
def addClip (count limit : BitVec 32) (n : Nat) : BitVec 32 × Bool :=
  if count.toNat + n ≤ limit.toNat then (BitVec.ofNat 32 (count.toNat + n), false) else (limit, true)

/-- COUNT clipped to LIMIT, and whether it was clipped (R83). -/
def setClip (limit count : BitVec 32) : BitVec 32 × Bool :=
  if count.toNat ≤ limit.toNat then (count, false) else (limit, true)

/-- M′ of R83: M, or N when M is 0. -/
def takeLeast (n m : BitVec 16) : Nat := if m = 0 then n.toNat else m.toNat

/-- The code a grant of a lock reports, from its pending flags (R87). -/
def grantCode (e : KEntry) : Status := if e.phn then .phantom else if e.abnd then .abandoned else .ok

/-- The pending flags after that report: the one reported is cleared (R87). -/
def grantFlags (e : KEntry) : KEntry := if e.phn then { e with phn := false } else { e with abnd := false }

/-- Whether a whole span of residues is out of order is decided elsewhere; a status is an error that withholds a result
when it is neither OK nor TIMEOUT (R141). -/
def resultGiven (st : Status) : Bool := st == .ok || st == .timeout

end Sys2Proof.Machine
end

