-- ==== Sys2Proof/Machine/Operands.lean ====
section
/-! DEFINITION. Operand forms: operation codes, flits, record and entry words, and the fields that meanings read of
descriptors and images. -/

namespace Sys2Proof.Machine

open Sys2Proof

/-! ### Kennel operation codes (R78) -/

def kopCode : KOp → Nat
  | .load => 0x01 | .store => 0x02 | .swap => 0x03 | .cas => 0x04 | .add => 0x05 | .and => 0x06 | .or => 0x07
  | .xor => 0x08 | .umax => 0x09 | .umin => 0x0A | .smax => 0x0B | .smin => 0x0C
  | .semWait => 0x10 | .semSignal => 0x11 | .semSet => 0x12 | .semRead => 0x13
  | .tokTake => 0x14 | .tokReturn => 0x15 | .tokSet => 0x16 | .tokRead => 0x17
  | .lockAcq => 0x18 | .lockRel => 0x19 | .lockConfirm => 0x1A | .lockCancel => 0x1B | .lockRenew => 0x1C
  | .lockRead => 0x1D | .withdraw => 0x1E

/-- Every operation, in code order. -/
def kops : List KOp :=
  [.load, .store, .swap, .cas, .add, .and, .or, .xor, .umax, .umin, .smax, .smin, .semWait, .semSignal, .semSet, .semRead,
   .tokTake, .tokReturn, .tokSet, .tokRead, .lockAcq, .lockRel, .lockConfirm, .lockCancel, .lockRenew, .lockRead,
   .withdraw]

/-- The operation of a code; none for the reserved codes 0x00, 0x0D-0x0F and 0x1F. -/
def kopOf (c : Nat) : Option KOp := kops.find? (fun o => kopCode o == c)

/-- The atomic operations, which never wait and have no control form (R77, R81). -/
def isAtomicOp : KOp → Bool
  | .load | .store | .swap | .cas | .add | .and | .or | .xor | .umax | .umin | .smax | .smin => true
  | _ => false

/-- The operations on which PUB has effect (R99). -/
def pubApplies : KOp → Bool
  | .store | .swap | .cas | .add | .and | .or | .xor | .umax | .umin | .smax | .smin | .semSignal | .tokReturn
  | .lockRel => true
  | _ => false

/-! ### Flits -/

/-- The head flit (R45). -/
def headFlit (vc type len : Nat) (mc pois : Bool) (dest src tag tepoch : Nat) : Flit :=
  BitVec.ofNat 64 (vc * 2 ^ 62 + type * 2 ^ 56 + len * 2 ^ 50 + b2n mc * 2 ^ 49 + b2n pois * 2 ^ 48 + dest * 2 ^ 34
    + src * 2 ^ 20 + tag * 2 ^ 8 + tepoch)

/-- The unit address of a hub (R46). -/
def hubAddr (f : Nat) : Nat := f * 128 + 0x7F
/-- The unit address of a root site (R46). -/
def rootAddr (f : Nat) : Nat := f * 128 + 0x7E

/-- The first body flit of a KEN_REQ (R77). -/
def kenReqFlit (op : KOp) (q : KMsg) : Flit :=
  BitVec.ofNat 64 (kopCode op * 2 ^ 59 + q.args.scope.toNat * 2 ^ 57 + b2n q.args.pub * 2 ^ 56 + b2n q.args.ret * 2 ^ 55
    + q.args.cls.toNat % 4 * 2 ^ 53 + q.args.index.toNat * 2 ^ 33 + q.master.toNat)

/-- The second body flit of the control form (R77). -/
def kenCtlFlit (q : KArgs) : Flit :=
  BitVec.ofNat 64 (q.n.toNat * 2 ^ 48 + q.m.toNat * 2 ^ 32 + q.leash.toNat * 2 ^ 24 + q.tmo.toNat * 2 ^ 16
    + b2n q.wait * 2 ^ 15 + b2n q.ahead * 2 ^ 14 + q.ctag.toNat)

/-- The first body flit of a KEN_RSP (R78). -/
def kenRspFlit (r : KRsp) : Flit :=
  BitVec.ofNat 64 ((statusCode r.status).toNat * 2 ^ 56 + kopCode r.op * 2 ^ 51 + b2n r.flag * 2 ^ 48
    + r.grant.toNat * 2 ^ 32 + r.aux.toNat)

/-- The body of a WHISTLE (R91). -/
def whistleFlit (c : Cause) (r : KRsp) : Flit :=
  BitVec.ofNat 64 ((statusCode r.status).toNat * 2 ^ 56 + causeCode c * 2 ^ 53 + r.grant.toNat * 2 ^ 32
    + Master.core r.master % 64)

/-- The first body flit of an ARRIVE (R121). -/
def arriveFlit (bar gen seg : Nat) (last : Bool) (ncl nlost pepoch : Nat) (st : Status) : Flit :=
  BitVec.ofNat 64 (bar * 2 ^ 48 + gen * 2 ^ 40 + seg * 2 ^ 34 + b2n last * 2 ^ 33 + ncl * 2 ^ 26 + nlost * 2 ^ 19
    + pepoch * 2 ^ 8 + (statusCode st).toNat)

/-- The first body flit of a RELEASE (R122). -/
def releaseFlit (bar gen seg : Nat) (last : Bool) (wave nlost : Nat) (st : Status) : Flit :=
  BitVec.ofNat 64 (bar * 2 ^ 48 + gen * 2 ^ 40 + seg * 2 ^ 34 + b2n last * 2 ^ 33 + wave * 2 ^ 29 + nlost * 2 ^ 16
    + (statusCode st).toNat)

/-- The CSN verdict flit (R214). -/
def verdictFlit (v : Verdict) : Flit :=
  BitVec.ofNat 64 (v.zrow.toNat * 2 ^ 48 + v.zcol.toNat * 2 ^ 32 + v.ntile.toNat * 2 ^ 12 + v.nbad.toNat * 2 ^ 4
    + b2n v.nanr * 8 + b2n v.lost * 4 + b2n v.low * 2 + b2n v.sus)

/-- The two hub verdict flits (R215). -/
def hubVerdictFlits (v : HubVerdict) : Flit × Flit :=
  (BitVec.ofNat 64 (v.zrow.toNat * 2 ^ 48 + v.zcol.toNat * 2 ^ 32 + v.mask.toNat / 2 ^ 64),
   BitVec.ofNat 64 (v.mask.toNat % 2 ^ 64))

/-- The body of a TICK_NOTE (R169). -/
def tickNoteFlit (n : TickNote) : Flit :=
  BitVec.ofNat 64 (n.tick.toNat * 2 ^ 32 + b2n n.pch * 2 ^ 31 + b2n n.lvl * 2 ^ 30 + n.per.toNat)

/-- The body of a RESET_NOTE (R389). -/
def resetNoteFlit (n : ResetNote) : Flit :=
  let k := match n.kind with | .core => 0 | .cluster => 1 | .function => 2 | .contain => 3
  BitVec.ofNat 64 (k * 2 ^ 61 + n.newEp.toNat * 2 ^ 53 + n.cls.toNat * 2 ^ 45 + n.func.val * 2 ^ 39 + n.master.toNat)

/-- The body of an ABORT (R390). -/
def abortFlit (m : AbortMsg) : Flit :=
  BitVec.ofNat 64 (m.func.val * 2 ^ 58 + m.reason.toNat * 2 ^ 55 + (statusCode m.stat).toNat)

/-- The body of an ALERT_NOTE (R204): its CAUSE is 0, reg_alert_n. -/
def alertNoteFlit (n : AlertNote) : Flit :=
  BitVec.ofNat 64 (b2n n.asrt * 2 ^ 63 + n.cause.toNat * 2 ^ 60 + n.opb.toNat * 2 ^ 57 + n.time.toNat)

/-- The body of a TELEM: two flits, and the two of the cluster rows where DRP is not 0 (R186). -/
def telemFlits (t : Telem) : List Flit :=
  let row (i : Nat) : Nat := ((t.rows[i]?).getD 0).toNat
  let four (i : Nat) : Flit := BitVec.ofNat 64 (row i * 2 ^ 48 + row (i + 1) * 2 ^ 32 + row (i + 2) * 2 ^ 16 + row (i + 3))
  [BitVec.ofNat 64 (t.pavg.toNat * 2 ^ 48 + t.ipk.toNat * 2 ^ 32 + t.vout.toNat * 2 ^ 20 + t.opf.toNat * 2 ^ 17
      + b2n t.alr * 2 ^ 16 + t.seq.toNat),
    BitVec.ofNat 64 (t.step.toNat * 2 ^ 52 + t.slew.toNat * 2 ^ 40 + t.tmax.toNat * 2 ^ 28 + t.tavg.toNat * 2 ^ 16
      + t.drp.toNat)]
    ++ (if t.drp = 0 then [] else [four 0, four 4])

/-- The pairs of bound barriers of a PITCH, two entries a flit, the lower half first (R255). -/
def boundFlits : List (BitVec 3 × BarIx) → List Flit
  | [] => []
  | [a] => [BitVec.ofNat 64 (a.1.toNat * 2 ^ 29 + a.2.toNat)]
  | a :: b :: t =>
    BitVec.ofNat 64 ((b.1.toNat * 2 ^ 29 + b.2.toNat) * 2 ^ 32 + a.1.toNat * 2 ^ 29 + a.2.toNat) :: boundFlits t

/-- The body of a PITCH (R255). -/
def pitchFlits (m : PitchMsg) : List Flit :=
  let bar (l : List BarIx) (i : Nat) : Nat := ((l[i]?).getD 0).toNat
  [BitVec.ofNat 64 (m.func.val * 2 ^ 58 + m.plid.toNat * 2 ^ 47 + m.rpl.toNat * 2 ^ 45 + m.phases.length * 2 ^ 41
      + b2n m.cmt * 2 ^ 40 + m.bounds.length * 2 ^ 34 + m.tick.toNat),
    BitVec.ofNat 64 (m.heel.toNat * 2 ^ 48 + m.commit.toNat * 2 ^ 32 + m.step.toNat)]
    ++ (m.phases.zip m.gops).flatMap (fun p =>
      [BitVec.ofNat 64 (p.2.toNat * 2 ^ 61 + p.1.length * 2 ^ 58 + bar p.1 0 * 2 ^ 16 + bar p.1 1),
        BitVec.ofNat 64 (bar p.1 2 * 2 ^ 48 + bar p.1 3 * 2 ^ 32 + bar p.1 4 * 2 ^ 16 + bar p.1 5)])
    ++ boundFlits m.bounds

/-- The load verdict flit (R428). -/
def loadVerdictFlit (v : LoadVerdict) : Flit := BitVec.ofNat 64 (v.crc.toNat * 2 ^ 32 + v.npkt.toNat * 2 ^ 8 + b2n v.bad)

/-- The first body flit of a LOAD_MC or LOAD_UC (R65). -/
def loadFlit (p : LoadPkt) : Flit :=
  BitVec.ofNat 64 (p.func.val * 2 ^ 58 + p.seq.toNat * 2 ^ 26 + p.addr.toNat)

/-- Request LEN and reply LEN of an operation (R78). -/
def kopReqLen : KOp → Nat
  | .cas => 3
  | .load | .semRead | .tokRead | .lockRel | .lockConfirm | .lockCancel | .lockRead => 1
  | _ => 2

def kopRspLen : KOp → Nat
  | .load | .swap | .cas | .add | .and | .or | .xor | .umax | .umin | .smax | .smin | .semRead | .tokRead | .lockRead => 2
  | _ => 1

/-- Whether the second body flit of an operation's request is the control form, which alone has a WAIT bit (R77, R78). -/
def hasCtl : KOp → Bool
  | .semWait | .semSignal | .tokTake | .tokReturn | .lockAcq | .lockRenew | .withdraw => true
  | _ => false

/-- The body of a KEN_REQ, of the LEN that its operation has; a return of a grant sends LOCK_REL with its second flit
(R77, R78, R103). -/
def kenReqBody (op : KOp) (q : KMsg) : List Flit :=
  kenReqFlit op q ::
    (if q.args.ret && op == .lockRel then [kenCtlFlit q.args]
    else if kopReqLen op = 1 then []
    else if hasCtl op then [kenCtlFlit q.args]
    else if kopReqLen op = 3 then [q.args.a, q.args.b] else [q.args.a])

/-- The body of a KEN_RSP: RESULT follows where the operation has one (R78). -/
def kenRspBody (r : KRsp) : List Flit := kenRspFlit r :: (if kopRspLen r.op = 2 then [r.result] else [])

/-- The first body flit of a LOG (R401). -/
def logFlit (m : LogMsg) : Flit :=
  BitVec.ofNat 64 (m.cls.toNat * 2 ^ 56 + unitCode m.uid * 2 ^ 32 + m.sev.toNat * 2 ^ 29 + m.perm.toNat * 2 ^ 27
    + m.func.toNat * 2 ^ 21 + b2n m.fv * 2 ^ 20 + m.act.toNat * 2 ^ 16 + m.cnt.toNat)

/-- Whether a request carries WAIT = 1: only a control form has the bit (R77). -/
def carriesWait (op : KOp) (q : KArgs) : Bool := q.wait && hasCtl op

/-! ### Entry and record words -/

def kindCode : Kind → Nat
  | .free => 0 | .semaphore => 1 | .tokenPool => 2 | .atomicWord => 3 | .lock => 4 | .system => 5

def lockStCode : LockSt → Nat
  | .free => 0 | .held => 1 | .heldAhead => 2

/-- WHEAD and WTAIL of an entry's queue (R74, R75): 0 where it is empty. -/
def KEntry.whead (e : KEntry) : Nat := (e.queue.head?.map (·.idx)).getD 0
def KEntry.wtail (e : KEntry) : Nat := (e.queue.getLast?.map (·.idx)).getD 0

/-- The 128-bit kennel entry of R74. -/
def kentryWord (e : KEntry) : BitVec 128 :=
  let top := kindCode e.kind * 2 ^ 124 + e.func.val * 2 ^ 118
  match e.kind with
  | .free => 0
  | .semaphore | .tokenPool =>
    BitVec.ofNat 128 (top + e.queue.length * 2 ^ 104 + e.whead * 2 ^ 91 + e.wtail * 2 ^ 78 + e.limit.toNat * 2 ^ 32
      + e.count.toNat)
  | .atomicWord | .system => BitVec.ofNat 128 (top + e.value.toNat)
  | .lock =>
    let lscan := match e.leash with | .scan => 1 | _ => 0
    let lcmp := match e.leash with | .comparator i => i | _ => 0
    BitVec.ofNat 128 (top + lockStCode e.st * 2 ^ 116 + b2n e.abnd * 2 ^ 115 + b2n e.phn * 2 ^ 114
      + b2n (e.leash != .none) * 2 ^ 113 + lscan * 2 ^ 112 + lcmp * 2 ^ 106 + e.queue.length * 2 ^ 92 + e.whead * 2 ^ 79
      + e.wtail * 2 ^ 66 + e.owner.toNat * 2 ^ 33 + e.deadline.toNat * 2)

/-- A function number in six bits. -/
def fnOfNat (n : Nat) : Func := ⟨n % 64, Nat.mod_lt _ (by decide)⟩

/-- A kennel entry as its 128-bit word gives it, with no waiter and no running leash (R378: a carried entry has none). -/
def kentryOf (w : BitVec 128) : KEntry :=
  let n := w.toNat
  let f := fnOfNat (bits n 118 6)
  match bits n 124 4 with
  | 1 => { KEntry.init with kind := .semaphore, func := f, limit := BitVec.ofNat 32 (bits n 32 32), count := BitVec.ofNat 32 n }
  | 2 => { KEntry.init with kind := .tokenPool, func := f, limit := BitVec.ofNat 32 (bits n 32 32), count := BitVec.ofNat 32 n }
  | 3 => { KEntry.init with kind := .atomicWord, func := f, value := BitVec.ofNat 64 n }
  | 4 => { KEntry.init with
      kind := .lock, func := f, abnd := bit n 115, phn := bit n 114, owner := BitVec.ofNat 33 (bits n 33 33),
      st := if bits n 116 2 = 1 then .held else if bits n 116 2 = 2 then .heldAhead else .free }
  | 5 => { KEntry.init with kind := .system, func := f, value := BitVec.ofNat 64 n }
  | _ => KEntry.init

/-- The 128-bit CSN barrier entry of R113. -/
def barEntryWord (e : BarEntry) : BitVec 128 :=
  BitVec.ofNat 128 (e.mode.toNat * 2 ^ 126 + e.bar.toNat * 2 ^ 108 + e.gen.toNat * 2 ^ 100 + e.exp.toNat * 2 ^ 92
    + e.arr.toNat * 2 ^ 84 + e.early.toNat * 2 ^ 76 + (statusCode e.rstat).toNat * 2 ^ 68 + e.rgen.toNat * 2 ^ 60
    + b2n e.psn * 2 ^ 59 + e.waitm.toNat)

/-- The 128-bit field record of R114. -/
def fieldRecWord (r : FieldRec) : BitVec 128 :=
  let st := match r.st with | .idle => 0 | .gather => 1 | .armed => 2 | .sent => 3
  BitVec.ofNat 128 (r.mem.toNat * 2 ^ 32 + st * 2 ^ 30 + b2n (r.timer != .none) * 2 ^ 29 + r.exp * 2 ^ 22 + r.arr * 2 ^ 15
    + r.gen.toNat * 2 ^ 7 + b2n r.psn * 2 ^ 6)

def rootStCode : RootSt → Nat
  | .free => 0 | .idle => 1 | .gather => 2 | .armed => 3 | .deciding => 4

/-- The 256-bit pack root table record of R115. -/
def rootRecWord (r : RootRec) : BitVec 256 :=
  BitVec.ofNat 256 (r.mfs.toNat * 2 ^ 172 + rootStCode r.st * 2 ^ 165 + b2n r.auto * 2 ^ 164 + r.scope.toNat * 2 ^ 162
    + r.func.val * 2 ^ 156 + r.pepoch.toNat * 2 ^ 148 + r.gen.toNat * 2 ^ 140 + r.fexp * 2 ^ 133 + r.farr * 2 ^ 126
    + r.ncl * 2 ^ 113 + r.nlost * 2 ^ 100 + (statusCode r.wstat).toNat * 2 ^ 92 + r.tmo.toNat * 2 ^ 84
    + r.payload.toNat * 2 ^ 52 + r.role.toNat * 2 ^ 50)

/-- The commit record of R222. -/
def cmtRecordWord (f : Nat) (x : Fn) : BitVec 128 :=
  let cst := match x.cst with
    | .idle => 0 | .running => 1 | .deciding => 2 | .suspect => 3 | .replaying => 4 | .failed => 5 | .poisoned => 6
  BitVec.ofNat 128 (5 * 2 ^ 124 + f * 2 ^ 118 + cst * 2 ^ 115 + x.rpl.toNat * 2 ^ 113 + x.subs.length * 2 ^ 106
    + x.ckpt.toNat * 2 ^ 64 + x.cep.toNat * 2 ^ 32 + x.step.toNat)

/-! ### The payload descriptor (R137, R143) -/

def pdFmt (d : BitVec 32) : Nat := bits d.toNat 28 4
def pdOp (d : BitVec 32) : Nat := bits d.toNat 25 3
def pdRnd (d : BitVec 32) : Bool := bit d.toNat 24
def pdSide (d : BitVec 32) : Bool := bit d.toNat 23
def pdLanes (d : BitVec 32) : Nat := bits d.toNat 16 7
def pdBuf (d : BitVec 32) : Nat := bits d.toNat 0 11

/-- Bits of one element of a format. -/
def fmtBits (f : Nat) : Nat :=
  match f with
  | 0 => 64 | 1 => 32 | 2 => 16 | 3 => 16 | 4 => 8 | 5 => 8 | 6 => 4 | 7 => 8 | 8 => 4 | 9 => 32 | 10 => 64 | _ => 8

def isMx (f : Nat) : Bool := f == 7 || f == 8

/-- The largest LANES of a pairing; 0 where the pairing is not legal (R143). -/
def maxLanes (fmt op : Nat) : Nat :=
  let logic := op == 4 || op == 5 || op == 6
  if fmt > 10 || op > 7 then 0
  else if isMx fmt then (if op == 0 then 64 else 0)
  else if logic && fmt < 9 then 0
  else if op == 3 then (if fmt == 0 then 4 else if fmt == 10 then 16 else 32)
  else match fmt with
    | 0 => 4 | 1 => 32 | 2 => 32 | 3 => 64 | 4 => 64 | 5 => 64 | 6 => 64 | 9 => 64 | _ => 32

/-- Bytes that the elements of a descriptor's payload take, with MX scales or ARGMAX indices. -/
def payloadSpan (fmt op lanes : Nat) : Nat :=
  let eb := (lanes * fmtBits fmt + 7) / 8
  if isMx fmt then eb + lanes / 32 else if op == 3 then 128 + 4 * lanes else eb

/-- Bytes that the result's lanes take: as the payload, but 4-byte counts for COUNT_NZ (R143). -/
def resultSpan (fmt op lanes : Nat) : Nat := if op == 7 then 4 * lanes else payloadSpan fmt op lanes

/-- The bytes of a region that a descriptor uses, as offsets and lengths: elements with scales or counts, ARGMAX indices
from byte 128, the side word at 248 (R140, R143). -/
def regionPieces (d : BitVec 32) (ebits : Nat) : List (Nat × Nat) :=
  let eb := (pdLanes d * ebits + 7) / 8
  (if isMx (pdFmt d) then [(0, eb + pdLanes d / 32)]
    else if pdOp d = 3 then [(0, eb), (128, 4 * pdLanes d)] else [(0, eb)])
    ++ (if pdSide d then [(248, 8)] else [])

/-- The used bytes of the payload region (R140), and of the result region, whose COUNT_NZ lanes take 4 bytes (R143). -/
def payPieces (d : BitVec 32) : List (Nat × Nat) := regionPieces d (fmtBits (pdFmt d))
def resPieces (d : BitVec 32) : List (Nat × Nat) := regionPieces d (if pdOp d = 7 then 32 else fmtBits (pdFmt d))

/-- The bytes of an image that its pieces name, one piece after the other. -/
def takePieces (ps : List (Nat × Nat)) (img : List Byte) : List Byte := ps.flatMap (fun p => sliceAt img p.1 p.2)

/-- Bytes as 64-bit flits, the last one filled with 0; `n` bounds their number. -/
def flitsOf : Nat → List Byte → List Flit
  | 0, _ => []
  | n + 1, bs => if bs = [] then [] else BitVec.ofNat 64 (leNat (bs.take 8)) :: flitsOf n (bs.drop 8)

/-- The window of a generation (R139). -/
def windowAt (d : BitVec 32) (g : Byte) : Nat := pdBuf d * 2048 + 1024 * (g.toNat % 2)

/-- Whether a descriptor's encoding is a reserved one: a FMT of 0xB-0xF or an OP outside the pairings (R137). -/
def pdReserved (d : BitVec 32) : Bool := pdLanes d != 0 && maxLanes (pdFmt d) (pdOp d) == 0

/-- Whether a descriptor of a legal pairing lies outside its limits (R137). -/
def pdOutside (d : BitVec 32) : Bool :=
  let l := pdLanes d
  l != 0 && (pdBuf d > 1535 || l > maxLanes (pdFmt d) (pdOp d) || (isMx (pdFmt d) && !(l == 32 || l == 64))
    || (pdSide d && (payloadSpan (pdFmt d) (pdOp d) l > 248 || resultSpan (pdFmt d) (pdOp d) l > 248)))

/-! ### Single-precision comparisons of the residual records (R211, R214) -/

def f32Nan (v : BitVec 32) : Bool := bits v.toNat 23 8 == 255 && bits v.toNat 0 23 != 0
def f32Inf (v : BitVec 32) : Bool := bits v.toNat 23 8 == 255 && bits v.toNat 0 23 == 0
/-- A key that orders the values that are no NaN. -/
def f32Key (v : BitVec 32) : Int := if bit v.toNat 31 then -((bits v.toNat 0 31 : Nat) : Int) else (bits v.toNat 0 31 : Nat)
def f32Max (a b : BitVec 32) : BitVec 32 := if f32Key a < f32Key b then b else a

/-- An F32 value as BF16 rounded toward +∞ (R214); a NaN gives the canonical NaN of R152. -/
def bf16Up (v : BitVec 32) : BitVec 16 :=
  if f32Nan v then 0x7FC0
  else if bits v.toNat 0 16 != 0 && !bit v.toNat 31 then BitVec.ofNat 16 (v.toNat / 65536 + 1)
  else BitVec.ofNat 16 (v.toNat / 65536)

/-- The tolerance in use: a value below 1.0, or a NaN, is used as 1.0 (R241). -/
def tolUsed (t : BitVec 32) : BitVec 32 := if f32Nan t || f32Key t < 0x3F800000 then 0x3F800000 else t

/-- Clock of an operating point, in tenths of a GHz. -/
def opFreq (op : Nat) : Nat :=
  match op with
  | 0 => 30 | 1 => 27 | 2 => 24 | 3 => 21 | 4 => 18 | 5 => 15 | 6 => 12 | _ => 9

end Sys2Proof.Machine
end

