-- ==== Sys2Proof/Machine/Recipe.lean ====
section
/-! DEFINITION. The recipe image (R418-R421), the recipe keys (R443, R444), and the reset values of set-up registers that
the recipe in force gives. -/

namespace Sys2Proof.Machine

open Sys2Proof

/-! ### The keys of register fields (R443) -/

/-- The registers with a recipe key. -/
inductive RReg where
  | period | ctrl | thr | limit | idle | therm | didt | rcv | cap | cmtCtrl | cmtTol | seqCtrl | ka | rmod | mgr | mbx
  | spnCtrl | errCtrl | fcfg
  deriving DecidableEq, Repr

/-- One row of Table - Recipe keys of register fields: key, register, lowest bit, width, whether the field is wafer-wide,
the base value, and the largest value that is no reserved encoding. -/
structure KeyField where
  key : Nat
  reg : RReg
  lo : Nat
  w : Nat
  wafer : Bool
  base : Nat
  top : Nat
  deriving DecidableEq, Repr

def keyField (key : Nat) (reg : RReg) (lo w : Nat) (wafer : Bool) (base : Nat) : KeyField :=
  ⟨key, reg, lo, w, wafer, base, 2 ^ w - 1⟩

def keysTick : List KeyField :=
  [keyField 0x0300 .period 0 27 true 500000, keyField 0x0301 .ctrl 8 8 true 0x10, keyField 0x0302 .ctrl 0 1 true 0,
   keyField 0x0310 .thr 4 8 false 0x10, ⟨0x0311, .thr, 0, 2, false, 0, 2⟩]

def keysKiln : List KeyField :=
  [keyField 0x0400 .limit 16 16 true 32000, keyField 0x0401 .limit 0 12 true 450, keyField 0x0402 .idle 0 12 true 1000,
   keyField 0x0403 .therm 16 8 true 105, keyField 0x0404 .therm 8 8 true 95, keyField 0x0405 .therm 0 8 true 5,
   keyField 0x0406 .didt 16 16 true 256, keyField 0x0407 .didt 8 8 true 0x40, keyField 0x0408 .rcv 24 3 true 2,
   keyField 0x0409 .rcv 16 8 true 10, keyField 0x040A .rcv 8 8 true 3, keyField 0x040B .rcv 0 8 true 4,
   keyField 0x0410 .cap 28 4 false 0, keyField 0x0411 .cap 24 4 false 4, keyField 0x0412 .cap 0 16 false 0]

def keysStep : List KeyField :=
  [keyField 0x0500 .cmtCtrl 12 12 false 0, keyField 0x0501 .cmtCtrl 4 2 false 2, keyField 0x0502 .cmtCtrl 3 1 false 1,
   ⟨0x0503, .cmtCtrl, 0, 2, false, 0, 1⟩, keyField 0x0504 .cmtTol 0 32 false 0x40800000,
   keyField 0x0600 .seqCtrl 8 8 false 0x40, keyField 0x0601 .ka 16 16 true 0x40, keyField 0x0602 .ka 0 16 true 0x10]

def keysHost : List KeyField :=
  [keyField 0x0700 .rmod 24 8 false 1, keyField 0x0701 .rmod 0 16 false 0, keyField 0x0800 .mgr 0 11 true 0,
   keyField 0x0810 .mbx 0 11 false 0, keyField 0x0900 .spnCtrl 16 5 true 0x1F, keyField 0x0901 .spnCtrl 0 11 true 0,
   keyField 0x0A00 .errCtrl 6 11 true 0, keyField 0x0A10 .fcfg 11 1 false 0, keyField 0x0A11 .fcfg 0 11 false 0]

def keyFields : List KeyField := keysTick ++ keysKiln ++ keysStep ++ keysHost

/-- The reset value in force of one field of function f; f is 0 for a wafer-wide field. -/
def State.keyVal (s : State) (k : KeyField) (f : Nat) : Nat :=
  match tget none s.bru.rv (k.key * 64 + (if k.wafer then 0 else f)) with
  | some v => v.toNat
  | none => k.base

/-- The reset value of a register of function f under the recipe in force (R419). VEC of VSF_VFN_MBX stands in bits
[10:0]. -/
def State.regReset (s : State) (r : RReg) (f : Nat) : Reg :=
  (keyFields.filter (fun k => k.reg == r)).foldl (fun (v : Reg) k => setBits v k.lo k.w (s.keyVal k f)) 0

/-! ### The image (R418) -/

def rcpMagic (img : List Byte) : Nat := fieldAt img 60 4
def rcpVersion (img : List Byte) : Nat := fieldAt img 58 2
def rcpNent (img : List Byte) : Nat := fieldAt img 56 2
def rcpSeq (img : List Byte) : Nat := fieldAt img 52 4
def rcpCrc (img : List Byte) : Nat := fieldAt img 0 4

/-- CERR of an image: 0 where it is valid, 1 length, 2 MAGIC or VERSION, 3 CRC (R420, R433). -/
def recipeErr (img : List Byte) : Nat :=
  if 32760 < rcpNent img ∨ img.length ≠ 64 + 8 * rcpNent img then 1
  else if rcpMagic img ≠ 0x52C19E07 ∨ rcpVersion img ≠ 1 then 2
  else if (crc32 (img.drop 4)).toNat ≠ rcpCrc img then 3
  else 0

/-- The image as it is stored: SEQ written, the CRC recomputed (R420). -/
def recipeStored (img : List Byte) (seq : Nat) : List Byte :=
  let body := (img.drop 4).take 48 ++ leBytes 4 seq ++ img.drop 56
  leBytes 4 (crc32 body).toNat ++ body

/-- The entries in image order. -/
def recipeEntries (img : List Byte) : List RecipeEnt :=
  (List.range (rcpNent img)).map (fun i =>
    { key := BitVec.ofNat 16 (fieldAt img (70 + 8 * i) 2), sel := BitVec.ofNat 8 (fieldAt img (69 + 8 * i) 1),
      val := BitVec.ofNat 32 (fieldAt img (64 + 8 * i) 4) })

/-! ### Applying entries (R419, R421, R444) -/

/-- An entry of a register field: none where it is ignored. -/
def applyField (b : Bru) (k : KeyField) (e : RecipeEnt) : Option Bru :=
  let v := e.val.toNat % 2 ^ k.w
  let sel := e.sel.toNat
  let put (t : Tbl (Option (BitVec 32))) (f : Nat) := tset none t (k.key * 64 + f) (some (BitVec.ofNat 32 v))
  if k.top < v then none
  else if sel = 0xFF then
    some { b with rv := if k.wafer then put b.rv 0 else (List.range 64).foldl put b.rv }
  else if k.wafer ∨ 0x3F < sel ∨ (k.key = 0x0810 ∧ sel = 0) then none
  else some { b with rv := put b.rv sel }

/-- One entry applied to the reset values, the keys outside the registers and ρ; an ignored one is counted. -/
def applyEntry (st : Bru × List Q) (e : RecipeEnt) : Bru × List Q :=
  let (b, rho) := st
  let bad := ({ b with nign := satInc b.nign }, rho)
  let key := e.key.toNat
  let wide := e.sel.toNat == 0xFF
  match keyFields.find? (fun k => k.key == key) with
  | some k => match applyField b k e with | some b' => (b', rho) | none => bad
  | none =>
    if !wide then bad
    else if 0x1000 ≤ key ∧ key ≤ 0x1007 then (b, rho.set (key - 0x1000) (mkQ (e.val.toNat : Int) 65536))
    else if 0x1010 ≤ key ∧ key ≤ 0x1018 then
      ({ b with thresholds := b.thresholds.set (key - 0x1010) (bits e.val.toNat 16 16, bits e.val.toNat 0 16) }, rho)
    else if key = 0x1019 then ({ b with flitLim := e.val.toNat }, rho)
    else if key = 0x1020 then ({ b with scrub := e.val.toNat }, rho)
    else bad

/-- The recipe in force: the valid slot with the higher SEQ, and its number as VSF_BRU_STAT.RCP gives it. -/
def Cask.recipe (c : Cask) : Nat × List Byte :=
  let ok (r : Option RecipeSlot) : Bool := match r with | some x => recipeErr x.img == 0 | none => false
  match ok c.rcp0, ok c.rcp1, c.rcp0, c.rcp1 with
  | true, true, some a, some b => if a.seq.toNat < b.seq.toNat then (2, b.img) else (1, a.img)
  | true, false, some a, _ => (1, a.img)
  | false, true, _, some b => (2, b.img)
  | _, _, _, _ => (0, [])

/-! ### Register reset at events (R392, R441, R446) -/

/-- The register part of a function re-initialisation (Table - Function set). MODE is kept. -/
def State.resetFnRegs (s : State) (f : Nat) : State :=
  let cc := s.regReset .cmtCtrl f
  let ct := s.regReset .cmtTol f
  let sc := s.regReset .seqCtrl f
  let mv := s.regReset .mbx f
  s.updFn f (fun x => { x with
    str := 0, ovr := 0, acc := 0, coolCnt := 0, cmtCtrl := setBits cc 0 2 (bits x.cmtCtrl.toNat 0 2), cmtTol := ct,
    cmtCnt := 0, seqCtrl := sc, seqCnt := 0, evr := 0, deny := 0, mbxVec := BitVec.ofNat 11 mv.toNat, npend := false,
    mbxSt := .idle })

/-- A ring block at its reset values, for its function (R304, R443). -/
def State.freshRing (s : State) (f : Nat) : Ring := 
  { Ring.init with rmod := s.regReset .rmod f, rmodF := s.regReset .rmod f }

/-- Every set-up register at its reset value under the recipe in force (R446). -/
def State.resetAllRegs (s : State) : State :=
  let lim := s.regReset .limit 0
  let idl := s.regReset .idle 0
  let thm := s.regReset .therm 0
  let did := s.regReset .didt 0
  let rcv := s.regReset .rcv 0
  let vec := s.regReset .errCtrl 0
  let mv := s.regReset .mgr 0
  let s := { s with
    tick := { s.tick with period := s.regReset .period 0, ctrl := s.regReset .ctrl 0 }
    kiln := { s.kiln with limit := lim, idle := idl, therm := thm, didt := did, rcv := rcv, limitF := lim, idleF := idl,
                          thermF := thm, didtF := did, rcvF := rcv, ka := s.regReset .ka 0 }
    mgr := { s.mgr with vec := BitVec.ofNat 11 mv.toNat }
    span := { s.span with ctrl := s.regReset .spnCtrl 0 }
    err := { s.err with vec := BitVec.ofNat 11 (bits vec.toNat 6 11) } }
  forAll (List.range 64) (fun s f =>
    let thr := s.regReset .thr f
    let cap := s.regReset .cap f
    let cc := s.regReset .cmtCtrl f
    let ct := s.regReset .cmtTol f
    let fc := s.regReset .fcfg f
    (s.resetFnRegs f).updFn f (fun x => { x with
      thr := thr, cap := cap, capF := cap, cmtCtrl := cc, cmtCtrlF := cc, cmtTolF := ct, fcfg := fc })) s

end Sys2Proof.Machine
end

