-- ==== Sys2Proof/Machine/Mash.lean ====
section
/-! DEFINITION. The mash units: element formats, exact folding of contributions and partials, rounding, special values,
MX blocks, the result region and the lane flags (R143-R161). -/

namespace Sys2Proof.Machine

open Sys2Proof

/-! ### Element formats (R143, R144, R152) -/

/-- Exponent bits of a floating-point format code. -/
def fmtE (f : Nat) : Nat := match f with | 0 => 11 | 1 => 8 | 2 => 8 | 3 => 5 | 4 => 5 | 5 => 4 | 7 => 4 | _ => 2
/-- Fraction bits. -/
def fmtM (f : Nat) : Nat := match f with | 0 => 52 | 1 => 23 | 2 => 7 | 3 => 10 | 4 => 2 | 5 => 3 | 7 => 3 | _ => 1
/-- Whether the all-ones exponent holds infinities and NaNs, as in IEEE 754. -/
def fmtIeee (f : Nat) : Bool := f ≤ 4
def isFloat (f : Nat) : Bool := f ≤ 8
/-- How far below the format's least subnormal E0 of its accumulator lies, in powers of two: BF16 uses the F32
accumulator (R144). -/
def fmtGap (f : Nat) : Nat := if f = 2 then 16 else 0

/-- An element's value: a magnitude in units of the format's least subnormal. -/
inductive FVal where
  | nan
  | inf (neg : Bool)
  | fin (neg : Bool) (mag : Nat)
  deriving DecidableEq, Repr

/-- Decoding a floating-point element. -/
def decodeF (f n : Nat) : FVal :=
  let m := fmtM f
  let e := fmtE f
  let neg := bit n (e + m)
  let ex := bits n m e
  let fr := bits n 0 m
  if fmtIeee f && ex == 2 ^ e - 1 then (if fr = 0 then .inf neg else .nan)
  else if (f == 5 || f == 7) && ex == 15 && fr == 7 then .nan
  else if ex = 0 then .fin neg fr
  else .fin neg ((2 ^ m + fr) * 2 ^ (ex - 1))

/-- Encoding a magnitude of `u` least-subnormal units, which the format can hold. -/
def encodeF (f : Nat) (neg : Bool) (u : Nat) : Nat :=
  let m := fmtM f
  let s := b2n neg * 2 ^ (fmtE f + m)
  if u < 2 ^ m then s + u
  else
    let ex := Nat.log2 u - m + 1
    s + ex * 2 ^ m + (u / 2 ^ (ex - 1) - 2 ^ m)

/-- The canonical NaN, the encoding of +Inf, the largest finite value (R152). -/
def nanBits (f : Nat) : Nat :=
  match f with
  | 0 => 0x7FF8000000000000 | 1 => 0x7FC00000 | 2 => 0x7FC0 | 3 => 0x7E00 | 4 => 0x7E | 5 => 0x7F | 7 => 0x7F | _ => 0
def infBits (f : Nat) : Nat :=
  match f with
  | 0 => 0x7FF0000000000000 | 1 => 0x7F800000 | 2 => 0x7F80 | 3 => 0x7C00 | 4 => 0x7C | _ => 0
def maxBits (f : Nat) : Nat :=
  match f with
  | 0 => 0x7FEFFFFFFFFFFFFF | 1 => 0x7F7FFFFF | 2 => 0x7F7F | 3 => 0x7BFF | 4 => 0x7B | 5 => 0x7E | 7 => 0x7E | _ => 0x7

/-- The largest finite value in least-subnormal units. -/
def maxUnits (f : Nat) : Nat := match decodeF f (maxBits f) with | .fin _ m => m | _ => 0

/-- The order of R153 as a pair compared class first: −Inf, finite values with +0 above −0, +Inf, NaN; I32 signed, U64
unsigned. -/
def ordKey (f n : Nat) : Nat × Int :=
  if f = 9 then (1, (BitVec.ofNat 32 n).toInt)
  else if f = 10 then (1, (n : Int))
  else match decodeF f n with
    | .nan => (3, 0)
    | .inf false => (2, 0)
    | .inf true => (0, 0)
    | .fin false m => (1, ((2 * m + 1 : Nat) : Int))
    | .fin true m => (1, -((2 * m + 1 : Nat) : Int))

/-- An element stands below another in the order of R153. -/
def ordLt (f a b : Nat) : Bool :=
  let x := ordKey f a
  let y := ordKey f b
  decide (x.1 < y.1) || (x.1 == y.1 && decide (x.2 < y.2))

/-- Whether an element is neither +0 nor −0 (R153). -/
def nonZero (f n : Nat) : Bool :=
  if isFloat f then (match decodeF f n with | .fin _ 0 => false | _ => true) else n != 0

/-! ### Contributions and folds (R144-R146, R151, R153) -/

/-- Element i of a payload, as a number. -/
def elemAt (f : Nat) (p : List Byte) (i : Nat) : Nat :=
  if fmtBits f = 4 then bits (fieldAt p (i / 2) 1) (4 * (i % 2)) 4 else fieldAt p (i * (fmtBits f / 8)) (fmtBits f / 8)

/-- The E8M0 scale of a lane's block (R143). -/
def scaleOf (d : BitVec 32) (p : List Byte) (i : Nat) : Nat :=
  fieldAt p (pdLanes d * fmtBits (pdFmt d) / 8 + i / 32) 1

def Lane.zero : Lane :=
  { acc := 0, elem := 0, idx := 0, psn := false, nocand := false, negz := false, ninf := false, pinf := false, nan := false }

/-- A SUM contribution: the element's exact value in units of the accumulator's bit 0. -/
def sumLane (d : BitVec 32) (p : List Byte) (i : Nat) : Lane :=
  let f := pdFmt d
  let n := elemAt f p i
  if f = 9 then { Lane.zero with acc := (BitVec.ofNat 32 n).toInt }
  else if f = 10 then { Lane.zero with acc := (n : Int) }
  else
    let sc := if isMx f then scaleOf d p i else fmtGap f
    if isMx f && sc == 255 then { Lane.zero with nan := true }
    else match decodeF f n with
      | .nan => { Lane.zero with nan := true }
      | .inf true => { Lane.zero with ninf := true }
      | .inf false => { Lane.zero with pinf := true }
      | .fin neg m =>
        let v : Int := ((m * 2 ^ sc : Nat) : Int)
        { Lane.zero with acc := if neg then -v else v, negz := neg && m == 0 }

/-- One contribution of a lane. -/
def leafLane (d : BitVec 32) (p : List Byte) (i : Nat) : Lane :=
  let f := pdFmt d
  let n := elemAt f p i
  let isNan := isFloat f && (decodeF f n == .nan)
  match pdOp d with
  | 0 => sumLane d p i
  | 3 =>
    let ix := fieldAt p (128 + 4 * i) 4
    if ix = 0xFFFFFFFF then { Lane.zero with nocand := true, idx := 0xFFFFFFFF }
    else { Lane.zero with elem := BitVec.ofNat 64 n, idx := BitVec.ofNat 32 ix, nan := isNan }
  | 7 => { Lane.zero with elem := BitVec.ofNat 64 (b2n (nonZero f n)) }
  | 1 => { Lane.zero with elem := BitVec.ofNat 64 n, nan := isNan }
  | 2 => { Lane.zero with elem := BitVec.ofNat 64 n, nan := isNan }
  | _ => { Lane.zero with elem := BitVec.ofNat 64 n }

/-- The element that two lanes' folds keep. -/
def foldElem (d : BitVec 32) (a b : Lane) : BitVec 64 :=
  let f := pdFmt d
  match pdOp d with
  | 1 => if ordLt f a.elem.toNat b.elem.toNat then b.elem else a.elem
  | 2 => if ordLt f b.elem.toNat a.elem.toNat then b.elem else a.elem
  | 4 => a.elem &&& b.elem
  | 5 => a.elem ||| b.elem
  | 6 => a.elem ^^^ b.elem
  | 7 => a.elem + b.elem
  | _ => a.elem

/-- Whether lane b of an ARGMAX beats lane a: a greater value, or an equal value at a lower index (R153). -/
def argBeats (f : Nat) (a b : Lane) : Bool :=
  ordLt f a.elem.toNat b.elem.toNat
    || (ordKey f a.elem.toNat == ordKey f b.elem.toNat && decide (b.idx.toNat < a.idx.toNat))

/-- Folding two lanes: exact for every operation, and in any order (R145, R157). -/
def foldLane (d : BitVec 32) (a b : Lane) : Lane :=
  if pdOp d = 3 then
    let psn := a.psn || b.psn
    if a.nocand then { b with psn := psn }
    else if b.nocand then { a with psn := psn }
    else { (if argBeats (pdFmt d) a b then b else a) with psn := psn }
  else
    { acc := a.acc + b.acc, elem := foldElem d a b, idx := 0, psn := a.psn || b.psn, nocand := false,
      negz := a.negz && b.negz, ninf := a.ninf || b.ninf, pinf := a.pinf || b.pinf, nan := a.nan || b.nan }

/-- The partial of one contribution: its lanes and its side word. -/
def leafPartial (d : BitVec 32) (p : List Byte) (pois : Bool) : Partial :=
  { lanes := (List.range (pdLanes d)).map (fun i => { leafLane d p i with psn := pois })
    side := if pdSide d then BitVec.ofNat 64 (fieldAt p 248 8) else 0 }

/-- Folding two partials; an empty partial has folded nothing. -/
def foldPartial (d : BitVec 32) (a b : Partial) : Partial :=
  if a.lanes = [] then b
  else if b.lanes = [] then a
  else { lanes := (a.lanes.zip b.lanes).map (fun p => foldLane d p.1 p.2), side := a.side ||| b.side }

/-! ### Rounding (R148-R150) -/

/-- The key of the stochastic bits (R150). -/
def srKey (bar : BarIx) (pepoch seq : Byte) (step : BitVec 32) : BitVec 64 :=
  BitVec.ofNat 64 (bar.toNat * 2 ^ 48 + pepoch.toNat * 2 ^ 40 + seq.toNat * 2 ^ 32 + step.toNat)

/-- The stochastic bits of a lane (R150). -/
def srBits (key : BitVec 64) (lane : Nat) : BitVec 32 :=
  let z := key + BitVec.ofNat 64 (lane + 1) * 0x9E3779B97F4A7C15#64
  let z := (z ^^^ (z >>> 30)) * 0xBF58476D1CE4E5B9#64
  let z := (z ^^^ (z >>> 27)) * 0x94D049BB133111EB#64
  let z := z ^^^ (z >>> 31)
  BitVec.ofNat 32 (z.toNat / 2 ^ 32)

/-- A lane's result: its bits and its flags. -/
structure LaneRes where
  bits : Nat
  flags : Nat
  deriving DecidableEq, Repr

/-- Lane flag bits (R156). -/
def fEMPTY : Nat := 64
def fPSN : Nat := 32
def fNAN : Nat := 16
def fINV : Nat := 8
def fUNF : Nat := 4
def fOVF : Nat := 2
def fINX : Nat := 1

/-- Rounding a magnitude num / 2^sh, in least-subnormal units, to the format's significand, as if the exponent range were
unbounded above; `r` is the lane's stochastic value, or none for RNE. The answer is in units, with whether it is exact. -/
def roundUnits (f num sh : Nat) (r : Option (BitVec 32)) : Nat × Bool :=
  let u := num / 2 ^ sh
  let p := fmtM f + 1
  let q := if u = 0 then 0 else (Nat.log2 u + 1) - p
  let k := sh + q
  let t := num / 2 ^ k
  let rem := num % 2 ^ k
  if rem = 0 then (t * 2 ^ q, true)
  else
    let up := match r with
      | none => decide (2 ^ k < 2 * rem) || (2 * rem == 2 ^ k && t % 2 == 1)
      | some r => decide (2 ^ 32 ≤ rem * 2 ^ 32 / 2 ^ k + r.toNat)
    ((if up then t + 1 else t) * 2 ^ q, false)

/-- A rounded lane in a floating-point format: overflow, underflow, inexact (R148); `clamp` keeps an overflow at the
largest finite value, as E4M3, E2M1 and the MX elements do. -/
def roundLane (f : Nat) (neg : Bool) (num sh : Nat) (r : Option (BitVec 32)) (clamp : Bool) : LaneRes :=
  let x := roundUnits f num sh r
  if maxUnits f < x.1 then
    let s := b2n neg * 2 ^ (fmtE f + fmtM f)
    ⟨s + (if clamp || infBits f == 0 then maxBits f else infBits f), fOVF + fINX⟩
  else ⟨encodeF f neg x.1, (if x.2 then 0 else fINX) + (if !x.2 && decide (x.1 < 2 ^ fmtM f) then fUNF else 0)⟩

/-- The stochastic value of a lane, where the descriptor asks for it. -/
def srOf (d : BitVec 32) (key : BitVec 64) (i : Nat) : Option (BitVec 32) := if pdRnd d then some (srBits key i) else none

/-- A SUM lane's decision for the formats other than MX (R148, R151, R154). -/
def sumRes (d : BitVec 32) (key : BitVec 64) (i : Nat) (l : Lane) : LaneRes :=
  let f := pdFmt d
  if f = 9 then
    if l.acc < -(2 ^ 31 : Int) then ⟨0x80000000, fOVF⟩
    else if l.acc > (2 ^ 31 - 1 : Int) then ⟨0x7FFFFFFF, fOVF⟩
    else ⟨(BitVec.ofInt 32 l.acc).toNat, 0⟩
  else if f = 10 then
    if l.acc > ((2 ^ 64 - 1 : Nat) : Int) then ⟨2 ^ 64 - 1, fOVF⟩ else ⟨l.acc.toNat, 0⟩
  else if l.nan then ⟨nanBits f, fNAN⟩
  else if l.pinf && l.ninf then ⟨nanBits f, fNAN + fINV⟩
  else if l.pinf then ⟨infBits f, 0⟩
  else if l.ninf then ⟨infBits f + 2 ^ (fmtE f + fmtM f), 0⟩
  else if l.acc = 0 then ⟨if l.negz then 2 ^ (fmtE f + fmtM f) else 0, 0⟩
  else roundLane f (decide (l.acc < 0)) l.acc.natAbs (fmtGap f) (srOf d key i) false

/-- The scale byte of an MX block from its largest magnitude in accumulator units (R155). -/
def mxScale (f amax : Nat) : Nat :=
  if amax = 0 then 0
  else
    let sub := if f = 7 then 17 else 3
    Nat.min (Nat.log2 amax - sub) 254

/-- The lanes of one MX block (R155): the scale and each lane's result. -/
def mxBlock (d : BitVec 32) (key : BitVec 64) (b : Nat) (ls : List Lane) : Nat × List LaneRes :=
  let f := pdFmt d
  let amax := (ls.filter (fun l => !l.nan)).foldl (fun a l => Nat.max a l.acc.natAbs) 0
  if f = 8 && ls.any (·.nan) then (255, ls.map (fun _ => ⟨0, fNAN⟩))
  else
    let sc := if ls.all (·.nan) then 255 else mxScale f amax
    let res (p : Lane × Nat) : LaneRes :=
      let l := p.1
      if l.nan then ⟨nanBits f, fNAN⟩
      else if l.acc = 0 then ⟨if l.negz then 2 ^ (fmtE f + fmtM f) else 0, 0⟩
      else roundLane f (decide (l.acc < 0)) l.acc.natAbs sc (srOf d key (b * 32 + p.2)) true
    (sc, ls.zipIdx.map res)

/-- A lane's result for an operation other than an MX SUM (R151, R153). -/
def laneRes (d : BitVec 32) (key : BitVec 64) (i : Nat) (l : Lane) : LaneRes :=
  let f := pdFmt d
  match pdOp d with
  | 0 => sumRes d key i l
  | 3 => if l.nocand then ⟨0, fEMPTY⟩ else if l.nan then ⟨nanBits f, fNAN⟩ else ⟨l.elem.toNat, 0⟩
  | 1 => if l.nan then ⟨nanBits f, fNAN⟩ else ⟨l.elem.toNat, 0⟩
  | 2 => if l.nan then ⟨nanBits f, fNAN⟩ else ⟨l.elem.toNat, 0⟩
  | _ => ⟨l.elem.toNat, 0⟩

/-! ### The result region (R139, R141, R159) -/

/-- Padding a region to n bytes. -/
def padTo (n : Nat) (b : List Byte) : List Byte := (b ++ List.replicate (n - b.length) 0).take n

/-- Elements of a width in bits, little-endian, in lane order. -/
def packElems (w : Nat) : List Nat → List Byte
  | [] => []
  | a :: t =>
    if w = 4 then
      match t with
      | [] => [BitVec.ofNat 8 (a % 16)]
      | b :: t => BitVec.ofNat 8 (a % 16 + 16 * (b % 16)) :: packElems w t
    else leBytes (w / 8) a ++ packElems w t

/-- The lanes' results, with the scales of an MX SUM: bytes of the elements, bytes after them, flags. -/
def laneResults (d : BitVec 32) (key : BitVec 64) (ls : List Lane) : List LaneRes × List Nat :=
  if isMx (pdFmt d) then
    let b0 := mxBlock d key 0 (ls.take 32)
    if ls.length ≤ 32 then (b0.2, [b0.1])
    else
      let b1 := mxBlock d key 1 (ls.drop 32)
      (b0.2 ++ b1.2, [b0.1, b1.1])
  else (ls.zipIdx.map (fun p => laneRes d key p.2 p.1), [])

/-- Placing the side word at bytes 248-255 of a 256-byte region. -/
def withSide (d : BitVec 32) (side : BitVec 64) (b : List Byte) : List Byte :=
  if pdSide d then b.take 248 ++ leBytes 8 side.toNat else b

/-- The 256-byte result region and the lane flags of a released generation (R141, R151-R156, R159): poisoned, empty, or
rounded from the folded lanes. -/
def resultOf (d : BitVec 32) (key : BitVec 64) (p : Partial) (ncont : Nat) (pois : Bool) : List Byte × List Byte :=
  let n := pdLanes d
  if pois then (List.replicate 256 0, List.replicate n (BitVec.ofNat 8 fPSN))
  else if ncont = 0 || p.lanes = [] then
    let idx := if pdOp d = 3 then List.replicate (4 * n) 0xFF else []
    (withSide d 0 (padTo 256 (padTo 128 [] ++ idx)), List.replicate n (BitVec.ofNat 8 fEMPTY))
  else
    let r := laneResults d key p.lanes
    let w := if pdOp d = 7 then 32 else fmtBits (pdFmt d)
    let body := packElems w (r.1.map (·.bits)) ++ r.2.map (BitVec.ofNat 8)
    let body := if pdOp d = 3 then padTo 128 body ++ (p.lanes.flatMap (fun l => leBytes 4 l.idx.toNat)) else body
    (withSide d p.side (padTo 256 body), r.1.map (fun x => BitVec.ofNat 8 x.flags))

/-! ### The partial's side bytes and flits (R146) -/

/-- The side byte of a lane. -/
def sideByte (l : Lane) : Byte :=
  BitVec.ofNat 8 (b2n l.psn * 32 + b2n l.nocand * 16 + b2n l.negz * 8 + b2n l.ninf * 4 + b2n l.pinf * 2 + b2n l.nan)

/-- Flits of a lane's record (R144). -/
def laneFlits (d : BitVec 32) : Nat :=
  if pdOp d = 0 then
    match pdFmt d with
    | 0 => 34 | 1 => 5 | 2 => 5 | 7 => 5 | 8 => 5 | 10 => 2 | _ => 1
  else if pdOp d = 3 && (pdFmt d == 0 || pdFmt d == 10) then 2 else 1

/-- Q of R162: the flits of a partial. -/
def partialFlits (d : BitVec 32) : Nat := (pdLanes d + 7) / 8 + pdLanes d * laneFlits d + b2n (pdSide d)

end Sys2Proof.Machine
end

