-- ==== Sys2Proof/Machine/Route.lean ====
section
/-! DEFINITION. Routes of the sync mesh: the wafer-wide grid of routers, the negative-first turn model, hop counts of
clusters and hubs (R41, R58-R61). -/

namespace Sys2Proof.Machine

open Sys2Proof

/-! ### The grid (R41, R42) -/

/-- Grid row and column of a field: raster order over a grid 12 fields wide (R42; assumption 6, DESIGN CHOICE: the
specification gives the coordinates only through the distance table). -/
def gridRow (f : Nat) : Nat := f / 12
def gridCol (f : Nat) : Nat := f % 12

/-- Column and row of a cluster's router in the wafer-wide mesh of 144 × 56 routers: 12 × 8 routers a field (R41). -/
def meshX (c : Nat) : Nat := gridCol (fieldOf c) * 12 + colOf c
def meshY (c : Nat) : Nat := gridRow (fieldOf c) * 8 + rowOf c

/-- The cluster at a place of that mesh. -/
def clusterXY (x y : Nat) : Nat := (y / 8 * 12 + x / 12) * 128 + y % 8 * 12 + x % 12

/-- The routers of a field's row 0, to which its hub attaches (R41). -/
def row0 (f : Nat) : List Nat := (List.range 12).map (fun i => f * 128 + i)

def distance (a b : Nat) : Nat := (a - b) + (b - a)

/-- The mesh links of a router, by their IDs (R396). Direction 0 of a row-0 router leads to the hub. -/
def linksOfRouter (c : Nat) : List Nat :=
  let f := fieldOf c
  let at_ (f l d : Nat) : Nat := (f * 128 + l) * 4 + d
  let l := localOf c
  (if rowOf c = 0 then [at_ f l 0] else [at_ f (l - 12) 2])
    ++ (if colOf c < 11 ∨ gridCol f < 11 then [at_ f l 1] else [])
    ++ (if rowOf c < 7 ∨ gridRow f < 6 then [at_ f l 2] else [])
    ++ (if 0 < colOf c then [at_ f (l - 1) 1] else if 0 < gridCol f then [at_ (f - 1) (l + 11) 1] else [])
    ++ (if rowOf c = 0 ∧ 0 < gridRow f then [at_ (f - 12) (l + 84) 2] else [])

/-- A link that no route uses: down, or of a dead router (R58, R61). -/
def State.linkOut (s : State) (l : Nat) : Bool := (s.linkAt l).down || s.mesh.dead.contains (l / 4)

/-! ### Routes under the negative-first turn model (R58, R61)

Negative is toward a lower column or a lower row of the wafer-wide mesh (assumption 73, DEDUCED). A route makes its
negative hops first; after a positive hop it makes no negative one. -/

/-- The hops a message at a router may make next: `pos` says that it has made a positive one. -/
def State.meshNext (s : State) (pos : Bool) (c : Nat) : List (Bool × Nat) :=
  let x := meshX c
  let y := meshY c
  let go (ok : Bool) (l : Nat) (p : Bool) (q : Nat) : List (Bool × Nat) :=
    if ok && !s.linkOut l && !s.mesh.dead.contains q then [(p, q)] else []
  (if pos then []
    else go (decide (0 < x)) (clusterXY (x - 1) y * 4 + 1) false (clusterXY (x - 1) y)
      ++ go (decide (0 < y)) (clusterXY x (y - 1) * 4 + 2) false (clusterXY x (y - 1)))
    ++ go (decide (x < 143)) (c * 4 + 1) true (clusterXY (x + 1) y)
    ++ go (decide (y < 55)) (c * 4 + 2) true (clusterXY x (y + 1))

/-- Hops of the shortest route from a frontier to a router of `goal`; none where no route reaches one. -/
def State.meshSearch (s : State) (goal : Nat → Bool) : Nat → Nat → List (Bool × Nat) → List (Bool × Nat) → Option Nat
  | 0, _, _, _ => none
  | n + 1, d, front, seen =>
    if front.any (fun p => goal p.2) then some d
    else if front.isEmpty then none
    else
      let next := ((front.flatMap (fun p => s.meshNext p.1 p.2)).filter (fun p => !seen.contains p)).eraseDups
      State.meshSearch s goal n (d + 1) next (seen ++ next)

/-- Hops between two sets of routers; no such route has more than 400. -/
def State.meshDist (s : State) (src : List Nat) (goal : Nat → Bool) : Option Nat :=
  let front := (src.filter (fun c => !s.mesh.dead.contains c)).map (fun c => (false, c))
  s.meshSearch goal 400 0 front front

/-- A cluster's column is whole: its routers down to row 0 and the links between them and to the hub (R59). -/
def State.columnUp (s : State) (c : Nat) : Bool :=
  (List.range (rowOf c + 1)).all (fun r =>
    let m := fieldOf c * 128 + r * 12 + colOf c
    !s.mesh.dead.contains m && !(s.linkAt (if r = 0 then m * 4 else (m - 12) * 4 + 2)).down)

/-- A row-0 router of a field with its link to the hub in service. -/
def State.atHub (s : State) (f c : Nat) : Bool :=
  fieldOf c == f && rowOf c == 0 && !s.mesh.dead.contains c && !(s.linkAt (c * 4)).down

/-- Mesh hops from a cluster to the hub of its field: its column where that is whole, else the shortest route (R59). -/
def State.hopsToHub (s : State) (c : Nat) : Option Nat :=
  if s.columnUp c then some (rowOf c + 1) else (s.meshDist [c] (s.atHub (fieldOf c))).map (· + 1)

/-- Mesh hops from a field's hub to one of its clusters. -/
def State.hopsFromHub (s : State) (c : Nat) : Option Nat :=
  if s.columnUp c then some (rowOf c + 1)
  else (s.meshDist ((row0 (fieldOf c)).filter (s.atHub (fieldOf c))) (fun m => m == c)).map (· + 1)

/-- A cluster that has no route to or from its hub (R61). -/
def State.noRoute (s : State) (c : Nat) : Bool := (s.hopsToHub c).isNone || (s.hopsFromHub c).isNone

/-- Some router is dead, or some mesh link is down. -/
def State.meshHurt (s : State) : Bool := !s.mesh.dead.isEmpty || s.mesh.links.any (fun p => decide (p.1 < 65536) && p.2.down)

/-- Mesh hops between two hubs through row-0 routers of their fields (R59): one hop off the hub, one onto the other, and
those between the routers. -/
def State.hubMeshHops (s : State) (a b : Nat) : Option Nat :=
  if s.meshHurt then (s.meshDist ((row0 a).filter (s.atHub a)) (s.atHub b)).map (· + 2)
  else
    let dx := distance (gridCol a) (gridCol b)
    some (2 + 8 * distance (gridRow a) (gridRow b) + (if dx = 0 then 0 else 12 * dx - 11))

/-- The column route of a cluster, or the detour of its messages, leaves its hub: a message to its CSN finds an output
(R58). -/
def State.reachable (s : State) (c : Nat) : Bool := (s.hopsFromHub c).isSome

end Sys2Proof.Machine
end

