-- ==== Sys2Proof/Machine/Msg.lean ====
section
/-! DEFINITION. Messages of the sync mesh as flits: head flits, message types, bodies and trains (R44-R48, R65, R123, R146);
which message in flight may arrive next (R45, R57, R58). -/

namespace Sys2Proof.Machine

open Sys2Proof

/-! ### Head flits and message types -/

/-- The fields of a head flit (R45). -/
structure Head where
  vc : Nat
  type : Nat
  len : Nat
  mc : Bool
  pois : Bool
  dest : Nat
  src : Nat
  tag : Nat
  tepoch : Nat
  deriving DecidableEq, Repr

def Head.flit (h : Head) : Flit := headFlit h.vc h.type h.len h.mc h.pois h.dest h.src h.tag h.tepoch

/-- The virtual channel, the least and the largest LEN of each message type (R48); none for an absent TYPE code. -/
def typeRow (t : Nat) : Option (Nat × Nat × Nat) :=
  match t with
  | 0x02 => some (0, 0, 0)
  | 0x01 | 0x03 | 0x04 | 0x05 | 0x06 | 0x07 => some (0, 1, 1)
  | 0x10 | 0x11 | 0x15 => some (1, 1, 40)
  | 0x12 => some (1, 1, 3)
  | 0x13 => some (1, 1, 2)
  | 0x20 | 0x21 => some (2, 17, 17)
  | 0x22 => some (2, 1, 8)
  | 0x23 | 0x24 | 0x25 => some (2, 1, 40)
  | _ => none

/-- A head flit without a reserved LEN, VC or TYPE (R45), on the channel of its type. -/
def Head.ok (h : Head) : Bool :=
  match typeRow h.type with
  | some r => h.vc == r.1 && decide (r.2.1 ≤ h.len) && decide (h.len ≤ r.2.2)
  | none => false

/-! ### Bodies -/

/-- Segments of a payload: 39 flits a message (R123). -/
def chunks39 : Nat → List Flit → List (List Flit)
  | 0, p => [p]
  | n + 1, p => if p.length ≤ 39 then [p] else p.take 39 :: chunks39 n (p.drop 39)

/-- A train: the payload in segments, each after its first flit with SEG and LAST (R123). A level acts when the LAST segment
has arrived; the command of the arrival stands for that moment. -/
def trainOf (first : Nat → Bool → Flit) (payload : List Flit) : List (List Flit) :=
  let cs := chunks39 64 payload
  cs.zipIdx.map (fun p => first p.2 (p.2 + 1 == cs.length) :: p.1)

/-- A lane's record (R146): the accumulator least significant flit first, the element, the count, or element and index. -/
def laneRecord (d : BitVec 32) (l : Lane) : List Flit :=
  if pdOp d = 0 then
    let n := laneFlits d
    let v := (l.acc % (2 ^ (64 * n) : Nat)).toNat
    (List.range n).map (fun i => BitVec.ofNat 64 (v / 2 ^ (64 * i)))
  else if pdOp d = 3 then
    if laneFlits d = 2 then [l.elem, BitVec.ofNat 64 l.idx.toNat]
    else [BitVec.ofNat 64 (l.idx.toNat * 2 ^ 32 + l.elem.toNat % 2 ^ 32)]
  else [l.elem]

/-- The flits of a partial (R146): side flits, lane records, the side word. -/
def partialBody (d : BitVec 32) (p : Partial) : List Flit :=
  flitsOf 8 (p.lanes.map sideByte) ++ p.lanes.flatMap (laneRecord d) ++ (if pdSide d then [p.side] else [])

/-- The verdict flits that end an ARRIVE to a barrier in ROLE 1 (R214, R215, R428). -/
def csnVerdictFlits : CsnVerdict → List Flit
  | .none => []
  | .abft v => [verdictFlit v]
  | .load v => [loadVerdictFlit v]

/-- RELEASE: the result bytes that the descriptor uses, and the lane flags (R123, R141, R162). -/
def State.releaseTrain (s : State) (w : Nat) (r : Release) : List (List Flit) :=
  let d := (s.precAt r.bar.toNat).payload
  trainOf (fun seg last => releaseFlit r.bar.toNat r.gen.toNat seg last w r.nlost r.stat)
    (if pdLanes d = 0 then [] else flitsOf 41 (takePieces (resPieces d) r.res.bytes ++ r.res.flags))

/-- ARRIVE from a CSN: the used payload bytes, then the verdict flit (R121, R140, R214). -/
def State.arriveTrain (s : State) (a : CArrive) : List (List Flit) :=
  let d := (s.precAt a.bar.toNat).payload
  trainOf (fun seg last => arriveFlit a.bar.toNat a.gen.toNat seg last 1 0 a.pepoch.toNat (if a.pois then .poison else .ok))
    ((if pdLanes d = 0 then [] else flitsOf 33 (takePieces (payPieces d) a.body)) ++ csnVerdictFlits a.verd)

/-- ARRIVE from a hub: the partial, then the two verdict flits (R121, R146, R215). -/
def State.fieldTrain (s : State) (a : FArrive) : List (List Flit) :=
  let r := s.precAt a.bar.toNat
  trainOf (fun seg last => arriveFlit a.bar.toNat a.gen.toNat seg last a.ncl a.nlost a.pepoch.toNat a.stat)
    ((if pdLanes r.payload = 0 then [] else partialBody r.payload a.part)
      ++ (if r.role = 1 then [(hubVerdictFlits a.verd).1, (hubVerdictFlits a.verd).2] else []))

/-- The bodies of a message, one for each message of its train. Where the specification gives a body no layout (LINK_NOTE,
MGMT), it is one flit of 0 (assumption 68). -/
def State.bodies (s : State) : Msg → List (List Flit)
  | .kenReq _ _ op q => [kenReqBody op q]
  | .kenReqRoot _ _ op q => [kenReqBody op q]
  | .kenRsp _ r => [kenRspBody r]
  | .whistle _ _ c r => [[whistleFlit c r]]
  | .tickNote _ _ n => [[tickNoteFlit n]]
  | .edge _ => [[]]
  | .abort _ _ _ m => [[abortFlit m]]
  | .resetNote _ n => [[resetNoteFlit n]]
  | .alertNote _ n => [[alertNoteFlit n]]
  | .linkNote _ => [[0]]
  | .arrive _ _ a => s.arriveTrain a
  | .fieldArrive _ _ a => s.fieldTrain a
  | .release _ _ r => s.releaseTrain 0 r
  | .releaseCsn _ _ w r => s.releaseTrain w r
  | .pitch _ _ m => [pitchFlits m]
  | .proxy _ _ _ => [[0, 0]]
  | .loadMc _ p _ => [loadFlit p :: flitsOf 16 p.data]
  | .loadUc _ _ p => [loadFlit p :: flitsOf 16 p.data]
  | .telem _ t => [telemFlits t]
  | .log m => [[logFlit m, m.d1, m.d2]]
  | .mgmt _ _ _ => [[0]]
  | .routeLoad _ _ => [[0]]
  | .status _ _ => []
  | .sb _ _ => []

/-! ### Who sends to whom -/

/-- The unit address of the active root. -/
def State.rootUnit (s : State) : Nat := rootAddr s.rootField

/-- The unit that a core's or function's request leaves at on this wafer: the CSN, or the root for a ring-issued and for a
relayed one (R48, R367). -/
def State.masterUnit (s : State) (m : Master) : Nat :=
  if Master.isFn m || Master.wafer m != s.span.wid.toNat then s.rootUnit else clusterOf (Master.core m)

/-- The unit address of LOAD_MC's destination: one field, or 127 for every field (R46). -/
def mcDest (dest : List Nat) : Nat :=
  match dest with
  | [] => 0x3FFF
  | c :: t => if t.all (fun x => fieldOf x == fieldOf c) then hubAddr (fieldOf c) else 0x3FFF

/-- The head flit's fields, TYPE by TYPE (R45, R46, R48, R50); none for what does not travel on the mesh. -/
def State.headOf (s : State) (m : Msg) : Option Head :=
  let len := (((s.bodies m).head?).map List.length).getD 0
  let h (type dest src : Nat) (tag : Nat := 0) (tep : Nat := 0) (pois : Bool := false) (mc : Bool := false) : Option Head :=
    some { vc := ((typeRow type).map (·.1)).getD 3, type := type, len := len, mc := mc, pois := pois, dest := dest, src := src,
           tag := tag, tepoch := tep }
  match m with
  | .kenReq hub tep _ q => h 0x12 (hubAddr hub) (s.masterUnit q.master) q.tag.toNat tep.toNat
  | .kenReqRoot src tep _ q => h 0x12 s.rootUnit src q.tag.toNat tep.toNat
  | .kenRsp tep r => h 0x13 (s.masterUnit r.master) r.src.toNat r.tag.toNat tep.toNat
  | .whistle core tep _ r => h 0x03 (clusterOf core) r.src.toNat r.tag.toNat tep.toNat
  | .tickNote hub none _ => h 0x01 (hubAddr hub) s.rootUnit
  | .tickNote hub (some cl) _ => h 0x01 cl (hubAddr hub)
  | .edge cl => h 0x02 cl (hubAddr (fieldOf cl))
  | .abort hub none tep _ => h 0x04 (hubAddr hub) s.rootUnit 0 tep.toNat
  | .abort hub (some l) tep _ => h 0x04 (hub * 128 + l) (hubAddr hub) 0 tep.toNat
  | .resetNote none n => h 0x05 s.rootUnit (if Master.isFn n.master then s.rootUnit else clusterOf (Master.core n.master))
  | .resetNote (some hub) _ => h 0x05 (hubAddr hub) s.rootUnit
  | .alertNote hub _ => h 0x06 s.rootUnit (hubAddr hub)
  | .linkNote l => h 0x07 s.rootUnit (l / 4)
  | .arrive hub tep a => h 0x10 (hubAddr hub) a.src 0 tep.toNat a.pois
  | .fieldArrive hub tep a => h 0x10 s.rootUnit (hubAddr hub) 0 tep.toNat a.pois
  | .release hub tep r => h 0x11 (hubAddr hub) s.rootUnit 0 tep.toNat r.pois
  | .releaseCsn cl tep _ r => h 0x11 cl (hubAddr (fieldOf cl)) 0 tep.toNat r.pois
  | .pitch hub tep _ => h 0x15 (hubAddr hub) s.rootUnit 0 tep.toNat
  | .proxy hub tep _ => h 0x12 (hubAddr hub) s.rootUnit 0 tep.toNat
  | .loadMc dest _ _ => h 0x20 (mcDest dest) s.rootUnit 0 0 false true
  | .loadUc cl tep _ => h 0x21 cl cl 0 tep.toNat
  | .telem hub _ => h 0x22 s.rootUnit (hubAddr hub)
  | .log l => h 0x23 s.rootUnit (unitCode l.uid)
  | .mgmt hub tep _ => h 0x24 (hubAddr hub) s.rootUnit 0 tep.toNat
  | .routeLoad dest _ => h 0x25 dest s.rootUnit
  | .status _ _ => none
  | .sb _ _ => none

/-- A message as it stands on the wire: each message of its train with its head flit (R44, R123). -/
def State.wire (s : State) (m : Msg) : List (List Flit) :=
  match s.headOf m with
  | some h => (s.bodies m).map (fun b => Head.flit { h with len := b.length } :: b)
  | none => []

/-! ### Which message may arrive -/

/-- The flow of a message: virtual channel, source, destination (R57). -/
def State.flowOf (s : State) (m : Msg) : Option (Nat × Nat × Nat) := (s.headOf m).map (fun h => (h.vc, h.src, h.dest))

/-- An older message of the same flow is still in flight: this one cannot have arrived (R57). -/
def State.outOfTurn (s : State) (m : Msg) : Bool :=
  match s.flowOf m with
  | none => false
  | some f =>
    match s.net.find? (fun x => s.flowOf x == some f) with
    | some x => x != m && s.net.contains m
    | none => false

/-- The cluster whose router a message to a CSN must leave the mesh at. -/
def msgCluster : Msg → Option Nat
  | .releaseCsn cl _ _ _ => some cl
  | .edge cl => some cl
  | .tickNote _ (some cl) _ => some cl
  | .abort hub (some l) _ _ => some (hub * 128 + l)
  | .loadUc cl _ _ => some cl
  | .whistle core _ _ _ => some (clusterOf core)
  | _ => none

/-- A message whose router finds every output down: it is held until the route reload (R58). -/
def State.heldAtRouter (s : State) (m : Msg) : Bool :=
  match msgCluster m with
  | some cl => clusterIdOk cl && !s.reachable cl
  | none => false

/-- A message that carries a reserved LEN, VC or TYPE (R45). -/
def State.malformed (s : State) (m : Msg) : Bool :=
  match s.headOf m with
  | some h => !(s.bodies m).all (fun b => Head.ok { h with len := b.length })
  | none => false

/-- A message does not reach its unit now: it is out of turn, held at a router, or malformed. -/
def State.stopped (s : State) (m : Msg) : Bool := s.outOfTurn m || s.heldAtRouter m || s.malformed m

/-- What becomes of it: a malformed one is discarded and counted on the last link of its route, which is counted under the
destination's address (R45); the others stay in flight. -/
def State.stopMsg (s : State) (m : Msg) : State :=
  if s.outOfTurn m || s.heldAtRouter m then s
  else
    match s.headOf m with
    | some h => (s.taken m).updLink (h.dest * 4) (fun x => { x with malformed := x.malformed + 1 })
    | none => s

end Sys2Proof.Machine
end

