-- ==== Sys2Proof/Machine/Kennel.lean ====
section
/-! DEFINITION. The kennel at the home hub: timers, waiters, the operations of R78, expiries, RESET_NOTE and ABORT. -/

namespace Sys2Proof.Machine

open Sys2Proof

/-! ### Timers of a hub (R94-R96) -/

/-- The timer on a comparator. -/
def Hub.cmpAt (h : Hub) (i : Nat) : Option Timer := tget none h.cmp i
def Hub.setCmp (h : Hub) (i : Nat) (t : Option Timer) : Hub := { h with cmp := tset none h.cmp i t }

/-- The comparators that serve barrier timeouts and kennel timers (R94). -/
def cmpRange : List Nat := (List.range 54).map (10 + ·)

/-- A free comparator of 10-63: which one is not stated, the model takes the lowest (assumption 77, DESIGN CHOICE). -/
def Hub.freeCmp (h : Hub) : Option Nat := cmpRange.find? (fun i => (h.cmpAt i).isNone)

/-- The function's quota of scan-list entries at each hub (R327, R329). -/
def Fn.qscanEff (x : Fn) : Nat := Nat.min x.qscan 1984
def Fn.qwaitEff (x : Fn) : Nat := Nat.min x.qwait 8192

/-- Room on the kennel share of the scan list for a timer of function f (R95, R96). -/
def State.scanRoom (s : State) (h f : Nat) : Bool :=
  decide ((s.hubAt h).scan.length < 1984) &&
  decide (((s.hubAt h).scan.filter (fun t => t.func.val == f)).length < (s.fnAt f).qscanEff)

/-- Whether a kennel timer of function f can be had at hub h (R96). -/
def State.timerRoom (s : State) (h f : Nat) : Bool := (s.hubAt h).freeCmp.isSome || s.scanRoom h f

/-- Arming a kennel timer: a free comparator, otherwise the scan list (R94). -/
def State.armKen (s : State) (h : Nat) (t : Timer) : State × TimerLoc :=
  match (s.hubAt h).freeCmp with
  | some i => (s.updHub h (fun x => x.setCmp i (some t)), .comparator i)
  | none => (s.updHub h (fun x => { x with scan := x.scan ++ [t] }), .scan)

/-- Releasing a timer (R94: a freed comparator is not refilled). -/
def State.disarm (s : State) (h : Nat) (loc : TimerLoc) (u : TimerOf) : State :=
  match loc with
  | .none => s
  | .comparator i => s.updHub h (fun x => x.setCmp i none)
  | .scan => s.updHub h (fun x =>
      { x with scan := x.scan.eraseP (fun t => t.use == u), scanBar := x.scanBar.eraseP (fun t => t.use == u) })

/-! ### Waiters -/

/-- The kennel indices of listed entries homed at a hub. -/
def State.hubKeys (s : State) (h : Nat) : List Nat := (tkeys s.ken).filter (fun k => homeHub k == h)

/-- The waiter records in use at a hub (R75). -/
def State.poolUsed (s : State) (h : Nat) : List Nat := (s.hubKeys h).flatMap (fun k => (s.kenAt k).queue.map (·.idx))

/-- The waiter records of function f at a hub (R75). -/
def State.poolOf (s : State) (h f : Nat) : Nat :=
  (((s.hubKeys h).filter (fun k => (s.kenAt k).func.val == f)).map (fun k => (s.kenAt k).queue.length)).sum

/-- Room for one more waiter record (R8, R96). -/
def State.waitRoom (s : State) (h f : Nat) : Bool :=
  decide ((s.poolUsed h).length < 8192) && decide (s.poolOf h f < (s.fnAt f).qwaitEff)

/-- AUX of a reply: COUNT for semaphore and token operations, WAITERS for lock and read operations (R78). -/
def auxOf (op : KOp) (e : KEntry) : BitVec 32 :=
  match op with
  | .semWait | .semSignal | .semSet | .tokTake | .tokReturn | .tokSet => e.count
  | .semRead | .tokRead | .lockAcq | .lockRel | .lockConfirm | .lockCancel | .lockRenew | .lockRead =>
    BitVec.ofNat 32 e.queue.length
  | _ => 0

/-- The reply to a request, without its effect (R78). `src`: the unit that answers. -/
def replyTo (src : Nat) (op : KOp) (q : KMsg) (st : Status) (flag : Bool) (grant : BitVec 16) (aux : BitVec 32)
    (res : BitVec 64) : KRsp :=
  { dfr := false, src := BitVec.ofNat 14 src, op := op, status := st, flag := flag, grant := grant, aux := aux, result := res,
    master := q.master, tag := q.tag }

/-- A request that ends without an effect on its entry: FENCED, GONE, SPAN_LOST. FLAG, GRANT and RESULT are 0, and so is AUX,
which R78 does not state for an answer that no entry gives (assumption 75, DESIGN CHOICE). -/
def State.refuseKen (s : State) (src : Nat) (op : KOp) (q : KMsg) (st : Status) : State :=
  s.send (.kenRsp (Master.epoch q.master) (replyTo src op q st false 0 0 0))

/-- An immediate answer of the home hub, carried by KEN_RSP with the epoch of its master (R47, R78). -/
def State.kenAnswer (s : State) (op : KOp) (q : KMsg) (st : Status) (flag : Bool) (grant : BitVec 16) (aux : BitVec 32)
    (res : BitVec 64) : State :=
  s.send (.kenRsp (Master.epoch q.master)
    (replyTo (hubAddr (homeHub (kennelIndex q.args.cls.toNat q.args.index.toNat))) op q st flag grant aux res))

/-- The answer to an operation whose outcome is unpredictable (R76, R84): any status, as R9 confines it, and no effect on
the entry (assumption 12, DESIGN CHOICE). -/
def State.anyAnswer (s : State) (op : KOp) (q : KMsg) : State := s.drawn.kenAnswer op q s.anyStatus false 0 0 0

/-- The cause a deferred end of an operation sets (R91, R92). -/
def causeOf : KOp → Cause
  | .semWait | .tokTake => .sem
  | _ => .lock

/-- The end of a queued request: a WHISTLE to a core of this wafer, a KEN_RSP to the root for a function or for a master
of another wafer (R91, R367). A WHISTLE has no AUX; its CAUSE follows the operation, under an ABORT too, where the
specification does not state it (assumption 76, DESIGN CHOICE). -/
def State.sendEnd (s : State) (k : Nat) (w : Waiter) (st : Status) (grant : BitVec 16) (aux : BitVec 32) : State :=
  let r : KRsp := { dfr := true, src := BitVec.ofNat 14 (hubAddr (homeHub k)), op := w.op, status := st, flag := false,
                    grant := grant, aux := aux, result := 0, master := w.master, tag := w.tag }
  if Master.isFn w.master || Master.wafer w.master != s.span.wid.toNat then s.send (.kenRsp (Master.epoch w.master) r)
  else s.send (.whistle (Master.core w.master) (Master.epoch w.master) (causeOf w.op) { r with aux := 0 })

/-- Removing a waiter record and its timer, with no result. -/
def State.dropWaiter (s : State) (k : Nat) (w : Waiter) : State :=
  (s.disarm (homeHub k) w.timer (.wait k w.master w.tag)).updKen k (fun e => { e with queue := e.queue.erase w })

/-- Ending a queued request. -/
def State.endWaiter (s : State) (k : Nat) (w : Waiter) (st : Status) (grant : BitVec 16) : State :=
  let s := s.dropWaiter k w
  s.sendEnd k w st grant (auxOf w.op (s.kenAt k))

/-- Whether a waiter's deadline has passed (R90). -/
def State.waitOver (s : State) (w : Waiter) : Bool :=
  match w.deadline with
  | some d => passed s.units d
  | none => false

/-- Queueing a request at the tail (R82, R89), or NO_RESOURCE with no effect (R96). Which free record of the pool it takes is
not stated: the model takes the lowest index (assumption 77, DESIGN CHOICE). -/
def State.queueKen (s : State) (k : Nat) (op : KOp) (q : KMsg) : State :=
  let h := homeHub k
  let e := s.kenAt k
  let f := e.func.val
  let timed := q.args.tmo != 0
  if !s.waitRoom h f || (timed && !s.timerRoom h f) then
    s.kenAnswer op q .noResource false 0 (auxOf op e) 0
  else
    let d := s.deadlineOf q.args.tmo
    let (s, loc) := if timed then s.armKen h ⟨.wait k q.master q.tag, d, e.func⟩ else (s, TimerLoc.none)
    let w : Waiter := { idx := leastFree (s.poolUsed h), master := q.master, tag := q.tag, op := op, n := q.args.n,
                        m := q.args.m, leash := q.args.leash, deadline := if timed then some d else none, timer := loc }
    s.updKen k (fun e => { e with queue := e.queue ++ [w] })

/-! ### Serving waiters -/

/-- Units a waiter must find in COUNT (R83). -/
def Waiter.needs (w : Waiter) : Nat := if w.op = .tokTake then takeLeast w.n w.m else w.n.toNat
/-- Units it takes: N, or min(N, COUNT) for a token pool (R83). -/
def Waiter.takes (w : Waiter) (count : BitVec 32) : Nat :=
  if w.op = .tokTake then Nat.min w.n.toNat count.toNat else w.n.toNat
/-- GRANT of a waiter's result: TOK_TAKE only (R91). -/
def Waiter.grantOf (w : Waiter) (count : BitVec 32) : BitVec 16 :=
  if w.op = .tokTake then BitVec.ofNat 16 (w.takes count) else 0

/-- Serving the head waiters of a semaphore or token pool as long as COUNT satisfies them; a head whose deadline has
passed ends TIMEOUT and the next is tried (R82, R90). -/
def serveUnits (k : Nat) : Nat → State → State
  | 0, s => s
  | n + 1, s =>
    match (s.kenAt k).queue with
    | [] => s
    | w :: _ =>
      if s.waitOver w then serveUnits k n (s.endWaiter k w .timeout 0)
      else
        let c := (s.kenAt k).count
        if w.needs ≤ c.toNat then
          serveUnits k n
            ((s.updKen k (fun e => { e with count := c - BitVec.ofNat 32 (w.takes c) })).endWaiter k w .ok (w.grantOf c))
        else s

/-- Serving every waiter that can be served now. -/
def State.serve (s : State) (k : Nat) : State := serveUnits k (s.kenAt k).queue.length s

/-- Arming the leash of a granted lock (R88). -/
def State.armLeash (s : State) (k : Nat) (code : Byte) : State :=
  if code = 0 then s.updKen k (fun e => { e with leash := .none, deadline := 0 })
  else
    let d := s.deadlineOf code
    let (s, loc) := s.armKen (homeHub k) ⟨.leash k, d, (s.kenAt k).func⟩
    s.updKen k (fun e => { e with leash := loc, deadline := d })

/-- A lock passes to a master: STATE, OWNER, the reported flag cleared, the leash armed (R85, R87, R88). -/
def State.grantLock (s : State) (k : Nat) (m : Master) (st : LockSt) (code : Byte) : State :=
  (s.updKen k (fun e => { grantFlags e with st := st, owner := m })).armLeash k code

/-- Trying the waiters of a free lock in order: an expired one ends TIMEOUT (R90), one whose leash finds no timer ends
NO_RESOURCE (R96), the first other is granted and enters HELD (R85). The waiter's own wait timer is released before a timer
is sought for the leash; the specification does not order the two (assumption 78, DESIGN CHOICE). -/
def serveLock (k : Nat) : Nat → State → State
  | 0, s => s
  | n + 1, s =>
    match (s.kenAt k).queue with
    | [] => s
    | w :: _ =>
      if s.waitOver w then serveLock k n (s.endWaiter k w .timeout 0)
      else
        let freed := s.disarm (homeHub k) w.timer (.wait k w.master w.tag)
        if w.leash != 0 && !freed.timerRoom (homeHub k) (s.kenAt k).func.val then
          serveLock k n (s.endWaiter k w .noResource 0)
        else
          let code := grantCode (s.kenAt k)
          let s := (s.dropWaiter k w).grantLock k w.master .held w.leash
          s.sendEnd k w code 0 (auxOf w.op (s.kenAt k))

/-- Releasing a lock: its leash ends, it becomes FREE, and its waiters are tried (R85). -/
def State.releaseLock (s : State) (k : Nat) : State :=
  let e := s.kenAt k
  let s := s.disarm (homeHub k) e.leash (.leash k)
  let s := s.updKen k (fun e => { e with st := .free, owner := 0, leash := .none, deadline := 0 })
  serveLock k e.queue.length s

/-- Freeing a lock with ABND set: leash expiry, reset of its holder (R85). -/
def State.abandonLock (s : State) (k : Nat) : State :=
  (s.updKen k (fun e => { e with abnd := true })).releaseLock k

/-! ### What the home hub checks -/

/-- A master that carries a wafer ID given up less than 50 µs ago is taken as carrying the new one (R379). -/
def State.newMaster (s : State) (m : Master) : Master :=
  match s.span.oldId with
  | some (w, t) =>
    if Master.wafer m = w.toNat ∧ s.now ≤ t + cyc 50000 then
      masterOf s.span.wid.toNat (Master.core m) (Master.epoch m).toNat
    else m
  | none => m

def State.renewed (s : State) (q : KMsg) : KMsg := { q with master := s.newMaster q.master }

/-- The answer that keeps a request from its entry: FENCED by the router of a muzzled hub (R30), for a handle that names
no entry of this hub or none of the issuer's partition (R27), then GONE for a stale epoch (R49), in the order of R19.
A request relayed from another wafer was checked by the root (R97, R367); a class 0x2 handle comes from the root's
engines alone (R77). -/
def State.homeCheck (s : State) (hub : Nat) (tep : Epoch) (q : KMsg) : Option Status :=
  let cls := q.args.cls.toNat
  let ix := q.args.index.toNat
  let k := kennelIndex cls ix
  let e := s.kenAt k
  let mine := cls == 2 || Master.wafer q.master != s.span.wid.toNat || s.masterFn q.master == some e.func.val
  if (s.hubAt hub).muz then some .fenced
  else if cls > 2 || ix ≥ classRange cls || homeHub k != hub || e.kind == .free || !mine then some .fenced
  else if tep != (s.hubAt hub).epoch then some .gone
  else none

/-- A KEN_REQ taken by its home hub: the checks, then the operation on the entry. -/
def State.homeDo (s : State) (hub : Nat) (tep : Epoch) (op : KOp) (q : KMsg)
    (act : KMsg → State → Nat → KEntry → State) : State :=
  let q := s.renewed q
  match s.homeCheck hub tep q with
  | some st => s.refuseKen (hubAddr hub) op q st
  | none =>
    let k := kennelIndex q.args.cls.toNat q.args.index.toNat
    act q s k (s.kenAt k)

/-- A KEN_REQ at its home hub: it arrives in its turn, and is applied; where the KIND does not match, its answer is
unpredictable (R76). -/
def atHome (s : State) (hub : Field) (tep : Epoch) (op : KOp) (q : KMsg) (kind : Kind)
    (act : KMsg → State → Nat → KEntry → State) : Out :=
  let m := Msg.kenReq hub.val tep op q
  .next (
    if s.stopped m then s.stopMsg m
    else (s.taken m).homeDo hub.val tep op q
      (fun q s k e => if e.kind = kind then act q s k e else s.anyAnswer op q))

/-! ### Atomic words (R81) -/

/-- An atomic operation: the new VALUE, the answer's FLAG, and whether the answer carries the old VALUE. -/
def atomicAct (op : KOp) (q : KMsg) (new : BitVec 64 → BitVec 64) (flag : BitVec 64 → Bool) (ret : Bool)
    (s : State) (k : Nat) (e : KEntry) : State :=
  (s.updKen k (fun e => { e with value := new e.value })).kenAnswer op q .ok (flag e.value) 0 0 (if ret then e.value else 0)

/-- LOAD: VALUE unchanged and returned. -/
def execLoad (hub : Field) (tep : Epoch) (q : KMsg) (s : State) : Out :=
  atHome s hub tep .load q .atomicWord (fun q => atomicAct .load q (fun v => v) (fun _ => false) true)

/-- STORE: VALUE := A. -/
def execStore (hub : Field) (tep : Epoch) (q : KMsg) (s : State) : Out :=
  atHome s hub tep .store q .atomicWord (fun q => atomicAct .store q (fun _ => q.args.a) (fun _ => false) false)

/-- SWAP: VALUE := A, the old VALUE returned. -/
def execSwap (hub : Field) (tep : Epoch) (q : KMsg) (s : State) : Out :=
  atHome s hub tep .swap q .atomicWord (fun q => atomicAct .swap q (fun _ => q.args.a) (fun _ => false) true)

/-- CAS: VALUE := B if it equals A; FLAG 1 if written; the old VALUE returned. -/
def execCas (hub : Field) (tep : Epoch) (q : KMsg) (s : State) : Out :=
  atHome s hub tep .cas q .atomicWord
    (fun q => atomicAct .cas q (fun v => if v = q.args.a then q.args.b else v) (fun v => v == q.args.a) true)

/-- ADD modulo 2^64. -/
def execAdd (hub : Field) (tep : Epoch) (q : KMsg) (s : State) : Out :=
  atHome s hub tep .add q .atomicWord (fun q => atomicAct .add q (fun v => v + q.args.a) (fun _ => false) true)

/-- AND. -/
def execAnd (hub : Field) (tep : Epoch) (q : KMsg) (s : State) : Out :=
  atHome s hub tep .and q .atomicWord (fun q => atomicAct .and q (fun v => v &&& q.args.a) (fun _ => false) true)

/-- OR. -/
def execOr (hub : Field) (tep : Epoch) (q : KMsg) (s : State) : Out :=
  atHome s hub tep .or q .atomicWord (fun q => atomicAct .or q (fun v => v ||| q.args.a) (fun _ => false) true)

/-- XOR. -/
def execXor (hub : Field) (tep : Epoch) (q : KMsg) (s : State) : Out :=
  atHome s hub tep .xor q .atomicWord (fun q => atomicAct .xor q (fun v => v ^^^ q.args.a) (fun _ => false) true)

/-- UMAX, unsigned. -/
def execUmax (hub : Field) (tep : Epoch) (q : KMsg) (s : State) : Out :=
  atHome s hub tep .umax q .atomicWord
    (fun q => atomicAct .umax q (fun v => if v.toNat < q.args.a.toNat then q.args.a else v) (fun _ => false) true)

/-- UMIN, unsigned. -/
def execUmin (hub : Field) (tep : Epoch) (q : KMsg) (s : State) : Out :=
  atHome s hub tep .umin q .atomicWord
    (fun q => atomicAct .umin q (fun v => if q.args.a.toNat < v.toNat then q.args.a else v) (fun _ => false) true)

/-- SMAX, two's complement. -/
def execSmax (hub : Field) (tep : Epoch) (q : KMsg) (s : State) : Out :=
  atHome s hub tep .smax q .atomicWord
    (fun q => atomicAct .smax q (fun v => if v.toInt < q.args.a.toInt then q.args.a else v) (fun _ => false) true)

/-- SMIN, two's complement. -/
def execSmin (hub : Field) (tep : Epoch) (q : KMsg) (s : State) : Out :=
  atHome s hub tep .smin q .atomicWord
    (fun q => atomicAct .smin q (fun v => if q.args.a.toInt < v.toInt then q.args.a else v) (fun _ => false) true)

/-! ### Semaphores and token pools (R82-R84) -/

/-- SEM_WAIT and TOK_TAKE on an entry (R83). `tok`: GRANT is min(N, COUNT). -/
def takeAct (op : KOp) (q : KMsg) (tok : Bool) (s : State) (k : Nat) (e : KEntry) : State :=
  let n := q.args.n.toNat
  let need := if tok then takeLeast q.args.n q.args.m else n
  let got := if tok then Nat.min n e.count.toNat else n
  if n = 0 then s.kenAnswer op q .ok false 0 e.count 0
  else if e.queue = [] ∧ need ≤ e.count.toNat then
    let c := e.count - BitVec.ofNat 32 got
    (s.updKen k (fun e => { e with count := c })).kenAnswer op q .ok false (if tok then BitVec.ofNat 16 got else 0) c 0
  else if q.args.wait then s.queueKen k op q
  else s.kenAnswer op q .timeout false 0 e.count 0

/-- SEM_SIGNAL and TOK_RETURN on an entry: COUNT clipped to LIMIT, then the waiters served (R83). -/
def giveAct (op : KOp) (q : KMsg) (s : State) (k : Nat) (e : KEntry) : State :=
  let r := addClip e.count e.limit q.args.n.toNat
  let s := (s.updKen k (fun e => { e with count := r.1 })).serve k
  s.kenAnswer op q .ok r.2 0 (s.kenAt k).count 0

/-- SEM_SET and TOK_SET on an entry: LIMIT and COUNT written, COUNT clipped, then the waiters served (R83). -/
def setAct (op : KOp) (q : KMsg) (s : State) (k : Nat) (_e : KEntry) : State :=
  let limit := BitVec.ofNat 32 (bits q.args.a.toNat 32 32)
  let r := setClip limit (BitVec.ofNat 32 q.args.a.toNat)
  let s := (s.updKen k (fun e => { e with limit := limit, count := r.1 })).serve k
  s.kenAnswer op q .ok r.2 0 (s.kenAt k).count 0

/-- SEM_READ and TOK_READ: LIMIT and COUNT, AUX WAITERS (R78, R83). -/
def readAct (op : KOp) (q : KMsg) (s : State) (_k : Nat) (e : KEntry) : State :=
  s.kenAnswer op q .ok false 0 (auxOf op e) (e.limit ++ e.count)

/-- SEM_WAIT. -/
def execSemWait (hub : Field) (tep : Epoch) (q : KMsg) (s : State) : Out :=
  atHome s hub tep .semWait q .semaphore (fun q => takeAct .semWait q false)

/-- SEM_SIGNAL. -/
def execSemSignal (hub : Field) (tep : Epoch) (q : KMsg) (s : State) : Out :=
  atHome s hub tep .semSignal q .semaphore (fun q => giveAct .semSignal q)

/-- SEM_SET. -/
def execSemSet (hub : Field) (tep : Epoch) (q : KMsg) (s : State) : Out :=
  atHome s hub tep .semSet q .semaphore (fun q => setAct .semSet q)

/-- SEM_READ. -/
def execSemRead (hub : Field) (tep : Epoch) (q : KMsg) (s : State) : Out :=
  atHome s hub tep .semRead q .semaphore (fun q => readAct .semRead q)

/-- TOK_TAKE; its answer is unpredictable where M is greater than N (R84). -/
def execTokTake (hub : Field) (tep : Epoch) (q : KMsg) (s : State) : Out :=
  atHome s hub tep .tokTake q .tokenPool (fun q s k e =>
    if q.args.n.toNat < q.args.m.toNat then s.anyAnswer .tokTake q else takeAct .tokTake q true s k e)

/-- TOK_RETURN. -/
def execTokReturn (hub : Field) (tep : Epoch) (q : KMsg) (s : State) : Out :=
  atHome s hub tep .tokReturn q .tokenPool (fun q => giveAct .tokReturn q)

/-- TOK_SET. -/
def execTokSet (hub : Field) (tep : Epoch) (q : KMsg) (s : State) : Out :=
  atHome s hub tep .tokSet q .tokenPool (fun q => setAct .tokSet q)

/-- TOK_READ. -/
def execTokRead (hub : Field) (tep : Epoch) (q : KMsg) (s : State) : Out :=
  atHome s hub tep .tokRead q .tokenPool (fun q => readAct .tokRead q)

/-! ### Locks (R85-R88) -/

/-- Counting a non-owner release against the issuing function (R86). A return of the CSN is not counted (R103). -/
def State.countNown (s : State) (e : KEntry) (q : KMsg) : State :=
  if q.args.ret then s else s.updFn e.func.val (fun x => { x with nown := satInc x.nown })

/-- Whether the requester holds the lock: all 33 bits of OWNER (R85). -/
def ownedBy (e : KEntry) (m : Master) : Bool := e.st != .free && e.owner == m

/-- LOCK_ACQ on an entry (R85, R96). -/
def acqAct (q : KMsg) (s : State) (k : Nat) (e : KEntry) : State :=
  if e.st = .free then
    if q.args.leash ≠ 0 ∧ !s.timerRoom (homeHub k) e.func.val then
      s.kenAnswer .lockAcq q .noResource false 0 (auxOf .lockAcq e) 0
    else
      (s.grantLock k q.master (if q.args.ahead then .heldAhead else .held) q.args.leash).kenAnswer .lockAcq q
        (grantCode e) false 0 (auxOf .lockAcq e) 0
  else if ownedBy e q.master then s.kenAnswer .lockAcq q .ok true 0 (auxOf .lockAcq e) 0
  else if q.args.wait then s.queueKen k .lockAcq q
  else s.kenAnswer .lockAcq q .timeout false 0 (auxOf .lockAcq e) 0

/-- Answering a lock operation once it is applied: AUX is WAITERS after it. -/
def State.lockAnswer (s : State) (op : KOp) (q : KMsg) (k : Nat) (st : Status) : State :=
  s.kenAnswer op q st false 0 (auxOf op (s.kenAt k)) 0

/-- LOCK_REL on an entry; with RET 1, N[0] and N[1] set ABND and PHN first (R103). -/
def relAct (q : KMsg) (s : State) (k : Nat) (e : KEntry) : State :=
  if ownedBy e q.master then
    let s := if q.args.ret then
        s.updKen k (fun e => { e with abnd := e.abnd || bit q.args.n.toNat 0, phn := e.phn || bit q.args.n.toNat 1 })
      else s
    (s.releaseLock k).lockAnswer .lockRel q k .ok
  else (s.countNown e q).lockAnswer .lockRel q k .notOwner

/-- LOCK_CONFIRM on an entry. -/
def confirmAct (q : KMsg) (s : State) (k : Nat) (e : KEntry) : State :=
  if ownedBy e q.master then (s.updKen k (fun e => { e with st := .held })).lockAnswer .lockConfirm q k .ok
  else s.lockAnswer .lockConfirm q k .notOwner

/-- LOCK_CANCEL on an entry: from HELD_AHEAD it sets PHN and releases; on HELD it has no effect. -/
def cancelAct (q : KMsg) (s : State) (k : Nat) (e : KEntry) : State :=
  if ownedBy e q.master then
    if e.st = .heldAhead then
      ((s.updKen k (fun e => { e with phn := true })).releaseLock k).lockAnswer .lockCancel q k .ok
    else s.lockAnswer .lockCancel q k .ok
  else (s.countNown e q).lockAnswer .lockCancel q k .notOwner

/-- LOCK_RENEW on an entry: the owner's leash is restarted, or disarmed by LEASH 0; NO_RESOURCE with no effect where the
new leash finds no timer (R88, R96). -/
def renewAct (q : KMsg) (s : State) (k : Nat) (e : KEntry) : State :=
  if ownedBy e q.master then
    let freed := s.disarm (homeHub k) e.leash (.leash k)
    if q.args.leash ≠ 0 ∧ !freed.timerRoom (homeHub k) e.func.val then s.lockAnswer .lockRenew q k .noResource
    else (freed.armLeash k q.args.leash).lockAnswer .lockRenew q k .ok
  else s.lockAnswer .lockRenew q k .notOwner

/-- RESULT of LOCK_READ (R78). -/
def lockWord (e : KEntry) : BitVec 64 :=
  BitVec.ofNat 64 (e.owner.toNat + (match e.st with | .free => 0 | .held => 1 | .heldAhead => 2) * 2 ^ 33
    + b2n e.abnd * 2 ^ 35 + b2n e.phn * 2 ^ 36)

/-- LOCK_ACQ. -/
def execLockAcq (hub : Field) (tep : Epoch) (q : KMsg) (s : State) : Out :=
  atHome s hub tep .lockAcq q .lock (fun q => acqAct q)

/-- LOCK_REL. -/
def execLockRel (hub : Field) (tep : Epoch) (q : KMsg) (s : State) : Out :=
  atHome s hub tep .lockRel q .lock (fun q => relAct q)

/-- LOCK_CONFIRM. -/
def execLockConfirm (hub : Field) (tep : Epoch) (q : KMsg) (s : State) : Out :=
  atHome s hub tep .lockConfirm q .lock (fun q => confirmAct q)

/-- LOCK_CANCEL. -/
def execLockCancel (hub : Field) (tep : Epoch) (q : KMsg) (s : State) : Out :=
  atHome s hub tep .lockCancel q .lock (fun q => cancelAct q)

/-- LOCK_RENEW. -/
def execLockRenew (hub : Field) (tep : Epoch) (q : KMsg) (s : State) : Out :=
  atHome s hub tep .lockRenew q .lock (fun q => renewAct q)

/-- LOCK_READ. -/
def execLockRead (hub : Field) (tep : Epoch) (q : KMsg) (s : State) : Out :=
  atHome s hub tep .lockRead q .lock
    (fun q s _ e => s.kenAnswer .lockRead q .ok false 0 (auxOf .lockRead e) (lockWord e))

/-! ### WITHDRAW, expiries (R88-R90, R100) -/

/-- Serving whatever the removal of a waiter has made servable: a semaphore's or pool's next head (R82). -/
def State.reserve (s : State) (k : Nat) : State :=
  match (s.kenAt k).kind with
  | .semaphore | .tokenPool => s.serve k
  | _ => s

/-- The queued request of a master under a tag. -/
def KEntry.waiterOf (e : KEntry) (m : Master) (t : Tag) : Option Waiter :=
  e.queue.find? (fun w => w.master == m && w.tag == t)

/-- WITHDRAW on an entry: the named request, if still queued, ends ABORTED and FLAG is 0; otherwise FLAG is 1 (R100). -/
def withdrawAct (q : KMsg) (s : State) (k : Nat) (e : KEntry) : State :=
  match e.waiterOf q.master q.args.ctag with
  | some w => ((s.endWaiter k w .aborted 0).reserve k).kenAnswer .withdraw q .ok false 0 0 0
  | none => s.kenAnswer .withdraw q .ok true 0 0 0

/-- WITHDRAW: it applies to an entry of any KIND. -/
def execWithdraw (hub : Field) (tep : Epoch) (q : KMsg) (s : State) : Out :=
  let m := Msg.kenReq hub.val tep .withdraw q
  .next (if s.stopped m then s.stopMsg m else (s.taken m).homeDo hub.val tep .withdraw q (fun q => withdrawAct q))

/-- LEASH_EXPIRY: once the deadline has passed, the lock is freed with ABND set, a core that held it on this wafer
receives the LEASH whistle with TAG 0xFFF, and the head waiter is granted (R85, R88). The notice of an owner on another wafer
goes to the root, as the end of its request would (R367), and carries TAG 0xFFF (assumption 9, DEDUCED). -/
def State.expireLeash (s : State) (k : Nat) : State :=
  let e := s.kenAt k
  if e.kind = .lock ∧ e.st ≠ .free ∧ e.leash ≠ .none ∧ passed s.units e.deadline then
    let r : KRsp := { dfr := true, src := BitVec.ofNat 14 (hubAddr (homeHub k)), op := .lockAcq, status := .timeout,
                      flag := false, grant := 0, aux := 0, result := 0, master := e.owner, tag := 0xFFF }
    let s := if Master.isFn e.owner then s
      else if Master.wafer e.owner != s.span.wid.toNat then s.send (.kenRsp (Master.epoch e.owner) r)
      else s.send (.whistle (Master.core e.owner) (Master.epoch e.owner) .leash r)
    s.abandonLock k
  else s

def execLeashExpiry (k : Fin 1376256) (s : State) : Out := .next (s.expireLeash k.val)

/-- WAIT_TIMEOUT: a queued request whose deadline has passed ends TIMEOUT (R89). -/
def State.expireWait (s : State) (k : Nat) (m : Master) (t : Tag) : State :=
  match (s.kenAt k).waiterOf m t with
  | some w => if s.waitOver w then (s.endWaiter k w .timeout 0).reserve k else s
  | none => s

def execWaitTimeout (k : Fin 1376256) (m : Master) (t : Tag) (s : State) : Out := .next (s.expireWait k.val m t)

/-! ### RESET_NOTE and ABORT at a hub (R102, R103) -/

/-- Whether a RESET_NOTE names a master (R389). -/
def noteNames (n : ResetNote) (m : Master) : Bool :=
  match n.kind with
  | .core | .function => m == n.master
  | .cluster => Master.wafer m == Master.wafer n.master && Master.core m / 64 == Master.core n.master / 64
  | .contain => false

/-- Removing every waiter of an entry that a predicate picks, with no result. -/
def State.dropWaiters (s : State) (k : Nat) (p : Waiter → Bool) : State :=
  forAll ((s.kenAt k).queue.filter p) (fun s w => s.dropWaiter k w) s

/-- A hub applies a RESET_NOTE: waiters of the named masters go, their locks are freed with ABND (R102). -/
def State.noteAtHub (s : State) (h : Nat) (n : ResetNote) : State :=
  let keys := s.hubKeys h
  let s := forAll keys (fun s k => s.dropWaiters k (fun w => noteNames n w.master)) s
  forAll keys (fun s k =>
    let e := s.kenAt k
    if e.kind = .lock ∧ e.st ≠ .free ∧ noteNames n e.owner then s.abandonLock k else s.reserve k) s

/-- RESET_NOTE at a hub. -/
def execResetNote (hub : Field) (n : ResetNote) (s : State) : Out :=
  let m := Msg.resetNote (some hub.val) n
  .next (
    if s.stopped m then s.stopMsg m
    else let s := s.taken m; if (s.hubAt hub.val).muz then s else s.noteAtHub hub.val n)

/-- A hub ends every queued kennel request of a function's masters with a status (R103, R390): every record is removed
first, then the ends are sent. -/
def State.abortWaiters (s : State) (h f : Nat) (st : Status) : State :=
  let ks := (s.hubKeys h).filter (fun k => (s.kenAt k).func.val == f)
  let ws := ks.flatMap (fun k => (s.kenAt k).queue.map (fun w => (k, w)))
  let s := forAll ws (fun s kw => s.dropWaiter kw.1 kw.2) s
  forAll ws (fun s kw => s.sendEnd kw.1 kw.2 st 0 (auxOf kw.2.op (s.kenAt kw.1))) s

end Sys2Proof.Machine
end

