-- ==== Sys2Proof/Machine/Csn.lean ====
section
/-! DEFINITION. The Cluster Sync Node and its sync ports: issue of kennel requests, publishes and fences, barrier
operations of the cores, deferred results, broadcast reads, residual records, the counters. -/

namespace Sys2Proof.Machine

open Sys2Proof

/-! ### Cores and ports -/

/-- The cores of a cluster that the floor plan holds (R411). -/
def State.coreIxs (s : State) (cl : Nat) : List Nat :=
  (List.range 48).filter (fun i => !bit (tget (0 : BitVec 48) s.cask.floor cl).toNat i)

/-- The core IDs of a cluster. -/
def State.coresOf (s : State) (cl : Nat) : List Nat := (s.coreIxs cl).map (fun i => cl * 64 + i)

/-- A port that takes an operation: no operation held, no fence pending, the core not in reset (R79, R282, R101). -/
def portOpen (x : Core) : Bool := x.stall.isNone && x.fence.isNone && x.rst.isNone

/-- Setting a whistle cause of a core. -/
def State.raise (s : State) (n : Nat) (c : Cause) : State := s.updCore n (fun x => { x with wcr := setCause x.wcr c })

/-- The incomplete stores of a core within a scope are none (R282, R284). -/
def storesDone (x : Core) (scope : Nat) : Bool :=
  x.stOwn == 0 && (scope == 0 || x.stWaf == 0) && (scope != 2 || x.stSpn == 0)

/-- Cores of a cluster whose cached copies an invalidation must reach: a core in reset has none (R297). -/
def State.cinvTargets (s : State) (cl : Nat) : List Nat :=
  (s.coresOf cl).filter (fun n => ((s.coreAt n).rst).isNone)

/-! ### Kennel requests at the CSN (R79, R284, R286) -/

/-- The request of a core under a tag. -/
def Core.reqOf (x : Core) (t : Tag) : Option Req := x.reqs.find? (fun r => r.tag == t)
def Core.setReq (x : Core) (t : Tag) (g : Req → Req) : Core :=
  { x with reqs := x.reqs.map (fun r => if r.tag == t then g r else r) }
def Core.dropReq (x : Core) (t : Tag) : Core := { x with reqs := x.reqs.eraseP (fun r => r.tag == t) }

/-- A tag not in use by the core: which one the CSN draws is a free value (R79, assumption 3). -/
def State.pickTag (s : State) (n : Nat) : Tag :=
  let used := (s.coreAt n).reqs.map (fun r => r.tag.toNat)
  BitVec.ofNat 12 (firstFreeFrom used 4095 used.length s.peek)

/-- The KEN_REQ of a core's request as it leaves the CSN (R50, R77). -/
def State.sendKen (s : State) (n : Nat) (op : KOp) (q : KArgs) (t : Tag) : State :=
  let cl := clusterOf n
  let m : KMsg := { args := q, master := s.coreMaster n, tag := t }
  if q.scope = 2 then s.send (.kenReqRoot cl (s.csnAt cl).pepoch op m)
  else
    let h := homeHub (kennelIndex q.cls.toNat q.index.toNat)
    s.send (.kenReq h (s.epTab cl h) op m)

/-- A request leaves the CSN for its home hub or, for SPAN scope, the root. -/
def State.launch (s : State) (n : Nat) (r : Req) : State :=
  (s.sendKen n r.op r.args r.tag).updCore n (fun x => x.setReq r.tag (fun r => { r with phase := .sent }))

/-- An earlier request of the core to the same object has not left the CSN (R33). -/
def Core.behind (x : Core) (r : Req) : Bool :=
  (x.reqs.takeWhile (fun r' => r'.tag != r.tag)).any
    (fun r' => r'.phase != .sent && r'.args.cls == r.args.cls && r'.args.index == r.args.index)

/-- One request goes as far as it can: it waits for the core's earlier stores within its scope (R284), then for its
publish invalidation (R286), then leaves. -/
def State.pushReq (s : State) (n : Nat) (t : Tag) : State :=
  let x := s.coreAt n
  match x.reqOf t with
  | none => s
  | some r =>
    match r.phase with
    | .stores =>
      if !storesDone x r.args.scope.toNat || x.behind r then s
      else if r.args.pub && pubApplies r.op then
        if r.args.scope = 0 then
          let ts := s.cinvTargets (clusterOf n)
          if ts = [] then s.launch n r
          else (s.updCore n (fun x => x.setReq t (fun r => { r with phase := .cinv ts }))).emitAll (ts.map .cinvReq)
        else
          let cl := clusterOf n
          (s.updCore n (fun x => x.setReq t (fun r => { r with phase := .inv s.now }))).emit
            (.invReq (.core ⟨⟨⟨fieldOf cl % 84, Nat.mod_lt _ (by decide)⟩, ⟨localOf cl % 96, Nat.mod_lt _ (by decide)⟩⟩,
              ⟨n % 64 % 48, Nat.mod_lt _ (by decide)⟩⟩ t) r.args.scope (fnOfNat ((s.fnOf cl).getD 0)) (s.csnAt cl).pepoch)
      else s.launch n r
    | .cinv [] => s.launch n r
    | _ => s

/-- Every request of a core goes as far as it can, in the order of issue. -/
def State.pushReqs (s : State) (n : Nat) : State :=
  forAll ((s.coreAt n).reqs.map (·.tag)) (fun s t => s.pushReq n t) s

/-- Whether the limits of R79 let a core issue one more request. -/
def kenRoom (x : Core) (op : KOp) (q : KArgs) : Bool :=
  decide (x.reqs.length < 4) && !(carriesWait op q && x.reqs.any (fun r => carriesWait r.op r.args))

/-- The CSN answers FENCED itself: an INDEX beyond its class, class 0x2 (R27), or a home hub that its copy of the distance table
shows muzzled (R30). -/
def State.fencedAtCsn (s : State) (q : KArgs) : Bool :=
  let cls := q.cls.toNat
  let ix := q.index.toNat
  cls == 2 || decide (ix ≥ classRange cls) || (q.scope != 2 && s.mesh.shownMuz.contains (homeHub (kennelIndex cls ix)))

/-- Issuing a kennel operation that the limits allow: the TAG is returned at once (R79). A WITHDRAW marks the request that
it names (R100). -/
def State.issueKen (s : State) (n : Nat) (op : KOp) (q : KArgs) : State :=
  let q := { q with ret := false }
  let t := s.pickTag n
  let s := s.drawn.emit (.portTag n t)
  if s.fencedAtCsn q then
    s.emit (.portKen n (replyTo (clusterOf n) op { args := q, master := s.coreMaster n, tag := t } .fenced false 0 0 0))
  else
    let r : Req := { tag := t, op := op, args := q, phase := .stores, silent := false, back := false, own := false,
                     wd := false, gone := false }
    let s := if op = .withdraw then s.updCore n (fun x => x.setReq q.ctag (fun r => { r with wd := true })) else s
    (s.updCore n (fun x => { x with reqs := x.reqs ++ [r] })).pushReqs n

/-- A request of the CSN's own for a core: a WITHDRAW or a return (R101, R103). It leaves at once, though the core may have 4
outstanding: the specification says only that it counts among them (assumption 79, DESIGN CHOICE). -/
def State.issueOwn (s : State) (n : Nat) (op : KOp) (q : KArgs) : State :=
  let t := s.pickTag n
  let r : Req := { tag := t, op := op, args := q, phase := .sent, silent := true, back := false, own := true, wd := false,
                   gone := false }
  (s.drawn.updCore n (fun x => { x with reqs := x.reqs ++ [r] })).sendKen n op q t

/-- The WITHDRAW of a core's request. -/
def State.withdrawReq (s : State) (n : Nat) (r : Req) : State :=
  s.issueOwn n .withdraw { r.args with ctag := r.tag, pub := false, ret := false, n := 0, m := 0, leash := 0, tmo := 0,
                                       wait := false, ahead := false }

/-- Returning a grant whose end is not delivered (R103). -/
def State.returnGrant (s : State) (n : Nat) (r : Req) (e : KRsp) : State :=
  let q := { r.args with ret := true, pub := false, m := 0, leash := 0, tmo := 0, wait := false, ahead := false, ctag := 0 }
  match r.op with
  | .lockAcq => s.issueOwn n .lockRel
      { q with n := BitVec.ofNat 16 (b2n (e.status == .abandoned) + 2 * b2n (e.status == .phantom)) }
  | .semWait => s.issueOwn n .semSignal q
  | .tokTake => s.issueOwn n .tokReturn { q with n := e.grant }
  | _ => s

/-- Whether an end is a grant of a waiting operation (R103). A LOCK_ACQ by its own holder grants nothing. -/
def isGrant (r : Req) (e : KRsp) : Bool :=
  (r.op == .lockAcq || r.op == .semWait || r.op == .tokTake) && !e.flag &&
  (e.status == .ok || e.status == .abandoned || e.status == .phantom)

/-! ### Barrier entries (R113-R120) -/

/-- The entry a core's operand names: an index, or the leg whose BAR is the handle's (R116). -/
def Csn.findEnt (c : Csn) (b : BarName) : Option Nat :=
  match b with
  | .entry ix => some ix.toNat
  | .handle h => (c.ents.find? (fun p => p.2.mode == 2 && p.2.bar == h)).map Prod.fst

/-- Whether an arrival or a wait may name the entry so: MODE 1 by index, a leg by handle (R116). -/
def Csn.namesOk (c : Csn) (b : BarName) : Option Nat :=
  match b with
  | .entry ix => if (c.entAt ix.toNat).mode = 1 then some ix.toNat else none
  | .handle _ => c.findEnt b

/-- Placing a result and its cause at each waiting core of an entry, and clearing WAITM (R119, R120). -/
def State.endWaits (s : State) (cl ix : Nat) (st : Status) (rgen : Byte) (res : BitVec 64) (c : Option Cause) : State :=
  let ws := ((List.range 48).filter (fun i => bit ((s.csnAt cl).entAt ix).waitm.toNat i)).map (fun i => cl * 64 + i)
  let s := s.emitAll (ws.map (fun n => .portBar n st rgen res))
  let s := forAll ws (fun s n =>
    let s := s.updCore n (fun x => { x with bwait := none })
    match c with | some c => s.raise n c | none => s) s
  s.updCsn cl (fun x => x.setEnt ix { x.entAt ix with waitm := 0 })

/-- Ending an entry's generation without a release: RGEN and RSTAT, then GEN + 1, counts as given (R110). -/
def State.endGen (s : State) (cl ix : Nat) (st : Status) (c : Option Cause) : State :=
  let g := ((s.csnAt cl).entAt ix).gen
  let s := s.updCsn cl (fun x =>
    x.setEnt ix { x.entAt ix with rgen := g, rstat := st, gen := g + 1, res := 0 })
  s.endWaits cl ix st g 0 c

/-- The registers of a cluster's function in force at the CSN: tolerance and TMIN (R211, R212). -/
def State.tolOf (s : State) (cl : Nat) : BitVec 32 := tolUsed (s.fnAt ((s.fnOf cl).getD 0)).cmtTolF
def State.tminOf (s : State) (cl : Nat) : Nat := bits (s.fnAt ((s.fnOf cl).getD 0)).cmtCtrlF.toNat 12 12

/-- The cluster's verdict (R212, R214). -/
def State.verdictOf (s : State) (cl : Nat) : Verdict :=
  let c := s.csnAt cl
  let low := decide (c.ntile.toNat < s.tminOf cl)
  { zrow := bf16Up c.zrow, zcol := bf16Up c.zcol, ntile := c.ntile, nbad := c.nbad, nanr := c.nanr, lost := c.lost,
    low := low, sus := c.nbad != 0 || c.nanr || c.lost || low }

/-- Clearing the residual accumulators (R211). -/
def Csn.clearAbft (c : Csn) : Csn := { c with zrow := 0, zcol := 0, ntile := 0, nbad := 0, nanr := false, lost := false }

/-- The hub a leg's ARRIVE goes to: its own field's, or X's for a proxy leg (R226). -/
def legHub (cl : Nat) (e : BarEntry) : Nat := fieldOf (e.proxy.getD cl)

/-- A leg's ARRIVE (R121, R140, R214). -/
def State.sendArrive (s : State) (cl ix : Nat) (g : Byte) (body : List Byte) (pois : Bool) (v : CsnVerdict) : State :=
  let e := (s.csnAt cl).entAt ix
  let h := legHub cl e
  s.send (.arrive h (s.epTab cl h)
    { src := cl, proxy := e.proxy, bar := e.bar, gen := g, pepoch := (s.csnAt cl).pepoch, pois := pois || e.psn, body := body, verd := v })

/-- A leg has all its arrivals: the bytes of its payload that the descriptor uses are read from the window where the barrier carries one, and the residuals
are snapshotted and cleared at a commit barrier (R117, R140, R211). The CSN knows the pack's descriptor and role as the
root's record gives them (assumption 7, DEDUCED). -/
def State.legDone (s : State) (cl ix : Nat) : State :=
  let e := (s.csnAt cl).entAt ix
  let r := s.precAt e.bar.toNat
  let v := if r.role = 1 then CsnVerdict.abft (s.verdictOf cl) else .none
  let s := if r.role = 1 then s.updCsn cl Csn.clearAbft else s
  if pdLanes r.payload = 0 then s.sendArrive cl ix e.gen [] false v
  else
    let a := windowAt r.payload e.gen
    let ps := payPieces r.payload
    (s.updCsn cl (fun x => { x with reads := x.reads ++ [⟨ix, e.gen, a, ps, [], false, v⟩] })).emitAll
      (ps.map (fun p => .cmRead cl (a + p.1) p.2))

/-- ARR of the next generation: EARLY, or the uncompleted ARR of a leg that a timeout released (R117, R126). -/
def BarEntry.nextArr (e : BarEntry) (st : Status) : Byte :=
  if st = .timeout ∧ e.arr.toNat < e.exp.toNat then e.arr else e.early

/-- A release at an entry: RGEN, RSTAT, GEN + 1, EARLY becomes ARR, results and causes; a leg complete again sends its
next ARRIVE at once (R117, R120). A release with TIMEOUT leaves a leg that had not completed its ARR (R126). -/
def State.relEnt (s : State) (cl ix : Nat) (st : Status) (res : BitVec 64) : State :=
  let e := (s.csnAt cl).entAt ix
  let s := s.updCsn cl (fun x => x.setEnt ix
    { e with rgen := e.gen, rstat := st, gen := e.gen + 1, arr := e.nextArr st, early := 0, psn := false, res := res })
  let s := s.endWaits cl ix st e.gen res (some .bar)
  if e.nextArr st = e.exp ∧ e.mode = 2 then s.legDone cl ix else s

/-- A cluster-scope barrier releases at once when ARR reaches EXP, and once more where the early arrivals complete the
next generation (R117). -/
def State.relLocal (s : State) (cl ix : Nat) : State :=
  let s := s.relEnt cl ix .ok 0
  let e := (s.csnAt cl).entAt ix
  if e.arr = e.exp then s.relEnt cl ix .ok 0 else s

/-- Whether an arrival can be counted now: room in a generation (R117, R125), and the core's earlier stores complete, in its
own cluster memory for any entry, in the leg's scope for a leg (R140, R285). -/
def State.canArrive (s : State) (n : Nat) (ix : Nat) : Bool :=
  let e := (s.csnAt (clusterOf n)).entAt ix
  let stored := storesDone (s.coreAt n) (if e.mode = 2 then (s.precAt e.bar.toNat).scope.toNat else 0)
  stored && (e.exp == 0 || decide (e.arr.toNat < e.exp.toNat) || decide (e.early.toNat < e.exp.toNat))

/-- One arrival counted (R117), and the generation it counts toward. -/
def State.arriveAt (s : State) (n ix : Nat) : State × Byte :=
  let cl := clusterOf n
  let e := (s.csnAt cl).entAt ix
  if e.exp = 0 then (s, e.gen)
  else if e.arr.toNat < e.exp.toNat then
    let s := s.updCsn cl (fun x => x.setEnt ix { e with arr := e.arr + 1 })
    if e.arr + 1 = e.exp then (if e.mode = 1 then s.relLocal cl ix else s.legDone cl ix, e.gen) else (s, e.gen)
  else (s.updCsn cl (fun x => x.setEnt ix { e with early := e.early + 1 }), e.gen + 1)

/-- BAR_WAIT once it may act (R118). -/
def State.waitAt (s : State) (n ix : Nat) (g : Byte) (w : Bool) : State :=
  let cl := clusterOf n
  let e := (s.csnAt cl).entAt ix
  if e.mode = 1 ∧ e.exp = 0 then s.emit (.portBar n .ok g 0)
  else if g = e.rgen + 1 then
    if w then
      (s.updCsn cl (fun x => x.setEnt ix { e with waitm := setBits e.waitm (n % 64) 1 1 })).updCore n
        (fun x => { x with bwait := some (ix, g) })
    else s.emit (.portBar n .timeout e.rgen 0)
  else s.emit (.portBar n e.rstat e.rgen e.res)

/-- Whether a BAR_WAIT must be held: another is pending, or it names RGEN + 2 (R118, R119). -/
def State.canWait (s : State) (n ix : Nat) (g : Byte) : Bool :=
  let e := (s.csnAt (clusterOf n)).entAt ix
  (s.coreAt n).bwait.isNone && ((e.mode == 1 && e.exp == 0) || g != e.rgen + 2)

/-- Whether an operation at a port can act now. One that names no entry it may name is not held (R116). -/
def State.canDo (s : State) (n : Nat) (o : PortOp) : Bool :=
  let c := s.csnAt (clusterOf n)
  match o with
  | .ken op q => kenRoom (s.coreAt n) op q
  | .arrive b => match c.namesOk b with | some ix => s.canArrive n ix | none => true
  | .wait b g _ => match c.namesOk b with | some ix => s.canWait n ix g | none => true
  | .sync b => match c.namesOk b with | some ix => (s.coreAt n).bwait.isNone && s.canArrive n ix | none => true

/-- The end of a port operation whose outcome is unpredictable: any status, and no other effect, as R9 confines it
(assumption 12, DESIGN CHOICE). -/
def State.anyEnd (s : State) (n : Nat) : State := s.drawn.emit (.portAny n s.anyStatus)

/-- An operation at a port acts. -/
def State.doOp (s : State) (n : Nat) (o : PortOp) : State :=
  let c := s.csnAt (clusterOf n)
  match o with
  | .ken op q => s.issueKen n op q
  | .arrive b =>
    match c.namesOk b with
    | some ix => let r := s.arriveAt n ix; r.1.emit (.portGen n .ok r.2)
    | none => s.anyEnd n
  | .wait b g w => match c.namesOk b with | some ix => s.waitAt n ix g w | none => s.anyEnd n
  | .sync b =>
    match c.namesOk b with
    | some ix =>
      let r := s.arriveAt n ix
      if r.1.canWait n ix r.2 then r.1.waitAt n ix r.2 true
      else r.1.updCore n (fun x => { x with stall := some (.wait b r.2 true) })
    | none => s.anyEnd n

/-- The operations held at the stalled ports of a cluster act as they become able to, lowest core first. -/
def settleGo (cl : Nat) : Nat → State → State
  | 0, s => s
  | fuel + 1, s =>
    match (s.coresOf cl).find? (fun n => match (s.coreAt n).stall with | some o => s.canDo n o | none => false) with
    | none => s
    | some n =>
      match (s.coreAt n).stall with
      | none => s
      | some o => settleGo cl fuel ((s.updCore n (fun x => { x with stall := none })).doOp n o)

/-- At most 48 held operations, of which a BAR_SYNC may be held twice. -/
def State.settle (s : State) (cl : Nat) : State := settleGo cl 96 s

/-- An operation given to a sync port: it acts, or stalls the port (R79, R117-R119). A port that is stalled, fenced or of
a core in reset takes none. -/
def State.atPort (s : State) (n : Nat) (o : PortOp) : State :=
  if portOpen (s.coreAt n) then
    if s.canDo n o then (s.doOp n o).settle (clusterOf n) else s.updCore n (fun x => { x with stall := some o })
  else s

/-! ### The commands of a core at its port -/

/-- KEN_ISSUE (R79). A reserved operation code, scope or class is a reserved encoding, whose outcome is unpredictable (R7). -/
def execKenIssue (c : CoreRef) (op : BitVec 5) (q : KArgs) (s : State) : Out :=
  .next (
    match kopOf op.toNat with
    | none => if portOpen (s.coreAt c.id) then s.anyEnd c.id else s
    | some o =>
      if q.scope = 3 ∨ 2 < q.cls.toNat then if portOpen (s.coreAt c.id) then s.anyEnd c.id else s
      else s.atPort c.id (.ken o q))

/-- BAR_INIT (R116): pending waits end ABORTED, GEN advances, the entry is MODE 1 with ARR, EARLY and PSN 0. -/
def State.barInit (s : State) (n ix : Nat) (exp : Byte) : State :=
  let cl := clusterOf n
  let s := s.endGen cl ix .aborted (some .bar)
  let s := s.updCsn cl (fun x => x.setEnt ix
    { x.entAt ix with mode := 1, bar := 0, exp := exp, arr := 0, early := 0, psn := false, proxy := none })
  (s.emit (.portOk n)).settle cl

/-- BAR_INIT; on an entry that holds a leg its outcome is unpredictable (R116). -/
def execBarInit (c : CoreRef) (ix : Byte) (exp : Byte) (s : State) : Out :=
  .next (
    if !portOpen (s.coreAt c.id) then s
    else if ((s.csnAt c.cl.id).entAt ix.toNat).mode = 2 then s.anyEnd c.id
    else s.barInit c.id ix.toNat exp)

/-- BAR_FREE (R116): pending waits end ABORTED, the entry becomes MODE 0. -/
def State.barFree (s : State) (n ix : Nat) : State :=
  let cl := clusterOf n
  let s := s.endGen cl ix .aborted (some .bar)
  ((s.updCsn cl (fun x => x.setEnt ix { x.entAt ix with mode := 0 })).emit (.portOk n)).settle cl

/-- BAR_FREE; on an entry that holds a leg its outcome is unpredictable (R116). -/
def execBarFree (c : CoreRef) (ix : Byte) (s : State) : Out :=
  .next (
    if !portOpen (s.coreAt c.id) then s
    else if ((s.csnAt c.cl.id).entAt ix.toNat).mode = 2 then s.anyEnd c.id
    else s.barFree c.id ix.toNat)

/-- BAR_ARRIVE (R117). A name the cluster does not hold is unpredictable (R116). -/
def execBarArrive (c : CoreRef) (b : BarName) (s : State) : Out := .next (s.atPort c.id (.arrive b))

/-- BAR_WAIT (R118). -/
def execBarWait (c : CoreRef) (b : BarName) (g : Byte) (wait : Bool) (s : State) : Out := .next (s.atPort c.id (.wait b g wait))

/-- BAR_SYNC (R116). -/
def execBarSync (c : CoreRef) (b : BarName) (s : State) : Out := .next (s.atPort c.id (.sync b))

/-- BAR_READ (R116): the entry named, whatever its MODE. -/
def execBarRead (c : CoreRef) (b : BarName) (s : State) : Out :=
  .next (
    if !portOpen (s.coreAt c.id) then s
    else
      match (s.csnAt c.cl.id).findEnt b with
      | none => s.anyEnd c.id
      | some ix => s.emit (.portEntry c.id (barEntryWord ((s.csnAt c.cl.id).entAt ix))))

/-- TICK_ARM (R171). -/
def execTickArm (c : CoreRef) (s : State) : Out :=
  .next (if portOpen (s.coreAt c.id) then (s.updCore c.id (fun x => { x with armed := true })).emit (.portOk c.id) else s)

/-- The word TICK_READ returns (R171): TICK, PHASE and SINCE, which saturates. -/
def tickWord (c : Csn) (now : Nat) : BitVec 64 :=
  BitVec.ofNat 64 (c.tick.toNat * 2 ^ 32 + c.phase.toNat * 2 ^ 29 + Nat.min ((now - c.edgeAt) / 3) 0x7FFFFFF)

/-- TICK_READ. -/
def execTickRead (c : CoreRef) (s : State) : Out :=
  .next (if portOpen (s.coreAt c.id) then s.emit (.portWord c.id (tickWord (s.csnAt c.cl.id) s.now)) else s)

/-- A commit word (R219). -/
def cmtWord (cep : BitVec 32) (rpl : BitVec 2) (act : Nat) (sd : Bool) : BitVec 64 :=
  BitVec.ofNat 64 (cep.toNat * 2 ^ 32 + rpl.toNat * 2 ^ 30 + act * 2 ^ 16 + b2n sd * 2 ^ 15)

/-- A cluster's commit word: before its first edge it shows the checkpoint epoch and the cluster's own ID (R218, R219). -/
def State.cmtWordOf (s : State) (cl : Nat) : BitVec 64 :=
  (s.csnAt cl).cmtw.getD (cmtWord (((s.fnOf cl).map (fun f => (s.fnAt f).ckpt)).getD 0) 0 cl false)

/-- CMT_READ. -/
def execCmtRead (c : CoreRef) (s : State) : Out :=
  .next (if portOpen (s.coreAt c.id) then s.emit (.portWord c.id (s.cmtWordOf c.cl.id)) else s)

/-- WHISTLE_CAUSE_WRITE (R92). -/
def execWhistleCauseWrite (c : CoreRef) (v : Reg) (s : State) : Out :=
  .next (s.updCore c.id (fun x => { x with wcr := writeCause x.wcr v }))

/-! ### Fences and stores (R282-R285) -/

/-- SYNC_FENCE: W 0 with I 0 completes OK at once; otherwise it is pending, and with I 1 the invalidation is asked for.
SCOPE 3 is a reserved encoding: it completes with either of the statuses that R283 allows (R7, R9; assumption 12, DESIGN
CHOICE). -/
def execSyncFence (c : CoreRef) (scope : BitVec 2) (w : Bool) (i : Bool) (s : State) : Out :=
  .next (
    if portOpen (s.coreAt c.id) then
      if scope = 3 then s.drawn.emit (.fenceDone c.id (if s.peek % 2 = 0 then .ok else .spanLost))
      else if !w && !i then s.emit (.fenceDone c.id .ok)
      else
        let s := s.updCore c.id (fun x => { x with fence := some ⟨scope, w, i, i⟩ })
        if i then s.emit (.cinvReq c.id) else s
    else s)

/-- Whether a pending fence has nothing left to wait for (R282): a request that an ABORT has ended, and the CSN's own, are
no operations of the core that await a reply. -/
def fenceReady (x : Core) (f : Fence) : Bool :=
  (!f.w || (storesDone x f.scope.toNat && x.reqs.all (fun r => r.silent || r.own))) && !f.inv

/-- FENCE_COMPLETE: OK once the waited accesses are complete; SPAN_LOST for a SPAN fence whose outstanding stores cross a
link declared lost (R283). That a link was declared lost while such stores were outstanding is in State; that they cross it
is known to the data lanes, and is the operand. -/
def execFenceComplete (c : CoreRef) (lost : Bool) (s : State) : Out :=
  .next (
    let x := s.coreAt c.id
    match x.fence with
    | none => s
    | some f =>
      if fenceReady x f then (s.updCore c.id (fun x => { x with fence := none })).emit (.fenceDone c.id .ok)
      else if lost && f.w && f.scope == 2 && x.spnCut && !f.inv then
        (s.updCore c.id (fun x => { x with fence := none })).emit (.fenceDone c.id .spanLost)
      else s)

/-- The span controller declares a link lost: the cores with stores to other wafers outstanding (R283). -/
def State.cutStores (s : State) : State :=
  s.mapCore (fun x => { x with spnCut := x.spnCut || x.stSpn != 0 })

/-- STORE_COUNTS_ZERO: the counts of R274 as the core reports them; what waited for them goes on (R284, R285). -/
def execStoreCountsZero (c : CoreRef) (own : Byte) (waf : Byte) (spn : Byte) (s : State) : Out :=
  .next (
    let s := s.updCore c.id (fun x => { x with stOwn := own, stWaf := waf, stSpn := spn, spnCut := x.spnCut && spn != 0 })
    (s.pushReqs c.id).settle c.cl.id)

/-! ### Deferred results at the CSN (R49, R91, R101, R103) -/

/-- The end that a hub sends under an ABORT: its status is the ABORT's, and the core has not asked for it (R103, R390). -/
def abortedEnd (r : Req) (e : KRsp) : Bool :=
  !r.wd && (e.status == .aborted || (e.status == .spanLost && bits e.src.toNat 0 7 == 0x7F))

/-- The end of a core's request reaches its CSN: consumed for the CSN's own requests, consumed without delivery for a
retired one, with the grant returned where R103 asks it, and otherwise placed at the sync port. `c` is the cause a
WHISTLE sets, with KSTAT and KTAG; an immediate reply sets none. An end under an ABORT that has not yet reached the CSN is
consumed too, and the ABORT then ends the request at the port (R103). -/
def State.takeEnd (s : State) (n : Nat) (c : Option Cause) (e : KRsp) : State :=
  match (s.coreAt n).reqOf e.tag with
  | none => s
  | some r =>
    if !r.own && !r.silent && c.isSome && abortedEnd r e then
      s.updCore n (fun x => x.setReq e.tag (fun r => { r with gone := true }))
    else
    let s := s.updCore n (fun x => x.dropReq e.tag)
    let s :=
      if r.own then s
      else if r.silent then (if r.back && isGrant r e then s.returnGrant n r e else s)
      else
        let s := s.emit (.portKen n e)
        match c with
        | some c => s.updCore n (fun x => { x with wcr := setCause (setKtag x.wcr e.tag e.status) c })
        | none => s
    (s.pushReqs n).settle (clusterOf n)

/-- A WHISTLE or KEN_RSP at a CSN: a CSN in reset discards what it does not await at its port (R67) and consumes the ends
of the requests it retires (R101, R391); a stale epoch discards it, and counts it unless it is a notice (R49). -/
def State.endAtCsn (s : State) (n : Nat) (tep : Epoch) (c : Option Cause) (e : KRsp) : State :=
  let cl := clusterOf n
  if ((s.csnAt cl).rst).isSome && ((s.coreAt n).reqOf e.tag).isNone then
    s.updCsn cl (fun x => { x with eject := x.eject + 1 })
  else if tep != (s.coreAt n).epoch then
    if c.isSome && c != some .lock && c != some .sem then s else s.updCsn cl (fun x => { x with stale := x.stale + 1 })
  else
    match c with
    | some .leash => s.raise n .leash
    | some .bar => s.raise n .bar
    | some .tick => s.raise n .tick
    | some .abort => s.raise n .abort
    | c => s.takeEnd n c e

/-- WHISTLE (R91, R92). -/
def execWhistle (c : CoreRef) (tep : Epoch) (cause : Cause) (r : KRsp) (s : State) : Out :=
  let m := Msg.whistle c.id tep cause r
  .next (if s.stopped m then s.stopMsg m else (s.taken m).endAtCsn c.id tep (some cause) r)

/-! ### Broadcast reads (R64) -/

/-- Whether a read entering now joins a merge: same line, open, entered within 32 cycles of the cluster clock. -/
def mergeable (m : Merge) (line now op : Nat) : Bool :=
  m.opn && m.line == line && decide ((now - m.since) * opFreq op ≤ 32 * 30) && decide (m.cores.length < 48)

/-- BROADCAST_READ. -/
def execBroadcastRead (c : CoreRef) (addr : BitVec 22) (s : State) : Out :=
  .next (
    let cl := c.cl.id
    let line := addr.toNat / 64
    let x := s.csnAt cl
    let op := (s.hubAt (fieldOf cl)).op.toNat
    if x.merges.any (fun m => mergeable m line s.now op) then
      s.updCsn cl (fun x => { x with merges := x.merges.map (fun m =>
        if mergeable m line s.now op then { m with cores := m.cores ++ [c.id] } else m) })
    else
      let open_ := decide ((x.merges.filter (·.opn)).length < 8)
      (s.updCsn cl (fun x => { x with merges := x.merges ++ [⟨line, s.now, [c.id], open_⟩] })).emit
        (.cmRead cl (line * 64) 64))

/-- CM_WRITE_SNOOP: a write to a line closes its open merge. -/
def execCmWriteSnoop (cl : Cluster) (addr : BitVec 22) (s : State) : Out :=
  .next (s.updCsn cl.id (fun x => { x with merges := x.merges.map (fun m =>
    if m.line == addr.toNat / 64 then { m with opn := false } else m) }))

/-- The piece of a payload read that some bytes at an address answer. -/
def PayRead.piece (r : PayRead) (addr len : Nat) : Option (Nat × Nat) :=
  r.left.find? (fun p => r.win + p.1 == addr && p.2 == len)

/-- Bytes placed at an offset of a region, the bytes before them 0 where nothing is. -/
def putBytes (body : List Byte) (off : Nat) (bs : List Byte) : List Byte :=
  sliceAt body 0 off ++ bs ++ body.drop (off + bs.length)

/-- A payload read once a piece has come. -/
def PayRead.got (r : PayRead) (p : Nat × Nat) (bs : List Byte) (pois : Bool) : PayRead :=
  { r with left := r.left.erase p, body := putBytes r.body p.1 bs, pois := r.pois || pois }

/-- CM_RSP: the oldest read of the line is answered, every merged requester with the same data; or a piece of a leg's payload
has come, and with the last one the ARRIVE goes, with its poison (R64, R140, R159). -/
def State.cmRsp (s : State) (cl addr : Nat) (bytes : List Byte) (pois : Bool) : State :=
  let x := s.csnAt cl
  match x.reads.find? (fun r => (r.piece addr bytes.length).isSome) with
  | some r =>
    let r' := r.got ((r.piece addr bytes.length).getD (0, 0)) bytes pois
    if r'.left ≠ [] then s.updCsn cl (fun x => { x with reads := x.reads.replace r r' })
    else
      let s := s.updCsn cl (fun x => { x with reads := x.reads.erase r })
      let e := (s.csnAt cl).entAt r.ent
      if e.mode = 2 ∧ e.gen = r.gen then
        let s := if r'.pois then s.updCsn cl (fun x => x.setEnt r.ent { x.entAt r.ent with psn := true }) else s
        s.sendArrive cl r.ent r.gen r'.body r'.pois r.verd
      else s
  | none =>
    match x.merges.find? (fun m => m.line == addr / 64) with
    | some m => (s.updCsn cl (fun x => { x with merges := x.merges.erase m })).emit (.cmData cl m.cores m.line bytes)
    | none => s

def execCmRsp (cl : Cluster) (addr : BitVec 22) (bytes : List Byte) (pois : Bool) (s : State) : Out :=
  .next (s.cmRsp cl.id addr.toNat bytes pois)

/-! ### Residuals and droop counts (R211, R449) -/

/-- A residual record at the CSN's accumulators (R211). The maximum with a NaN is not stated: it is a free value. -/
def Csn.abft (c : Csn) (zr zc tol : BitVec 32) (fr fc : BitVec 32) : Csn :=
  let odd (v : BitVec 32) := f32Nan v || f32Inf v
  let over1 (v : BitVec 32) := !f32Nan v && decide (f32Key tol < f32Key v)
  { c with
    ntile := satInc c.ntile
    zrow := if f32Nan zr || f32Nan c.zrow then fr else f32Max c.zrow zr
    zcol := if f32Nan zc || f32Nan c.zcol then fc else f32Max c.zcol zc
    nbad := if over1 zr || over1 zc then satInc c.nbad else c.nbad
    nanr := c.nanr || odd zr || odd zc }

/-- ABFT_RECORD: a record the CSN cannot accept is lost. -/
def execAbftRecord (cl : Cluster) (zr : BitVec 32) (zc : BitVec 32) (accepted : Bool) (s : State) : Out :=
  .next (
    if accepted then
      let fr := BitVec.ofNat 32 s.peek
      let fc := BitVec.ofNat 32 s.drawn.peek
      s.drawn.drawn.updCsn cl.id (fun c => c.abft zr zc (s.tolOf cl.id) fr fc)
    else s.updCsn cl.id (fun c => { c with lost := true }))

/-- DROOP_EVENT: the cluster's saturating counter. -/
def execDroopEvent (c : CoreRef) (s : State) : Out :=
  .next (s.updCsn c.cl.id (fun x => { x with droop := satInc x.droop }))

end Sys2Proof.Machine
end

