-- ==== Sys2Proof/Machine/Mesh.lean ====
section
/-! DEFINITION. The sync mesh: links and retries, routes and reloads, the express tree, the distance table. -/

namespace Sys2Proof.Machine

open Sys2Proof

/-! ### The express tree (R60) -/

/-- The key under which the express link of two hubs is kept. -/
def pairKey (a b : Nat) : Nat := 131072 + Nat.min a b * 84 + Nat.max a b

/-- Two hubs have an in-service express link (R60). -/
def State.expressUp (s : State) (a b : Nat) : Bool :=
  ((tget [] s.cask.express a).contains b || (tget [] s.cask.express b).contains a) && !(s.linkAt (pairKey a b)).down

/-- One pass of step 2 of R60 for depth d: unplaced hubs in ascending order take the lowest eligible parent. -/
def treePass (s : State) (d : Nat) (t : Tbl (Nat × Nat × Nat)) : Tbl (Nat × Nat × Nat) :=
  (List.range 84).foldl (fun t f =>
    if (s.hubAt f).muz || (t.map Prod.fst).contains f then t
    else
      match (List.range 84).find? (fun p =>
        (t.any (fun e => e.1 == p && e.2.2.1 + 1 == d)) && s.expressUp f p
          && decide ((t.filter (fun e => e.2.1 == p && e.1 != p)).length < 4)) with
      | some p => tins t f (p, d, 0)
      | none => t) t

/-- Step 3 of R60: a hub not placed takes the placed hub it reaches with the fewest mesh hops, ties to the lower field,
and shows its parent's depth plus one. One that reaches none stays off the tree. -/
def treeRest (s : State) (t : Tbl (Nat × Nat × Nat)) : Tbl (Nat × Nat × Nat) :=
  (List.range 84).foldl (fun t' f =>
    if (s.hubAt f).muz || (t.map Prod.fst).contains f then t'
    else
      match t.foldl (fun (b : Option (Nat × Nat × Nat)) e =>
        match s.hubMeshHops f e.1, b with
        | some h, some (h', p', d') => if h < h' then some (h, e.1, e.2.2.1) else some (h', p', d')
        | some h, none => some (h, e.1, e.2.2.1)
        | none, b => b) none with
      | some (h, p, d) => tins t' f (p, d + 1, h)
      | none => t') t

/-- The express tree of R60 from the field of the active root. The root's own entry names itself at depth 0. -/
def State.buildTree (s : State) : Tbl (Nat × Nat × Nat) :=
  let t0 := [(s.rootField, (s.rootField, 0, 0))]
  treeRest s (treePass s 3 (treePass s 2 (treePass s 1 t0)))

/-- Parent, depth and mesh hops to the parent of a hub on the tree in force. -/
def State.treeAt (s : State) (f : Nat) : Nat × Nat × Nat := tget (s.rootField, 0, 0) s.mesh.tree f

/-- A hub and its ancestors, up to the root's field. -/
def State.chain (s : State) : Nat → Nat → List Nat
  | 0, f => [f]
  | n + 1, f => if f = s.rootField then [f] else f :: State.chain s n (s.treeAt f).1

/-- The edges of the tree path between two hubs, each named by its child (R59). -/
def State.pathEdges (s : State) (a b : Nat) : List Nat :=
  let ca := s.chain 5 a
  let cb := s.chain 5 b
  ca.filter (fun x => !cb.contains x) ++ cb.filter (fun x => !ca.contains x)

/-- Express hops and mesh hops between two hubs, by the tree in force. -/
def State.hubPath (s : State) (a b : Nat) : Nat × Nat :=
  (s.pathEdges a b).foldl (fun (r : Nat × Nat) e =>
    let m := (s.treeAt e).2.2
    if m = 0 then (r.1 + 1, r.2) else (r.1, r.2 + m)) (0, 0)

/-- What the route computation gives the next generation of the distance table: the tree, the clusters with a detour, the
muzzled hubs (R58, R60, R69-R71). -/
def State.publish (s : State) : State :=
  { s with mesh := { s.mesh with
    tree := s.buildTree
    far := (List.range 8064).filterMap (fun i =>
      let c := i / 96 * 128 + i % 96
      if s.columnUp c then none else (s.hopsToHub c).map (fun h => (c, h)))
    shownMuz := (List.range 84).filter (fun f => (s.hubAt f).muz) } }

/-! ### The distance table (R69-R72) -/

/-- A distance entry (R70). -/
def distWord (mesh expr lat bwc : Nat) : BitVec 32 := BitVec.ofNat 32 (mesh * 2 ^ 24 + expr * 2 ^ 20 + lat * 2 ^ 8 + bwc)

/-- LAT of a hub entry (R71). -/
def latOf (mesh expr : Nat) : Nat := 50 + 2 * mesh + 29 * expr

/-- MESH and EXPR of a cluster to a hub, for the route in force at the table's generation (R70, R71). -/
def State.hopsTo (s : State) (cl h : Nat) : Nat × Nat :=
  let p := s.hubPath (fieldOf cl) h
  (tget (rowOf cl + 1) s.mesh.far cl + p.2, p.1)

/-- LAT of a cluster to a hub. -/
def State.lat (s : State) (cl h : Nat) : Nat := latOf (s.hopsTo cl h).1 (s.hopsTo cl h).2

/-- Entry e of a cluster's record: hubs 0-83, memory ports 84-107; all ones for an absent cluster or a muzzled hub. The
image at the root and the copy of each CSN hold the generation last published, which reaches every copy before its event
(R70, R72). -/
def State.distEntry (s : State) (cl e : Nat) : BitVec 32 :=
  if s.absent cl then 0xFFFFFFFF
  else if e < 84 then
    if s.mesh.shownMuz.contains e then 0xFFFFFFFF
    else
      let p := s.hopsTo cl e
      distWord p.1 p.2 (latOf p.1 p.2) 0
  else tget 0 s.mesh.ports (cl * 32 + (e - 84))

/-- A field record of the image (R69). PARENT and DEPTH of a muzzled hub, which is not on the tree, are not stated: the
model shows the active root's field and 0 (assumption 74, DESIGN CHOICE). -/
def State.fieldRecord (s : State) (f : Nat) : BitVec 32 :=
  let root := f == s.rootField
  let parent := if root then 0xFF else (s.treeAt f).1
  let depth := if root then 0 else (s.treeAt f).2.1
  BitVec.ofNat 32 (gridRow f * 2 ^ 24 + gridCol f * 2 ^ 16 + parent * 2 ^ 8 + depth * 2 ^ 4
    + b2n (!s.mesh.shownMuz.contains f) + 2 * b2n root + 4 * b2n (f == s.standbyField))

/-- The cluster IDs in the order FIELD × 96 + LOCAL (R69, R105). -/
def clusterAt (i : Nat) : Nat := i / 96 * 128 + i % 96

/-- The distance table image of 3,484,048 bytes (R69). -/
def State.distImage (s : State) : List Byte :=
  let hdr0 := leBytes 12 0 ++ leBytes 4 1 ++ leBytes 4 s.mesh.gen.toNat ++ leBytes 3 0
    ++ [BitVec.ofNat 8 s.rootField, BitVec.ofNat 8 s.standbyField] ++ leBytes 2 8064 ++ [84, 24] ++ leBytes 31 0
  let body := (List.range 84).flatMap (fun f => leBytes 4 (s.fieldRecord f).toNat)
    ++ (List.range 8064).flatMap (fun i =>
      (List.range 108).flatMap (fun e => leBytes 4 (s.distEntry (clusterAt i) e).toNat))
  hdr0 ++ leBytes 4 (crc32 (hdr0 ++ body)).toNat ++ body

/-- CORE_DIST_READ: one entry of the core's own cluster (R72). Numbers 108-127 name none: a reserved encoding, whose word is
a free value (R7, R9; assumption 12). -/
def execCoreDistRead (c : CoreRef) (entry : BitVec 7) (s : State) : Out :=
  .next (
    if !portOpen (s.coreAt c.id) then s
    else if 107 < entry.toNat then s.drawn.emit (.portWord c.id (BitVec.ofNat 64 s.peek))
    else s.emit (.portWord c.id ((s.distEntry c.cl.id entry.toNat).zeroExtend 64)))

/-! ### Links (R52, R53, R58) -/

/-- The unit of a link number: mesh links by R396, express links as 65,536 plus the child's field. -/
def linkUnit (l : Nat) : UnitId := if l < 65536 then unitId .meshLink l else unitId .expressLink (l - 65536)

/-- A link goes down: its routers switch the affected destinations, and each sends a LINK_NOTE (R58). -/
def State.downLink (s : State) (l : Nat) : State :=
  if (s.linkAt l).down then s
  else
    let s := s.updLink l (fun x => { x with down := true, retries := 0 })
    let s := if l < 65536 then s
      else s.updLink (pairKey (l - 65536) (s.treeAt (l - 65536)).1) (fun x => { x with down := true })
    (s.sendAll [.linkNote l, .linkNote l]).report 0x03 (linkUnit l) 1 0 8 none

/-- LINK_RETRY with the number of bits in error that the receiver's decoder finds: one or two are corrected and counted,
with at most one LOG in a millisecond (R52, R401); three or more ask for a retransmission, at most 4 for one flit, and
the fifth failure puts the link down (R53). No error ends the run of failures. -/
def execLinkRetry (link : BitVec 17) (errBits : BitVec 7) (s : State) : Out :=
  .next (
    let l := link.toNat
    if errBits = 0 then s.updLink l (fun x => { x with retries := 0 })
    else if errBits.toNat ≤ 2 then
      let s := s.updLink l (fun x => { x with corrected := x.corrected + 1, ceSum := x.ceSum + 1, retries := 0 })
      let due := match (s.linkAt l).ceAt with | none => true | some t => decide (t + 3000000 ≤ s.now)
      if due then
        (s.report 0x01 (linkUnit l) 0 0 0 none (s.linkAt l).ceSum).updLink l (fun x => { x with ceSum := 0, ceAt := some s.now })
      else s
    else
      let s := (s.updLink l (fun x => { x with retries := x.retries + 1 })).report 0x02 (linkUnit l) 1 0 1 none
      if (s.linkAt l).retries > 4 then s.downLink l else s)

/-- LINK_NOTE at the root: the recomputation of the routes starts (R58). -/
def execLinkNote (link : BitVec 17) (s : State) : Out :=
  let m := Msg.linkNote link.toNat
  .next (
    if s.stopped m then s.stopMsg m
    else let s := s.taken m; { s with mesh := { s.mesh with reloading := true } })

/-- The output of a router toward a destination by its table: the primary while its link is up, else the alternate, none
where both are down and the message is held (R58). Outputs 0-3 are the directions of R396; `up` says which links are up. -/
def outputOf (up : Nat → Bool) (row : BitVec 4 × BitVec 4) : Option (BitVec 4) :=
  if up row.1.toNat then some row.1 else if up row.2.toNat then some row.2 else none

/-- The link at an output of a cluster's router (R396): the end with the lower cluster ID names it. -/
def linkAtOutput (c o : Nat) : Nat :=
  let x := meshX c
  let y := meshY c
  if o = 0 then (if rowOf c = 0 then c * 4 else clusterXY x (y - 1) * 4 + 2)
  else if o = 1 then c * 4 + 1
  else if o = 2 then c * 4 + 2
  else clusterXY (x - 1) y * 4 + 1

/-- The output that a cluster's router uses toward a unit address now: by the table that ROUTE_LOAD gave it (R58). -/
def State.routerOutput (s : State) (c dest : Nat) : Option (BitVec 4) :=
  outputOf (fun o => !(s.linkAt (linkAtOutput c o)).down) (tget (0, 0) s.mesh.routes (c * 16384 + dest))

/-- ROUTE_LOAD at a router, that of a cluster or of a hub port (R46): its primary and alternate outputs by destination
(R58). -/
def execRouteLoad (router : Field × Option Loc) (entries : List (Nat × BitVec 4 × BitVec 4)) (s : State) : Out :=
  let unit := router.1.val * 128 + (match router.2 with | some l => l.val | none => 0x7D)
  let m := Msg.routeLoad unit entries
  let put (t : Tbl (BitVec 4 × BitVec 4)) (e : Nat × BitVec 4 × BitVec 4) :=
    tset (0, 0) t (unit * 16384 + e.1) (e.2.1, e.2.2)
  .next (
    if s.stopped m then s.stopMsg m
    else let s := s.taken m; { s with mesh := { s.mesh with routes := entries.foldl put s.mesh.routes } })

/-- Memory-port entries come from the data mesh, and are carried unchanged (R71). -/
def putPorts (t : Tbl (BitVec 32)) (ps : List PortEnt) : Tbl (BitVec 32) :=
  ps.foldl (fun (t : Tbl (BitVec 32)) e => tset 0 t (e.cl.id * 32 + e.port.val) e.word) t

/-- The tables are reloaded, the tree is built again, the messages that find no route are discarded and counted, and the
distance table has a new generation (R58, R60, R69). -/
def State.reloadRoutes (s : State) : State :=
  let lost (m : Msg) : Bool := s.heldAtRouter m
  State.publish { s with
    net := s.net.filter (fun m => !lost m)
    mesh := { s.mesh with
      reloading := false, gen := s.mesh.gen + 1, discarded := s.mesh.discarded + (s.net.filter lost).length,
      links := s.mesh.links.filterMap (fun (p : Nat × Link) =>
        let v := if p.1 < 65536 || 131071 < p.1 then p.2 else { p.2 with down := false }
        if v = Link.init then none else some (p.1, v)) } }

/-- MC_BRANCH_DROP: a branch below a router has been granted no VC2 flit for 4,096 cycles and misses the oldest LOAD_MC that
has waited as long; the router counts it (R65). The clusters beyond the router in its column are the branch. -/
def execMcBranchDrop (router : Cluster) (s : State) : Out :=
  .next (
    let r := router.id
    let below (c : Nat) : Bool := fieldOf c == fieldOf r && colOf c == colOf r && decide (rowOf r ≤ rowOf c)
    let hit (m : Msg) : Bool := match m with | .loadMc d _ t => d.any below && decide (t + 4096 ≤ s.now) | _ => false
    match s.net.find? hit with
    | some (.loadMc d p t) =>
      let s := { s with mesh := { s.mesh with mcDrop := tset 0 s.mesh.mcDrop r (tget 0 s.mesh.mcDrop r + 1) } }
      let rest := d.filter (fun c => !below c)
      { s with net := if rest = [] then s.net.erase (.loadMc d p t) else s.net.replace (.loadMc d p t) (.loadMc rest p t) }
    | _ => s)

/-! ### The tick spine at a CSN (R63) -/

/-- CSN_SPINE_INPUT_FAIL: from now the hub sends this CSN an EDGE message at each edge (R63). -/
def execCsnSpineInputFail (cl : Cluster) (s : State) : Out :=
  .next ((s.updCsn cl.id (fun c => { c with spineFail := true })).report 0x11 (unitId .csn cl.id) 1 0 0 (s.fnOf cl.id))

end Sys2Proof.Machine
end

