-- ==== Sys2Proof/Machine/Point.lean ====
section
/-! DEFINITION. The operating point of a field (R175, R204, R450, R451, R462) and the commands that move it. -/

namespace Sys2Proof.Machine

open Sys2Proof

/-- The point a field should run at: the highest-numbered of the granted points of the phases begun at the hub, and OP7
under a force; OP0 where there is none (R175; assumption 24). -/
def Hub.wantOp (x : Hub) : Nat :=
  (x.walks.map (fun p => match p.2 with
    | some w => if w.started then ((w.msg.gops[w.phase]?).getD 0).toNat else 0
    | none => 0)).foldl Nat.max (if x.force then 7 else 0)

/-- A change of a field's point disturbs the running ticks of the partitions there, but for the one whose phase grant it
is (R193). -/
def State.disturb (s : State) (h : Nat) (by_ : Option Nat) : State :=
  let fs := (s.fn.filter (fun p => some p.1 != by_ && p.2.members.any (fun c => fieldOf c == h))).map Prod.fst
  forAll fs (fun s f => s.updFn f (fun x =>
    { x with open_ := x.open_.map (fun u => if u.stop.isNone then { u with clean := false } else u) })) s

/-- The hub moves its field toward the point it should run at: a slower point at once, its voltage after the clock's
acknowledgement; a faster one after the regulator reports the new voltage (R175, R451). -/
def State.setPoint (s : State) (h : Nat) (by_ : Option Nat) : State :=
  let x := s.hubAt h
  let w := x.wantOp
  let p := BitVec.ofNat 3 w
  if x.op.toNat = w then s.updHub h (fun x => { x with opNext := none })
  else if x.op.toNat < w then
    ((s.updHub h (fun x => { x with op := p, opNext := none, fclkWait := true, voltDue := true })).emit (.fclkOp h p)).disturb h by_
  else if x.opNext = some p then s
  else (s.updHub h (fun x => { x with opNext := some p, opBy := by_ })).emit (.avsTarget h p)

/-- OP_CHANGE_COMPLETE: the regulator reports the new voltage, and the field's clock moves to the faster point (R175). -/
def State.opChanged (s : State) (h : Nat) : State :=
  match (s.hubAt h).opNext with
  | none => s
  | some p => ((s.updHub h (fun x => { x with op := p, opNext := none, fclkWait := true })).emit (.fclkOp h p)).disturb h
      (s.hubAt h).opBy

def execOpChangeComplete (hub : Field) (s : State) : Out := .next (s.opChanged hub.val)

/-- FCLK_ACK: the new clock runs; the voltage of a slower point is written now (R451). -/
def State.fclkAcked (s : State) (h : Nat) : State :=
  let x := s.hubAt h
  let s := s.updHub h (fun x => { x with fclkWait := false, voltDue := false })
  if x.voltDue then s.emit (.avsTarget h x.op) else s

def execFclkAck (hub : Field) (s : State) : Out := .next (s.fclkAcked hub.val)

/-- FCLK_OP_REPEAT: while a forced field's acknowledgement is late, fclk_op is repeated (R462). -/
def execFclkOpRepeat (hub : Field) (s : State) : Out :=
  .next (let x := s.hubAt hub.val
         if x.fclkWait && x.force then s.emit (.fclkOp hub.val x.op) else s)

/-- AVS_READ: a pair of current and voltage of the running interval (R451). -/
def execAvsRead (hub : Field) (cur : BitVec 16) (volt : BitVec 12) (s : State) : Out :=
  .next (s.updHub hub.val (fun x => { x with avs := x.avs ++ [(cur, volt)] }))

/-- THERMAL_READ: the four sensors (R451). -/
def execThermalRead (hub : Field) (t0 : BitVec 12) (t1 : BitVec 12) (t2 : BitVec 12) (t3 : BitVec 12) (s : State) : Out :=
  .next (s.updHub hub.val (fun x => { x with temps := [t0, t1, t2, t3] }))

/-- PMBUS_READ: READ_VIN, STEP and SLEW (R451). -/
def execPmbusRead (hub : Field) (vin : BitVec 16) (step : BitVec 12) (slew : BitVec 12) (s : State) : Out :=
  .next (s.updHub hub.val (fun x => { x with vin := vin, step := step, slew := slew }))

/-- The alert allowance of R131: CPW 6, SPC 64. -/
def alertWord : BitVec 16 := 0x0640

/-- REG_ALERT_ASSERT: the field is forced to OP7, the alert allowance is in force, and the root is told (R131, R204). -/
def State.alertOn (s : State) (h : Nat) : State :=
  let x := s.hubAt h
  let s := s.updHub h (fun x => { x with alert := true, alr := true, force := true, allow := alertWord })
  (s.setPoint h none).send (.alertNote h { asrt := true, cause := 0, opb := x.op, time := s.units })

def execRegAlertAssert (hub : Field) (s : State) : Out := .next (s.alertOn hub.val)

/-- REG_ALERT_DEASSERT: the second ALERT_NOTE. The force stays until the kiln lifts it (R204, R205). -/
def State.alertOff (s : State) (h : Nat) : State :=
  (s.updHub h (fun x => { x with alert := false })).send
    (.alertNote h { asrt := false, cause := 0, opb := (s.hubAt h).op, time := s.units })

def execRegAlertDeassert (hub : Field) (s : State) : Out := .next (s.alertOff hub.val)

end Sys2Proof.Machine
end

