-- ==== Sys2Proof/Machine/Barrier.lean ====
section
/-! DEFINITION. Wafer- and span-scope barriers: arrivals at a hub and at the root, folds, timeouts, opens, decisions,
releases and their waves, the release at a CSN, legs, lost members, ends without a release. -/

namespace Sys2Proof.Machine

open Sys2Proof

/-! ### Records -/

/-- The key of a hub's field record. -/
def frecKey (h b : Nat) : Nat := h * 65536 + b
def State.frecOf (s : State) (h b : Nat) : FieldRec := s.frecAt (frecKey h b)
def State.updFr (s : State) (h b : Nat) (g : FieldRec → FieldRec) : State := s.updFrec (frecKey h b) g

/-- The fields whose MFS bit is set. -/
def mfsFields (m : BitVec 84) : List Nat := (List.range 84).filter (fun f => bit m.toNat f)
/-- The LOCALs whose MEM bit is set, rising. -/
def memLocals (m : BitVec 96) : List Nat := (List.range 96).filter (fun i => bit m.toNat i)

/-- A stale discard of a function's barrier (R124). -/
def State.countStale (s : State) (f : Nat) : State := s.updFn f (fun x => { x with stale := satInc x.stale })

/-- The barriers of the known-answer packs and of the loader, which belong to no function (R269, R427). -/
def noFnBar (b : Nat) : Bool := decide (65520 ≤ b)

/-- A stale discard of a barrier's message: a barrier that is FREE, or belongs to no function, counts for none. -/
def State.countStaleBar (s : State) (b : Nat) : State :=
  if (s.precAt b).st = .free ∨ noFnBar b then s else s.countStale (s.precAt b).func.val

/-- The current epoch of the partition that owns a barrier. -/
def State.barEpoch (s : State) (b : Nat) : Epoch :=
  if noFnBar b then (s.precAt b).pepoch else (s.fnAt (s.precAt b).func.val).pepoch

/-! ### Whose step a barrier belongs to

A walker is a function, by its number, or the known-answer step, 64. -/

def katWalker : Nat := 64

def State.walkerOf (s : State) (b : Nat) : Nat := if noFnBar b then katWalker else (s.precAt b).func.val

/-- The running step of a walker. -/
def State.runOf (s : State) (w : Nat) : Option Run :=
  if w = katWalker then s.kat.cur.bind (fun k => if k.begun then some k.run else none) else (s.fnAt w).run

/-- The clusters on which a walker's step runs. -/
def State.walkSet (s : State) (w : Nat) : List Nat :=
  if w = katWalker then (s.kat.cur.map (·.set)).getD [] else (s.fnAt w).members

/-- The key under which a hub keeps a walker's step; that of the coming edge is 64 higher (R255). -/
def walkKey (w : Nat) : Nat := if w = katWalker then 128 else w
def walkerKey (k : Nat) : Nat := if k = 128 then katWalker else k

/-- The function whose phase grant a walker's points are (R193). -/
def State.walkFn (s : State) (w : Nat) : Option Nat := if w = katWalker then s.kat.cur.bind (·.owner) else some w

/-! ### Barrier timers at a hub (R94, R95, R127) -/

/-- Where a kennel timer runs, moved to the scan list. -/
def State.relocate (s : State) (u : TimerOf) : State :=
  match u with
  | .leash k => s.updKen k (fun e => { e with leash := .scan })
  | .wait k m t => s.updKen k (fun e => { e with queue := e.queue.map (fun w =>
      if w.master == m && w.tag == t then { w with timer := .scan } else w) })
  | .barrier _ => s

/-- The comparator whose kennel timer gives way: of those that can move, the latest deadline, then the lowest index. -/
def State.yielding (s : State) (h : Nat) : Option (Nat × Timer) :=
  (cmpRange.filterMap (fun i => ((s.hubAt h).cmpAt i).map (fun t => (i, t)))).foldl
    (fun (best : Option (Nat × Timer)) (c : Nat × Timer) =>
      let canMove := (match c.2.use with | .barrier _ => false | _ => true) && s.scanRoom h c.2.func.val
      if !canMove then best
      else
        match best with
        | none => some c
        | some x => if (c.2.deadline - s.units).toInt > (x.2.deadline - s.units).toInt then some c else some x) none

/-- Starting the timeout of a hub's generation; with no timer to be had it runs untimed, and is counted (R127). -/
def State.armBarrier (s : State) (h b : Nat) : State :=
  let r := s.precAt b
  if r.tmo = 0 ∨ r.role = 2 then s
  else
    let t : Timer := ⟨.barrier b, s.deadlineOf r.tmo, r.func⟩
    match (s.hubAt h).freeCmp with
    | some i => (s.updHub h (fun x => x.setCmp i (some t))).updFr h b (fun r => { r with timer := .comparator i })
    | none =>
      match s.yielding h with
      | some (i, k) =>
        let s := (s.updHub h (fun x => { x.setCmp i (some t) with scan := x.scan ++ [k] })).relocate k.use
        s.updFr h b (fun r => { r with timer := .comparator i })
      | none =>
        if (s.hubAt h).scanBar.length < 64 then
          (s.updHub h (fun x => { x with scanBar := x.scanBar ++ [t] })).updFr h b (fun r => { r with timer := .scan })
        else s.updFn r.func.val (fun x => { x with untimed := satInc x.untimed })

/-- Ending a hub's barrier timer. -/
def State.stopBarrier (s : State) (h b : Nat) : State :=
  (s.disarm h (s.frecOf h b).timer (.barrier b)).updFr h b (fun r => { r with timer := .none })

/-! ### The field's ARRIVE (R112, R121) -/

/-- The hub sends its field's ARRIVE: `why` is TIMEOUT or FENCED where it is sent early. Its suspect mask is kept for the
check of R234. -/
def State.sendField (s : State) (h b : Nat) (why : Option Status) : State :=
  let s := s.stopBarrier h b
  let r := s.frecOf h b
  let s := (s.updFr h b (fun r => { r with st := .sent })).updHub h (fun x => { x with masks := tset 0 x.masks b r.ver.mask })
  s.send (.fieldArrive h s.rootEpoch
    { bar := BitVec.ofNat 16 b, gen := r.gen, ncl := r.arr, nlost := r.lostGen, pepoch := s.barEpoch b,
      stat := why.getD (if r.psn then .poison else .ok), pois := r.psn, part := r.part, verd := r.ver })

/-- The larger of two BF16 residuals (R215); with a NaN among them the specification states none: a free value. -/
def zMax (a b fr : BitVec 16) : BitVec 16 :=
  let w (v : BitVec 16) : BitVec 32 := BitVec.ofNat 32 (v.toNat * 65536)
  if f32Nan (w a) || f32Nan (w b) then fr else if f32Key (w a) < f32Key (w b) then b else a

/-- The cluster an arrival stands for at a hub: its source, or for a proxy leg the one that the proxy record names (R215,
R227). -/
def State.standsFor (s : State) (h : Nat) (a : CArrive) : Nat :=
  match a.proxy with
  | none => a.src
  | some x =>
    match (s.hubAt h).proxies.find? (fun p => p.s == a.src && p.x == x) with
    | some p => p.x
    | none => a.src

/-- Folding a verdict flit for LOCAL n. -/
def foldVerdict (v : HubVerdict) (n : Nat) (c : CsnVerdict) (fr fc : BitVec 16) : HubVerdict :=
  match c with
  | .none => v
  | .abft w => { zrow := zMax v.zrow w.zrow fr, zcol := zMax v.zcol w.zcol fc,
                 mask := if w.sus then setBits v.mask n 1 1 else v.mask }
  | .load w => { v with mask := if w.bad then setBits v.mask n 1 1 else v.mask }

/-- One contribution counted and folded at its hub (R117, R145, R215); the field's ARRIVE goes when ARR reaches EXP. -/
def State.hubCount (s : State) (h : Nat) (a : CArrive) : State :=
  let b := a.bar.toNat
  let n := localOf (s.standsFor h a)
  let fr := BitVec.ofNat 16 s.peek
  let fc := BitVec.ofNat 16 s.drawn.peek
  let d := (s.precAt b).payload
  let fold (r : FieldRec) : FieldRec :=
    { r with arr := r.arr + 1, psn := r.psn || a.pois, ver := foldVerdict r.ver n a.verd fr fc,
             part := if pdLanes d = 0 then r.part else foldPartial d r.part (leafPartial d a.body a.pois) }
  let s := s.drawn.drawn.updFr h b fold
  if (s.frecOf h b).exp ≤ (s.frecOf h b).arr then s.sendField h b none else s

/-- The class of a contribution in the fold queues (R147). -/
def State.foldClass (s : State) (b : BarIx) : Nat :=
  let role := (s.precAt b.toNat).role
  if role = 1 then 0 else if role = 2 then 1 else 2

/-- A containment request of a unit, and its LOG (R389, R401). `shared`: the event belongs to no function (R233). -/
def State.contain (s : State) (cls : Nat) (f : Nat) (u : UnitId) (addr : Nat) (shared : Bool := false) : State :=
  (s.send (.resetNote none { kind := .contain, newEp := 0, cls := BitVec.ofNat 8 cls, func := fnOfNat f, shared := shared,
                             master := BitVec.ofNat 33 addr })).report cls u 2 2 2 (if shared then none else some f)

/-- The comparator of a hub's sequencers finds a mismatch: the cycle's writes and messages are suppressed, and the event is
classed: SEQ_DIVERGE of one function, or of a field-shared action (R232, R233). -/
def State.diverge (s : State) (h : Nat) (f : Option Nat) : State :=
  s.contain 0x0A (f.getD 0) (unitId .hub h) (hubAddr h) f.isNone

/-- The function that a barrier's traffic belongs to, if any. -/
def State.barFn (s : State) (b : Nat) : Option Nat := if noFnBar b then none else some (s.precAt b).func.val

/-- An ARRIVE from a CSN at a hub: the discards of R49 and R124, then the count, or the fold queue of 64 for a payload; a
full queue leaves it in the mesh (R147). One that reaches a record in SENT belongs to the generation being released. -/
def State.arriveHub (s : State) (h : Nat) (tep : Epoch) (a : CArrive) (differ : Bool) : State :=
  let b := a.bar.toNat
  let s1 := s.taken (.arrive h tep a)
  let r := s.frecOf h b
  if (s.hubAt h).muz || tep != (s.hubAt h).epoch then s1
  else if differ then s1.diverge h (s.barFn b)
  else if r.st = .idle ∨ a.gen ≠ r.gen ∨ (!noFnBar b ∧ a.pepoch ≠ s.barEpoch b) then s1.countStaleBar b
  else if r.st = .sent then s1
  else if pdLanes (s.precAt b).payload = 0 then s1.hubCount h a
  else if (s.hubAt h).folds.length < 64 then
    s1.updHub h (fun x => { x with folds := x.folds ++ [⟨s.foldClass a.bar, a⟩] })
  else s

def execArrive (hub : HubIn) (tep : Epoch) (a : CArrive) (s : State) : Out :=
  let m := Msg.arrive hub.hub.val tep a
  .next (if s.stopped m then s.stopMsg m else s.arriveHub hub.hub.val tep a hub.differ)

/-! ### The root record (R111) -/

/-- The SB_ARRIVE of this wafer for a barrier (R365). -/
def State.wafArrive (s : State) (b : Nat) : SbArrive :=
  let r := s.precAt b
  { src := ⟨s.span.wid.toNat % 32, Nat.mod_lt _ (by decide)⟩, func := r.func, bar := BitVec.ofNat 16 b, gen := r.gen,
    pepoch := r.pepoch, stat := r.wstat, pois := r.pois, ncl := r.ncl, nlost := r.nlost,
    nsus := if r.role = 1 then (r.masks.map (fun p => popCount p.2.toNat 96)).sum else 0,
    zrow := if r.role = 1 then r.zrow else 0, zcol := if r.role = 1 then r.zcol else 0, part := r.part }

/-- What a field's partial brings, with its counts (R111, R121, R145): the record does not move by it. -/
def State.rootAdd (s : State) (h : Nat) (a : FArrive) : State :=
  let fr := BitVec.ofNat 16 s.peek
  let fc := BitVec.ofNat 16 s.drawn.peek
  let early := a.stat == .timeout || a.stat == .fenced
  let add (r : RootRec) : RootRec :=
    { r with
      farr := r.farr + 1, ncl := r.ncl + a.ncl, arrived := setBits r.arrived h 1 1, early := r.early || early,
      wstat := worseOf r.wstat (if a.pois then worseOf a.stat .poison else a.stat), pois := r.pois || a.pois,
      part := if pdLanes r.payload = 0 then r.part else foldPartial r.payload r.part a.part,
      masks := tset 0 r.masks h a.verd.mask, zrow := zMax r.zrow a.verd.zrow fr, zcol := zMax r.zcol a.verd.zcol fc,
      firstAt := some (r.firstAt.getD s.now), lastAt := s.now }
  s.drawn.drawn.updPrec a.bar.toNat add

/-- What a wafer's arrival brings to the lead's span record (R145, R364). -/
def SpanRec.add (r : SpanRec) (a : SbArrive) (now : Nat) : SpanRec :=
  { r with
    warr := r.warr + 1, arrived := r.arrived ++ [a.src.val], early := r.early || a.stat == .timeout || a.stat == .fenced,
    pois := r.pois || a.pois, wstat := worseOf r.wstat (if a.pois then worseOf a.stat .poison else a.stat),
    ncl := r.ncl + a.ncl, nlost := r.nlost + a.nlost, nsus := r.nsus + a.nsus,
    part := if pdLanes r.pay = 0 then r.part else foldPartial r.pay r.part a.part,
    firstAt := some (r.firstAt.getD now), lastAt := now }

/-- A queued partial still belongs to its open generation. -/
def State.foldLive (s : State) (q : RootFold) : Bool :=
  match q.src with
  | .field _ a => a.gen == (s.precAt a.bar.toNat).gen
  | .wafer a =>
    let r := s.srecAt a.bar.toNat
    r.open_ && !r.deciding && a.gen == r.gen && !r.arrived.contains a.src.val && r.members.any (fun m => m.1 == a.src.val)

/-- One queued partial folded, its residue check passed or failed (R145, R159). -/
def State.foldOne (s : State) (q : RootFold) (bad : Bool) : State :=
  match q.src with
  | .field h a => s.rootAdd h { a with pois := a.pois || bad }
  | .wafer a => s.updSrec a.bar.toNat (fun r => r.add { a with pois := a.pois || bad } s.now)

/-- Every queued partial that a predicate picks is folded now: those that reached the deciding root before its decision
belong to the result (R158). -/
def State.flushFolds (s : State) (p : RootFold → Bool) : State :=
  forAll (s.rfolds.filter (fun q => p q && s.foldLive q)) (fun s q => s.foldOne q false)
    { s with rfolds := s.rfolds.filter (fun q => !p q) }

def RootFold.ofField (b : Nat) (q : RootFold) : Bool := match q.src with | .field _ a => a.bar.toNat == b | .wafer _ => false
def RootFold.ofWafer (b : Nat) (q : RootFold) : Bool := match q.src with | .wafer a => a.bar.toNat == b | .field _ _ => false

/-- The span record moves to DECIDING when every joined member has arrived, or early (R364). -/
def State.spanSettle (s : State) (b : Nat) : State :=
  let r := s.srecAt b
  if r.open_ && !r.deciding && (r.early || (r.wexp != 0 && r.warr == r.wexp)) then
    (s.flushFolds (RootFold.ofWafer b)).updSrec b (fun r => { r with deciding := true })
  else s

/-- A wafer arrival at the lead: discarded as stale by GEN or PEPOCH, and without a count in DECIDING (R124, R365); a partial
of another wafer joins the root's fold queue (R147), and a full queue leaves it on the sideband. -/
def State.spanArrive (s : State) (a : SbArrive) : State :=
  let b := a.bar.toNat
  let r := s.srecAt b
  let member := r.members.find? (fun m => m.1 == a.src.val)
  if !r.open_ || a.gen != r.gen || (match member with | some m => m.2 != a.pepoch | none => true) then s.countStaleBar b
  else if r.deciding || r.arrived.contains a.src.val then s
  else if pdLanes r.pay = 0 || a.src.val == s.span.wid.toNat then (s.updSrec b (fun r => r.add a s.now)).spanSettle b
  else if s.rfolds.length < 128 then { s with rfolds := s.rfolds ++ [⟨s.foldClass a.bar, .wafer a⟩] }
  else s

/-- The root enters DECIDING: the partials that reached it are folded first (R158), and a commit barrier takes the commit
record with it (R223); a span-scope barrier's arrival goes to the lead, or into its own span record (R24, R364). -/
def State.toDeciding (s : State) (b : Nat) : State :=
  let s := (s.flushFolds (RootFold.ofField b)).updPrec b (fun r => { r with st := .deciding })
  let p := s.precAt b
  let f := p.func.val
  let s := if p.role == 1 && !noFnBar b && ((s.fnAt f).cst == .running || (s.fnAt f).cst == .replaying) then
      s.updFn f (fun x => { x with cst := .deciding })
    else s
  if (s.precAt b).scope = 2 then
    let a := s.wafArrive b
    if s.span.st = .lead then s.spanArrive a
    else (s.send (.sb (some s.span.lead.toNat) (.arrive a))).updPrec b (fun r => { r with awaitLead := true })
  else s

/-- A hub walks the running step of a function: it has its PITCH (R255). The loader opens its own barrier, and a free-running
barrier stands outside every step. -/
def State.hubOpens (s : State) (h b : Nat) : Bool :=
  let p := s.precAt b
  p.auto || b == 65535 || (tget none (s.hubAt h).walks (walkKey (s.walkerOf b))).isSome

/-- A hub opens the generation in its own record as it walks the step (R112, R126, R255). -/
def State.armHub (s : State) (h b : Nat) (g : Byte) : State :=
  let r := s.frecOf h b
  if r.st = .gather ∧ r.gen = g ∧ s.hubOpens h b then (s.updFr h b (fun r => { r with st := .armed })).armBarrier h b else s

/-- Whether an ARMED record has what it waits for. -/
def RootRec.complete (r : RootRec) : Bool := r.early || r.farr == r.fexp

/-- A generation in GATHER opened (R111). -/
def State.openNow (s : State) (b : Nat) : State :=
  let r := s.precAt b
  let s := s.updPrec b (fun r => { r with st := .armed })
  let s := forAll (mfsFields r.mfs) (fun s h => s.armHub h b r.gen) s
  if (s.precAt b).complete then s.toDeciding b else s

/-- The sequencers or the loader open a barrier's generation: at once in GATHER; held while the generation is already
open. A second one held is unpredictable, and has no effect here (R109, R9; assumption 12, DESIGN CHOICE). -/
def State.openGen (s : State) (b : Nat) : State :=
  let r := s.precAt b
  match r.st with
  | .gather => s.openNow b
  | .armed | .deciding => s.updPrec b (fun r => { r with held := true })
  | _ => s

/-- A record in ARMED that has what it waits for is decided. -/
def State.rootSettle (s : State) (b : Nat) : State :=
  let r := s.precAt b
  if r.st = .armed ∧ r.complete then s.toDeciding b else s

/-- FIELD_ARRIVE at the root: the discards of R49 and R124, none of them counted in DECIDING; then the count, or the fold
queue of 128 for a partial; a full queue leaves it in the mesh (R147). -/
def State.arriveRoot (s : State) (h : Nat) (tep : Epoch) (a : FArrive) : State :=
  let b := a.bar.toNat
  let r := s.precAt b
  let s1 := s.taken (.fieldArrive h tep a)
  if tep != s.rootEpoch then s1
  else if r.st = .free ∨ r.st = .idle ∨ a.gen ≠ r.gen ∨ a.pepoch ≠ r.pepoch then s1.countStaleBar b
  else if r.st = .deciding ∨ bit r.arrived.toNat h ∨ !bit r.mfs.toNat h then s1
  else if pdLanes r.payload = 0 then (s1.rootAdd h a).rootSettle b
  else if s.rfolds.length < 128 then
    { s1 with rfolds := s1.rfolds ++ [⟨s.foldClass a.bar, .field h a⟩] }
  else s

def execFieldArrive (hub : Field) (tep : Epoch) (a : FArrive) (s : State) : Out :=
  let m := Msg.fieldArrive hub.val tep a
  .next (if s.stopped m then s.stopMsg m else s.arriveRoot hub.val tep a)

/-! ### The mash units' fold queues (R147) -/

/-- The next of a queue: the first of the lowest class. -/
def nextFold {α : Type} (cls : α → Nat) (l : List α) : Option α :=
  match l.find? (fun x => cls x == 0) with
  | some x => some x
  | none =>
    match l.find? (fun x => cls x == 1) with
    | some x => some x
    | none => l.head?

/-- A fold at a hub. The contribution is dropped where its generation has ended since it was queued. -/
def State.foldHub (s : State) (h : Nat) (bad : Bool) : State :=
  match nextFold (·.cls) (s.hubAt h).folds with
  | none => s
  | some q =>
    let s := s.updHub h (fun x => { x with folds := x.folds.erase q })
    let r := s.frecOf h q.a.bar.toNat
    if q.a.gen = r.gen ∧ (r.st = .gather ∨ r.st = .armed) then s.hubCount h { q.a with pois := q.a.pois || bad } else s

/-- A fold at the root. -/
def State.foldRoot (s : State) (bad : Bool) : State :=
  match nextFold (·.cls) s.rfolds with
  | none => s
  | some q =>
    let s := { s with rfolds := s.rfolds.erase q }
    if !s.foldLive q then s
    else
      match q.src with
      | .field _ a =>
        let r := s.precAt a.bar.toNat
        if r.st = .gather ∨ r.st = .armed then (s.foldOne q bad).rootSettle a.bar.toNat else s
      | .wafer a => (s.foldOne q bad).spanSettle a.bar.toNat

/-- One of the mash units in service: which of them folded is a free value (assumption 3). -/
def State.anyUnit (s : State) (n mask : Nat) : Nat :=
  let l := (List.range n).filter (fun i => bit mask i)
  (l[s.peek % Nat.max 1 l.length]?).getD 0

/-- MASH_FOLD. A failed residue check poisons the generation (R159) and is reported against the unit that folded. -/
def execMashFold (hub : Option Field) (residueBad : Bool) (s : State) : Out :=
  .next (
    match hub with
    | some h =>
      if (s.hubAt h.val).folds.isEmpty then s
      else
        let u := s.anyUnit 8 (s.hubAt h.val).mash.toNat
        let s := s.foldHub h.val residueBad
        if residueBad then s.drawn.report 0x09 (unitId .hubMash (h.val * 8 + u)) 2 2 7 none else s
    | none =>
      if s.rfolds.isEmpty then s
      else
        let u := s.anyUnit 32 s.err.rootMash.toNat
        let s := s.foldRoot residueBad
        if residueBad then s.drawn.report 0x09 (unitId .rootMash u) 2 2 7 none else s)

/-! ### Timeouts (R126) -/

/-- BARRIER_TIMEOUT at a hub, once the deadline has passed: the field's ARRIVE goes with STAT TIMEOUT. -/
def State.expireBarrier (s : State) (h b : Nat) : State :=
  let due (t : Timer) : Bool := t.use == .barrier b && passed s.units t.deadline
  let r := s.frecOf h b
  let late := match r.timer with
    | .none => false
    | .comparator i => match (s.hubAt h).cmpAt i with | some t => due t | none => false
    | .scan => (s.hubAt h).scanBar.any due
  if late && r.st == .armed && decide (r.arr < r.exp) then s.sendField h b (some .timeout) else s

def execBarrierTimeout (hub : Field) (bar : BarIx) (s : State) : Out := .next (s.expireBarrier hub.val bar.toNat)

/-! ### A release leaves the root (R110, R111, R134) -/

/-- Clearing what a generation gathered. -/
def RootRec.cleared (r : RootRec) : RootRec :=
  { r with farr := 0, ncl := 0, wstat := .ok, early := false, arrived := 0, part := Partial.init, pois := false,
           masks := [], zrow := 0, zcol := 0, firstAt := none, lastAt := 0, awaitLead := false }

/-- A hub's record back to no pack; its GEN stays. -/
def State.idleHub (s : State) (h b : Nat) (bump : Bool) : State :=
  (s.stopBarrier h b).updFr h b (fun r =>
    { FieldRec.init with gen := if bump && r.st != .idle then r.gen + 1 else r.gen })

/-- The root record back to IDLE, its partial buffers freed (R134, R138). -/
def RootRec.toIdle (r : RootRec) : RootRec :=
  { r.cleared with st := .idle, mfs := 0, fexp := 0, nlost := 0, held := false, resv := false, bufs := 0, join := none }

/-- The root's next generation: fields whose last member was lost leave MFS; FEXP 0 returns the barrier to IDLE; a
free-running barrier is ARMED at once, a gated one in GATHER, where a held open applies (R109, R111, R134). -/
def State.nextGen (s : State) (b : Nat) : State :=
  let r := s.precAt b
  let left := (mfsFields r.mfs).filter (fun h => (s.frecOf h b).mem != 0)
  let mfs := left.foldl (fun (m : BitVec 84) h => setBits m h 1 1) 0
  if left = [] then s.updPrec b (fun r => { r.toIdle with gen := r.gen + 1 })
  else
    let s := s.updPrec b (fun r =>
      { r.cleared with st := if r.auto then .armed else .gather, gen := r.gen + 1, mfs := mfs, fexp := left.length })
    if r.held && !r.auto then (s.updPrec b (fun r => { r with held := false })).openNow b else s

/-- The root sends RELEASE to every member hub, and its GEN advances (R110, R111). -/
def State.releaseRoot (s : State) (b : Nat) (rel : Release) : State :=
  let s := s.sendAll ((mfsFields (s.precAt b).mfs).map (fun h => .release h (s.precAt b).pepoch rel))
  s.nextGen b

/-! ### Releases at a hub (R128-R131) -/

/-- CPW and SPC as a hub uses them (R128). -/
def cpwOf (w : BitVec 16) : Nat := let n := bits w.toNat 8 7; if n = 0 then 1 else Nat.min n 96
def spcOf (w : BitVec 16) : Nat := Nat.max 8 (Nat.min (bits w.toNat 0 7) 64)

/-- Cutting a list into waves of c (R129). -/
def chunksOf (c : Nat) : Nat → List Nat → List (List Nat)
  | 0, _ => []
  | fuel + 1, l => if l = [] then [] else l.take c :: chunksOf c fuel (l.drop c)

/-- The waves of n member clusters under an allowance (R129). -/
def wavesOf (w : BitVec 16) (ls : List Nat) : List (List Nat) := chunksOf (Nat.max (cpwOf w) ((ls.length + 15) / 16)) 16 ls

/-- The mode of a function's commit engine in force: REPORT gives no SUSPECT (R216, R243). A reserved code acts as a free one
(R447). -/
def Fn.report (x : Fn) : Bool :=
  match bits x.cmtCtrlF.toNat 0 2 with
  | 0 => false
  | 1 => true
  | _ => (Config.reservedCode x.cmtCtrlF).val == 1

/-- The check of R234 on a RELEASE: STAT OK of a commit barrier against the field's own suspect mask. In REPORT mode a
suspect verdict does not keep the barrier from OK, and no mismatch is found (DEDUCED, R216, R243). -/
def State.rootClaim (s : State) (h : Nat) (r : Release) : Bool :=
  let p := s.precAt r.bar.toNat
  r.stat == .ok && p.role == 1 && !noFnBar r.bar.toNat && tget 0 (s.hubAt h).masks r.bar.toNat != 0 &&
    !(s.fnAt p.func.val).report

/-- RELEASE at a hub joins the wave queue of 256; beyond that it waits in the mesh (R130). -/
def State.releaseHub (s : State) (h : Nat) (tep : Epoch) (r : Release) (differ : Bool) : State :=
  let s1 := s.taken (.release h tep r)
  if (s.hubAt h).muz || (!noFnBar r.bar.toNat && tep != s.barEpoch r.bar.toNat) then s1
  else if differ then s1.diverge h (s.barFn r.bar.toNat)
  else if 256 ≤ (s.hubAt h).waveQ.length then s
  else if s.rootClaim h r then
    (s1.updHub h (fun x => { x with waveQ := x.waveQ ++ [{ r with stat := .suspect }] })).contain 0x0B
      (s.precAt r.bar.toNat).func.val (unitId .hub h) (hubAddr h)
  else s1.updHub h (fun x => { x with waveQ := x.waveQ ++ [r] })

def execRelease (hub : HubIn) (tep : Epoch) (r : Release) (s : State) : Out :=
  let m := Msg.release hub.hub.val tep r
  .next (if s.stopped m then s.stopMsg m else s.releaseHub hub.hub.val tep r hub.differ)

/-- A hub's record begins the waves of its generation's release: GEN + 1, counts cleared, and the next generation is ARMED
where the root's record is open at that GEN and the hub opens it too, otherwise in GATHER (R110, R112, R255). -/
def State.hubNextGen (s : State) (h b : Nat) : State :=
  let s := s.stopBarrier h b
  let p := s.precAt b
  let g := (s.frecOf h b).gen + 1
  let open_ := p.gen == g && (p.st == .armed || p.st == .deciding) && s.hubOpens h b
  let s := s.updFr h b (fun r =>
    { r with gen := g, arr := 0, psn := false, lostGen := 0, part := Partial.init, ver := HubVerdict.init,
             st := if r.exp = 0 then .idle else if open_ then .armed else .gather })
  if (s.frecOf h b).st = .armed then s.armBarrier h b else s

/-- Whether the hub may begin a release: none begun, or SPC since the last wave of the one before it (R130). -/
def Hub.mayBegin (x : Hub) (now : Nat) : Bool :=
  match x.run with
  | none => true
  | some r => r.waves.isEmpty && decide (r.nextAt + cyc (spcOf x.allow) ≤ now)

/-! ### Phases as a hub and a CSN see them (R171-R175, R246) -/

/-- A barrier without a pack stands as released at once with OK (R134). -/
def State.noPack (s : State) (b : Nat) : Bool := (s.precAt b).st == .free || (s.precAt b).st == .idle

/-- The barriers of a phase of an image, ordered and bound. -/
def phaseBars (m : PitchImage) (p : Nat) : List Nat :=
  (match m.phases[p]? with | some ph => ph.bars.map BitVec.toNat | none => [])
    ++ (m.binds.filter (fun b => b.ph.toNat == p)).map (·.bar.toNat)

/-- The phase at which a step stands that enters phase p: phases without a barrier that holds them close at once, but for the
last (R246). -/
def State.phaseAt (s : State) (m : PitchImage) : Nat → Nat → Nat
  | 0, p => p
  | n + 1, p => if p + 1 < m.phases.length && (phaseBars m p).all s.noPack then State.phaseAt s m n (p + 1) else p

/-- The phase in which the running step of a walker begins. -/
def State.firstPhase (s : State) (w : Nat) : Nat :=
  match s.runOf w with
  | some r => s.phaseAt r.img 8 0
  | none => 0

/-- The phase that a release begins at the hubs and clusters of its partition (R173, R280). -/
def State.phaseBegun (s : State) (r : Release) : Option Nat :=
  match s.runOf (s.walkerOf r.bar.toNat) with
  | none => none
  | some x => (x.closers.find? (fun c => c.2.1 == r.bar && c.2.2 == r.gen)).map (·.1)

/-- The clusters of a field's partition that hold no leg of a barrier: no RELEASE tells them that its phase has closed. -/
def State.outsideOf (s : State) (h w b : Nat) : List Nat :=
  ((s.walkSet w).filter (fun c => fieldOf c == h)).filter (fun c => !(s.csnAt c).ents.any (fun e => e.2.mode == 2 && e.2.bar.toNat == b))

/-- A phase begins at a hub: its granted point is applied (R175), and the clusters of the partition that the closing release
does not reach read the new PHASE (R171). -/
def State.hubPhase (s : State) (h v b p : Nat) : State :=
  match tget none (s.hubAt h).walks (walkKey v) with
  | some w =>
    if w.started then
      let s := (s.updHub h (fun x => { x with walks := tset none x.walks (walkKey v) (some { w with phase := p }) })).setPoint h
        (s.walkFn v)
      forAll (s.outsideOf h v b) (fun s c => s.updCsn c (fun x => { x with phase := BitVec.ofNat 3 p })) s
    else s
  | none => s

/-- RELEASE_BEGIN: the queued release's waves are formed from the members of this moment (R130); where the release closes a
phase, the next phase begins at this hub (R175). The order of the queue is a field-shared action (R233). -/
def State.beginRelease (s : State) (h : Nat) (differ : Bool) : State :=
  let x := s.hubAt h
  if !x.mayBegin s.now then s
  else
    match x.waveQ with
    | [] => s
    | r :: rest =>
      if differ then s.diverge h none
      else
      let s := s.updHub h (fun x => { x with waveQ := rest })
      let b := r.bar.toNat
      let ls := memLocals (s.frecOf h b).mem
      let s := match s.phaseBegun r with | some p => s.hubPhase h (s.walkerOf b) b p | none => s
      let s := if (s.frecOf h b).st != .idle && r.gen == (s.frecOf h b).gen then s.hubNextGen h b else s
      if ls = [] then s
      else s.updHub h (fun x => { x with run := some ⟨r, wavesOf x.allow ls, 0, spcOf x.allow, s.now⟩ })

def execReleaseBegin (hub : HubIn) (s : State) : Out := .next (s.beginRelease hub.hub.val hub.differ)

/-- The clusters a wave reaches: the members, and the substitutes of those that are stood down (R227). -/
def Hub.waveTargets (x : Hub) (h : Nat) (ls : List Nat) : List Nat :=
  ls.flatMap (fun l => (h * 128 + l) :: (x.proxies.filter (fun p => p.x == h * 128 + l)).map (·.s))

/-- A release of a walker's heel point. -/
def State.isHeelOf (s : State) (w : Nat) (r : Release) : Bool :=
  s.walkerOf r.bar.toNat == w && (s.precAt r.bar.toNat).role == 2

/-- The heel release of a function is on its way to a hub, in its wave queue, or in its waves (R172). -/
def State.heelAtHub (s : State) (h f : Nat) : Bool :=
  let x := s.hubAt h
  s.net.any (fun m => match m with | .release g _ r => g == h && s.isHeelOf f r | _ => false)
    || x.waveQ.any (s.isHeelOf f) || (match x.run with | some r => !r.waves.isEmpty && s.isHeelOf f r.rel | none => false)

/-- Phase 0 of the partitions whose heel release this hub had still to issue (R172), and the points it brings (R175). -/
def State.hubStart (s : State) (h : Nat) : State :=
  let x := s.hubAt h
  let due (p : Nat × Option HubWalk) : Bool :=
    match p.2 with | some w => w.edge && !w.started && !s.heelAtHub h (walkerKey p.1) | none => false
  let fs := (x.walks.filter due).map Prod.fst
  if fs = [] then s
  else
    (s.updHub h (fun x => { x with walks := x.walks.map (fun p =>
      if fs.contains p.1 then (p.1, p.2.map (fun w => { w with started := true, phase := s.firstPhase (walkerKey p.1) })) else p) })).setPoint
      h (fs.head?.bind (fun k => s.walkFn (walkerKey k)))

/-- RELEASE_WAVE: wave k at its slot (R129). -/
def State.releaseWave (s : State) (h : Nat) : State :=
  match (s.hubAt h).run with
  | none => s
  | some r =>
    match r.waves with
    | [] => s
    | w :: rest =>
      if s.now < r.nextAt then s
      else
        let s := s.sendAll (((s.hubAt h).waveTargets h w).map (fun c => .releaseCsn c (s.precAt r.rel.bar.toNat).pepoch r.k r.rel))
        let next := if rest.isEmpty then r.nextAt else r.nextAt + cyc r.spc
        (s.updHub h (fun x => { x with run := some { r with waves := rest, k := r.k + 1, nextAt := next } })).hubStart h

def execReleaseWave (hub : Field) (s : State) : Out := .next (s.releaseWave hub.val)

/-! ### The release at a CSN (R120, R141, R280) -/

/-- The legs a RELEASE reaches at a cluster: its barrier, its generation (R124). -/
def Csn.legsFor (c : Csn) (b : BarIx) (g : Byte) : List Nat :=
  (c.ents.filter (fun p => p.2.mode == 2 && p.2.bar == b && p.2.gen == g)).map Prod.fst

/-- The bytes of the result header (R139). -/
def headerBytes (r : Release) : List Byte := leBytes 8 (r.res.ncont * 2 ^ 32 + r.gen.toNat * 256 + (statusCode r.stat).toNat)

/-- A heel release of the cluster's partition has left the root and not yet reached this CSN (R172). -/
def State.heelBehind (s : State) (cl : Nat) : Bool :=
  (s.csnAt cl).ents.any (fun e =>
    let r := s.precAt e.2.bar.toNat
    e.2.mode == 2 && r.role == 2 && r.st != .free && r.st != .idle && e.2.gen != r.gen)

/-- The commit word of a cluster for the tick that begins (R219): stood down, substitute, or its own role. -/
def State.cmtWordNow (s : State) (cl : Nat) : BitVec 64 :=
  match s.fnOf cl with
  | none => cmtWord 0 0 cl false
  | some f =>
    let x := s.fnAt f
    let live := x.cst == .replaying
    let rpl := if live then x.rpl else 0
    if live && x.subs.any (fun b => b.x == cl && b.s != cl) then cmtWord x.cep rpl 0x3FFF true
    else
      match (if live then x.subs.find? (fun b => b.s == cl && b.x != cl) else none) with
      | some b => cmtWord x.cep rpl b.x false
      | none => cmtWord x.cep rpl cl false

/-- The TICK causes of an edge that has taken effect: every armed core, which is then disarmed (R172). -/
def State.tickCauses (s : State) (cl : Nat) : State :=
  forAll ((s.coresOf cl).filter (fun n => (s.coreAt n).armed)) (fun s n =>
    (s.updCore n (fun x => { x with armed := false })).raise n .tick) s

/-- What an invalidation holds back: the causes of an edge, or a release (R280). -/
def State.phaseDo (s : State) (cl : Nat) (t : Option Release) (go : Release → State → State) : State :=
  match t with
  | none => s.tickCauses cl
  | some r => go r s

/-- The walker whose step a cluster runs. -/
def State.walkerAt (s : State) (cl : Nat) : Option Nat :=
  if (s.walkSet katWalker).contains cl then some katWalker else s.fnOf cl

/-- The phase that an edge or a release begins at a cluster, which asks for an invalidation; none where it begins none. -/
def State.phaseOf (s : State) (cl : Nat) (t : Option Release) : Option Nat :=
  match t with
  | some r => s.phaseBegun r
  | none =>
    match s.walkerAt cl with
    | some w => if (s.runOf w).isSome then some (s.firstPhase w) else none
    | none => none

/-- The first of what waits at a cluster goes on, unless it begins a phase: then the cached copies of the cluster's cores are
invalidated first, and it waits for that (R280). -/
def phaseGo (cl : Nat) (go : Release → State → State) : Nat → State → State
  | 0, s => s
  | n + 1, s =>
    match (s.csnAt cl).phaseTodo with
    | [] => s
    | t :: rest =>
      match s.phaseOf cl t with
      | none => phaseGo cl go n ((s.updCsn cl (fun c => { c with phaseTodo := rest })).phaseDo cl t go)
      | some p =>
        let s := s.updCsn cl (fun c => { c with phase := BitVec.ofNat 3 p })
        let ts := s.cinvTargets cl
        if ts = [] then phaseGo cl go n ((s.updCsn cl (fun c => { c with phaseTodo := rest })).phaseDo cl t go)
        else (s.updCsn cl (fun c => { c with phaseInv := ts })).emitAll (ts.map .cinvReq)

/-- An edge or a release joins what waits at a cluster. -/
def State.phasePut (s : State) (cl : Nat) (t : Option Release) (go : Release → State → State) : State :=
  let s := s.updCsn cl (fun c => { c with phaseTodo := c.phaseTodo ++ [t] })
  if !(s.csnAt cl).phaseInv.isEmpty then s else phaseGo cl go (s.csnAt cl).phaseTodo.length s

/-- A release at a cluster's legs: the window in the order of R141, then R120 at each leg. -/
def State.legsRelease (s : State) (cl : Nat) (r : Release) : State :=
  let d := (s.precAt r.bar.toNat).payload
  let legs := (s.csnAt cl).legsFor r.bar r.gen
  let s := if pdLanes d = 0 ∨ legs = [] then s
    else
      let a := windowAt d r.gen
      s.emitAll [.cmWrite cl (a + 256) r.res.bytes, .cmWrite cl (a + 512) (r.res.flags.take (pdLanes d)),
                 .cmWrite cl (a + 576) (headerBytes r)]
  let res := if pdLanes d = 0 then 0 else BitVec.ofNat 64 (leNat (r.res.bytes.take 8))
  (forAll legs (fun s ix => s.relEnt cl ix r.stat res) s).settle cl

/-- An edge takes effect at a CSN (R170, R172, R211, R219); where the partition runs a step, its cores' cached copies are
invalidated before the causes are set (R280). -/
def State.edgeEffect (s : State) (cl : Nat) : State :=
  let w := s.cmtWordNow cl
  let s := s.updCsn cl (fun c => { c.clearAbft with
    tick := c.note.getD (c.tick + 1), note := none, edgeWait := false, phase := 0, cmtw := some w })
  s.phasePut cl none (fun r s => s.legsRelease cl r)

/-- An edge that waited for the heel release takes effect once it has come. -/
def State.edgeDue (s : State) (cl : Nat) : State :=
  if (s.csnAt cl).edgeWait && !s.heelBehind cl then s.edgeEffect cl else s

/-- An edge delivered to a CSN (R63, R172). One in reset only counts the tick (R170). -/
def State.edgeAtCsn (s : State) (cl : Nat) : State :=
  if (s.csnAt cl).rst.isSome then s.updCsn cl (fun c => { c with tick := c.note.getD (c.tick + 1), note := none, edgeAt := s.now })
  else
    (s.updCsn cl (fun c => { c with edgeAt := s.now, edgeWait := true })).edgeDue cl

/-- TICK_EDGE, over the spine. -/
def execTickEdge (cl : Cluster) (s : State) : Out := .next (s.edgeAtCsn cl.id)

/-- EDGE, the hub's message to a CSN whose spine input has failed; the port of a CSN in reset discards it (R67). -/
def execEdge (cl : Cluster) (s : State) : Out :=
  let m := Msg.edge cl.id
  .next (
    if s.stopped m then s.stopMsg m
    else
      let s := s.taken m
      if (s.csnAt cl.id).rst.isSome then s.updCsn cl.id (fun c => { c with eject := c.eject + 1 }) else s.edgeAtCsn cl.id)

/-- A release acts at a CSN, and an edge that waited for it takes effect. -/
def State.applyRelease (s : State) (cl : Nat) (r : Release) : State := (s.legsRelease cl r).edgeDue cl

/-- A release goes on at a CSN, behind what waits there (R280). -/
def State.startRelease (s : State) (cl : Nat) (r : Release) : State := s.phasePut cl (some r) (fun r s => s.applyRelease cl r)

/-- The invalidation of a phase is complete: what waited for it goes on, oldest first, until one begins the next. -/
def State.phaseAcked (s : State) (cl : Nat) : State :=
  let c := s.csnAt cl
  if !c.phaseInv.isEmpty then s
  else
    match c.phaseTodo with
    | [] => s
    | t :: rest =>
      phaseGo cl (fun r s => s.applyRelease cl r) rest.length
        ((s.updCsn cl (fun c => { c with phaseTodo := rest })).phaseDo cl t (fun r s => s.applyRelease cl r))

/-- CINV_ACK: the core's cached copies are invalidated, which serves everything that asked for it: publishes of the cluster,
the core's fence, the phase (R280, R282, R286). -/
def State.cinvAck (s : State) (n : Nat) : State :=
  let cl := clusterOf n
  let strip (r : Req) : Req := match r.phase with
    | .cinv l => { r with phase := .cinv (l.filter (fun x => x != n)) }
    | _ => r
  let s := forAll (s.coresOf cl) (fun s m =>
    if (s.coreAt m).reqs.any (fun r => match r.phase with | .cinv _ => true | _ => false) then
      (s.updCore m (fun x => { x with reqs := x.reqs.map strip })).pushReqs m
    else s) s
  let s := s.updCore n (fun x => { x with fence := x.fence.map (fun f => { f with inv := false }) })
  let asked := (s.csnAt cl).phaseInv.contains n
  let s := s.updCsn cl (fun c => { c with phaseInv := c.phaseInv.filter (fun x => x != n) })
  if asked then s.phaseAcked cl else s

def execCinvAck (c : CoreRef) (s : State) : Out := .next (s.cinvAck c.id)

/-- RELEASE_AT_CSN: discarded at the port of a CSN in reset (R67), and where it names no leg or another generation, which is
counted (R124, R393), or under a stale epoch (R49). -/
def State.releaseCsn (s : State) (cl : Nat) (tep : Epoch) (r : Release) : State :=
  let c := s.csnAt cl
  if c.rst.isSome then s.updCsn cl (fun c => { c with eject := c.eject + 1 })
  else if c.legsFor r.bar r.gen = [] then if noFnBar r.bar.toNat then s else (match s.fnOf cl with | some f => s.countStale f | none => s)
  else if !noFnBar r.bar.toNat && tep != c.pepoch then s
  else s.startRelease cl r

/-- The message in flight whose arrival a command gives: the WAVE of R122 is not among its operands. -/
def State.relMsg (s : State) (cl : Nat) (tep : Epoch) (r : Release) : Msg :=
  let same (m : Msg) : Bool := match m with | .releaseCsn c t _ r' => c == cl && t == tep && r' == r | _ => false
  (s.net.find? same).getD (.releaseCsn cl tep 0 r)

def execReleaseAtCsn (cl : Cluster) (tep : Epoch) (r : Release) (s : State) : Out :=
  let m := s.relMsg cl.id tep r
  .next (if s.stopped m then s.stopMsg m else (s.taken m).releaseCsn cl.id tep r)

/-! ### Legs (R107, R226, R449) -/

/-- The highest-numbered free entry of a CSN. -/
def Csn.highFree (c : Csn) : Option Nat := ((List.range 256).reverse).find? (fun i => (c.entAt i).mode == 0)
/-- How many entries of a CSN are free. -/
def Csn.freeEnts (c : Csn) : Nat := 256 - (c.ents.filter (fun p => p.2.mode != 0)).length

/-- Binding a leg or proxy leg, and the answer: the index, or NONE. -/
def State.bindLeg (s : State) (cl : Nat) (b : BarIx) (exp gen : Byte) (proxy : Option Nat) : State :=
  match (s.csnAt cl).highFree with
  | none => s.emit (.legIndex cl none)
  | some i =>
    (s.updCsn cl (fun c => c.setEnt i { BarEntry.init with
      mode := 2, bar := b, exp := exp, gen := gen, rgen := gen - 1, proxy := proxy })).emit (.legIndex cl (some i))

/-- The entry of a leg. -/
def Csn.legIx (c : Csn) (b : BarIx) (proxy : Option Nat) : Option Nat :=
  (c.ents.find? (fun p => p.2.mode == 2 && p.2.bar == b && p.2.proxy == proxy)).map Prod.fst

/-- Freeing a leg: its pending waits end ABORTED and GEN advances (R108, R110). -/
def State.freeLeg (s : State) (cl : Nat) (b : BarIx) (proxy : Option Nat) : State :=
  match (s.csnAt cl).legIx b proxy with
  | none => s.emit (.statusAck cl)
  | some i =>
    let s := s.endGen cl i .aborted (some .bar)
    ((s.updCsn cl (fun c => { c.setEnt i { BarEntry.init with
      gen := (c.entAt i).gen, rgen := (c.entAt i).rgen, rstat := (c.entAt i).rstat } with
      reads := c.reads.filter (fun r => r.ent != i) })).emit (.statusAck cl)).settle cl

/-! ### Ends without a release (R108, R111, R134, R135) -/

/-- The hubs of a barrier's member fields. -/
def State.barHubs (s : State) (b : Nat) : List Nat := mfsFields (s.precAt b).mfs

/-- The clusters that hold a leg of a barrier. -/
def State.legClusters (s : State) (b : Nat) : List Nat :=
  (s.csn.filter (fun p => p.2.ents.any (fun e => e.2.mode == 2 && e.2.bar.toNat == b))).map Prod.fst

/-- Every leg of a barrier at a cluster is freed. -/
def State.freeLegs (s : State) (cl b : Nat) : State :=
  let ps := ((s.csnAt cl).ents.filter (fun e => e.2.mode == 2 && e.2.bar.toNat == b)).map (·.2.proxy)
  forAll ps (fun s p => s.freeLeg cl (BitVec.ofNat 16 b) p) s

/-- A lead's span record loses a member that leaves (R364): the partials in the fold queue have arrived. -/
def State.spanLeave (s : State) (b w : Nat) : State :=
  if (s.srecAt b).members.any (fun m => m.1 == w) then
    let s := (s.flushFolds (RootFold.ofWafer b)).updSrec b (fun r =>
      { r with members := r.members.filter (fun m => m.1 != w), wexp := r.wexp - 1 })
    s.updSrec b (fun r =>
      if r.wexp = 0 then { SpanRec.init with gen := r.gen }
      else if r.open_ && !r.deciding && r.members.all (fun m => r.arrived.contains m.1) then { r with deciding := true } else r)
  else s

/-- A member's pack is gone: LEAVE goes to the lead (R364). -/
def State.packLeave (s : State) (b : Nat) : State :=
  let r := s.precAt b
  if r.scope = 2 ∧ (r.st = .gather ∨ r.st = .armed ∨ r.st = .deciding) then
    if s.span.st = .lead then s.spanLeave b s.span.wid.toNat
    else if s.span.st = .member then
      s.send (.sb (some s.span.lead.toNat) (.packLeave r.func (BitVec.ofNat 16 b)))
    else s
  else s

/-- The root's record returns to IDLE with GEN + 1, once; a PACK_SET that waits for the lead waits no longer (R107, R111). -/
def State.idleRoot (s : State) (b : Nat) : State :=
  let r := s.precAt b
  if r.st = .free ∨ r.st = .idle then s.updPrec b (fun r => { r with join := none })
  else
    let s := s.packLeave b
    { s.updPrec b (fun r => { r.toIdle with gen := r.gen + 1 }) with rfolds := s.rfolds.filter (fun q => !q.ofField b) }

/-- A barrier returns to IDLE with GEN + 1 at every level that has not yet done so; `legs`: its legs are freed one by one
(R108), otherwise the CSNs' state is cleared elsewhere (R135). -/
def State.idleBarrier (s : State) (b : Nat) (legs : Bool) : State :=
  let s := if legs then forAll (s.legClusters b) (fun s c => s.freeLegs c b) s else s
  let s := forAll (List.range 84) (fun s h => if (s.frecOf h b).st = .idle then s else s.idleHub h b true) s
  s.idleRoot b

/-- An ABORT or overrun at a hub's record: counts cleared, GEN + 1, the timer freed, no RELEASE; a partition reset leaves it
IDLE (R135). -/
def State.abortHub (s : State) (h b : Nat) (reset : Bool) : State :=
  if (s.frecOf h b).st = .idle then s else if reset then s.idleHub h b true else s.hubNextGen h b

/-- An ABORT or overrun at the root's record; a partition reset leaves it IDLE (R111, R135). -/
def State.abortRoot (s : State) (b : Nat) (reset : Bool) : State :=
  if reset then s.idleRoot b
  else
    match (s.precAt b).st with
    | .gather | .armed | .deciding =>
      ({ s with rfolds := s.rfolds.filter (fun q => !q.ofField b) }.updPrec b (fun r => { r with held := false })).nextGen b
    | _ => s

/-- An ABORT or overrun at a CSN entry: ARR, EARLY and PSN 0, GEN + 1, its waits end with `st` (R110, R135). -/
def State.abortEnt (s : State) (cl ix : Nat) (st : Status) : State :=
  let s := s.endGen cl ix st (some .abort)
  s.updCsn cl (fun c => { c.setEnt ix { c.entAt ix with arr := 0, early := 0, psn := false } with
                          reads := c.reads.filter (fun r => r.ent != ix) })

/-- A field leaves the root's record: MFS and FEXP; a generation that no field is left to gather for is FENCED (R134). -/
def State.dropField (s : State) (h b : Nat) : State :=
  let s := s.updPrec b (fun r =>
    if !bit r.mfs.toNat h then r
    else
      let had := bit r.arrived.toNat h
      let none_ := r.fexp == 1
      { r with mfs := setBits r.mfs h 1 0, fexp := r.fexp - 1, farr := if had then r.farr - 1 else r.farr,
               arrived := setBits r.arrived h 1 0, early := r.early || none_,
               wstat := if none_ then worseOf r.wstat .fenced else r.wstat })
  s.rootSettle b

/-- A member cluster is lost: MEM and EXP at its hub, NLOST at the root, and the field's ARRIVE goes with STAT FENCED unless
it has gone (R134). Where the root has opened the next generation before the hub begins its waves, a field that has lost its
last member leaves that generation at once (assumption 87, DEDUCED). -/
def State.loseMember (s : State) (c b : Nat) : State :=
  let h := fieldOf c
  let r := s.frecOf h b
  if bit r.mem.toNat (localOf c) then
    let s := s.updFr h b (fun r => { r with mem := setBits r.mem (localOf c) 1 0, exp := r.exp - 1, lostGen := r.lostGen + 1 })
    let s := s.updPrec b (fun r => { r with nlost := r.nlost + 1 })
    if r.st = .gather ∨ r.st = .armed then s.sendField h b (some .fenced)
    else if r.exp = 1 ∧ (s.precAt b).gen = r.gen + 1 then s.dropField h b
    else s
  else s

/-- A whole hub is lost: the root clears its MFS bit, lowers FEXP, and releases the open generation with FENCED if the
field had not arrived (R134). -/
def State.loseHub (s : State) (h b : Nat) : State :=
  let r := s.precAt b
  if bit r.mfs.toNat h then
    let n := (memLocals (s.frecOf h b).mem).length
    let s := ((s.flushFolds (RootFold.ofField b)).stopBarrier h b).updFr h b (fun r => { FieldRec.init with gen := r.gen })
    let had := bit (s.precAt b).arrived.toNat h
    (s.updPrec b (fun r =>
      { r with nlost := r.nlost + n, early := r.early || !had,
               wstat := if had then r.wstat else worseOf r.wstat .fenced })).dropField h b
  else s

/-- The barriers with a pack. -/
def State.packed (s : State) : List Nat :=
  (s.prec.filter (fun p => p.2.st == .gather || p.2.st == .armed || p.2.st == .deciding)).map Prod.fst

/-- A cluster leaves every pack. -/
def State.loseCluster (s : State) (c : Nat) : State := forAll s.packed (fun s b => s.loseMember c b) s

/-- The barriers a function owns. -/
def State.barsOf (s : State) (f : Nat) : List Nat :=
  (s.prec.filter (fun p => p.2.st != .free && p.2.func.val == f && !noFnBar p.1)).map Prod.fst

end Sys2Proof.Machine
end

