-- ==== Sys2Proof/Machine/Status.lean ====
section
/-! DEFINITION. The CSN status path (R67, R449): its commands, and those that wait for the end of a CSN's reset. -/

namespace Sys2Proof.Machine

open Sys2Proof

/-! ### Manifests and packets (R65, R427) -/

def manifestBytes (m : Manifest) : List Byte :=
  leBytes 4 0 ++ leBytes 4 m.base.toNat ++ leBytes 4 m.lenb.toNat ++ leBytes 4 m.npkt.toNat ++ leBytes 4 m.crc.toNat
    ++ leBytes 4 (b2n m.relcore) ++ leBytes 4 m.entry.toNat ++ leBytes 100 0

def manifestOf (b : List Byte) : Manifest :=
  { base := BitVec.ofNat 32 (fieldAt b 4 4), lenb := BitVec.ofNat 32 (fieldAt b 8 4), npkt := BitVec.ofNat 32 (fieldAt b 12 4),
    crc := BitVec.ofNat 32 (fieldAt b 16 4), relcore := bit (fieldAt b 20 4) 0, entry := BitVec.ofNat 32 (fieldAt b 24 4) }

/-- The data packets of some bytes, in SEQ order, and the manifest's packet. -/
def dataPkts (f : Func) (m : Manifest) (bs : List Byte) : List LoadPkt :=
  (List.range m.npkt.toNat).map (fun i =>
    { func := f, seq := BitVec.ofNat 32 i, addr := BitVec.ofNat 22 (m.base.toNat + 128 * i), data := sliceAt bs (128 * i) 128 })
def manifestPkt (f : Func) (m : Manifest) : LoadPkt :=
  { func := f, seq := 0xFFFFFFFF, addr := BitVec.ofNat 22 m.base.toNat, data := manifestBytes m }

/-- The load verdict of a CSN over its LENB bytes (R428). -/
def Csn.loadVerdict (c : Csn) (bytes : List Byte) : LoadVerdict :=
  let crc := crc32 bytes
  { crc := crc, npkt := BitVec.ofNat 24 c.nrcv,
    bad := match c.manifest with | none => true | some m => c.nrcv != m.npkt.toNat || crc != m.crc }

/-! ### The commands (R449) -/

/-- The check order at a CSN: it arrives on its leg of barrier 65,535 (R428). -/
def State.loadCheck (s : State) (cl : Nat) (bytes : List Byte) : State :=
  let c := s.csnAt cl
  match c.legIx 65535 none with
  | none => s
  | some ix =>
    let e := c.entAt ix
    if !c.loadOpen || e.arr == e.exp then s
    else (s.updCsn cl (fun c => c.setEnt ix { e with arr := e.exp })).sendArrive cl ix e.gen [] false (.load (c.loadVerdict bytes))

/-- A donor sends its packets, then the manifest, to the target (R429). -/
def State.loadSend (s : State) (d x : Nat) (tep : Epoch) (bytes : List Byte) : State :=
  match (s.csnAt d).manifest with
  | none => s
  | some m =>
    let f := fnOfNat ((s.fnOf d).getD 0)
    s.sendAll ((dataPkts f m bytes ++ [manifestPkt f m]).map (fun p => .loadUc x tep p))

/-- RD_DRP: the droop counter is returned and cleared; the hub adds it to its row's count of the interval (R185). -/
def State.readDroop (s : State) (cl : Nat) : State :=
  let n := (s.csnAt cl).droop
  let row := rowOf cl
  ((s.emit (.rdDrp cl n)).updCsn cl (fun c => { c with droop := 0 })).updHub (fieldOf cl) (fun x =>
    { x with drp := x.drp.set row ((x.drp[row]?).getD 0 + n.toNat) })

/-- A status-path command at its CSN. -/
def State.statusDo (s : State) (cl : Nat) (cmd : StatusCmd) : State :=
  match cmd with
  | .rdDrp => s.readDroop cl
  | .loadOpen => (s.updCsn cl (fun c => { c with loadOpen := true, nrcv := 0, manifest := none })).emit (.statusAck cl)
  | .loadCheck bytes => s.loadCheck cl bytes
  | .loadSend x tep bytes => s.loadSend cl x tep bytes
  | .legBind b exp gen proxy => s.bindLeg cl b exp gen proxy
  | .legFree b proxy => s.freeLeg cl b proxy
  | .epochLoad tab part =>
    (s.updCsn cl (fun c => { c with
      eptab := tab.foldl (fun t e => tset 0 t e.1 e.2) c.eptab, pepoch := part.getD c.pepoch })).emit (.statusAck cl)

/-- A command given to a CSN: one in reset answers once its reset is complete (R67). -/
def State.onStatus (s : State) (cl : Nat) (cmd : StatusCmd) : State :=
  if (s.csnAt cl).rst.isSome then s.updCsn cl (fun c => { c with held := c.held ++ [cmd] }) else s.statusDo cl cmd

/-- The reset of a CSN is complete: the commands that waited act, oldest first. -/
def State.runHeld (s : State) (cl : Nat) : State :=
  forAll (s.csnAt cl).held (fun s cmd => s.statusDo cl cmd) (s.updCsn cl (fun c => { c with held := [] }))

def execRdDrp (cl : Cluster) (s : State) : Out := .next (s.onStatus cl.id .rdDrp)

/-- LOAD_OPEN. -/
def execLoadOpen (cl : Cluster) (s : State) : Out := .next ((s.taken (.status cl.id 0)).onStatus cl.id .loadOpen)

/-- LOAD_CHECK: the check order (R428). -/
def execLoadCheck (cl : Cluster) (bytes : List Byte) (s : State) : Out :=
  .next ((s.taken (.status cl.id 1)).onStatus cl.id (.loadCheck bytes))

/-- LOAD_SEND. -/
def execLoadSend (donor : Cluster) (target : Cluster) (tepoch : Epoch) (bytes : List Byte) (s : State) : Out :=
  .next (s.onStatus donor.id (.loadSend target.id tepoch bytes))

/-- LEG_BIND. -/
def execLegBind (cl : Cluster) (bar : BarIx) (exp : Byte) (gen : Byte) (proxyFor : Option Cluster) (s : State) : Out :=
  .next (s.onStatus cl.id (.legBind bar exp gen (proxyFor.map Cluster.id)))

/-- LEG_FREE. -/
def execLegFree (cl : Cluster) (bar : BarIx) (proxyFor : Option Cluster) (s : State) : Out :=
  .next (s.onStatus cl.id (.legFree bar (proxyFor.map Cluster.id)))

/-- EPOCH_LOAD: the table of hubs and root sites, or the partition's epoch (R50). -/
def execEpochLoad (cl : Cluster) (tab : List (Nat × Epoch)) (part : Option Epoch) (s : State) : Out :=
  .next (s.onStatus cl.id (.epochLoad tab part))

end Sys2Proof.Machine
end

