-- ==== Sys2Proof/Machine/Records.lean ====
section
/-! DEFINITION. Completion records: their layout (R316, R317), where each goes, how a ring posts it, MSI-X; a ring's
commands from start to record. -/

namespace Sys2Proof.Machine

open Sys2Proof

/-! ### Layout -/

/-- A completion record but for P and SQH (R316). -/
def recWord (kind st fam op : Nat) (flag : Bool) (sqi cookie res : Nat) : BitVec 256 :=
  BitVec.ofNat 256 (kind * 2 ^ 252 + st * 2 ^ 240 + fam * 2 ^ 236 + op * 2 ^ 231 + b2n flag * 2 ^ 224
    + sqi * 2 ^ 192 + cookie * 2 ^ 128 + res)

/-- Fields of a descriptor (R309, R311-R313). -/
def dField (d : BitVec 512) (lo w : Nat) : Nat := bits d.toNat lo w
def dFam (d : BitVec 512) : Nat := dField d 508 4
def dOp (d : BitVec 512) : Nat := dField d 503 5
def dFence (d : BitVec 512) : Bool := bit d.toNat 502
def dPub (d : BitVec 512) : Bool := bit d.toNat 501
def dScope (d : BitVec 512) : Nat := dField d 499 2
def dCookie (d : BitVec 512) : Nat := dField d 384 64
def dHandle (d : BitVec 512) : Nat := dField d 360 24
def dId (d : BitVec 512) : Nat := dField d 368 16
def dN (d : BitVec 512) : Nat := dField d 320 16
def dLen (d : BitVec 512) : Nat := dField d 256 32
def dAddr (d : BitVec 512) : Nat := dField d 192 64

/-- The COMMAND record of a descriptor. -/
def cmdRec (d : Desc) (st : Status) (flag : Bool) (res : Nat) : Rec :=
  { bits := recWord 0 (statusCode st).toNat (dFam d.bits) (dOp d.bits) flag d.sqi.toNat (dCookie d.bits) res,
    cmd := some d.sqi, slot := none, pl := none, note := false }

/-- A STEP record (R317). -/
def stepRec (plid : Nat) (utag steps cep : BitVec 32) (tick : Nat) (final : Bool) : Rec :=
  { bits := recWord 1 0 0 0 final plid (utag.toNat * 2 ^ 32 + steps.toNat) (cep.toNat * 2 ^ 96 + tick % 2 ^ 48 * 2 ^ 48),
    cmd := none, slot := none, pl := some plid, note := false }

/-- A PITCH_EVENT record (R317). -/
def eventRec (plid : Nat) (st : Status) (utag steps cep : BitVec 32) (tick : Nat) (epoch : BitVec 32) (rpl : BitVec 2) : Rec :=
  { bits := recWord 2 (statusCode st).toNat 0 0 false plid (utag.toNat * 2 ^ 32 + steps.toNat)
      (cep.toNat * 2 ^ 96 + tick % 2 ^ 48 * 2 ^ 48 + epoch.toNat * 2 ^ 16 + rpl.toNat * 2 ^ 14),
    cmd := none, slot := none, pl := none, note := false }

/-- A SLOT_END record (R317). -/
def slotEndRec (k : Nat) (x : Slot) (e : Nat) (st : Status) (tick : Nat) : Rec :=
  { bits := recWord 3 (statusCode st).toNat 0 0 false k (x.utag.toNat * 2 ^ 32 + x.last.toNat)
      (x.pos.toNat * 2 ^ 108 + e * 2 ^ 104 + tick % 2 ^ 48 * 2 ^ 48),
    cmd := none, slot := some k, pl := none, note := false }

/-- NOTE records: SPARGED of a ring, and DIST_GEN (R317). -/
def spargedRec (r : Nat) : Rec :=
  { bits := recWord 4 0 0 0 false 0 (r * 2 ^ 32) 0, cmd := none, slot := none, pl := none, note := true }
def distGenRec (gen : BitVec 32) : Rec :=
  { bits := recWord 4 0 0 0 false 1 (gen.toNat * 2 ^ 32) 0, cmd := none, slot := none, pl := none, note := true }

/-! ### Where a record goes (R318) -/

/-- The function that holds a ring. -/
def State.ringFn (s : State) (r : Nat) : Option Nat := (s.fn.find? (fun p => p.2.rings.contains r)).map Prod.fst

/-- Whether a newer record takes a waiting one's place: a STEP of the same pitch list, a DIST_GEN. -/
def replaces (new old : Rec) : Bool :=
  (new.pl.isSome && new.pl == old.pl) ||
  (new.note && old.note && bits new.bits.toNat 192 16 == 1 && bits old.bits.toNat 192 16 == 1)

/-- Joining a queue of waiting records (R318). -/
def joinRecs (l : List Rec) (x : Rec) : List Rec :=
  if l.any (replaces x) then l.map (fun o => if replaces x o then x else o) else l ++ [x]

/-- A record of a function's pitch list or slot: to its ring, or to the event ring when the ring is no longer held. -/
def State.postTo (s : State) (f ring : Nat) (x : Rec) : State :=
  if (s.fnAt f).rings.contains ring then s.updRing ring (fun r => { r with ready := joinRecs r.ready x })
  else s.updFn f (fun y => { y with evq := joinRecs y.evq x })

/-- A function-wide notice (R320). -/
def State.notice (s : State) (f : Nat) (x : Rec) : State := s.updFn f (fun y => { y with evq := joinRecs y.evq x })

/-- A new generation of the distance table is announced to every function (R69, R72, R317). -/
def State.announce (s : State) : State :=
  forAll (List.range 64) (fun s f => s.notice f (distGenRec s.mesh.gen)) s

/-- ROUTE_RELOAD. -/
def execRouteReload (ports : List PortEnt) (s : State) : Out :=
  .next (State.reloadRoutes { s with mesh := { s.mesh with ports := putPorts s.mesh.ports ports } }).announce

/-! ### A ring's commands -/

/-- S of a ring (R304). -/
def Ring.size (r : Ring) : Nat := 2 ^ Nat.max 6 (Nat.min (bits r.rcfg.toNat 0 5) 16)
def Ring.vec (r : Ring) : BitVec 11 := BitVec.ofNat 11 (bits r.rcfg.toNat 12 11)
def Ring.link (r : Ring) : Nat := bits r.rcfg.toNat 10 2

/-- The started command of a submission index. -/
def Ring.cmdAt (r : Ring) (i : BitVec 16) : Option Cmd := r.started.find? (fun c => c.d.sqi == i)
def Ring.updCmd (r : Ring) (i : BitVec 16) (g : Cmd → Cmd) : Ring :=
  { r with started := r.started.map (fun c => if c.d.sqi == i then g c else c) }

/-- A started command whose meaning has not begun, of the family and operation a row names. -/
def Ring.toRun (r : Ring) (i : BitVec 16) (fam op : Nat) : Option Cmd :=
  match r.cmdAt i with
  | some c => if !c.begun && !c.done && dFam c.d.bits == fam && dOp c.d.bits == op then some c else none
  | none => none

/-- A KENNEL descriptor whose request carries WAIT 1: only a control form has the bit (R77, R311). -/
def dWaits (d : BitVec 512) : Bool :=
  dFam d == 1 && bit d.toNat 359 && (match kopOf (dOp d) with | some op => hasCtl op | none => false)

/-- Outstanding kennel requests of a function's rings, and those with WAIT 1 (R79). -/
def State.fnKen (s : State) (f : Nat) (waiting : Bool) : Nat :=
  (((s.fnAt f).rings.flatMap (fun r => (s.ringAt r).started)).filter
    (fun c => !c.done && dFam c.d.bits == 1 && (!waiting || dWaits c.d.bits))).length

/-- Whether the next descriptor may start (R308, R290). -/
def State.mayStart (s : State) (r : Nat) (d : Desc) : Bool :=
  let x := s.ringAt r
  let f := (s.ringFn r).getD 0
  let ken := dFam d.bits == 1
  x.st == .run && decide (x.started.length < 64) && (!dFence d.bits || x.started.all (·.done)) &&
  (!ken || (decide (s.fnKen f false < 256) && (!dWaits d.bits || decide (s.fnKen f true < 64))))

/-- The families and operations of R310, and the actions of R312. -/
def descOk (d : BitVec 512) : Bool :=
  match dFam d with
  | 0 => dOp d == 0
  | 1 => (kopOf (dOp d)).isSome
  | 2 | 3 | 4 | 6 => dOp d == 1 || dOp d == 2
  | 5 => dOp d == 1 || dOp d == 2 || (dOp d == 3 && decide (dField d 364 4 < 4))
  | 7 => dOp d == 1
  | _ => false

/-- A command's record is ready. -/
def Ring.ended (x : Ring) (c : Cmd) (st : Status) (flag : Bool) (res : Nat) : Ring :=
  let y := x.updCmd c.d.sqi (fun c => { c with begun := true, done := true, tag := none })
  { y with ready := y.ready ++ [cmdRec c.d st flag res] }

/-- A descriptor starts; one whose family or operation is a reserved encoding ends at once with a status that nothing fixes
(R7, R9; assumption 12, DESIGN CHOICE). -/
def State.startCmd (s : State) (r : Nat) (d : Desc) (rest : List Desc) : State :=
  let c : Cmd := { d := d, begun := false, tag := none, waiting := dWaits d.bits, inv := none, op := none, done := false }
  let st := s.anyStatus
  let s := s.updRing r (fun x => { x with fetched := rest, started := x.started ++ [c] })
  let s := match s.ringFn r with | some f => s.updFn f (fun x => { x with turn := r }) | none => s
  if descOk d.bits then s else s.drawn.updRing r (fun x => x.ended c st false 0)

/-- Starting a ring's fetched descriptors in order, as long as the first may start. -/
def startGo (r : Nat) : Nat → State → State
  | 0, s => s
  | fuel + 1, s =>
    match (s.ringAt r).fetched with
    | [] => s
    | d :: rest =>
      if s.mayStart r d then startGo r fuel (s.startCmd r d rest) else s

/-- A partition in reset, or a function under HOLD, starts none of its descriptors (R349, R391). -/
def State.startRing (s : State) (r : Nat) : State :=
  match s.ringFn r with
  | none => s
  | some f => if (s.fnAt f).rst.isSome || (s.fnAt f).hold then s else startGo r (s.ringAt r).fetched.length s

/-- The rings of a function in the order of their turns: those behind the ring that started last come first (R308). -/
def State.turns (s : State) (f : Nat) : List Nat :=
  let rs := (s.fnAt f).rings
  let k := rs.idxOf (s.fnAt f).turn + 1
  rs.drop k ++ rs.take k

/-- A ring's first fetched descriptor may start. -/
def State.canStart (s : State) (r : Nat) : Bool :=
  match (s.ringAt r).fetched with
  | [] => false
  | d :: _ => s.mayStart r d

/-- Starting descriptors on the rings of a function, one a turn (R308). -/
def turnGo (f : Nat) : Nat → State → State
  | 0, s => s
  | fuel + 1, s =>
    match (s.turns f).find? s.canStart with
    | none => s
    | some r =>
      match (s.ringAt r).fetched with
      | [] => s
      | d :: rest => turnGo f fuel (s.startCmd r d rest)

/-- Starting what can start on the rings of a function; nothing while its partition is in reset, or under HOLD. -/
def State.startRings (s : State) (f : Nat) : State :=
  if (s.fnAt f).rst.isSome || (s.fnAt f).hold then s
  else turnGo f (((s.fnAt f).rings.map (fun r => (s.ringAt r).fetched.length)).sum) s

/-- A command's meaning has begun. -/
def State.begin_ (s : State) (r : Nat) (i : BitVec 16) : State :=
  s.updRing r (fun x => x.updCmd i (fun c => { c with begun := true }))

/-- A command completes: its record is ready, and what waited for it may start. -/
def State.finish (s : State) (r : Nat) (i : BitVec 16) (st : Status) (flag : Bool := false) (res : Nat := 0) : State :=
  match (s.ringAt r).cmdAt i with
  | none => s
  | some c =>
    if c.done then s
    else
      let s := s.updRing r (fun x => x.ended c st flag res)
      match s.ringFn r with | some f => s.startRings f | none => s

/-! ### Dirty-page logging (R346, R347) -/

/-- One logged page: its bit, unless the logger holds it already; a page outside the window sets OVF. -/
def State.logPage (s : State) (f link page : Nat) : State :=
  match (s.fnAt f).dlBuf with
  | none => s
  | some (_, _, wbase, wpages) =>
    let base := wbase.toNat / 4096
    if page < base ∨ base + wpages.toNat ≤ page then s.updFn f (fun x => { x with dlOvf := true })
    else
      let key := link * 2 ^ 32 + (page - base)
      if (s.fnAt f).dlBits.contains key then s
      else (s.updFn f (fun x => { x with dlBits := (key :: x.dlBits).take 4096 })).emit (.dirtyRmw (fnOfNat f) link (page - base))

/-- A host-memory write of a function over a link is logged while EN is 1. -/
def State.logWrite (s : State) (f link addr len : Nat) : State :=
  if !(s.fnAt f).dlEn || len == 0 then s
  else
    let a := addr / 4096
    forAll ((List.range ((addr + len - 1) / 4096 - a + 1)).map (fun i => a + i)) (fun s p => s.logPage f link p) s

/-! ### Posting (R318, R319, R321) -/

/-- The function's event ring, where it can take a notice (R320). -/
def State.evRing (s : State) (f : Nat) : Option Nat :=
  let v := (s.fnAt f).evr.toNat
  let r := bits v 0 12
  if bit v 12 && (s.fnAt f).rings.contains r && (s.ringAt r).st == .run then some r else none

/-- The MSI-X message of a function's entry: sent, or its pending bit set while the entry is masked or the function is held
(R321, R349). -/
def State.msix (s : State) (f : Nat) (vec : BitVec 11) : State :=
  if (s.fnAt f).mskd.contains vec || (s.fnAt f).hold then
    s.updFn f (fun x => { x with pend := if x.pend.contains vec then x.pend else x.pend ++ [vec] })
  else s.emit (.msix (fnOfNat f) vec)

/-- CNT and TIM of the moderation register as the last record found it (R305, R324); a CNT of 0 is used as 1. -/
def Ring.cntOf (r : Ring) : Nat := Nat.max 1 (bits r.rmodF.toNat 24 8)
def Ring.timOf (r : Ring) : Nat := bits r.rmodF.toNat 0 16

/-- The ring's MSI-X goes, and its count and timer are cleared. -/
def State.ringMsix (s : State) (r f : Nat) : State :=
  (s.updRing r (fun x => { x with cnt := 0, firstAt := none })).msix f (s.ringAt r).vec

/-- Whether the completion queue can take a record now. -/
def Ring.canPost (r : Ring) : Bool := (r.st == .run || r.st == .sparge) && decide (r.unack < r.size)

/-- The record as written: P, and SQH at this moment. -/
def Ring.recBits (r : Ring) (x : Rec) : BitVec 256 :=
  x.bits ||| BitVec.ofNat 256 (b2n r.phase * 2 ^ 255 + r.sqc % 65536 * 2 ^ 208)

/-- What the writing of a record ends: its command's place, its slot's ENDING, which a view shows (R265), the sparge. -/
def State.posted (s : State) (r : Nat) (x : Rec) : State :=
  let s := match x.cmd with
    | some i => s.updRing r (fun y => { y with started := y.started.eraseP (fun c => c.d.sqi == i && c.done) })
    | none => s
  let s := match x.slot with
    | some k =>
      let p := (s.slotAt k).plid.toNat
      let s := s.setSlot k Slot.init
      if (s.plAt p).st = .free then s else s.updPl p (fun l => { l with viewDue := true })
    | none => s
  if x.note && bits x.bits.toNat 192 16 == 0 then
    s.updRing r (fun y => { y with st := if y.en then .drained else .off })
  else s

/-- Writing one record to a ring's completion queue. -/
def State.writeRec (s : State) (r f : Nat) (x : Rec) : State :=
  let y := s.ringAt r
  let cqb := y.cqbHi.toNat * 2 ^ 32 + y.cqbLo.toNat / 4096 * 4096
  let s := (s.logWrite f y.link (cqb + 32 * y.cqp) 32).emit (.record r y.cqp (y.recBits x))
  let wrap := y.cqp + 1 == y.size
  let s := s.updRing r (fun y => { y with
    cqp := if wrap then 0 else y.cqp + 1, phase := if wrap then !y.phase else y.phase, unack := y.unack + 1, rmodF := y.rmod,
    cnt := y.cnt + 1, firstAt := some (y.firstAt.getD s.now) })
  let s := s.posted r x
  let z := s.ringAt r
  if (x.note && bits x.bits.toNat 192 16 == 0) || z.cntOf ≤ z.cnt || z.timOf == 0 then s.ringMsix r f else s

/-- The order of records that become ready in one cycle: COMMAND records first, by SQI (R318). -/
def Rec.rank (x : Rec) : Nat := (if x.cmd.isSome then 0 else 65536) + x.bits.toNat / 2 ^ 192 % 65536

/-- Of records of one cycle, the one to write first. -/
def leastRec (x : Rec) (l : List Rec) : Rec := l.foldl (fun (b : Rec) y => if y.rank < b.rank then y else b) x

/-- A record takes its place among those of its cycle. -/
def putRec (x : Rec) : List Rec → List Rec
  | [] => [x]
  | y :: l => if x.rank ≤ y.rank then x :: y :: l else y :: putRec x l

/-- The record to write, and the ring without it: those of earlier cycles first, in their order. -/
def Ring.nextRec (y : Ring) : Option (Rec × Ring) :=
  match y.ready with
  | [] => none
  | x :: rest =>
    if y.old ≠ 0 then some (x, { y with ready := rest, old := y.old - 1 })
    else some (leastRec x rest, { y with ready := (x :: rest).erase (leastRec x rest) })

/-- The end of a cycle: the records that it made ready stand in their order. -/
def Ring.cycleEnd (y : Ring) : Ring :=
  { y with ready := y.ready.take y.old ++ (y.ready.drop y.old).foldr putRec [], old := y.ready.length }

/-- COMPLETION_POST: the ring's first ready record, or a notice that waits for its function's event ring. -/
def State.post (s : State) (r : Nat) : State :=
  match s.ringFn r with
  | none => s
  | some f =>
    if !(s.ringAt r).canPost || (s.fnAt f).hold then s
    else
      match (s.ringAt r).nextRec with
      | some (x, y) => ((s.updRing r (fun _ => y)).writeRec r f x).startRings f
      | none =>
        if s.evRing f = some r then
          match (s.fnAt f).evq with
          | x :: rest => (s.updFn f (fun y => { y with evq := rest })).writeRec r f x
          | [] => s
        else s

def execCompletionPost (r : RingIx) (s : State) : Out := .next (s.post r.val)

/-- MSIX_TIMEOUT: TIM × 0.25 µs since the first record. -/
def execMsixTimeout (r : RingIx) (s : State) : Out :=
  .next (
    match (s.ringAt r.val).firstAt, s.ringFn r.val with
    | some t, some f => if t + 750 * (s.ringAt r.val).timOf ≤ s.now then s.ringMsix r.val f else s
    | _, _ => s)

/-- The entry is unmasked, and a held message is sent; under HOLD it stays pending (R349). -/
def State.unmask (s : State) (f : Nat) (vec : BitVec 11) : State :=
  let s := s.updFn f (fun x => { x with mskd := x.mskd.erase vec })
  if (s.fnAt f).pend.contains vec && !(s.fnAt f).hold then
    (s.updFn f (fun x => { x with pend := x.pend.erase vec })).emit (.msix (fnOfNat f) vec)
  else s

/-- MSIX_UNMASK. -/
def execMsixUnmask (f : Func) (vec : BitVec 11) (s : State) : Out :=
  .next (s.unmask f.val vec)

end Sys2Proof.Machine
end

