-- ==== Sys2Proof/Machine/RingKen.lean ====
section
/-! DEFINITION. Kennel requests at the root: SPAN-scope requests and their relays (R97, R367), ring-issued requests (R311,
R79, R287), KEN_RSP at the root and at the CSN, publish invalidations at WAFER and SPAN scope (R286-R288). -/

namespace Sys2Proof.Machine

open Sys2Proof

/-- An end that carries no result, from a unit of this wafer. -/
def bareEnd (src : Nat) (dfr : Bool) (op : KOp) (st : Status) (m : Master) (t : Tag) : KRsp :=
  { src := BitVec.ofNat 14 src, dfr := dfr, op := op, status := st, flag := false, grant := 0, aux := 0, result := 0, master := m,
    tag := t }

/-! ### SPAN-scope requests at a root (R97, R367) -/

/-- A message of the sideband to one wafer. -/
def State.toWafer (s : State) (w : Nat) (f : Frame) : State := s.send (.sb (some w) f)
/-- A message of the sideband to every member. -/
def State.toAll (s : State) (f : Frame) : State := s.send (.sb none f)

/-- The lead root's check of a handle against the function's partition on its wafer (R27, R97). -/
def State.leadFenced (s : State) (f : Nat) (q : KMsg) : Bool :=
  let cls := q.args.cls.toNat
  let ix := q.args.index.toNat
  let e := s.kenAt (kennelIndex cls ix)
  decide (1 < cls) || decide (classRange cls ≤ ix) || e.kind == .free || e.func.val != f ||
    (s.hubAt (homeHub (kennelIndex cls ix))).muz

/-- The lead root injects a request to its home hub with the hub's current epoch, MASTER unchanged. -/
def State.leadInject (s : State) (f : Nat) (op : KOp) (q : KMsg) : State :=
  if s.leadFenced f q then s.refuseKen s.rootUnit op q .fenced
  else
    let h := homeHub (kennelIndex q.args.cls.toNat q.args.index.toNat)
    s.send (.kenReq h (s.hubAt h).epoch op q)

/-- A relay tag not in use: which one is a free value. 0xFFF marks a leash notice (R88), as in R79. -/
def State.pickRtag (s : State) : BitVec 12 :=
  let used := s.span.relays.map (fun r => r.rtag.toNat)
  BitVec.ofNat 12 (firstFreeFrom used 4095 used.length s.peek)

/-- A SPAN-scope request of function f at its wafer's root: injected at the lead, relayed by a member; a wafer in no span
has no lead to ask, and answers SPAN_LOST (assumption 26, DEDUCED). -/
def State.spanReq (s : State) (f : Nat) (op : KOp) (q : KMsg) : State :=
  match s.span.st with
  | .lead => s.leadInject f op q
  | .member =>
    let t := s.pickRtag
    let s := s.drawn
    let r : Relay := { rtag := t, master := q.master, tag := q.tag, op := op, func := fnOfNat f }
    ({ s with span := { s.span with relays := s.span.relays ++ [r] } }).toWafer s.span.lead.toNat (.kreq (fnOfNat f) t op q)
  | _ => s.refuseKen s.rootUnit op q .spanLost

/-- KEN_REQ_SPAN: the member root checks TEPOCH against the epoch of the issuing partition (R49, R367). -/
def execKenReqSpan (src : Cluster) (tep : Epoch) (op : KOp) (q : KMsg) (s : State) : Out :=
  let m := Msg.kenReqRoot src.id tep op q
  .next (
    if s.stopped m then s.stopMsg m
    else
      let s := s.taken m
      match s.fnOf src.id with
      | none => s.refuseKen s.rootUnit op q .gone
      | some f => if tep != (s.fnAt f).pepoch then s.refuseKen s.rootUnit op q .gone else s.spanReq f op q)

/-! ### Ring-issued requests -/

/-- The operands of a KENNEL descriptor (R311). -/
def dKen (d : BitVec 512) : KArgs :=
  { scope := BitVec.ofNat 2 (dScope d), pub := dPub d, ret := false, cls := BitVec.ofNat 4 (dField d 380 4),
    index := BitVec.ofNat 20 (dField d 360 20), n := BitVec.ofNat 16 (dN d), m := BitVec.ofNat 16 (dField d 304 16),
    leash := BitVec.ofNat 8 (dField d 336 8), tmo := BitVec.ofNat 8 (dField d 344 8), wait := bit d.toNat 359,
    ahead := bit d.toNat 358, ctag := 0, a := BitVec.ofNat 64 (dField d 64 64), b := BitVec.ofNat 64 (dField d 0 64) }

/-- Tags of a function's outstanding requests. -/
def State.fnTags (s : State) (f : Nat) : List Nat :=
  ((s.fnAt f).rings.flatMap (fun r => (s.ringAt r).started.filterMap (fun c => c.tag.map BitVec.toNat)))
    ++ (s.fnAt f).ownTags.map BitVec.toNat

/-- A tag for a function's request: which one is a free value. -/
def State.pickFnTag (s : State) (f : Nat) : Tag :=
  BitVec.ofNat 12 (firstFreeFrom (s.fnTags f) 4095 (s.fnTags f).length s.peek)

/-- The root answers FENCED itself: an INDEX beyond its class, class 0x2, a muzzled home hub (R27, R30). -/
def State.fencedAtRoot (s : State) (q : KArgs) : Bool :=
  let cls := q.cls.toNat
  let ix := q.index.toNat
  cls == 2 || decide (classRange cls ≤ ix) || (q.scope != 2 && (s.hubAt (homeHub (kennelIndex cls ix))).muz)

/-- A function's request leaves the root, to the home hub or over the span. -/
def State.fnSend (s : State) (f : Nat) (op : KOp) (q : KArgs) (t : Tag) : State :=
  let m : KMsg := { args := q, master := s.fnMaster f, tag := t }
  if q.scope = 2 then s.spanReq f op m
  else
    let h := homeHub (kennelIndex q.cls.toNat q.index.toNat)
    s.send (.kenReq h (s.hubAt h).epoch op m)

/-- A ring's request is sent. -/
def State.ringSend (s : State) (f r : Nat) (i : BitVec 16) (op : KOp) (q : KArgs) : State :=
  let t := s.pickFnTag f
  let s := s.drawn.updRing r (fun x => x.updCmd i (fun c => { c with tag := some t, inv := none, op := some op }))
  s.fnSend f op q t

/-- The extent of a ring's publish: CLUSTER is taken as WAFER (R287). -/
def ringScope (sc : BitVec 2) : BitVec 2 := if sc = 2 then 2 else 1

/-- A ring's request goes: to its publish invalidation, or to its home (R287). A WITHDRAW names its target by submission
index (R324). -/
def State.kenGo (s : State) (f r : Nat) (i : BitVec 16) (c : Cmd) (op : KOp) : State :=
  let q := dKen c.d.bits
  if s.fencedAtRoot q then s.finish r i .fenced
  else if op = .withdraw then
    match ((s.ringAt r).cmdAt (BitVec.ofNat 16 (dField c.d.bits 288 16))).bind (·.tag) with
    | some tg => s.ringSend f r i .withdraw { q with ctag := tg }
    | none => s.finish r i .ok true
  else if q.pub && pubApplies op then
    (s.updRing r (fun x => x.updCmd i (fun c => { c with inv := some s.now, op := some op }))).emit
      (.invReq (.ring ⟨r % 4096, Nat.mod_lt _ (by decide)⟩ i) (ringScope q.scope) (fnOfNat f) (s.fnAt f).pepoch)
  else s.ringSend f r i op q

/-- An earlier command of the ring to the same kennel object has not been sent (R33). Commands of different rings have no
order (R290). -/
def Ring.behind (x : Ring) (c : Cmd) : Bool :=
  (x.started.takeWhile (fun e => e.d.sqi != c.d.sqi)).any
    (fun e => !e.done && e.tag.isNone && dFam e.d.bits == 1 && dHandle e.d.bits == dHandle c.d.bits)

/-- A begun kennel command that is neither sent nor being published, and that no earlier one holds back. -/
def Ring.kenHeld (x : Ring) (i : BitVec 16) : Option (Cmd × KOp) :=
  match x.cmdAt i with
  | some c =>
    match c.op with
    | some op => if c.begun && !c.done && c.tag.isNone && c.inv.isNone && dFam c.d.bits == 1 && !x.behind c then some (c, op) else none
    | none => none
  | none => none

/-- Every held kennel command of a ring goes as far as it can, in ring order. -/
def State.pushRing (s : State) (f r : Nat) : State :=
  forAll ((s.ringAt r).started.map (·.d.sqi)) (fun s i =>
    match (s.ringAt r).kenHeld i with
    | some (c, op) => s.kenGo f r i c op
    | none => s) s

/-- KENNEL_DESC (R311). -/
def State.kennelDesc (s : State) (r : Nat) (i : BitVec 16) (op : KOp) : State :=
  match s.ringFn r with
  | none => s
  | some f => (s.updRing r (fun x => x.updCmd i (fun c => { c with begun := true, op := some op }))).pushRing f r

/-- The started KENNEL command of a submission index whose meaning has not begun. -/
def Ring.kenToRun (x : Ring) (i : BitVec 16) : Option Cmd :=
  match x.cmdAt i with
  | some c => if !c.begun && !c.done && dFam c.d.bits == 1 then some c else none
  | none => none

/-- KENNEL_DESC. A reserved operation code, scope or class is a reserved encoding (R7, R77, R310): the command completes with
a free status (R9; assumption 12, DESIGN CHOICE). -/
def execKennelDesc (r : RingIx) (sqi : BitVec 16) (s : State) : Out :=
  .next (
    match (s.ringAt r.val).kenToRun sqi with
    | none => s
    | some c =>
      match kopOf (dOp c.d.bits) with
      | none => s.drawn.finish r.val sqi s.anyStatus
      | some op =>
        if dScope c.d.bits = 3 ∨ 2 < dField c.d.bits 380 4 then s.drawn.finish r.val sqi s.anyStatus
        else s.kennelDesc r.val sqi op)

/-! ### Answers (R78, R91, R367) -/

/-- The started command whose request carries a tag. -/
def State.cmdOfTag (s : State) (f : Nat) (t : Tag) : Option (Nat × BitVec 16) :=
  (s.fnAt f).rings.findSome? (fun r =>
    ((s.ringAt r).started.find? (fun c => c.tag == some t)).map (fun c => (r, c.d.sqi)))

/-- The result a ring's kennel request returns (R317). -/
def kenRes (e : KRsp) : Nat := e.result.toNat * 2 ^ 64 + e.grant.toNat * 2 ^ 32 + e.aux.toNat

/-- An answer at the ring engine: discarded under a stale epoch (R49), consumed for the root's own WITHDRAW, otherwise the
command completes. -/
def State.endAtRing (s : State) (f : Nat) (tep : Epoch) (e : KRsp) : State :=
  if tep != (s.fnAt f).epoch then s
  else if (s.fnAt f).ownTags.contains e.tag then s.updFn f (fun x => { x with ownTags := x.ownTags.erase e.tag })
  else
    match s.cmdOfTag f e.tag with
    | none => s
    | some (r, i) =>
      if (s.fnAt f).rst.isSome then
        s.updRing r (fun x => x.updCmd i (fun c => { c with tag := none, done := true }))
      else s.finish r i e.status e.flag (kenRes e)

/-- The lead's answer to a request that another wafer relayed (R367). A leash notice, which answers no request, goes to the
wafer of the former owner under the reserved tag (R85, R88; assumption 9, DEDUCED). -/
def State.endAtLead (s : State) (e : KRsp) : State :=
  if e.tag = 0xFFF then s.toWafer (Master.wafer e.master) (.krsp 0xFFF true e)
  else match s.span.relays.find? (fun r => r.master == e.master && r.tag == e.tag) with
  | none => s
  | some r =>
    { s with span := { s.span with relays := s.span.relays.erase r } }.toWafer (Master.wafer e.master) (.krsp r.rtag e.dfr e)

/-- KEN_RSP: to the ring engine, to the sync port of a core of this wafer, or on to the wafer that relayed the request. -/
def State.kenRsp (s : State) (tep : Epoch) (e0 : KRsp) : State :=
  let s := s.taken (.kenRsp tep e0)
  let e := { e0 with master := s.newMaster e0.master }
  if Master.wafer e.master != s.span.wid.toNat then s.endAtLead e
  else if Master.isFn e.master then s.endAtRing (Master.fnIx e.master) tep e
  else s.endAtCsn (Master.core e.master) tep none e

def execKenRsp (tep : Epoch) (r : KRsp) (s : State) : Out :=
  let m := Msg.kenRsp tep r
  .next (if s.stopped m then s.stopMsg m else s.kenRsp tep r)

/-! ### Publish invalidations at WAFER and SPAN scope (R286-R288) -/

/-- INV_ACK: the published operation is sent. -/
def State.invAck (s : State) (w : InvWho) : State :=
  match w with
  | .core c t =>
    match (s.coreAt c.id).reqOf t with
    | some r => match r.phase with | .inv _ => (s.launch c.id r).pushReqs c.id | _ => s
    | none => s
  | .ring r i =>
    match (s.ringAt r.val).cmdAt i, s.ringFn r.val with
    | some c, some f =>
      match c.inv, c.op with
      | some _, some op => (s.ringSend f r.val i op (dKen c.d.bits)).pushRing f r.val
      | _, _ => s
    | _, _ => s

def execInvAck (who : InvWho) (s : State) : Out := .next (s.invAck who)

/-- Whether an invalidation asked for at `t` has been out for 50 µs. -/
def State.invLate (s : State) (t : Nat) : Bool := decide (t + cyc 50000 ≤ s.now)

/-- INV_TIMEOUT: the operation completes TIMEOUT with no effect, and the event is reported. -/
def State.invTimeout (s : State) (w : InvWho) : State :=
  match w with
  | .core c t =>
    match (s.coreAt c.id).reqOf t with
    | some r =>
      match r.phase with
      | .inv since =>
        if s.invLate since then
          let s := (s.updCore c.id (fun x => x.dropReq t)).report 0x12 (unitId .csn c.cl.id) 2 0 0 (s.fnOf c.cl.id)
          let s := if r.silent then s else s.emit (.portKen c.id (bareEnd (clusterOf c.id) false r.op .timeout (s.coreMaster c.id) t))
          (s.pushReqs c.id).settle c.cl.id
        else s
      | _ => s
    | none => s
  | .ring r i =>
    match (s.ringAt r.val).cmdAt i with
    | some c =>
      match c.inv with
      | some since =>
        if s.invLate since then
          let s := ((s.updRing r.val (fun x => x.updCmd i (fun c => { c with inv := none }))).finish r.val i .timeout).report 0x12
            (unitId .rootSite (b2n s.mesh.root)) 2 0 0 (s.ringFn r.val)
          match s.ringFn r.val with | some f => s.pushRing f r.val | none => s
        else s
      | none => s
    | none => s

def execInvTimeout (who : InvWho) (s : State) : Out := .next (s.invTimeout who)

/-! ### The root withdraws a ring's request (R101, R306) -/

/-- WITHDRAW of one queued request of a ring, by the root itself. -/
def State.ringWithdraw (s : State) (f : Nat) (c : Cmd) : State :=
  match c.tag with
  | none => s
  | some t =>
    let q := dKen c.d.bits
    let own := s.pickFnTag f
    let s := s.drawn.updFn f (fun x => { x with ownTags := x.ownTags ++ [own] })
    s.fnSend f .withdraw { q with ctag := t, pub := false, n := 0, m := 0, leash := 0, tmo := 0, wait := false, ahead := false } own

/-- The outstanding WAIT 1 kennel requests of a ring. -/
def Ring.waits (x : Ring) : List Cmd := x.started.filter (fun c => !c.done && dFam c.d.bits == 1 && c.waiting && c.tag.isSome)

/-- Every queued kennel request of a ring is withdrawn. -/
def State.withdrawRing (s : State) (f r : Nat) : State := forAll (s.ringAt r).waits (fun s c => s.ringWithdraw f c) s

/-- Relayed requests that a predicate picks end with a status at this member: its cores' and rings' requests complete, the
relays are dropped (R371, R373). -/
def State.endRelays (s : State) (p : Relay → Bool) (st : Status) : State :=
  let rs := s.span.relays.filter p
  let s := { s with span := { s.span with relays := s.span.relays.filter (fun r => !p r) } }
  forAll rs (fun s r =>
    if Master.wafer r.master = s.span.wid.toNat then
      s.send (.kenRsp (Master.epoch r.master) (bareEnd s.rootUnit true r.op st r.master r.tag))
    else s) s

end Sys2Proof.Machine
end

