-- ==== Sys2Proof/Machine/Slots.lean ====
section
/-! DEFINITION. The sequence-slot engine: pages, pending decisions and their application, ends, the view. -/

namespace Sys2Proof.Machine

open Sys2Proof

/-! ### The slot record (R256) -/

def slotStCode : SlotSt → Nat
  | .free => 0 | .active => 1 | .waitpage => 2 | .paused => 3 | .ending => 4

/-- MAXLEN as used. -/
def Slot.maxUsed (x : Slot) : Nat := if x.maxlen = 0 then 1048575 else x.maxlen.toNat

/-- The slot record of 512 bits. -/
def slotWord (x : Slot) : BitVec 512 :=
  BitVec.ofNat 512 (((List.range 8).map (fun k => ((x.stops[k]?).getD 0).toNat * 2 ^ (256 + 32 * k))).sum
    + x.seed.toNat * 2 ^ 192 + x.last.toNat * 2 ^ 160 + x.utag.toNat * 2 ^ 128 + x.pos.toNat * 2 ^ 108
    + x.maxlen.toNat * 2 ^ 88 + x.shp.toNat * 2 ^ 68 + b2n x.shv * 2 ^ 67 + x.pgsh.toNat * 2 ^ 63 + x.cring.toNat * 2 ^ 51
    + x.plid.toNat * 2 ^ 40 + x.func.val * 2 ^ 34 + slotStCode x.st * 2 ^ 31 + x.wtk.toNat * 2 ^ 20 + x.pages.toNat)

/-- A slot as an image gives it; STATE, WTK and PAGES of the image are ignored (R256). -/
def slotOf (f : Nat) (img : List Byte) : Slot :=
  let n := leNat (sliceAt img 0 64)
  { Slot.init with
    stops := (List.range 8).map (fun k => BitVec.ofNat 32 (bits n (256 + 32 * k) 32))
    seed := BitVec.ofNat 64 (bits n 192 64), last := BitVec.ofNat 32 (bits n 160 32), utag := BitVec.ofNat 32 (bits n 128 32)
    pos := BitVec.ofNat 20 (bits n 108 20), maxlen := BitVec.ofNat 20 (bits n 88 20), shp := BitVec.ofNat 20 (bits n 68 20)
    shv := bit n 67, pgsh := BitVec.ofNat 4 (bits n 63 4), cring := BitVec.ofNat 12 (bits n 51 12)
    plid := BitVec.ofNat 11 (bits n 40 11), func := fnOfNat f }

/-! ### The engine's kennel operations (R257, R258)

The engine operates its entries with the function's master identity. Each such operation is applied at its home hub in the
moment the engine issues it (assumption 14, DESIGN CHOICE). -/

/-- Whether a token pool answers an operation of function f's engine: present, not muzzled, and the function's own. -/
def State.poolOk (s : State) (f k : Nat) : Bool :=
  let e := s.kenAt k
  e.kind == .tokenPool && !(s.hubAt (homeHub k)).muz && e.func.val == f

/-- TOK_TAKE N 1 with WAIT 0. -/
def State.takeOne (s : State) (f k : Nat) : Option State :=
  let e := s.kenAt k
  if s.poolOk f k && e.queue.isEmpty && e.count != 0 then some (s.updKen k (fun e => { e with count := e.count - 1 })) else none

/-- TOK_RETURN n. -/
def State.giveBack (s : State) (f k n : Nat) : State :=
  if s.poolOk f k then
    (s.updKen k (fun e => { e with count := (addClip e.count e.limit n).1 })).serve k
  else s

/-- TOK_SET LIMIT, COUNT on system entry i for its function (R257). -/
def State.setBudget (s : State) (f i : Nat) (b : Nat) : State :=
  let k := kennelIndex 2 i
  (s.updKen k (fun e => { e with kind := .tokenPool, func := fnOfNat f, limit := 0xFFFFFFFF, count := BitVec.ofNat 32 b })).serve k

/-- Pages a slot needs (R258). -/
def Slot.need (x : Slot) : Nat := (x.pos.toNat + 2 ^ x.pgsh.toNat - 1) / 2 ^ x.pgsh.toNat

/-- One page more for a slot. -/
def State.gotPage (s : State) (i : Nat) : State := s.updSlot i (fun x => { x with pages := x.pages + 1, pgn := true })

/-- One page taken from the budget, and from the shared pool where there is one. -/
def State.takePage (s : State) (i : Nat) : Option State :=
  let x := s.slotAt i
  let f := x.func.val
  match s.takeOne f (kennelIndex 2 i) with
  | none => none
  | some s1 =>
    if x.shv then
      match s1.takeOne f x.shp.toNat with
      | some s2 => some (s2.gotPage i)
      | none => none
    else some (s1.gotPage i)

/-- Taking pages until they suffice, and whether they do. A failed second take returns the unit, which leaves the budget
as it was. -/
def takeGo (i : Nat) : Nat → State → State × Bool
  | 0, s => (s, true)
  | fuel + 1, s =>
    if (s.slotAt i).pages.toNat < (s.slotAt i).need then
      match s.takePage i with
      | some s' => takeGo i fuel s'
      | none => (s, false)
    else (s, true)

def State.takePages (s : State) (i : Nat) : State × Bool := takeGo i ((s.slotAt i).need) s

/-- A slot goes to ACTIVE, or to WAITPAGE with WTK 0, as its pages are met (R259). -/
def State.pageSlot (s : State) (i : Nat) : State :=
  let r := s.takePages i
  if r.2 then r.1.updSlot i (fun x => { x with st := .active })
  else r.1.updSlot i (fun x => { x with st := .waitpage, wtk := 0 })

/-! ### Ends (R262) -/

def endCode : EndR → Nat
  | .stop => 0 | .maxlen => 1 | .nan => 2 | .evict => 3 | .cancel => 4 | .retire => 5 | .poison => 6

def endStatus : EndR → Status
  | .stop | .maxlen | .nan => .ok
  | .evict => .noResource
  | .cancel | .retire => .aborted
  | .poison => .poison

/-- The saturating counts of VSF_SEQ_CNT (R271). -/
def seqCntEmpty (r : Reg) : Reg := setBits r 16 16 (Nat.min (bits r.toNat 16 16 + 1) 65535)
def seqCntEvict (r : Reg) : Reg := setBits r 8 8 (Nat.min (bits r.toNat 8 8 + 1) 255)
def seqCntNan (r : Reg) : Reg := setBits r 0 8 (Nat.min (bits r.toNat 0 8 + 1) 255)

/-- A slot ends: its shared pages are returned, it is ENDING, and its completion is handed to the ring engine. -/
def State.endSlot (s : State) (i : Nat) (why : EndR) : State :=
  let x := s.slotAt i
  let f := x.func.val
  let s := if x.shv then s.giveBack f x.shp.toNat x.pages.toNat else s
  let s := s.updSlot i (fun x => { x with st := .ending, why := some why, dec := none, after := none, pauseAfter := false })
  let s := match why with
    | .evict => s.updFn f (fun y => { y with seqCnt := seqCntEvict y.seqCnt })
    | .nan => s.updFn f (fun y => { y with seqCnt := seqCntNan y.seqCnt })
    | _ => s
  s.postTo f x.cring.toNat (slotEndRec i (s.slotAt i) (endCode why) (endStatus why) s.tick.num.toNat)

/-! ### Bindings -/

/-- The bound slots of an image, in ordinal order (R245). -/
def imgSlots (m : PitchImage) : List Nat :=
  m.binds.flatMap (fun b => (List.range b.nl.toNat).map (fun i => b.slot0.toNat + i))

/-- The image that a pitch list's chosen step runs, its own or its variant's (R253); the list's own where none is chosen. -/
def State.imageOf (s : State) (plid : Nat) : PitchImage :=
  let p := s.plAt plid
  match (s.fnAt p.func.val).choice with
  | some c => if c.plid = plid then c.img else p.img
  | none => p.img

/-- A bound slot of a pitch list changed state other than by an application (R265). -/
def State.markView (s : State) (plid : Nat) : State :=
  if (s.plAt plid).st = .free then s else s.updPl plid (fun p => { p with viewDue := true })

/-- A slot that becomes ACTIVE after a cut is first considered at the next one: no step chosen or running forms a decision of
it (R257, R267). -/
def State.nextCut (s : State) (i : Nat) : State :=
  s.updFn (s.slotAt i).func.val (fun x => { x with
    choice := x.choice.map (fun c => { c with slots := c.slots.filter (fun k => k != i) })
    run := x.run.map (fun r => { r with slots := r.slots.filter (fun k => k != i) }) })

/-! ### Decisions (R260, R261) -/

/-- The decision of a lane whose slot is ACTIVE: the first case that applies, and whether EMPTY is counted. -/
def decisionOf (x : Slot) (st : Status) (flags : Nat) (t : BitVec 32) : Option Decision × Bool :=
  if bit flags 5 then (some ⟨x.last, x.pos, some .poison⟩, false)
  else if st ≠ .ok then (none, false)
  else if bit flags 6 then (none, true)
  else if bit flags 4 then (some ⟨x.last, x.pos, some .nan⟩, false)
  else
    let pos := x.pos.toNat + 1
    let e := if x.stops.any (fun k => k == t) then some EndR.stop
      else if x.maxUsed ≤ pos then some EndR.maxlen else none
    (some ⟨t, BitVec.ofNat 20 pos, e⟩, false)

/-- Latching lane i of a bound barrier for its slot. -/
def State.latchLane (s : State) (k : Nat) (st : Status) (flags : Nat) (t : BitVec 32) : State :=
  let x := s.slotAt k
  if x.st = .active then
    let d := decisionOf x st flags t
    let s := s.updSlot k (fun x => { x with dec := d.1 })
    if d.2 then s.updFn x.func.val (fun y => { y with seqCnt := seqCntEmpty y.seqCnt }) else s
  else s

/-- The engine reads a bound barrier's result at DECIDING, for the phase the step is in and the slots that its cut
considered (R161, R257, R260). -/
def State.latchLanes (s : State) (r : Run) (b : BarIx) (st : Status) (w : WinRes) : State :=
  forAll (r.img.binds.filter (fun x => x.bar == b && x.ph.toNat == r.phase)) (fun s x =>
    forAll ((List.range x.nl.toNat).filter (fun i => r.slots.contains (x.slot0.toNat + i))) (fun s i =>
      s.latchLane (x.slot0.toNat + i) st (((w.flags[i]?).getD 0).toNat) (BitVec.ofNat 32 (fieldAt w.bytes (128 + 4 * i) 4))) s) s

/-- What SEQ_CTL left waiting behind a decision (R267). -/
def State.afterDecision (s : State) (i : Nat) : State :=
  let x := s.slotAt i
  match x.st, x.after, x.pauseAfter with
  | .active, some e, _ | .waitpage, some e, _ => s.endSlot i e
  | .active, none, true | .waitpage, none, true =>
    s.updSlot i (fun x => { x with st := .paused, after := none, pauseAfter := false })
  | _, _, _ => s.updSlot i (fun x => { x with after := none, pauseAfter := false })

/-- One slot's pending decision applied (R259, R261, R267). -/
def State.applyDecision (s : State) (i : Nat) : State :=
  match (s.slotAt i).dec with
  | none => s
  | some d =>
    let s := s.updSlot i (fun x => { x with last := d.last, pos := d.pos, dec := none })
    match d.ends with
    | some e => s.endSlot i e
    | none => (s.pageSlot i).afterDecision i

/-- The pending decisions of a step applied in ascending slot order, and the view that follows them is due. -/
def State.applyDecisions (s : State) (plid : Nat) (m : PitchImage) : State :=
  let ks := (List.range 1024).filter (fun k => (imgSlots m).contains k && (s.slotAt k).dec.isSome)
  let s := forAll ks (fun s k => s.applyDecision k) s
  if m.binds = [] then s else s.updPl plid (fun p => { p with viewApp := some m })

/-- The pending decisions of a step that is not counted are discarded; what SEQ_CTL left waiting behind them is carried out,
and a view shows it (R265). -/
def State.dropDecisions (s : State) (m : PitchImage) : State :=
  forAll (imgSlots m) (fun s k =>
    if (s.slotAt k).dec.isSome then
      let x := s.slotAt k
      let t := (s.updSlot k (fun x => { x with dec := none })).afterDecision k
      if (t.slotAt k).st = x.st then t else t.markView x.plid.toNat
    else s) s

/-! ### SEQ_CTL, retries, retirement -/

/-- EVT of a function (R271). -/
def Fn.evt (x : Fn) : Nat := bits x.seqCtrl.toNat 8 8

/-- A WAITPAGE slot's retry at a dispatch cut (R259). -/
def State.retrySlot (s : State) (i : Nat) : State :=
  if (s.slotAt i).st = .waitpage then
    let plid := (s.slotAt i).plid.toNat
    let r := s.takePages i
    if r.2 then (r.1.updSlot i (fun x => { x with st := .active })).markView plid
    else
      let s := r.1
      let x := s.slotAt i
      let evt := (s.fnAt x.func.val).evt
      if evt ≠ 0 ∧ x.wtk.toNat + 1 = evt then (s.endSlot i .evict).markView plid
      else s.updSlot i (fun x => { x with wtk := satInc x.wtk })
  else s

def State.retrySlots (s : State) : State := forAll (tkeys s.slot) (fun s i => s.retrySlot i) s

/-- Whether a slot can be ended by CANCEL or a retirement. -/
def SlotSt.live : SlotSt → Bool
  | .active | .waitpage | .paused => true
  | _ => false

/-- PAUSE: at once, or after the pending decision (R259, R267). -/
def State.pauseSlot (s : State) (i : Nat) : State :=
  let x := s.slotAt i
  if x.st = .active ∨ x.st = .waitpage then
    if x.dec.isSome then s.updSlot i (fun x => { x with pauseAfter := true })
    else (s.updSlot i (fun x => { x with st := .paused })).markView x.plid.toNat
  else s

/-- RESUME of a paused slot, by R258. -/
def State.resumeSlot (s : State) (i : Nat) : State :=
  let x := s.slotAt i
  if x.st = .paused then ((s.pageSlot i).nextCut i).markView x.plid.toNat
  else if x.pauseAfter then s.updSlot i (fun x => { x with pauseAfter := false })
  else s

/-- CANCEL: at once, or after the pending decision. -/
def State.cancelSlot (s : State) (i : Nat) : State :=
  let x := s.slotAt i
  if x.st.live then
    if x.dec.isSome then s.updSlot i (fun x => { x with after := some .cancel })
    else (s.endSlot i .cancel).markView x.plid.toNat
  else s

/-- The slots of a retired pitch list end. -/
def State.retireSlots (s : State) (plid : Nat) : State :=
  forAll ((tkeys s.slot).filter (fun i => (s.slotAt i).plid.toNat == plid && (s.slotAt i).st.live))
    (fun s i => s.endSlot i .retire) s

/-! ### The view (R264, R265) -/

/-- A view entry. -/
def viewEntry (x : Slot) : Nat :=
  x.seed.toNat * 2 ^ 64 + x.last.toNat * 2 ^ 32 + x.pos.toNat * 2 ^ 12 + x.pgsh.toNat * 2 ^ 8 + b2n x.isNew * 2 ^ 7
    + b2n x.pgn * 2 ^ 6 + slotStCode x.st

/-- Block b of a view: stamp, entries, zeros. -/
def State.viewBlock (s : State) (ks : List Nat) (vseq cep : BitVec 32) (b : Nat) : List Byte :=
  let es := (ks.drop (7 * b)).take 7
  let body := es.flatMap (fun k => leBytes 16 (viewEntry (s.slotAt k)))
  leBytes 16 (vseq.toNat * 2 ^ 96 + cep.toNat * 2 ^ 64 + 7 * b * 2 ^ 48 + es.length * 2 ^ 40 + (crc32 body).toNat)
    ++ body ++ List.replicate (112 - body.length) 0

/-- The packets of a view of an image's bound slots, with a sequence number. -/
def State.viewPkts (s : State) (f : Func) (m : PitchImage) (vseq : BitVec 32) : List LoadPkt :=
  let ks := imgSlots m
  let nb := (ks.length + 6) / 7
  let base := m.vaddr.toNat + 128 * nb * (vseq.toNat % 2)
  (List.range nb).map (fun b =>
    { func := f, seq := BitVec.ofNat 32 b, addr := BitVec.ofNat 22 (base + 128 * b),
      data := s.viewBlock ks vseq (s.fnAt f.val).cep b })

/-- The loader sends packets to every cluster of a partition (R65, R264). -/
def State.sendView (s : State) (f : Nat) (ps : List LoadPkt) : State :=
  let dest := (s.clustersOf f).filter (fun c => s.inService c && s.reachable c)
  if dest = [] then s else s.sendAll (ps.map (fun p => .loadMc dest p s.now))

/-- A send with the next VSEQ. -/
def State.nextView (s : State) (plid : Nat) (m : PitchImage) : State :=
  let p := s.plAt plid
  let ps := s.viewPkts p.func m (p.vseq + 1)
  let s := s.sendView p.func.val ps
  let s := forAll (imgSlots m) (fun s k => s.updSlot k (fun x => { x with isNew := false, pgn := false })) s
  s.updPl plid (fun p => { p with vseq := p.vseq + 1, view := ps })

/-- The current view again, with its own VSEQ (R265). -/
def State.sameView (s : State) (plid : Nat) : State := s.sendView (s.plAt plid).func.val (s.plAt plid).view

/-- VIEW_SEND: the view that an application made due. -/
def execViewSend (plid : BitVec 11) (s : State) : Out :=
  .next (match (s.plAt plid.toNat).viewApp with
    | some m => (s.nextView plid.toNat m).updPl plid.toNat (fun p => { p with viewApp := none })
    | none => s)

/-- The views of a dispatch cut: lists a bound slot of which changed (R265). -/
def State.cutViews (s : State) : State :=
  forAll ((tkeys s.pl).filter (fun p => (s.plAt p).viewDue && !((s.imageOf p).binds.isEmpty))) (fun s p =>
    (s.nextView p (s.imageOf p)).updPl p (fun l => { l with viewDue := false })) s

end Sys2Proof.Machine
end

