-- ==== Sys2Proof/Machine/Commit.lean ====
section
/-! DEFINITION. The commit engine: commit states, substitutes and proxy records, readiness for a replay, the checkpoint
epoch and the cask barrier. -/

namespace Sys2Proof.Machine

open Sys2Proof

/-! ### Images -/

/-- Every barrier an image names (R245). -/
def imgBars (m : PitchImage) : List Nat :=
  (m.phases.flatMap (fun p => p.bars.map BitVec.toNat)) ++ m.binds.map (·.bar.toNat)
    ++ [m.heel.toNat] ++ (if m.cmt then [m.commit.toNat] else [])

/-- The step that is open for a function: the pitch list, and the image it runs (R253). -/
def State.stepOf (s : State) (f : Nat) : Option (Nat × Nat × PitchImage) :=
  match (s.fnAt f).run with
  | some r => some (r.plid, r.image, r.img)
  | none => (s.fnAt f).replayOf

/-! ### Registers (R241) -/

def Fn.rmax (x : Fn) : Nat := bits x.cmtCtrlF.toNat 4 2
def Fn.selfOk (x : Fn) : Bool := bit x.cmtCtrlF.toNat 3
def cntSus (r : Reg) : Reg := setBits r 16 16 (Nat.min (bits r.toNat 16 16 + 1) 65535)
def cntRpl (r : Reg) : Reg := setBits r 4 12 (Nat.min (bits r.toNat 4 12 + 1) 4095)
def cntFail (r : Reg) : Reg := setBits r 0 4 (Nat.min (bits r.toNat 0 4 + 1) 15)

/-! ### Ends of a step -/

/-- The 48-bit tick number whose low 32 bits a commit record's STEP holds. -/
def State.fullTick (s : State) (low : BitVec 32) : Nat :=
  s.tick.num.toNat - (BitVec.ofNat 32 s.tick.num.toNat - low).toNat

/-- Ending the cask barrier a function has outstanding, with no change of CKPT (R231, R235). -/
def State.endCask (s : State) (f : Nat) (st : Status) : State :=
  match (s.fnAt f).cask with
  | none => s
  | some c => (s.updFn f (fun x => { x with cask := none })).finish c.ring c.sqi st

/-- A pitch list is held, and its event is posted (R223, R251). -/
def State.holdList (s : State) (f plid : Nat) (st : Status) : State :=
  let p := s.plAt plid
  let x := s.fnAt f
  let s := s.updPl plid (fun p => { p with st := .held })
  s.postTo f p.img.cring.toNat
    (eventRec plid st p.img.utag p.steps x.cep (s.fullTick x.step) (x.cep + 1) x.rpl)

/-- The step goes to FAILED or POISONED (R223): the list is held, the failure counted, and a cask barrier whose epoch CEP has
not reached ends (R231, R235). -/
def State.failStep (s : State) (f : Nat) (poisoned : Bool) : State :=
  let s := match s.stepOf f with
    | some (plid, _) => s.holdList f plid (if poisoned then .poison else .suspect)
    | none => s
  let s := s.updFn f (fun x => { x with
    cst := if poisoned then .poisoned else .failed, cmtCnt := cntFail x.cmtCnt, needSub := [], ready := false,
    readyWait := 0, readyFrom := [], replayOf := none })
  match (s.fnAt f).cask with
  | some c => if (s.fnAt f).cep.toNat < c.epoch.toNat then s.endCask f .aborted else s
  | none => s

/-- Every member of a span job has reported ready to the lead, or there is none to wait for (R229). -/
def State.allReady (s : State) (f : Nat) : Bool :=
  let x := s.fnAt f
  x.ready && (!x.job || s.span.st != .lead ||
    (List.range 32).all (fun w => !bit s.span.formed.toNat w || w == s.span.wid.toNat || x.readyFrom.contains w))

/-- This wafer's part of the replay is ready; a span member reports it to the lead (R223, R229). -/
def State.setReady (s : State) (f : Nat) : State :=
  let x := s.fnAt f
  let s := s.updFn f (fun x => { x with ready := true, needSub := [] })
  if x.job && s.span.st == .member then
    s.send (.sb (some s.span.lead.toNat) (.cmt (fnOfNat f) (x.cep + 1) (BitVec.ofNat 7 x.subs.length)))
  else s

/-- The step is to be replayed: SUSPECT, or FAILED when its replays are used up (R223). -/
def State.suspectStep (s : State) (f : Nat) (need : List Nat) : State :=
  let x := s.fnAt f
  if x.rpl.toNat < x.rmax then
    let s := s.updFn f (fun y => { y with cst := .suspect, needSub := need, ready := false, readyWait := 0, readyFrom := [],
                                          replayOf := s.stepOf f })
    s
  else s.failStep f false

/-- A step overrun before its commit: replayed with no further substitutes, at once ready (R179, R223, R224). -/
def State.overrunStep (s : State) (f : Nat) : State :=
  let s := s.suspectStep f []
  if (s.fnAt f).cst = .suspect then s.setReady f else s

/-! ### Decisions at the commit barrier (R216, R223, R228) -/

/-- The clusters whose mask bit is set. -/
def maskClusters (masks : Tbl (BitVec 96)) : List Nat :=
  masks.flatMap (fun p => (memLocals p.2).map (fun l => p.1 * 128 + l))

/-- Clusters suspect in this run and in an earlier run of the step: permanent events. The others wait for the replay's
verdict (R228). -/
def State.logSuspects (s : State) (f : Nat) (now : List Nat) : State :=
  forAll (now.filter (fun c => (s.fnAt f).suspects.contains c))
    (fun s c => s.report 0x0C (unitId .csn c) 1 1 6 (some f)) s

/-- The clusters suspect in an earlier run that this replay finds clear, as targets of substitutes: transient events, one
each (R228). -/
def State.logCleared (s : State) (f : Nat) (sus : List Nat) : State :=
  let x := s.fnAt f
  let cs := if x.rpl = 0 then [] else
    x.suspects.filter (fun c => x.subs.any (fun b => b.x == c) && !sus.contains c && !x.cleared.contains c)
  (forAll cs (fun s c => s.report 0x0C (unitId .csn c) 1 0 6 (some f)) s).updFn f (fun y => { y with cleared := y.cleared ++ cs })

/-- The step commits: CEP is its epoch, and the tick of it is kept for a cask record (R216, R218, R237). -/
def State.commitEpoch (s : State) (f : Nat) (e : BitVec 32) : State :=
  s.updFn f (fun x => { x with
    cst := .idle, cep := e, commits := (e, s.tick.num) :: x.commits, needSub := [], ready := false, replayOf := none })

/-- The commit barrier's release decides the step (R223). `masks`: the field masks the commit engine read; `hit`: some verdict
of the whole job was suspect (R241); `epoch`: the epoch that a span's lead commits (R366). -/
def State.decideStep (s : State) (f : Nat) (st : Status) (masks : Tbl (BitVec 96)) (hit : Bool) (epoch : Option (BitVec 32)) :
    State :=
  let sus := maskClusters masks
  let s := if hit then s.updFn f (fun x => { x with cmtCnt := cntSus x.cmtCnt }) else s
  let x := s.fnAt f
  if x.cst != .running && x.cst != .replaying && x.cst != .deciding then s
  else
    let s := if st = .ok ∨ st = .suspect ∨ st = .poison then s.logCleared f sus else s
    match st with
    | .ok => s.commitEpoch f (epoch.getD (x.cep + 1))
    | .poison => s.failStep f true
    | .suspect | .timeout | .fenced | .overrun =>
      let s := s.logSuspects f sus
      let subbed := (x.subs.filter (fun b => sus.contains b.x)).map (·.s)
      let need := (sus ++ x.lostNow).eraseDups
      let s := s.updFn f (fun x => { x with suspects := (x.suspects ++ sus ++ subbed).eraseDups })
      s.suspectStep f need
    | _ => s

/-- The step begins at an edge (R223): RUNNING with STEP and RPL 0, or REPLAYING with RPL + 1. -/
def State.beginStep (s : State) (f : Nat) (cmt replay : Bool) (tick : Nat) : State :=
  if !cmt then s
  else if replay then
    s.updFn f (fun x => { x with cst := .replaying, rpl := x.rpl + 1, cmtCnt := cntRpl x.cmtCnt, lostNow := [],
                                 ready := false, readyFrom := [], replayOf := none })
  else
    s.updFn f (fun x => { x with cst := .running, rpl := 0, step := BitVec.ofNat 32 tick, suspects := [], lostNow := [], cleared := [],
                                 ready := false, readyFrom := [], replayOf := none })

/-! ### Substitutes (R224-R227) -/

/-- Whether a cluster holds a leg of its own on a barrier. -/
def State.holdsLeg (s : State) (c : Nat) (b : Nat) : Bool :=
  (s.csnAt c).ents.any (fun e => e.2.mode == 2 && e.2.bar.toNat == b && e.2.proxy.isNone)

/-- Whether a cluster may substitute under rules 1 and 2 of R224. -/
def State.canSub (s : State) (f c x : Nat) : Bool :=
  let y := s.fnAt f
  c != x && y.members.contains c && s.inService c && !y.suspects.contains c &&
  !y.subs.any (fun b => b.s == c && b.s != b.x) && decide (8 ≤ (s.csnAt c).freeEnts)

/-- The candidate with the least LAT to X's hub, then the lowest cluster ID. -/
def State.nearest (s : State) (h : Nat) (cs : List Nat) : Option Nat :=
  cs.foldl (fun (b : Option Nat) c =>
    match b with
    | none => some c
    | some d => if s.lat c h < s.lat d h ∨ (s.lat c h = s.lat d h ∧ c < d) then some c else some d) none

/-- The substitute of X: a spare, a neighbour without a leg of the heel point, or X itself in the first replay. -/
def State.substituteFor (s : State) (f x heel : Nat) : Option Nat :=
  let y := s.fnAt f
  let h := fieldOf x
  if (s.hubAt h).muz then none
  else
    match s.nearest h (y.spares.filter (fun c => s.canSub f c x)) with
    | some c => some c
    | none =>
      match s.nearest h (y.members.filter (fun c => s.canSub f c x && !s.holdsLeg c heel)) with
      | some c => some c
      | none => if y.rpl = 0 ∧ y.selfOk ∧ !y.lostNow.contains x then some x else none

/-- A proxy leg's barriers at S for X are freed, with X's record (R227). -/
def State.freeSub (s : State) (f : Nat) (b : Sub) : State :=
  let bars := (((s.csnAt b.s).ents.filter (fun e => e.2.proxy == some b.x)).map (·.2.bar))
  let s := forAll bars (fun s k => s.onStatus b.s (.legFree k (some b.x))) s
  let s := s.updHub (fieldOf b.x) (fun h => { h with
    proxies := h.proxies.filter (fun p => !(p.func.val == f && p.x == b.x && p.s == b.s)) })
  s.updFn f (fun x => { x with subs := x.subs.filter (fun y => !(y.x == b.x && y.s == b.s)) })

/-- X leaves every pack again when its substitute goes and it is not in service. -/
def State.freeSubs (s : State) (f : Nat) : State :=
  forAll (s.fnAt f).subs (fun s b =>
    let s := s.freeSub f b
    if s.inService b.x then s
    else
      forAll s.packed (fun s k =>
        let h := fieldOf b.x
        if bit (s.frecOf h k).mem.toNat (localOf b.x) then
          s.updFr h k (fun r => { r with mem := setBits r.mem (localOf b.x) 1 0, exp := r.exp - 1 })
        else s) s) s

/-- Choosing a substitute for one cluster after another; none where some cluster has none (R224). -/
def chooseGo (f heel : Nat) : List Nat → State → Option State
  | [], s => some s
  | x :: rest, s =>
    let old := (s.fnAt f).subs.filter (fun b => b.x == x)
    let s := forAll old (fun s b => s.freeSub f b) s
    match s.substituteFor f x heel with
    | none => none
    | some c => chooseGo f heel rest (s.updFn f (fun y => { y with subs := y.subs ++ [⟨x, c⟩] }))

/-- Whether every substitute other than a self-replay has its accepted record. -/
def State.allBound (s : State) (f : Nat) : Bool :=
  (s.fnAt f).subs.all (fun b => b.s == b.x ||
    (s.hubAt (fieldOf b.x)).proxies.any (fun p => p.func.val == f && p.x == b.x && p.s == b.s))

/-- SUBSTITUTE_BIND: once the failed run's heel point has released, the substitutes are chosen and their proxy records
written (R224, R225). -/
def State.bindSubs (s : State) (f : Nat) : State :=
  let x := s.fnAt f
  if x.cst != .suspect || x.run.isSome || x.ready || (s.err.roleAt 0).isNone then s
  else
    match x.replayOf with
    | none => s
    | some (_, _, m) =>
      if x.needSub = [] then (if s.allBound f then s.setReady f else s)
      else
        match chooseGo f m.heel.toNat x.needSub s with
        | none => s.failStep f false
        | some t =>
          if 64 < (t.fnAt f).subs.length then s.failStep f false
          else
            let fresh := (t.fnAt f).subs.filter (fun b => x.needSub.contains b.x && b.s != b.x)
            let t := t.sendAll (fresh.map (fun b =>
              .proxy (fieldOf b.x) (s.hubAt (fieldOf b.x)).epoch ⟨fnOfNat f, b.x, b.s, x.cep + 1⟩))
            let t := t.updFn f (fun y => { y with needSub := [] })
            if t.allBound f then t.setReady f else t

def execSubstituteBind (f : Func) (s : State) : Out := .next (s.bindSubs f.val)

/-- The checks of X's hub on a proxy record (R225). -/
def State.proxyOk (s : State) (h : Nat) (p : Proxy) : Bool :=
  let y := s.fnAt p.func.val
  let heel := match y.replayOf with | some (_, _, m) => m.heel.toNat | none => 65536
  fieldOf p.x == h && (y.members.contains p.x) && y.members.contains p.s && s.inService p.s && !y.suspects.contains p.s &&
  !s.holdsLeg p.s heel && !(s.hub.any (fun q => q.2.proxies.any (fun r => r.s == p.s)))

/-- A lost X counts again while a substitute stands for it (R224, R227; assumption 16, DEDUCED). A record that had no member
left begins at the root's generation. -/
def State.rejoin (s : State) (x b : Nat) : State :=
  let h := fieldOf x
  let r := s.frecOf h b
  if bit r.mem.toNat (localOf x) then s
  else
    let s := s.updFr h b (fun r => { r with mem := setBits r.mem (localOf x) 1 1, exp := r.exp + 1,
                                            st := if r.st = .idle then .gather else r.st,
                                            gen := if r.st = .idle then (s.precAt b).gen else r.gen })
    if bit (s.precAt b).mfs.toNat h then s
    else s.updPrec b (fun r => { r with mfs := setBits r.mfs h 1 1, fexp := r.fexp + 1 })

/-- GEN of X for one of its legs: its own entry's, or, once it has left the pack and its entry stands still, that of its
field's record (R226, R227). -/
def State.legGen (s : State) (x : Nat) (e : BarEntry) : Byte :=
  let r := s.frecOf (fieldOf x) e.bar.toNat
  if r.st = .idle then (s.precAt e.bar.toNat).gen
  else if bit r.mem.toNat (localOf x) && s.inService x then e.gen else r.gen

/-- The proxy legs of an accepted record (R226). -/
def State.bindProxy (s : State) (p : Proxy) : State :=
  match (s.fnAt p.func.val).replayOf with
  | none => s
  | some (_, _, m) =>
    let bars := imgBars m
    let legs := ((s.csnAt p.x).ents.filter (fun e => e.2.mode == 2 && e.2.proxy.isNone && bars.contains e.2.bar.toNat)).map
      Prod.snd
    forAll legs (fun s e =>
      (s.rejoin p.x e.bar.toNat).onStatus p.s (.legBind e.bar e.exp (s.legGen p.x e) (some p.x))) s

/-- PROXY_RECORD at X's hub: accepted with its legs, or rejected, which fails the step; so does a hub that has been muzzled
since the choice. `differ`: the hub's two sequencers disagree about it (R232, R233). -/
def State.takeProxy (s : State) (h : Nat) (tep : Epoch) (p : Proxy) (differ : Bool) : State :=
  let f := p.func.val
  let s := s.taken (.proxy h tep p)
  if (s.hubAt h).muz then s.failStep f false
  else if tep != (s.hubAt h).epoch then s
  else if differ then s.diverge h (some f)
  else if s.proxyOk h p then
    let s := (s.updHub h (fun x => { x with proxies := x.proxies ++ [p] })).bindProxy p
    if (s.fnAt f).cst = .suspect ∧ (s.fnAt f).needSub = [] ∧ !(s.fnAt f).ready ∧ s.allBound f then s.setReady f else s
  else (s.report 0x13 (unitId .hub h) 2 0 0 (some f)).failStep f false

def execProxyRecord (hub : HubIn) (p : Epoch × Proxy) (s : State) : Out :=
  let m := Msg.proxy hub.hub.val p.1 p.2
  .next (if s.stopped m then s.stopMsg m else s.takeProxy hub.hub.val p.1 p.2 hub.differ)

/-- REPLAY_READY_TIMEOUT: 4 ticks without every member's report take the step to FAILED (R229). -/
def execReplayReadyTimeout (f : Func) (s : State) : Out :=
  .next (
    let x := s.fnAt f.val
    if x.cst == .suspect && x.job && s.span.st == .lead && !s.allReady f.val && decide (4 ≤ x.readyWait) then s.failStep f.val false else s)

/-! ### The cask barrier (R235, R237) -/

/-- A cask record slot. -/
def State.caskAt (s : State) (f : Nat) (i : Bool) : Option CaskRec := tget none s.cask.recs (f * 2 + b2n i)

/-- The record with the higher SEQ. -/
def State.caskTop (s : State) (f : Nat) : Option CaskRec :=
  match s.caskAt f false, s.caskAt f true with
  | some a, some b => if a.seq.toNat < b.seq.toNat then some b else some a
  | some a, none => some a
  | none, b => b

/-- CKPT as read at a reset: 0 where neither slot is valid (R237). -/
def State.ckptOf (s : State) (f : Nat) : BitVec 32 := ((s.caskTop f).map (·.cep)).getD 0

/-- Writing a record to the slot with the lower SEQ. -/
def State.putCask (s : State) (f : Nat) (r : CaskRec) : State :=
  let second := match s.caskAt f false, s.caskAt f true with
    | none, _ => false
    | some _, none => true
    | some a, some b => decide (b.seq.toNat < a.seq.toNat)
  { s with cask := { s.cask with recs := tset none s.cask.recs (f * 2 + b2n second) (some r) } }

/-- Adding a write to those that wait for the cask store, in the class order of R417 (0 first). -/
def caskClass : CaskJob → Nat
  | .record _ _ => 0 | .erase _ => 0 | .history _ => 1 | .counters => 2 | .recipe _ _ _ => 3 | .recipeErase => 3 | .firmware _ _ => 4

def State.caskAdd (s : State) (j : CaskJob) : State :=
  let q := s.bru.caskQ
  let i := (q.filter (fun k => caskClass k ≤ caskClass j)).length
  { s with bru := { s.bru with caskQ := q.take i ++ [j] ++ q.drop i } }

/-- The tick at which an epoch committed; for one that another wafer committed before this wafer held the job, the specification
gives none: a free value. -/
def State.commitTick (s : State) (f : Nat) (e : BitVec 32) : BitVec 48 :=
  (((s.fnAt f).commits.find? (fun c => c.1 == e)).map (·.2)).getD (BitVec.ofNat 48 s.peek)

/-- CASK_RECORD_WRITE: once CEP has reached e, the member's record waits for the cask store (R235). -/
def State.caskWrite (s : State) (f : Nat) : State :=
  let x := s.fnAt f
  match x.cask with
  | none => s
  | some c =>
    if x.cep.toNat < c.epoch.toNat then s
    else if s.bru.caskQ.any (fun j => match j with | .record g _ => g.val == f | _ => false) then s
    else
      let r : CaskRec :=
        { nwaf := if x.job then BitVec.ofNat 5 (popCount s.span.formed.toNat 32 - 1) else 0
          lead := if x.job then s.span.lead else s.span.wid, func := fnOfNat f, job := c.job, tick := s.commitTick f c.epoch
          seq := ((s.caskTop f).map (fun r => r.seq + 1)).getD 0, cep := c.epoch }
      s.drawn.caskAdd (.record (fnOfNat f) r)

def execCaskRecordWrite (f : Func) (s : State) : Out := .next (s.caskWrite f.val)

end Sys2Proof.Machine
end

