-- ==== Sys2Proof/Machine/Walk.lean ====
section
/-! DEFINITION. The walk of a step at the root (R246, R255): its phases, its commit barrier, its heel point; what a
release does to it; how it ends; roles and freed pitch lists; overruns; a step's skew. -/

namespace Sys2Proof.Machine

open Sys2Proof

/-! ### Phases

`w` is a walker: a function, or the known-answer step (R269). -/

def State.updRun (s : State) (w : Nat) (g : Run → Run) : State :=
  if w = katWalker then { s with kat := { s.kat with cur := s.kat.cur.map (fun k => { k with run := g k.run }) } }
  else s.updFn w (fun x => { x with run := x.run.map g })

/-- A phase begins at the root: its bound barriers are opened together (R173, R246). A bound barrier that is not an ARGMAX
barrier of NL lanes is opened like any other, and its lanes are read as they stand (R248; assumption 12, DESIGN CHOICE). -/
def State.enterPhase (s : State) (w : Nat) (m : PitchImage) (p : Nat) : State :=
  let bound := ((m.binds.filter (fun b => b.ph.toNat == p)).map (·.bar.toNat)).eraseDups.filter (fun b => !s.noPack b)
  forAll bound (fun s b => s.openGen b)
    (s.updRun w (fun r => { r with phase := p, opened := 0, waitOrd := false, bound := bound }))

/-- One move of the walk: the next ordered barrier, the next phase; none where it waits for a release, or where the phases
are over. -/
def State.walkPhase (s : State) (w : Nat) : Option State :=
  match s.runOf w with
  | none => none
  | some r =>
    match r.img.phases[r.phase]? with
    | none => none
    | some ph =>
      if r.waitOrd then none
      else
        match ph.bars[r.opened]? with
        | some b =>
          let wait := !s.noPack b.toNat
          let s := s.updRun w (fun r => { r with opened := r.opened + 1, waitOrd := wait })
          some (if wait then s.openGen b.toNat else s)
        | none => if r.bound ≠ [] then none else some (s.enterPhase w r.img (r.phase + 1))

/-- The walk moves as far as it can; a tick has at most 8 phases of 6 ordered barriers. -/
def walkPhases (w : Nat) : Nat → State → State
  | 0, s => s
  | n + 1, s => match s.walkPhase w with | some t => walkPhases w n t | none => s

/-! ### Roles and freed pitch lists (R249-R251) -/

/-- The pitch lists a function has admitted. -/
def State.listsOf (s : State) (f : Nat) : List Nat :=
  (s.pl.filter (fun p => p.2.st != .free && p.2.func.val == f)).map Prod.fst

/-- The role that the admitted pitch lists give a barrier, by the image in force or the one that waits (R249, R250). -/
def State.roleOf (s : State) (f b : Nat) : BitVec 2 :=
  let ms := (s.listsOf f).flatMap (fun p => (s.plAt p).img :: ((s.plAt p).nextImg).toList)
  if ms.any (fun m => m.heel.toNat == b) then 2 else if ms.any (fun m => m.cmt && m.commit.toNat == b) then 1 else 0

def State.setRoles (s : State) (f : Nat) (m : PitchImage) : State :=
  forAll ([m.heel.toNat] ++ (if m.cmt then [m.commit.toNat] else [])) (fun s b =>
    if (s.precAt b).func.val = f ∧ (s.precAt b).st ≠ .free then
      let r := s.roleOf f b
      s.updPrec b (fun x => { x with role := r })
    else s) s

/-- A pitch list becomes FREE: it leaves the order, and its barriers, those of an image that waits among them, their roles
(R250). -/
def State.freeList (s : State) (f plid : Nat) : State :=
  let p := s.plAt plid
  let s := (s.setPl plid PitchList.init).updFn f (fun x => { x with order := x.order.filter (fun p => p != plid) })
  forAll (p.img :: p.nextImg.toList) (fun s m => s.setRoles f m) s

/-- The commit record leaves FAILED or POISONED with its held list; a replay not yet run ends with its list (R223;
assumption 25, DEDUCED). -/
def State.leaveHeld (s : State) (f plid : Nat) : State :=
  let x := s.fnAt f
  let mine := match x.replayOf with | some (p, _, _) => p == plid | none => false
  if x.cst == .failed || x.cst == .poisoned || mine then
    s.updFn f (fun x => { x with cst := .idle, needSub := [], ready := false, readyWait := 0, readyFrom := [],
                                 replayOf := none })
  else s

/-- PITCH_RETIRE takes effect: FREE, its COMMAND record, the final STEP record of a list that is no variant, and the ends
of its slots (R251, R317). -/
def State.retireNow (s : State) (f plid ring : Nat) (sqi : BitVec 16) : State :=
  let p := s.plAt plid
  let s := if p.st = .held then s.leaveHeld f plid
    else match (s.fnAt f).replayOf with | some (q, _, _) => if q = plid then s.leaveHeld f plid else s | none => s
  let s := (s.freeList f plid).finish ring sqi .ok
  let s := if p.img.vonly then s
    else s.postTo f p.img.cring.toNat (stepRec plid p.img.utag p.steps (s.fnAt f).cep s.tick.num.toNat true)
  s.retireSlots plid

/-! ### The end of a step -/

/-- A step is counted: its pending decisions are applied (R254, R261). -/
def State.countStep (s : State) (f : Nat) (r : Run) : State :=
  ((s.updPl r.plid (fun p => { p with steps := p.steps + 1 })).applyDecisions r.plid r.img).updRun f
    (fun r => { r with counted := true })

/-- An image takes effect on a list that is not running: QUEUED in the admission order, or VARIANT outside it, and the roles
of the old image's and the new one's barriers (R249-R251). -/
def State.putImage (s : State) (f plid : Nat) (m : PitchImage) : State :=
  let old := (s.plAt plid).img :: (s.plAt plid).nextImg.toList
  let s := s.updPl plid (fun p => { p with img := m, nextImg := none, st := if m.vonly then PlSt.variant else PlSt.queued })
  let place (l : List Nat) : List Nat :=
    if m.vonly then l.filter (fun p => p != plid) else if l.contains plid then l else l ++ [plid]
  let s := s.updFn f (fun x => { x with order := place x.order })
  forAll (old ++ [m]) (fun s m => s.setRoles f m) s

/-- What follows a heel release for the pitch list (R249, R251, R254). -/
def State.afterHeel (s : State) (f plid : Nat) (counted : Bool) (tick : Nat) : State :=
  let p := s.plAt plid
  match p.retire with
  | some (ring, sqi) => s.retireNow f plid ring sqi
  | none =>
    let step (final : Bool) := stepRec plid p.img.utag p.steps (s.fnAt f).cep tick final
    if p.st = .running ∧ counted ∧ p.img.count ≠ 0 ∧ p.steps = p.img.count then
      (s.freeList f plid).postTo f p.img.cring.toNat (step true)
    else
      let s := if p.st = .running then s.updPl plid (fun p => { p with st := .queued }) else s
      let s := if p.st = .running ∧ counted ∧ p.img.cevery ≠ 0 ∧ p.steps.toNat % p.img.cevery.toNat = 0 then
          s.postTo f p.img.cring.toNat (step false)
        else s
      match p.nextImg with
      | some m =>
        if p.st = .running then s.putImage f plid m
        else ((s.updPl plid (fun p => { p with img := m, nextImg := none })).setRoles f p.img).setRoles f m
      | none => s

/-- A choice that a cut latched is void: its list returns to QUEUED, or takes what waited for its heel release (R179, R209,
R251). -/
def State.voidChoice (s : State) (f : Nat) : State :=
  match (s.fnAt f).choice with
  | none => s
  | some c =>
    let s := s.updFn f (fun x => { x with choice := none })
    if (s.plAt c.plid).st = .running then s.afterHeel f c.plid false s.tick.num.toNat else s

/-- The hubs walk the step no longer; the field keeps its point until the next phase begins (assumption 24). -/
def State.dropWalks (s : State) (f : Nat) : State :=
  s.mapHub (fun x => { x with walks := tset none x.walks (walkKey f) none })

/-- The running step ends; `counted`: its results stand. A member notes the heel points unreleased at the hold point, 1,000 ns
before the predicted edge (R177). -/
def State.closeStep (s : State) (f : Nat) (counted : Bool) : State :=
  match (s.fnAt f).run with
  | none => s
  | some r =>
    let t := (s.now - r.start) / 3
    let s := s.updFn f (fun x => { x with
      run := none
      open_ := x.open_.map (fun u => if u.tick == r.tick then { u with dur := some t, clean := u.clean && counted } else u) })
    let t := s.tick
    let late := t.st == .follow && decide (t.pred ≤ s.now + cyc 1000)
    let s := { s.dropWalks f with tick := { t with lastHeel := some s.now, late := if late then f :: t.late else t.late } }
    s.afterHeel f r.plid counted r.tick

/-- The functions whose heel point of this tick is unreleased (R177). -/
def State.heelsOpen (s : State) : List Nat := (s.fn.filter (fun p => p.2.run.isSome)).map Prod.fst

/-- A known-answer step whose heel point is unreleased holds the edge like any other (R177, R269; assumption 88). -/
def State.katOpen (s : State) : Bool := (s.runOf katWalker).isSome

/-- No heel point of this wafer is unreleased. -/
def State.heelsDone (s : State) : Bool := s.heelsOpen.isEmpty && !s.katOpen

/-- A span member's release notice, once its own heel points are all released after a hold request (R181). -/
def State.holdNotice (s : State) : State :=
  let w := s.span.wid.toNat
  if s.span.st == .member && s.span.holds.contains w && s.heelsDone then
    { s with span := { s.span with holds := s.span.holds.filter (fun x => x != w) } }.send
      (.sb (some s.span.lead.toNat) (.hold (match s.tick.lead with | some m => m.tick | none => s.tick.nextNum) false))
  else s

/-! ### Skew and throttle notices (R182, R208) -/

/-- The policy that POL names; the reserved code 3 acts as a free one (R447). -/
def polOf (v : Reg) : Nat := if bits v.toNat 0 2 = 3 then (Config.reservedCode v).val else bits v.toNat 0 2

/-- The spread of the heel arrivals of a barrier, in ns: across fields, or across wafers at the lead. -/
def State.spreadOf (s : State) (b : Nat) : Nat :=
  let p := s.precAt b
  if p.scope = 2 then
    let r := s.srecAt b
    (r.lastAt - r.firstAt.getD r.lastAt) / 3
  else (p.lastAt - p.firstAt.getD p.lastAt) / 3

/-- The threshold ⌊PER × SKW / 256⌋, with the period of the tick that runs (assumption 80, DESIGN CHOICE). -/
def State.skewLimit (s : State) (f : Nat) : Nat := s.tick.per * bits (s.fnAt f).thr.toNat 4 8 / 256

/-- One more tick on which a heel point's spread was over the threshold, or within it; a tick without a spread breaks a run
of consecutive ticks (assumption 80). -/
def Thr.spread (t : Thr) (tick : Nat) (wide : Bool) : Thr :=
  let next := decide (t.skewTick + 1 = tick)
  { t with skewTick := tick, wide := if !wide then 0 else if next then t.wide + 1 else 1,
           narrow := if wide then 0 else if next then t.narrow + 1 else 1 }

/-- A notice of a kind: by a force, or by skew. -/
def Thr.notice (t : Thr) (skew : Bool) : Thr :=
  { t with noticed := true, bySkew := t.bySkew || skew, byForce := t.byForce || !skew }

/-- A heel point's spread counts toward, or against, the notice by skew. -/
def State.takeSkew (s : State) (f b tick : Nat) : State :=
  let wide := decide (s.skewLimit f < s.spreadOf b)
  s.updFn f (fun x =>
    let t := x.throt.spread tick wide
    { x with throt := if 2 ≤ t.wide && !t.bySkew then t.notice true else t })

/-- A field under an alert, thermal or telemetry-loss force (R208). -/
def KField.forced (k : KField) : Bool := k.alertForce || k.thermForce || k.lossForce

/-- The functions with clusters in a field. -/
def State.fnsIn (s : State) (h : Nat) : List Nat :=
  (s.fn.filter (fun p => p.2.members.any (fun c => fieldOf c == h))).map Prod.fst

/-- The point granted to a function's step for the phase it is in; OP0 where it runs none. -/
def State.grantNow (s : State) (f : Nat) : Nat :=
  match (s.fnAt f).run with
  | some r => ((r.gops[r.phase]?).getD 0).toNat
  | none => 0

/-- A notice that a field is forced, to some functions with clusters there, and to the lead of a span (R182). -/
def State.noticeField (s : State) (h : Nat) (opb : BitVec 3) (fs : List Nat) : State :=
  let s := forAll fs (fun s f => s.updFn f (fun x => { x with throt := x.throt.notice false })) s
  if s.span.st == .member && fs.any (fun f => (s.fnAt f).job) then
    s.send (.sb (some s.span.lead.toNat) (.throt true (BitVec.ofNat 7 h) opb))
  else s

/-- Whether a job's throttle is cleared now (R208): no field of it is forced, no member reports one, and 4 consecutive ticks
were within the threshold where its notice came from skew. -/
def State.throtClear (s : State) (f : Nat) : Bool :=
  let x := s.fnAt f
  x.throt.noticed && (s.fieldsOf f).all (fun h => !(s.kfAt h).forced) && (!x.throt.bySkew || decide (4 ≤ x.throt.narrow)) &&
  !(x.job && s.span.st == .lead && !s.span.throt.isEmpty)

/-- The kiln reports the throttles cleared (R208). -/
def State.clearThrots (s : State) : State :=
  let fs := (s.fn.filter (fun p => s.throtClear p.1)).map Prod.fst
  forAll fs (fun s f => s.updFn f (fun x => { x with
    throt := { x.throt with noticed := false, bySkew := false, byForce := false, overruns := 0 } })) s

/-- A field is forced no longer: a member reports it to the lead, and throttles clear (R208). -/
def State.clearField (s : State) (h : Nat) : State :=
  let s := if s.span.st == .member && (s.fnsIn h).any (fun f => (s.fnAt f).job) then
      s.send (.sb (some s.span.lead.toNat) (.throt false (BitVec.ofNat 7 h) 0))
    else s
  s.clearThrots

/-! ### Known-answer steps (R269, R270)

Their packs are set, and the step begins, in Tick.lean; here is how they end (assumption 88). -/

/-- A known-answer step ends: its packs are cleared, and the hubs walk it no longer. -/
def State.katStop (s : State) : State :=
  match s.kat.cur with
  | none => s
  | some k =>
    let s := forAll (imgBars k.run.img).eraseDups (fun s b => s.idleBarrier b true) s
    let s := s.mapHub (fun x => { x with
      walks := tset none (tset none x.walks (walkKey katWalker) none) (walkKey katWalker + 64) none })
    { s with kat := { s.kat with cur := none },
             tick := if k.begun then { s.tick with lastHeel := some s.now } else s.tick }

/-- The clusters that a known-answer step finds bad: all it ran on where the result is not the one expected, otherwise those
of a suspect mask bit (R270). -/
def State.katBad (s : State) (k : KatRun) (rel : Release) (masks : Tbl (BitVec 96)) : List Nat :=
  match s.kat.lists[k.ix]? with
  | some l => if rel.res.bytes = l.expected then (maskClusters masks).filter (fun c => k.set.contains c) else k.set
  | none => []

/-- The commit engine compares the result of a known-answer step: each cluster found bad is recorded, permanently at its
second mismatch, and a first mismatch is rerun at the next idle cut (R270, R398). -/
def State.katJudge (s : State) (rel : Release) (masks : Tbl (BitVec 96)) : State :=
  match s.kat.cur with
  | none => s
  | some k =>
    let bad := s.katBad k rel masks
    let s := forAll bad (fun s c => s.report 0x0D (unitId .csn c) 4 (b2n k.again) 0 k.owner) s
    { s with kat := { s.kat with
      cur := some { k with bad := bad }
      retry := if k.again || bad.isEmpty then s.kat.retry else s.kat.retry ++ [(k.owner, k.ix, bad)] } }

/-- The known-answer step of a function, or of the clusters of no partition, is dropped. -/
def State.katDrop (s : State) (owner : Option Nat) : State :=
  match s.kat.cur with
  | some k => if k.owner = owner then s.katStop else s
  | none => s

/-! ### Releases -/

/-- The heel point of the running step is released (R176, R177, R251). -/
def State.heelReleased (s : State) (f : Nat) : State :=
  match (s.fnAt f).run with
  | none => s
  | some r =>
    let s := if r.img.cmt || r.counted then s else s.countStep f r
    let s := s.updFn f (fun x => { x with
      throt := { x.throt with overruns := if x.throt.overruns < 2 then 0 else x.throt.overruns } })
    ((s.closeStep f (r.counted || !r.img.cmt)).holdNotice).clearThrots

/-- The heel point of a walker's step is released. -/
def State.stepHeel (s : State) (w : Nat) : State := if w = katWalker then s.katStop.holdNotice else s.heelReleased w

/-- A commit barrier without a pack counts as released at once with OK (R134). -/
def State.commitEmpty (s : State) (w : Nat) (r : Run) : State :=
  let s := s.updRun w (fun r => { r with commitOpen := true, commitDone := true })
  if w = katWalker then s
  else
    let s := s.decideStep w .ok [] false none
    if (s.fnAt w).cst = .idle then s.countStep w r else s

/-- After the last phase: the commit barrier, then the heel point (R246). -/
def walkEnd (w : Nat) : Nat → State → State
  | 0, s => s
  | n + 1, s =>
    match s.runOf w with
    | none => s
    | some r =>
      let m := r.img
      if r.phase < m.phases.length then s
      else if m.cmt && !r.commitDone then
        if r.commitOpen then s
        else if s.noPack m.commit.toNat then walkEnd w n (s.commitEmpty w r)
        else (s.updRun w (fun r => { r with commitOpen := true })).openGen m.commit.toNat
      else if r.heelOpen then s
      else if s.noPack m.heel.toNat then s.stepHeel w
      else (s.updRun w (fun r => { r with heelOpen := true })).openGen m.heel.toNat

/-- The walk goes on. -/
def State.walkGo (s : State) (w : Nat) : State := walkEnd w 3 (walkPhases w 64 s)

/-- What a commit engine is told with a release: the field masks, whether some verdict of the whole job was suspect, the epoch
that a span's lead commits (R216, R241, R366). -/
structure CommitIn where
  masks : Tbl (BitVec 96)
  hit : Bool
  epoch : Option (BitVec 32)
  deriving DecidableEq, Repr

/-- The commit barrier of the running step is released: the step is decided, counted or discarded (R216, R254, R261); a
known-answer step commits nothing (R270). -/
def State.commitReleased (s : State) (w : Nat) (r : Run) (rel : Release) (c : CommitIn) : State :=
  if w = katWalker then (s.katJudge rel c.masks).updRun w (fun r => { r with commitDone := true })
  else
    let was := (s.fnAt w).cst
    let s := (s.decideStep w rel.stat c.masks c.hit c.epoch).updRun w (fun r => { r with commitDone := true })
    if rel.stat = .ok ∧ was ≠ .idle then s.countStep w r else s.dropDecisions r.img

/-- What the root's RELEASE of a barrier means for the running step of its walker. -/
def State.walkRelease (s : State) (w b : Nat) (rel : Release) (c : CommitIn) : State :=
  match s.runOf w with
  | none => s
  | some r =>
    let m := r.img
    if m.cmt && m.commit.toNat == b && r.commitOpen && !r.commitDone then (s.commitReleased w r rel c).walkGo w
    else if m.heel.toNat == b && r.heelOpen then s.stepHeel w
    else
      let ord := match m.phases[r.phase]? with
        | some ph => r.waitOrd && ((ph.bars[r.opened - 1]?).map BitVec.toNat) == some b
        | none => false
      let s := if ord then s.updRun w (fun r => { r with waitOrd := false })
        else s.updRun w (fun r => { r with bound := r.bound.erase b })
      let t := s.walkGo w
      match t.runOf w with
      | some q => if r.phase < q.phase && q.phase < m.phases.length then
          t.updRun w (fun q => { q with closers := q.closers ++ [(q.phase, BitVec.ofNat 16 b, rel.gen)] }) else t
      | none => t

/-! ### Overrun (R179) -/

/-- A lead's span record loses what it gathered, with GEN + 1 (R364). -/
def State.abortSpan (s : State) (b : Nat) : State :=
  { s with rfolds := s.rfolds.filter (fun q => !q.ofWafer b) }.updSrec b (fun r => if r.open_ then
    { r with deciding := false, warr := 0, arrived := [], gen := r.gen + 1, wstat := .ok, early := false, pois := false,
             part := Partial.init, ncl := 0, nlost := 0, nsus := 0, firstAt := none, lastAt := 0 } else r)

/-- An overrun counts toward the fallback of STRETCH while that policy is in force (R183). -/
def Fn.overrunThr (x : Fn) : Thr :=
  if x.throt.inForce && polOf x.thr == 1 then { x.throt with overruns := x.throt.overruns + 1 } else x.throt

/-- The partition of an unreleased heel point is overrun (R179). -/
def State.overrunFn (s : State) (f : Nat) : State :=
  match (s.fnAt f).run with
  | none => s
  | some r =>
    let bars := (imgBars r.img).eraseDups
    let s := forAll bars (fun s b => (s.abortRoot b false).abortSpan b) s
    let s := s.sendAll (s.hubsUp.map (fun h =>
      .abort h none (s.fnAt f).pepoch { func := fnOfNat f, reason := 3, stat := .overrun }))
    let s := if r.img.cmt then (if r.commitDone then s else (s.overrunStep f).dropDecisions r.img) else s.countStep f r
    let s := s.updFn f (fun x => { x with
      ovr := satInc x.ovr, ovrBars := bars, throt := x.overrunThr,
      open_ := x.open_.map (fun u => if u.tick == r.tick then { u with clean := false } else u) })
    (s.closeStep f (r.counted || !r.img.cmt)).voidChoice f

/-- The running step of a function ends by an ABORT: nothing of it is counted, its decisions are discarded, the commit
record goes to IDLE; a known-answer step on its partition ends with no comparison (R180, R209, R223, R267). -/
def State.abortStep (s : State) (f : Nat) : State :=
  let s := match (s.fnAt f).run with
    | none => s
    | some r => (s.dropDecisions r.img).closeStep f false
  (((s.katDrop (some f)).holdNotice).voidChoice f).updFn f (fun x => { x with
    cst := .idle, needSub := [], ready := false, readyWait := 0, readyFrom := [], replayOf := none })

end Sys2Proof.Machine
end

