-- ==== Sys2Proof/Machine/Abort.lean ====
section
/-! DEFINITION. Aborts and resets: ABORT at the root, the hubs and the CSNs (R103, R135, R390), span jobs that abort or
break (R371, R373), RESET_NOTE (R389), core resets (R101), partition resets and function re-initialisations (R391, R392),
epoch advances (R388). -/

namespace Sys2Proof.Machine

open Sys2Proof

/-! ### Event bits and interrupts of PF0 -/

/-- Setting a bit of VSF_ERR_STAT; EVT, bit 0, sends the MSI-X of PF0 (R406). -/
def State.errBit (s : State) (i : Nat) : State :=
  let t := { s with err := { s.err with bits := setBits s.err.bits i 1 1 } }
  if i = 0 then t.msix 0 s.err.vec else t

/-- Setting a bit of VSF_SPN_EVT, with its interrupt where it is enabled (R374). -/
def State.spanEvt (s : State) (i : Nat) : State :=
  let t := { s with span := { s.span with evt := setBits s.span.evt i 1 1 } }
  if bit s.span.ctrl.toNat (16 + i) then t.msix 0 (BitVec.ofNat 11 s.span.ctrl.toNat) else t

/-! ### ABORT from the root (R103, R135, R390) -/

/-- The root aborts the partition of a function: its step, its open generations at the root and at a lead's span records,
its relayed requests; and ABORT goes to every hub. -/
def State.abortFn (s : State) (f reason : Nat) (st : Status) : State :=
  let s := s.abortStep f
  let s := forAll (s.barsOf f) (fun s b => (s.abortRoot b (reason == 1)).abortSpan b) s
  let s := s.endRelays (fun r => r.func.val == f) st
  s.sendAll (s.hubsUp.map (fun h =>
    .abort h none (s.fnAt f).pepoch { func := fnOfNat f, reason := BitVec.ofNat 3 reason, stat := st }))

/-- A span job is broken on this wafer (R371, R373): ABORTED or SPAN_LOST as `st` says. -/
def State.breakJob (s : State) (f : Nat) (st : Status) : State :=
  if !(s.fnAt f).job || (s.fnAt f).broken then s
  else
    let s := (s.abortFn f 2 st).endCask f st
    let s := forAll (s.listsOf f) (fun s p => s.updPl p (fun l => if l.st = .variant then l else { l with st := .held })) s
    (s.updFn f (fun x => { x with broken := true })).spanEvt 4

/-- The span jobs of this wafer. -/
def State.jobs (s : State) : List Nat := (s.fn.filter (fun p => p.2.job)).map Prod.fst

/-! ### ABORT at a hub and at a CSN -/

/-- The manager's ABORT has reached every hub (R406). -/
def State.abortApplied (s : State) (h f : Nat) : State :=
  if s.err.abort && s.err.func.val == f then
    let left := s.err.abortLeft.filter (fun x => x != h)
    { s with err := { s.err with abortLeft := left, abort := !left.isEmpty } }
  else s

/-- The barriers an ABORT ends: those of the partition, or of the overrun step (R390). -/
def State.abortBars (s : State) (m : AbortMsg) : List Nat :=
  if m.reason = 3 then (s.fnAt m.func.val).ovrBars else s.barsOf m.func.val

/-- ABORT at a hub: waiters but for an overrun, the open generations, then on to the partition's CSNs of the field. -/
def State.abortAtHub (s : State) (h : Nat) (tep : Epoch) (m : AbortMsg) : State :=
  let f := m.func.val
  if (s.hubAt h).muz then (if m.reason = 3 then s else s.abortApplied h f)
  else if tep != (s.fnAt f).pepoch then s
  else
    let s := if m.reason = 3 then s else s.abortWaiters h f m.stat
    let s := forAll (s.abortBars m) (fun s b => s.abortHub h b (m.reason == 1)) s
    let s := s.sendAll ((s.clustersIn f h).map (fun c => .abort h (some (localOf c)) tep m))
    if m.reason = 3 then s else s.abortApplied h f

/-- A core's request that waits ends at its CSN with the ABORT's status; its own end, when it comes, is not delivered, and
what it grants is returned (R103). A request that has not left its CSN, or whose end under the ABORT came before it, is
dropped. -/
def State.abortReq (s : State) (n : Nat) (st : Status) (r : Req) : State :=
  if r.silent || r.own || !carriesWait r.op r.args then s
  else
    let s := s.emit (.portKen n (bareEnd (clusterOf n) true r.op st (s.coreMaster n) r.tag))
    if r.phase = .sent && !r.gone then
      (s.updCore n (fun x => x.setReq r.tag (fun r => { r with silent := true, back := true }))).withdrawReq n r
    else s.updCore n (fun x => x.dropReq r.tag)

/-- A core's reset begins (R101, R135): what its port held is discarded, its waiting request is withdrawn, its outstanding
replies are awaited; its caches count as invalidated (R297). -/
def State.holdCore (s : State) (n : Nat) : State :=
  let x := s.coreAt n
  let cl := clusterOf n
  let s := s.updCore n (fun x => { x with
    rst := some s.now, stall := none, armed := false, bwait := none, fence := none
    reqs := (x.reqs.filter (fun r => r.phase == .sent && !r.gone)).map (fun r => { r with silent := true }) })
  let s := match x.bwait with
    | some (ix, _) => s.updCsn cl (fun c =>
        c.setEnt ix { c.entAt ix with waitm := setBits (c.entAt ix).waitm (n % 64) 1 0 })
    | none => s
  let s := forAll (x.reqs.filter (fun r => r.phase == .sent && !r.gone && !r.silent && !r.own && carriesWait r.op r.args))
    (fun s r => s.withdrawReq n r) s
  (s.emit (.coreRst n true)).cinvAck n

/-- A CSN in reset: its cores are held, its arrays cleared (R135, R391). -/
def State.holdCsn (s : State) (cl : Nat) : State :=
  let s := forAll (s.coresOf cl) (fun s n => if (s.coreAt n).rst.isSome then s else s.holdCore n) s
  s.updCsn cl (fun c => { c.clearAbft with
    rst := some s.now, ents := [], merges := [], reads := [], note := none, edgeWait := false, phase := 0,
    phaseInv := [], phaseTodo := [], loadOpen := false, nrcv := 0, manifest := none })

/-- ABORT at a CSN: its legs' generations and waits end, its cores are woken, waiting requests end but for an overrun; a
partition reset then holds the cluster (R391). For an overrun the legs are those of the step's barriers; otherwise every
entry, cluster-scope ones among them (assumption 27, DEDUCED). -/
def State.abortAtCsn (s : State) (h : Nat) (l : Nat) (tep : Epoch) (m : AbortMsg) : State :=
  let cl := h * 128 + l
  let c := s.csnAt cl
  if c.rst.isSome then s.updCsn cl (fun c => { c with eject := c.eject + 1 })
  else if tep != c.pepoch then s
  else
    let bars := s.abortBars m
    let ixs := (c.ents.filter (fun e =>
      e.2.mode != 0 && (m.reason != 3 || (e.2.mode == 2 && bars.contains e.2.bar.toNat)))).map Prod.fst
    let s := forAll ixs (fun s ix => s.abortEnt cl ix m.stat) s
    let s := forAll (s.coresOf cl) (fun s n => s.raise n .abort) s
    let s := if m.reason = 3 then s
      else forAll (s.coresOf cl) (fun s n => forAll (s.coreAt n).reqs (fun s r => s.abortReq n m.stat r) s) s
    if m.reason = 1 then s.holdCsn cl else s.settle cl

/-- ABORT. REASON 4-7 is a reserved encoding (R390): such an ABORT ends nothing, an outcome that R9 allows (assumption 12,
DESIGN CHOICE). -/
def execAbort (hub : Field) (cl : Option Loc) (tep : Epoch) (m : AbortMsg) (s : State) : Out :=
  let g := Msg.abort hub.val (cl.map Fin.val) tep m
  .next (
    if s.stopped g then s.stopMsg g
    else
      let s := s.taken g
      if 3 < m.reason.toNat then s
      else
        match cl with
        | none => s.abortAtHub hub.val tep m
        | some l => s.abortAtCsn hub.val l.val tep m)

/-! ### RESET_NOTE at the root (R368, R389) -/

/-- The function whose masters a note names. -/
def State.noteFn (s : State) (n : ResetNote) : Option Nat := s.masterFn n.master

/-- The identities a member relays to the lead for a note: SB_RESETN names one, so a CLUSTER note is relayed for each core
under the epoch it held (assumption 28, DEDUCED). -/
def State.noteMasters (s : State) (n : ResetNote) : List Master :=
  match n.kind with
  | .core | .function => [n.master]
  | .cluster => (s.coresOf (Master.core n.master / 64)).map (fun c =>
      masterOf (Master.wafer n.master) c ((s.coreAt c).epoch - 1).toNat)
  | .contain => []

/-- A note of kind CORE, CLUSTER or FUNCTION goes to every hub, and on to the lead for a span job. -/
def State.noteAtRoot (s : State) (n : ResetNote) : State :=
  if n.kind = .contain then s
  else
    let s := s.sendAll (s.hubsUp.map (fun h => .resetNote (some h) n))
    let job := match s.noteFn n with | some f => (s.fnAt f).job | none => false
    if job && s.span.st == .member then
      s.sendAll ((s.noteMasters n).map (fun m => .sb (some s.span.lead.toNat) (.resetn m)))
    else s

def execResetNoteAtRoot (n : ResetNote) (s : State) : Out :=
  let g := Msg.resetNote none n
  .next (if s.stopped g then s.stopMsg g else (s.taken g).noteAtRoot n)

/-! ### Partition resets (R391-R393) -/

/-- A Varvo reset is due; `byErr`: an error caused it (R404). -/
def State.needVarvo (s : State) (byErr : Bool) : State :=
  { s with err := { s.err with resetDue := true, byError := s.err.byError || byErr } }

/-- A partition reset is decided: a second request is absorbed, a register reset joins the one under way (R393). -/
def State.decideReset (s : State) (f : Nat) (cls : Byte) (regs : Bool) : State :=
  s.updFn f (fun x => { x with rst :=
    match x.rst with
    | some r => some { r with regs := r.regs || regs }
    | none => some { cls := cls, regs := regs, since := s.now, begun := false } })

/-- RESET_NOTE of kind CONTAIN: the class decides (R384, R404); a SEQ_DIVERGE of a field-shared action belongs to no function
(R233; assumption 29, DEDUCED). -/
def State.containAtRoot (s : State) (n : ResetNote) : State :=
  if n.kind ≠ .contain then s
  else if n.cls = 0x06 ∨ (n.cls = 0x0A ∧ n.shared) then s.needVarvo true
  else if n.cls = 0x05 ∨ n.cls = 0x0A ∨ n.cls = 0x0B then s.decideReset n.func.val n.cls false
  else s

def execResetNoteContain (n : ResetNote) (s : State) : Out :=
  let g := Msg.resetNote none n
  .next (if s.stopped g then s.stopMsg g else (s.taken g).containAtRoot n)

/-- F's mailbox at a reset: a request being served or forwarded ends with no reply (R352). -/
def State.clearMailbox (s : State) (f : Nat) : State :=
  { s.updFn f (fun x => { x with mbxSt := if x.mbxSt = .done then .done else .idle }) with
    mgr := { s.mgr with fwd := setBits s.mgr.fwd f 1 0 } }

/-- A span job's partition is reset: the job breaks everywhere (R371). -/
def State.breakByReset (s : State) (f : Nat) : State :=
  if !(s.fnAt f).job then s
  else
    let w := s.span.wid
    let s := match s.span.st with
      | .lead => s.toAll (.abort (fnOfNat f) 1 w)
      | .member => s.toWafer s.span.lead.toNat (.abort (fnOfNat f) 1 w)
      | _ => s
    (s.updFn f (fun x => { x with broken := true })).spanEvt 4

/-- The root retires a function's ring-issued requests: queued ones are withdrawn, unsent ones dropped (R101, R323). -/
def State.retireFnKen (s : State) (f : Nat) : State :=
  forAll (s.fnAt f).rings (fun s r =>
    let s := s.withdrawRing f r
    s.updRing r (fun x => { x with started := x.started.map (fun c => { c with inv := none }) })) s

/-- Steps 1-3 of R391 at the root. -/
def State.beginReset (s : State) (f : Nat) (cls : Byte) : State :=
  let x := s.fnAt f
  if (match x.rst with | some r => r.begun | none => false) then s
  else
    let r : ResetRun := match x.rst with
      | some r => { r with begun := true }
      | none => { cls := cls, regs := false, since := s.now, begun := true }
    let s := s.updFn f (fun x => { x with rst := some r, cask := none })
    let s := ((s.clearMailbox f).abortFn f 1 .aborted).breakByReset f
    (s.retireFnKen f).emit (.dmaEnd (fnOfNat f))

/-- The wait of R101: 2.1 ms. -/
def State.retireOver (s : State) (t : Nat) : Bool := decide (t + cyc 2100000 ≤ s.now)

/-- Whether an epoch may advance again (R388). -/
def State.epochFree (s : State) (t : Option Nat) : Bool :=
  match t with | some t => decide (t + cyc 10000 ≤ s.now) | none => true

/-- A cluster of a partition in reset has done its part: its CSN holds it and every reply is consumed or waited out, or it is
not in service; and its epochs may advance. -/
def State.clusterRetired (s : State) (c : Nat) : Bool :=
  let n := s.csnAt c
  let held := match n.rst with
    | some t => (s.coresOf c).all (fun i => (s.coreAt i).reqs.isEmpty) || s.retireOver t
    | none => false
  (!s.inService c || held) && s.epochFree n.epochAt && (s.coresOf c).all (fun i => s.epochFree (s.coreAt i).epochAt)

/-- The root has retired the function's own requests. -/
def State.fnRetired (s : State) (f since : Nat) : Bool :=
  s.fnTags f == [] || s.retireOver since

/-- A core starts again under a new epoch; its reset is released where the boot load has released it once (R101, R431,
R458). -/
def State.freshCore (s : State) (n : Nat) : State :=
  let s := s.updCore n (fun x => { Core.init with epoch := x.epoch + 1, epochAt := some s.now, go := x.go })
  if (s.coreAt n).go then s.emit (.coreRst n false) else s

/-- A CSN after its reset: the arrays are clear; its epochs, tables, counters and time stay (assumption 30, DEDUCED), its
commit word until the next edge (R219), and the status-path commands that wait for the end of the reset (R67). -/
def Csn.afterReset (c : Csn) (pep : Epoch) (now : Nat) : Csn :=
  { Csn.init with
    epoch := c.epoch + 1, epochAt := some now, pepoch := pep, eptab := c.eptab, tick := c.tick, edgeAt := c.edgeAt,
    droop := c.droop, stale := c.stale, eject := c.eject, entry := c.entry, spineFail := c.spineFail, muz := c.muz,
    cmtw := c.cmtw, held := c.held }

/-- A cluster restarts: CSN and cores under new epochs, and one note of kind CLUSTER (R391). -/
def State.freshCluster (s : State) (c : Nat) (pep : Epoch) : State :=
  let old := s.coreMaster (c * 64)
  let s := (forAll (s.coresOf c) (fun s n => s.freshCore n) s).updCsn c (fun x => x.afterReset pep s.now)
  (s.send (.resetNote none { kind := .cluster, newEp := (s.csnAt c).epoch, cls := 0, func := 0, shared := false,
                             master := old })).runHeld c

/-- The function's and its partition's epochs advance, with one note of kind FUNCTION. -/
def State.freshFn (s : State) (f : Nat) : State :=
  let old := s.fnMaster f
  let s := s.updFn f (fun x => { x with epoch := x.epoch + 1, pepoch := x.pepoch + 1, epochAt := some s.now, ownTags := [] })
  s.send (.resetNote none { kind := .function, newEp := (s.fnAt f).epoch, cls := 0, func := 0, shared := false, master := old })

/-- Step 5 of R391: what the root and the hubs clear. -/
def State.clearPartition (s : State) (f : Nat) : State :=
  let ls := s.listsOf f
  let bs := s.barsOf f
  let s := forAll bs (fun s b => (s.idleBarrier b false).updPrec b (fun r => { r with role := 0 })) s
  let s := forAll ls (fun s p => { s.setPl p PitchList.init with kiln := { s.kiln with hist := tset Hist.init s.kiln.hist p Hist.init } }) s
  let s := forAll ((tkeys s.slot).filter (fun k => (s.slotAt k).func.val == f && (s.slotAt k).st != .free))
    (fun s k => s.setSlot k Slot.init) s
  let s := s.mapHub (fun x => { x with
    proxies := x.proxies.filter (fun q => q.func.val != f), walks := tset none (tset none x.walks (walkKey f) none) (walkKey f + 64) none })
  let s := forAll (s.fnAt f).rings (fun s r => s.setRing r (s.freshRing f)) s
  s.updFn f (fun x => { x with
    order := [], subs := [], suspects := [], lostNow := [], cleared := [], commits := [], needSub := [], ready := false, readyWait := 0, readyFrom := [],
    jobFc := none, edgeHeld := false, coolDue := false, replayOf := none, choice := none, run := none, cst := .idle, rpl := 0, step := 0, cep := x.ckpt, bal := Q.zero,
    acc := 0, open_ := [], throt := Thr.init, cask := none, evq := [], ovrBars := [] })

/-- The words of a function that wait for this reset are read back; a failure is a permanent event of its unit (R398). -/
def State.retestFn (s : State) (f : Nat) : State :=
  let mine (e : UnitId × Option Func) : Bool := match e.2 with | some g => g.val == f | none => false
  forAll (s.err.retest.filter mine)
    (fun s e => if s.readBackFails then s.drawn.report 0x05 e.1 2 1 0 (some f) else s.drawn)
    { s with err := { s.err with retest := s.err.retest.filter (fun e => !mine e) } }

/-- Step 6 of R391, and the register reset of R392. -/
def State.endReset (s : State) (f : Nat) (r : ResetRun) : State :=
  let s := s.updFn f (fun x => { x with rst := none, nrst := satInc x.nrst, lcls := r.cls })
  let s := if r.regs then s.resetFnRegs f else s
  let s := { s with err := { s.err with
    reinit := s.err.reinit && s.err.func.val != f, abort := s.err.abort && s.err.func.val != f,
    abortLeft := if s.err.func.val = f then [] else s.err.abortLeft } }
  let s := s.errBit 1
  let c := (s.fnAt f).fcfg
  if bit c.toNat 11 then s.msix f (BitVec.ofNat 11 c.toNat) else s

/-- PARTITION_RESET_COMPLETE: once every member is retired and every epoch may advance (R388, R391). -/
def State.completeReset (s : State) (f : Nat) : State :=
  let x := s.fnAt f
  match x.rst with
  | none => s
  | some r =>
    if r.begun && x.members.all s.clusterRetired && s.fnRetired f r.since && s.epochFree x.epochAt then
      let s := forAll x.members (fun s c => s.freshCluster c (x.pepoch + 1)) s
      (((s.freshFn f).clearPartition f).retestFn f).endReset f r
    else s

/-- RESET_ESCALATE: a partition reset that has not completed within 10 ms becomes a Varvo reset (R405). -/
def execResetEscalate (f : Func) (s : State) : Out :=
  .next (
    match (s.fnAt f.val).rst with
    | some r =>
      if r.since + cyc 10000000 ≤ s.now then
        (s.needVarvo true).report 0x18 (unitId .rootSite (b2n s.mesh.root)) 3 0 3 (some f.val)
      else s
    | none => s)

/-- FUNCTION_LEVEL_RESET: a partition reset with the register reset (R323, R392), its class 0x00 since the host asked. -/
def execFunctionLevelReset (f : Func) (s : State) : Out := .next (s.decideReset f.val 0 true)

/-! ### Core resets (R101) and epoch advances (R388) -/

/-- CORE_RESET. -/
def execCoreReset (c : CoreRef) (s : State) : Out :=
  .next (if (s.coreAt c.id).rst.isSome then s else (s.holdCore c.id).settle c.cl.id)

/-- A core's retirement ends: its epoch advances and a note names the identity it held. -/
def State.retireCore (s : State) (n : Nat) : State :=
  let old := s.coreMaster n
  let s := s.freshCore n
  s.send (.resetNote none { kind := .core, newEp := (s.coreAt n).epoch, cls := 0, func := 0, shared := false, master := old })

/-- Whether a core's own reset may end: its CSN is not in reset, and R388 allows the advance. -/
def State.mayRetire (s : State) (n : Nat) : Bool :=
  (s.csnAt (clusterOf n)).rst.isNone && s.epochFree (s.coreAt n).epochAt

/-- CORE_RETIRE_DONE: the last reply has arrived. -/
def execCoreRetireDone (c : CoreRef) (s : State) : Out :=
  .next (
    let x := s.coreAt c.id
    if x.rst.isSome && x.reqs.isEmpty && s.mayRetire c.id then s.retireCore c.id else s)

/-- CORE_RETIRE_TIMEOUT: 2.1 ms have passed since the reset began. -/
def execCoreRetireTimeout (c : CoreRef) (s : State) : Out :=
  .next (
    match (s.coreAt c.id).rst with
    | some t => if s.retireOver t && s.mayRetire c.id then s.retireCore c.id else s
    | none => s)

/-- A cluster outside a running reset is reset alone: by PART_CREATE, or after an error of its arrays (R333, R384). Its epoch
advances now, or when R388 allows. -/
def State.resetAlone (s : State) (c : Nat) (pep : Epoch) : State :=
  let s := (s.holdCsn c).updCsn c (fun x => { x with pepoch := pep })
  if s.epochFree (s.csnAt c).epochAt && (s.coresOf c).all (fun i => s.epochFree (s.coreAt i).epochAt) then
    s.freshCluster c pep
  else s.updCsn c (fun x => { x with epochDue := true })

/-- EPOCH_ADVANCE: a deferred advance takes place. -/
def execEpochAdvance (cl : Cluster) (s : State) : Out :=
  .next (
    let c := cl.id
    let x := s.csnAt c
    if x.epochDue && s.epochFree x.epochAt && (s.coresOf c).all (fun i => s.epochFree (s.coreAt i).epochAt) then
      s.freshCluster c x.pepoch
    else s)

end Sys2Proof.Machine
end

