-- ==== Sys2Proof/Machine/SpanNet.lean ====
section
/-! DEFINITION. The span controller: wafer masks and the span tree (R359), sideband links (R354-R357), wafer IDs (R379),
losses and elections (R372, R373), aborts, holds, throttles and kennel relays of members (R181, R182, R367-R371). -/

namespace Sys2Proof.Machine

open Sys2Proof

/-! ### Wafer masks and the span tree (R359) -/

def inMask (m : BitVec 32) (w : Nat) : Bool := bit m.toNat w
def maskWs (m : BitVec 32) : List Nat := (List.range 32).filter (inMask m)
def maskCount (m : BitVec 32) : Nat := (maskWs m).length
def maskOf (ws : List Nat) : BitVec 32 := ws.foldl (fun (m : BitVec 32) w => setBits m w 1 1) 0
def State.self (s : State) : Nat := s.span.wid.toNat

/-- The up links of one wafer: peer, own port, the peer's port. -/
def linksAt (ls : List UpLink) (w : Nat) : List (Nat × Nat × Nat) :=
  ls.flatMap (fun l =>
    (if l.a.val = w then [(l.b.val, l.pa.val, l.pb.val)] else []) ++ (if l.b.val = w then [(l.a.val, l.pb.val, l.pa.val)] else []))

/-- The link of a wafer to one of a set of parents: the lowest wafer ID, then its lowest own port. -/
def parentLink (ls : List UpLink) (ps : List Nat) (w : Nat) : Option (Nat × Nat × Nat) :=
  ((linksAt ls w).filter (fun l => ps.contains l.1)).foldl (fun (b : Option (Nat × Nat × Nat)) l =>
    match b with
    | none => some l
    | some x => if l.1 < x.1 ∨ (l.1 = x.1 ∧ l.2.1 < x.2.1) then some l else some x) none

/-- The span tree of depth 2: each placed wafer with its depth and its parent link; the lead stands first. -/
def spanTree (mask : BitVec 32) (lead : Nat) (ls : List UpLink) : List (Nat × Nat × Option (Nat × Nat × Nat)) :=
  let ls := ls.filter (fun l => inMask mask l.a.val && inMask mask l.b.val)
  let place (ps placed : List Nat) (d : Nat) : List (Nat × Nat × Option (Nat × Nat × Nat)) :=
    (maskWs mask).filterMap (fun w =>
      if placed.contains w then none else (parentLink ls ps w).map (fun l => (w, d, some l)))
  let d1 := place [lead] [lead] 1
  let d2 := place (d1.map Prod.fst) (lead :: d1.map Prod.fst) 2
  (lead, 0, none) :: d1 ++ d2

/-- The tree in force. -/
def State.spanTreeNow (s : State) : List (Nat × Nat × Option (Nat × Nat × Nat)) :=
  spanTree s.span.formed s.span.lead.toNat s.span.links

/-- The members the lead reaches within depth 2. -/
def State.treeMask (s : State) : BitVec 32 := maskOf (s.spanTreeNow.map Prod.fst)

/-- DEPTH of this wafer; 0 in no span (R374). -/
def State.spanDepth (s : State) : Nat :=
  match s.span.st with
  | .none => 0
  | _ => ((s.spanTreeNow.find? (fun e => e.1 == s.self)).map (fun e => e.2.1)).getD 0

/-- TREE of a port: 0 unused, 1 parent, 2 child, 3 up and outside the tree (R374). -/
def State.portTree (s : State) (p : Nat) : Nat :=
  if !(s.portAt p).up then 0
  else
    let parent := s.spanTreeNow.any (fun e => e.1 == s.self && (match e.2.2 with | some l => l.2.1 == p | none => false))
    let child := s.spanTreeNow.any (fun e => match e.2.2 with | some l => l.1 == s.self && l.2.2 == p | none => false)
    if s.span.st = .none then 3 else if parent then 1 else if child then 2 else 3

/-- The wafers that links join to a wafer. -/
def reachGo (ls : List UpLink) : Nat → List Nat → List Nat
  | 0, ws => ws
  | n + 1, ws => reachGo ls n ((ws ++ ws.flatMap (fun w => (linksAt ls w).map Prod.fst)).eraseDups)

/-- The reachable members of an electing wafer, the lost lead not among them (R372). -/
def State.electMask (s : State) : BitVec 32 :=
  let ok (w : Nat) : Bool := inMask s.span.formed w && w != s.span.lead.toNat
  let ls := s.span.links.filter (fun l => ok l.a.val && ok l.b.val)
  maskOf ((reachGo ls 31 [s.self]).filter ok)

/-! ### Wafer IDs (R379) -/

def reId (old new : Nat) (m : Master) : Master :=
  if Master.wafer m = old then BitVec.ofNat 33 (new * 2 ^ 28 + m.toNat % 2 ^ 28) else m

def reIdUse (old new : Nat) (t : Timer) : Timer :=
  { t with use := match t.use with | .wait k m g => .wait k (reId old new m) g | u => u }

/-- This wafer takes another ID: every hub rewrites the owners and waiters that carry the old one, and for 50 µs a request
that carries it is taken as carrying the new one. -/
def State.changeId (s : State) (new : Nat) : State :=
  let old := s.self
  if old = new then s
  else
    let s := s.mapKen (fun e => { e with
      owner := if e.kind = .lock ∧ e.st ≠ .free then reId old new e.owner else e.owner
      queue := e.queue.map (fun w => { w with master := reId old new w.master }) })
    let s := s.mapHub (fun x => { x with
      cmp := x.cmp.map (fun p => (p.1, p.2.map (reIdUse old new))), scan := x.scan.map (reIdUse old new) })
    { s with
      span := { s.span with wid := BitVec.ofNat 5 new, oldId := some (s.span.wid, s.now)
                            relays := s.span.relays.map (fun r => { r with master := reId old new r.master }) } }

/-! ### Losses (R372, R373) -/

/-- A formation that has not switched ends with SPAN_LOST, and nothing changes (R373, R376). -/
def State.failForm (s : State) : State :=
  match s.span.forming with
  | none => s
  | some _ => { s with span := { s.span with forming := none, go := false, status := .spanLost } }

/-- The tick generator stops; its edges follow no lead (R167). -/
def Tick.halt (t : Tick) : Tick :=
  { t with st := .stopped, stopReq := false, cutDone := false, noted := false, passed := false, etime := none, late := [],
           lastHeel := none, lead := none, dueNow := false, ctrl := setBits t.ctrl 1 1 0 }

/-- This wafer leaves its span: its jobs break, its ID becomes 0, the generator stops; a LEAVE it was given completes
(R373, R380). -/
def State.leaveSpan (s : State) : State :=
  let s := forAll s.jobs (fun s f => s.breakJob f .spanLost) s
  let s := (s.endRelays (fun _ => true) .spanLost).failForm
  let done := s.span.leaving
  let s := { s with
    tick := s.tick.halt
    span := { s.span with
      st := .none, lead := 0, formed := 0, reach := 0, holds := [], throt := [], recs := [], joins := [], carryWait := false
      leavers := [], leaving := false, relays := []
      go := if done then false else s.span.go, status := if done then .ok else s.span.status } }
  (s.changeId 0).spanEvt 2

/-- Locks and waiters of the masters of a lost wafer, at the lead: as if a RESET_NOTE named each (R102, R373). -/
def State.wafNote (s : State) (w : Nat) : State :=
  let keys := tkeys s.ken
  let s := forAll keys (fun s k => s.dropWaiters k (fun x => Master.wafer x.master == w)) s
  forAll keys (fun s k =>
    let e := s.kenAt k
    if e.kind = .lock ∧ e.st ≠ .free ∧ Master.wafer e.owner = w then s.abandonLock k else s.reserve k) s

/-- The lead loses members (R360, R373). -/
def State.loseWafers (s : State) (ws : List Nat) : State :=
  if ws = [] then s
  else
    let s := forAll s.jobs (fun s f => s.breakJob f .spanLost) s
    let freed := s.span.holds.any (fun w => ws.contains w)
    let s := { s with
      tick := if freed then { s.tick with lastHeel := some s.now } else s.tick
      span := { s.span with
      holds := s.span.holds.filter (fun w => !ws.contains w), throt := s.span.throt.filter (fun t => !ws.contains t.1)
      leavers := s.span.leavers.filter (fun w => !ws.contains w)
      relays := s.span.relays.filter (fun r => !ws.contains (Master.wafer r.master)) } }
    let s := forAll ws (fun s w =>
      ((s.wafNote w).toAll (.abort 0 2 (BitVec.ofNat 5 w))).report 0x15 (unitId .wafer 0) 2 0 0 none) s
    (s.failForm.spanEvt 2).clearThrots

/-- A member that can no longer reach the lead begins an election (R372, R373). -/
def State.startElect (s : State) : State :=
  let s := forAll s.jobs (fun s f => s.breakJob f .spanLost) s
  let s := (s.endRelays (fun _ => true) .spanLost).failForm
  let s := { s with span := { s.span with st := .electing, reach := s.electMask, reachAt := s.now } }
  (s.report 0x15 (unitId .wafer 0) 2 0 0 none).spanEvt 2

/-- What this wafer decides when the up links between members have changed (R359, R360, R372). -/
def State.relink (s : State) : State :=
  let m := s.treeMask
  match s.span.st with
  | .none => s
  | .lead =>
    let reach := s.span.reach &&& m
    let lost := maskWs (s.span.reach &&& ~~~reach)
    let s := { s with span := { s.span with reach := reach } }
    if maskCount s.span.formed ≤ 2 * maskCount reach then s.loseWafers lost else s.leaveSpan
  | .member => if inMask m s.self then s else s.startElect
  | .electing =>
    let e := s.electMask
    if e = s.span.reach then s else { s with span := { s.span with reach := e, reachAt := s.now } }

def State.applyLinks (s : State) (ls : List UpLink) : State := { s with span := { s.span with links := ls } }.relink

/-! ### Sideband links (R354-R357) -/

/-- A link is declared down (R357): stores to other wafers that are outstanding may be lost with it (R283). -/
def State.portDown (s : State) (p : Nat) (ls : List UpLink) : State :=
  if !(s.portAt p).up then s
  else
    let s := s.cutStores.updPort p (fun x => { x with up := false, downs := satInc x.downs, helloAt := none, fails := 0 })
    ((s.spanEvt 1).report 0x03 (unitId .sideband p) 1 0 8 none).applyLinks ls

/-- NEL_UP_DEASSERT. -/
def execNelUpDeassert (port : PortIx) (links : List UpLink) (s : State) : Out :=
  .next ((s.updPort port.val (fun x => { x with nelUp := false, helloAt := none })).portDown port.val links)

/-- NEL_UP_ASSERT: the port starts its HELLO exchange; the link stays down. -/
def execNelUpAssert (port : PortIx) (s : State) : Out :=
  .next (
    let p := port.val
    if (s.portAt p).nelUp then s
    else
      (s.updPort p (fun x => { x with nelUp := true, upAt := s.now, helloAt := none, sentAt := s.now })).toAll
        (.hello p s.span.ident s.span.wid s.span.sgen))

/-- SB_HELLO: the peer's identity, wafer ID and SGEN. -/
def execSbHello (port : PortIx) (ident : BitVec 64) (wid : Wafer) (sgen : BitVec 16) (s : State) : Out :=
  .next (s.updPort port.val (fun x => { x with
    peerId := ident, peer := BitVec.ofNat 5 wid.val, peerSgen := sgen, helloAt := some (x.helloAt.getD s.now), recvAt := s.now }))

/-- NEL_LINK_UP: nel_up has stayed asserted and HELLO has been exchanged for 100 µs. A muzzled sideband stays down. -/
def execNelLinkUp (port : PortIx) (links : List UpLink) (s : State) : Out :=
  .next (
    let p := port.val
    let x := s.portAt p
    let hello := match x.helloAt with | some t => decide (t + cyc 100000 ≤ s.now) | none => false
    if x.nelUp && !x.up && !x.muz && decide (x.upAt + cyc 100000 ≤ s.now) && hello then
      (s.updPort p (fun x => { x with up := true, fails := 0, sentAt := s.now, recvAt := s.now })).applyLinks links
    else s)

/-- SB_LIVE. -/
def execSbLive (port : PortIx) (s : State) : Out := .next (s.updPort port.val (fun x => { x with recvAt := s.now }))

/-- SB_LIVE_SEND: a port that has sent no frame for 1 µs. -/
def execSbLiveSend (port : PortIx) (s : State) : Out :=
  .next (
    let p := port.val
    let x := s.portAt p
    if x.up && decide (x.sentAt + cyc 1000 ≤ s.now) then (s.updPort p (fun x => { x with sentAt := s.now })).toAll (.live p)
    else s)

/-- SB_NAK at the sender: the replay is counted, and a fifth failure of one frame puts the link down (R356). The frames
that stand in the replay buffer are not kept apart: what has been sent is in flight until its receiver takes it. -/
def execSbNak (port : PortIx) (lseq : BitVec 12) (links : List UpLink) (s : State) : Out :=
  .next (
    let p := port.val
    let x := s.portAt p
    let n := if x.nakSeq = lseq then x.fails + 1 else 1
    let s := s.updPort p (fun x => { x with retry := satInc x.retry, nakSeq := lseq, fails := n, recvAt := s.now })
    if 4 < n then s.portDown p links else s)

/-- SB_FRAME_ERROR at the receiver: SB_NAK for the frame that did not arrive in order; a frame with the reserved LEN is
discarded and counted (R356). -/
def execSbFrameError (port : PortIx) (last : BitVec 12) (lenReserved : Bool) (s : State) : Out :=
  .next (
    let p := port.val
    let s := s.updPort p (fun x => { x with retry := satInc x.retry })
    if lenReserved then s
    else
      ((s.updPort p (fun x => { x with lastIn := last, sentAt := s.now })).toAll (.nak p (last + 1))).report 0x02
        (unitId .sideband p) 1 0 1 none)

/-- SB_LINK_SILENT: no valid frame for 8 µs. -/
def execSbLinkSilent (port : PortIx) (links : List UpLink) (s : State) : Out :=
  .next (if (s.portAt port.val).recvAt + cyc 8000 ≤ s.now then s.portDown port.val links else s)

/-- TSYNC_INTERVAL: every up port starts an exchange (R361). -/
def execTsyncInterval (s : State) : Out :=
  .next (forAll ((List.range 16).filter (fun p => (s.portAt p).up)) (fun s p =>
    (s.updPort p (fun x => { x with sentAt := s.now })).toAll (.tsync p)) s)

/-- SB_TSYNC: the offset to the peer's time base from the four time stamps, request sent and received, answer sent and
received (DEDUCED: the two-way exchange that R361's bound on the latencies' difference rests on). -/
def execSbTsync (port : PortIx) (t1 : BitVec 64) (t2 : BitVec 64) (t3 : BitVec 64) (t4 : BitVec 64) (s : State) : Out :=
  .next (s.updPort port.val (fun x => { x with
    off := (((t2.toNat : Int) - t1.toNat) + ((t3.toNat : Int) - t4.toNat)) / 2, recvAt := s.now }))

/-- The offset of the lead's time base, as this wafer's parent port gives it, in ns. -/
def State.leadOff (s : State) : Int :=
  match (List.range 16).find? (fun p => s.portTree p == 1) with
  | some p => (s.portAt p).off
  | none => 0

/-! ### Election (R372) -/

/-- ELECT_FLOOD: every 1 µs. -/
def execElectFlood (s : State) : Out :=
  .next (if s.span.st = .electing then s.toAll (.elect s.span.reach s.span.formed) else s)

/-- SB_ELECT: a member named in a mask that lacks its lead enters the election; a mask adds to what it knows. -/
def State.takeElect (s : State) (reach formed : BitVec 32) : State :=
  if formed != s.span.formed then s
  else
    let s := if s.span.st = .member ∧ inMask reach s.self ∧ !inMask reach s.span.lead.toNat then s.startElect else s
    if s.span.st = .electing then
      let m := setBits ((s.span.reach ||| reach) &&& s.span.formed) s.span.lead.toNat 1 0
      if m = s.span.reach then s else { s with span := { s.span with reach := m, reachAt := s.now } }
    else s

def execSbElect (src : Wafer) (reach : BitVec 32) (formed : BitVec 32) (s : State) : Out := .next (s.takeElect reach formed)

/-- The tick of a new lead: the last announced PER and STBF, RUN, RUNNING (R372). -/
def State.becomeLead (s : State) : State :=
  let t := s.tick
  let (p, c) : Reg × Reg := match t.lead with
    | some m => (setBits t.period 0 27 m.per.toNat, setBits t.ctrl 8 8 m.stbf.toNat)
    | none =>
      if t.perNext = 0 then (t.period, t.ctrl)
      else (setBits t.period 0 27 t.perNext, setBits t.ctrl 8 8 t.stbfLead.toNat)
  { s with tick := { t with st := .running, period := p, ctrl := setBits (setBits c 0 1 1) 1 1 0, stopReq := false, passed := false,
                            etime := none, lead := none } }

/-- Span records of this wafer's own span-scope barriers begin at the barriers' GEN. -/
def State.freshRecs (s : State) : Tbl SpanRec :=
  s.prec.filterMap (fun (p : Nat × RootRec) =>
    let r := { SpanRec.init with gen := p.2.gen }
    if p.2.scope = 2 ∧ r ≠ SpanRec.init then some (p.1, r) else none)

/-- ELECT_STABLE: the mask has not changed for 10 µs; a strict majority elects its lowest wafer ID. -/
def State.elect (s : State) : State :=
  if s.span.st ≠ .electing ∨ s.now < s.span.reachAt + cyc 10000 then s
  else if 2 * maskCount s.span.reach ≤ maskCount s.span.formed then s.leaveSpan
  else
    let lead := ((maskWs s.span.reach).head?).getD 0
    let s := { s with span := { s.span with
      lead := BitVec.ofNat 5 lead, formed := s.span.reach, sgen := s.span.sgen + 1, holds := [], throt := [], recs := []
      st := if lead = s.self then .lead else .member } }
    let s := if lead = s.self then { s.becomeLead with span := { s.span with recs := s.freshRecs } } else s
    (s.spanEvt 3).relink

def execElectStable (s : State) : Out := .next s.elect

/-! ### Frames between members (R181, R182, R367-R371) -/

/-- A frame under this wafer's SGEN (R358). -/
def State.sgenOk (s : State) (g : BitVec 16) : Bool := g == s.span.sgen && s.span.st != .none

/-- SB_ABORT: ABORT, BROKEN, LEAVE (R371, R373, R380). A lead passes on what a member sends. -/
def State.takeAbort (s : State) (src : Nat) (f : Nat) (code : Nat) (waf : Nat) : State :=
  let lead := s.span.st == .lead
  let pass (s : State) : State := if lead then s.toAll (.abort (fnOfNat f) (BitVec.ofNat 4 code) (BitVec.ofNat 5 waf)) else s
  if code = 0 then (if (s.fnAt f).job then (pass s).abortFn f 2 .aborted else s)
  else if code = 1 then (if (s.fnAt f).job then (pass s).breakJob f .aborted else s)
  else if lead then
    if src = waf ∧ inMask s.span.reach waf then { s with span := { s.span with leavers := s.span.leavers ++ [waf] } } else s
  else if waf = s.self then s
  else if waf = s.span.lead.toNat then s.leaveSpan
  else (forAll s.jobs (fun s f => s.breakJob f .spanLost) s).failForm.spanEvt 2

/-- SB_ABORT. CODE 3-15 is a reserved encoding: such a frame has no effect (assumption 12, DESIGN CHOICE). -/
def execSbAbort (sgen : BitVec 16) (src : Wafer) (f : Func) (code : BitVec 4) (waf : Wafer) (s : State) : Out :=
  if !s.sgenOk sgen || decide (2 < code.toNat) then .next s
  else .next (s.takeAbort src.val f.val code.toNat waf.val)

/-- SB_RESETN at the lead: the note goes to every hub of the lead's wafer (R368). -/
def execSbResetn (sgen : BitVec 16) (src : Wafer) (m : Master) (s : State) : Out :=
  .next (if s.sgenOk sgen && s.span.st == .lead then
    s.sendAll (s.hubsUp.map (fun h => .resetNote (some h)
      { kind := if Master.isFn m then .function else .core, newEp := Master.epoch m + 1, cls := 0, func := 0,
        shared := false, master := m }))
  else s)

/-- SB_CMT at the lead: a member is ready for the replay of the open step (R229). -/
def execSbCmt (sgen : BitVec 16) (src : Wafer) (f : Func) (epoch : BitVec 32) (nsub : BitVec 7) (s : State) : Out :=
  .next (
    let x := s.fnAt f.val
    if s.sgenOk sgen && s.span.st == .lead && x.job && x.cst == .suspect && epoch == x.cep + 1 && !x.readyFrom.contains src.val then
      s.updFn f.val (fun x => { x with readyFrom := x.readyFrom ++ [src.val] })
    else s)

/-- SB_KREQ at the lead: checked and injected; the answer will go back under its RTAG (R367). -/
def execSbKreq (sgen : BitVec 16) (src : Wafer) (f : Func) (rtag : BitVec 12) (op : KOp) (q : KMsg) (s : State) : Out :=
  .next (if s.sgenOk sgen && s.span.st == .lead then
    let r : Relay := { rtag := rtag, master := q.master, tag := q.tag, op := op, func := f }
    ({ s with span := { s.span with relays := s.span.relays ++ [r] } }).leadInject f.val op q
  else s)

/-- SB_KRSP at a member: to the requester as KEN_RSP, or as WHISTLE for a deferred end (R367); under the reserved tag, the
LEASH whistle of a core whose leash has run out at the lead (R88; assumption 9, DEDUCED). -/
def execSbKrsp (sgen : BitVec 16) (rtag : BitVec 12) (deferred : Bool) (r : KRsp) (s : State) : Out :=
  .next (
    if !s.sgenOk sgen || s.span.st == .lead then s
    else if rtag = 0xFFF then
      (if Master.isFn r.master then s else s.send (.whistle (Master.core r.master) (Master.epoch r.master) .leash r))
    else
      match s.span.relays.find? (fun x => x.rtag == rtag) with
      | none => s
      | some x =>
        let s := { s with span := { s.span with relays := s.span.relays.erase x } }
        let e := { r with master := x.master, tag := x.tag }
        if deferred && !Master.isFn x.master then
          s.send (.whistle (Master.core x.master) (Master.epoch x.master) (causeOf x.op) { e with aux := 0 })
        else s.send (.kenRsp (Master.epoch x.master) e))

/-- SB_HOLD at the lead: a hold request for the coming edge, or a release notice (R181). -/
def execSbHold (sgen : BitVec 16) (src : Wafer) (tick : BitVec 48) (req : Bool) (s : State) : Out :=
  .next (
    if s.sgenOk sgen && s.span.st == .lead && tick == s.tick.nextNum then
      if req then
        if s.span.holds.contains src.val then s else { s with span := { s.span with holds := s.span.holds ++ [src.val] } }
      else
        { s with span := { s.span with holds := s.span.holds.filter (fun w => w != src.val) }
                 tick := { s.tick with lastHeel := some s.now } }
    else s)

/-- SB_THROT at the lead: a field of a member is forced, or no longer; the frame names no function, and every job counts as
throttled while some field is (R182, R208; assumption 89, DEDUCED). -/
def execSbThrot (sgen : BitVec 16) (src : Wafer) (asrt : Bool) (field : BitVec 7) (opb : BitVec 3) (s : State) : Out :=
  .next (
    if s.sgenOk sgen && s.span.st == .lead then
      let rest := s.span.throt.filter (fun t => !(t.1 == src.val && t.2.1 == field))
      if asrt then
        forAll s.jobs (fun s f => s.updFn f (fun x => { x with throt := x.throt.notice false }))
          { s with span := { s.span with throt := rest ++ [(src.val, field, opb)] } }
      else { s with span := { s.span with throt := rest } }.clearThrots
    else s)

/-- SB_KILN at the lead: the member's latest report (R369). -/
def execSbKiln (sgen : BitVec 16) (m : SbKiln) (s : State) : Out :=
  .next (
    let rest := s.kiln.reports.filter (fun r => !(r.1.src == m.src && r.1.func == m.func))
    if s.sgenOk sgen && s.span.st == .lead then { s with kiln := { s.kiln with reports := rest ++ [(m, s.now)] } } else s)

/-- SB_ARRIVE at the lead (R364, R365). -/
def execSbArrive (sgen : BitVec 16) (a : SbArrive) (s : State) : Out :=
  .next (if s.sgenOk sgen && s.span.st == .lead then s.spanArrive a else s)

/-! ### Span records (R138, R364) -/

/-- A pitch list holds the commit engine's buffer: its image, or the one that waits, names a commit barrier (R250). -/
def PitchList.reserves (p : PitchList) : Bool := p.img.cmt || (match p.nextImg with | some m => m.cmt | none => false)

/-- A span record that holds a partial buffer of the lead's root: it is open, with a payload. -/
def SpanRec.holdsBuf (r : SpanRec) : Bool := r.open_ && pdLanes r.pay != 0

/-- Partial buffers in use at this wafer's root: packs with a reduction, a lead's open span records, and the admitted pitch
lists that name a commit barrier (R138, R213, R364). -/
def State.rootBufs (s : State) : Nat :=
  (s.prec.filter (fun p => p.2.resv)).length + (s.span.recs.filter (fun p => p.2.holdsBuf)).length
    + (s.pl.filter (fun p => p.2.st != .free && p.2.reserves)).length

/-- Those of one function, against its quota QPR (R327, R329). -/
def State.fnRootBufs (s : State) (f : Nat) : Nat :=
  (s.prec.filter (fun p => p.2.resv && p.2.func.val == f)).length
    + (s.span.recs.filter (fun p => p.2.holdsBuf && (s.precAt p.1).func.val == f)).length
    + (s.pl.filter (fun p => p.2.st != .free && p.2.func.val == f && p.2.reserves)).length

/-- Whether the root has n more buffers for a function. -/
def State.rootRoom (s : State) (f n : Nat) : Bool :=
  decide (s.rootBufs + n ≤ 512) && decide (s.fnRootBufs f + n ≤ Nat.min (s.fnAt f).qpr 512)

/-- JOIN at the lead: whether the wafer is in the record after it. A record that opens takes the payload descriptor that the
JOIN brings (assumption 85, DEDUCED), and reserves one buffer of the root for a payload. -/
def State.spanJoin (s : State) (f b w : Nat) (ep : Epoch) (pay : BitVec 32) : State × Bool :=
  let r := s.srecAt b
  if r.open_ then
    (s.updSrec b (fun r => { r with
      wexp := if r.members.any (fun m => m.1 == w) then r.wexp else r.wexp + 1
      members := r.members.filter (fun m => m.1 != w) ++ [(w, ep)] }), true)
  else if pdLanes pay ≠ 0 && !s.rootRoom f 1 then (s, false)
  else (s.updSrec b (fun r => { SpanRec.init with gen := r.gen, open_ := true, wexp := 1, members := [(w, ep)], pay := pay }), true)

/-- SB_PACK JOIN at the lead. -/
def execSbPackJoin (sgen : BitVec 16) (src : Wafer) (f : Func) (bar : BarIx) (join : JoinIn) (s : State) : Out :=
  .next (if s.sgenOk sgen && s.span.st == .lead then
    let r := s.spanJoin f.val bar.toNat src.val join.pepoch join.pay
    r.1.toWafer src.val (if r.2 then .packAck bar (r.1.srecAt bar.toNat).gen else .packNack bar)
  else s)

/-- SB_PACK LEAVE at the lead. -/
def execSbPackLeave (sgen : BitVec 16) (src : Wafer) (f : Func) (bar : BarIx) (s : State) : Out :=
  .next (if s.sgenOk sgen && s.span.st == .lead then s.spanLeave bar.toNat src.val else s)

end Sys2Proof.Machine
end

