-- ==== Sys2Proof/Machine/Form.lean ====
section
/-! DEFINITION. Formation, re-formation and leaving of spans (R375-R380). -/

namespace Sys2Proof.Machine

open Sys2Proof

/-! ### The formation image (R375) -/

def formHead (img : List Byte) : Nat := fieldAt img 0 64
def formLead (img : List Byte) : Nat := bits (formHead img) 502 5
def formSelf (img : List Byte) : Nat := bits (formHead img) 497 5
def formNcar (img : List Byte) : Nat := Nat.min (bits (formHead img) 492 5) 16
def formJobs (img : List Byte) : BitVec 64 := BitVec.ofNat 64 (bits (formHead img) 384 64)
def formIds (img : List Byte) : List (BitVec 64) := (List.range 32).map (fun w => BitVec.ofNat 64 (fieldAt img (64 + 8 * w) 8))
def formCar (img : List Byte) : List (BitVec 32) :=
  (List.range (formNcar img)).map (fun i => BitVec.ofNat 32 (fieldAt img (320 + 4 * i) 4))
/-- The wafers the image names. -/
def formMask (img : List Byte) : BitVec 32 :=
  maskOf ((List.range 32).filter (fun w => ((formIds img)[w]?).getD 0 != 0))

/-- The functions of a JOBS field. -/
def jobFns (j : BitVec 64) : List Nat := (List.range 64).filter (fun f => bit j.toNat f)

/-! ### FORM (R376, R377) -/

/-- A command of VSF_SPN_CMD completes. -/
def State.spanDone (s : State) (st : Status) : State := { s with span := { s.span with go := false, status := st } }

/-- The status of a FORM that is turned away; none where the formation begins. What only other wafers know is in the
operands: whether the named wafers belong to one span, whether the named jobs have a partition on the lead. -/
def State.formCheck (s : State) (img : List Byte) (links : List UpLink) (spansOk leadHasJobs : Bool) : Option Status :=
  let self := formSelf img
  let lead := formLead img
  let mask := formMask img
  let hasJobs := if self = lead then (jobFns (formJobs img)).all (fun f => (s.fnAt f).members != []) else leadHasJobs
  if ((formIds img)[self]?).getD 0 != s.span.ident then some .fenced
  else if (s.span.st ≠ .none ∧ self ≠ s.self) ∨ !inMask mask lead then some .fenced
  else if !spansOk then some .fenced
  else if !hasJobs then some .fenced
  else if (spanTree mask lead links).length < maskCount mask then some .noResource
  else none

/-- FORM: the checks, JOIN, and the coordinator: the lead of the span that a named wafer is in, or the new lead. -/
def State.form (s : State) (img : List Byte) (links : List UpLink) (spansOk leadHasJobs inSpan : Bool) : State :=
  if s.bru.step != 15 || !s.span.go || s.span.op != 1 || s.span.forming.isSome then s
  else
    match s.formCheck img links spansOk leadHasJobs with
    | some st => s.spanDone st
    | none =>
      let self := formSelf img
      let coord := if inSpan then s.span.st == .lead else self == formLead img
      let js := s.span.joins.filter (fun j => inMask (formMask img) j.1)
      let top := js.foldl (fun (m : BitVec 16) j => if m.toNat < j.2.toNat then j.2 else m) s.span.sgen
      let fm : Forming :=
        { self := self, lead := formLead img, mask := formMask img, jobs := formJobs img, ids := formIds img, carry := formCar img,
          joined := (js.map Prod.fst ++ [self]).eraseDups, sgenMax := top, since := s.now, switch := none, carryDue := false,
          coord := coord }
      { s with span := { s.span with forming := some fm, joins := [] } }.toAll (.formJoin s.span.sgen)

def execForm (img : List Byte) (links : List UpLink) (spansOk : Bool) (leadHasJobs : Bool) (inSpan : Bool) (s : State) : Out :=
  .next (s.form img links spansOk leadHasJobs inSpan)

/-- SB_FORM JOIN: a named wafer joins; one that comes before this wafer's own FORM is kept. -/
def execSbFormJoin (src : Wafer) (sgen : BitVec 16) (s : State) : Out :=
  .next (
    match s.span.forming with
    | none => { s with span := { s.span with joins := s.span.joins.filter (fun j => j.1 != src.val) ++ [(src.val, sgen)] } }
    | some x =>
      { s with span := { s.span with forming := some { x with
        joined := if x.joined.contains src.val then x.joined else x.joined ++ [src.val]
        sgenMax := if x.sgenMax.toNat < sgen.toNat then sgen else x.sgenMax } } })

/-- Every named wafer has joined. -/
def Forming.allJoined (x : Forming) : Bool := (maskWs x.mask).all (fun w => x.joined.contains w)

/-- FORM_JOIN_TIMEOUT: a named wafer has not joined within 10 ms. -/
def execFormJoinTimeout (s : State) : Out :=
  .next (
    match s.span.forming with
    | some x => if !x.allJoined && x.switch.isNone && decide (x.since + cyc 10000000 ≤ s.now) then s.failForm else s
    | none => s)

/-- A job of a formation is at its boundary: no RUNNING pitch list and the commit state IDLE, or broken (R377). -/
def State.atBoundary (s : State) (f : Nat) : Bool :=
  let x := s.fnAt f
  x.broken || ((s.listsOf f).all (fun p => (s.plAt p).st != .running) && x.run.isNone && x.choice.isNone && x.cst == .idle)

/-- The job dispatches no new step: a formation names it, or its carry is not complete (R377). -/
def State.formHolds (s : State) (f : Nat) : Bool :=
  (match s.span.forming with | some x => bit x.jobs.toNat f | none => false) || (s.span.carryWait && (s.fnAt f).job)

/-- The coordinator, at a cut whose coming edge is `t`, once every JOIN has come and every job is at its boundary: SWITCH to
every wafer of the old and the new span. -/
def State.chooseSwitch (s : State) (t : BitVec 48) : State :=
  match s.span.forming with
  | none => s
  | some x =>
    if !x.coord || x.switch.isSome || !x.allJoined || !(jobFns x.jobs).all s.atBoundary then s
    else
      let jobs := (jobFns x.jobs).map (fun f =>
        let y := s.fnAt f
        (fnOfNat f, (if y.broken then y.ckpt else y.cep), y.ckpt))
      let m (self : Nat) (stays : Bool) : FormSwitch :=
        { t := t, sgen := x.sgenMax + 1, lead := ⟨x.lead % 32, Nat.mod_lt _ (by decide)⟩,
          self := ⟨self % 32, Nat.mod_lt _ (by decide)⟩, mask := x.mask, stays := stays, jobs := jobs }
      let old := if s.span.st = .none then [] else maskWs s.span.formed
      let gone := old.filter (fun w => !inMask x.mask w)
      let s := s.sendAll (((maskWs x.mask).filter (fun w => w != x.self)).map (fun w => .sb (some w) (.formSwitch (m w true)))
        ++ gone.map (fun w => .sb (some w) (.formSwitch (m w false))))
      { s with span := { s.span with forming := some { x with switch := some (m x.self true) } } }

/-- SB_FORM SWITCH at another wafer. A wafer of the old span that was given no FORM takes the switch too, and leaves at it. -/
def execSbFormSwitch (m : FormSwitch) (s : State) : Out :=
  .next (
    match s.span.forming with
    | some x => { s with span := { s.span with forming := some { x with switch := some m } } }
    | none =>
      if s.span.st = .none then s
      else
        let x : Forming :=
          { self := m.self.val, lead := m.lead.val, mask := m.mask, jobs := 0, ids := [], carry := [], joined := [], sgenMax := m.sgen,
            since := s.now, switch := some m, carryDue := false, coord := false }
        { s with span := { s.span with forming := some x } })

/-! ### CARRY (R378) -/

/-- The kennel indices of a carry entry's block. -/
def carryKeys (c : BitVec 32) : List Nat :=
  (List.range 256).map (fun i => kennelIndex (bits c.toNat 25 1) (bits c.toNat 0 12 * 256 + i))

/-- A carried entry: a held lock arrives FREE with ABND set; waiters and leashes stay behind. -/
def carried (e : KEntry) : KEntry :=
  let e := { e with queue := [], leash := .none, deadline := 0 }
  if e.kind = .lock ∧ e.st ≠ .free then { e with st := .free, abnd := true, owner := 0 } else e

/-- The carry of the old lead. -/
def State.carryOf (s : State) (x : Forming) : FormCarry :=
  let jobs := jobFns x.jobs
  let mine (b : Nat) : Bool := jobs.contains (s.precAt b).func.val
  let nat (q : Q) : Nat := (Q.floor q).toNat
  { recs := (s.span.recs.filter (fun p => mine p.1)).map (fun p =>
      { bar := BitVec.ofNat 16 p.1, gen := p.2.gen, wexp := p.2.wexp }),
    hist := (s.kiln.hist.filter (fun p => jobs.contains (s.plAt p.1).func.val)).map (fun p =>
      { plid := BitVec.ofNat 11 p.1, n := p.2.n, mE := nat p.2.mE, dE := nat p.2.dE, mT := nat p.2.mT, dT := nat p.2.dT }),
    per := BitVec.ofNat 27 s.tick.period.toNat, stbf := BitVec.ofNat 8 (bits s.tick.ctrl.toNat 8 8),
    entries := (x.carry.flatMap carryKeys).filterMap (fun k =>
      let e := s.kenAt k
      if e.kind = .free then none else some { k := k, word := kentryWord (carried e) }) }

/-- The jobs' span-scope requests still queued at the old lead end ABORTED: those of other wafers, and those on carried
entries. -/
def State.endQueued (s : State) (x : Forming) : State :=
  let ks := x.carry.flatMap carryKeys
  let jobs := jobFns x.jobs
  let ws := (tkeys s.ken).flatMap (fun k =>
    let e := s.kenAt k
    if jobs.contains e.func.val then
      (e.queue.filter (fun w => ks.contains k || Master.wafer w.master != s.self)).map (fun w => (k, w))
    else [])
  forAll ws (fun s kw => s.endWaiter kw.1 kw.2 .aborted 0) s

/-- SB_FORM CARRY into the new lead's state. -/
def State.takeCarry (s : State) (m : FormCarry) : State :=
  let recs := m.recs.foldl (fun (t : Tbl SpanRec) r =>
    tupd SpanRec.init t r.bar.toNat (fun x => if x.open_ then x else { SpanRec.init with gen := r.gen })) s.span.recs
  let hist := m.hist.foldl (fun (t : Tbl Hist) h => tset Hist.init t h.plid.toNat
    { n := h.n, since := s.now, mE := Q.ofNat h.mE, dE := Q.ofNat h.dE, mT := Q.ofNat h.mT, dT := Q.ofNat h.dT }) s.kiln.hist
  let s := { s with
    span := { s.span with recs := recs, carryWait := false }
    kiln := { s.kiln with hist := hist }
    tick := { s.tick with period := setBits s.tick.period 0 27 m.per.toNat, ctrl := setBits s.tick.ctrl 8 8 m.stbf.toNat } }
  forAll m.entries (fun s e => s.setKen e.k (kentryOf e.word)) s

/-! ### The switch (R377, R379, R380) -/

/-- A job at the switch: the span's epochs; a broken one goes back to its checkpoint and stops being broken. -/
def State.switchJob (s : State) (j : Func × BitVec 32 × BitVec 32) : State :=
  s.updFn j.1.val (fun x => { x with
    cep := if x.broken then j.2.2 else j.2.1, ckpt := j.2.2, job := true, broken := false
    commits := if x.broken then [] else x.commits })

/-- Functions the new span does not name are span jobs no longer. -/
def State.dropJobs (s : State) (js : List Nat) : State :=
  forAll s.jobs (fun s f => if js.contains f then s else s.updFn f (fun x => { x with job := false, broken := false })) s

/-- Each wafer joins its span-scope barriers again, which keep their GEN; an arrival that the old record held is sent again
(DEDUCED: the record has lost it). -/
def State.rejoinSpan (s : State) : State :=
  let bs := (s.prec.filter (fun p => p.2.scope == 2 && (p.2.st == .gather || p.2.st == .armed || p.2.st == .deciding))).map Prod.fst
  forAll bs (fun s b =>
    let r := s.precAt b
    let f := r.func.val
    if s.span.st = .lead then
      let s := (s.spanJoin f b s.self (s.fnAt f).pepoch r.payload).1
      if r.st = .deciding then s.spanArrive (s.wafArrive b) else s
    else
      let s := s.toWafer s.span.lead.toNat (.packJoin r.func (BitVec.ofNat 16 b) (s.fnAt f).pepoch r.payload)
      if r.st = .deciding then s.toWafer s.span.lead.toNat (.arrive (s.wafArrive b)) else s) s

/-- The generator of a wafer that becomes lead at a switch, or follows from now; SRC says which (R165, R167). -/
def State.switchTick (s : State) (lead wasLead : Bool) : State :=
  if lead then
    if wasLead then s
    else { s with tick := { s.tick with
      st := if s.tick.st = .follow ∨ s.tick.st = .stopped then .running else s.tick.st, ctrl := setBits (setBits s.tick.ctrl 0 1 1) 1 1 0,
      etime := none } }
  else { s with tick := { s.tick with st := .follow, ctrl := setBits s.tick.ctrl 1 1 1, stopReq := false, etime := none, lead := none } }

/-- The switch takes effect on this wafer. -/
def State.doSwitch (s : State) : State :=
  match s.span.forming with
  | none => s
  | some x =>
    match x.switch with
    | none => s
    | some m =>
      if !m.stays then { s with span := { s.span with forming := none } }.leaveSpan
      else
        let oldLead := if s.span.st = .none then none else some s.span.lead.toNat
        let lead := m.lead.val == m.self.val
        let wasLead := s.span.st == .lead
        let moved := match oldLead with | some o => o != m.lead.val | none => false
        let s := if wasLead && !lead then (s.endQueued x).toWafer m.lead.val (.formCarry (s.carryOf x)) else s
        let s := if moved then s.endRelays (fun _ => true) .aborted else s
        let s := (s.changeId m.self.val).switchTick lead wasLead
        let recs := if lead then
            (if wasLead then tmapv SpanRec.init (fun _ r => { SpanRec.init with gen := r.gen, pay := r.pay }) s.span.recs else s.freshRecs)
          else []
        let fromSpan := lead && !wasLead && oldLead.isSome
        let s := { s with span := { s.span with
          st := if lead then .lead else .member, lead := BitVec.ofNat 5 m.lead.val, formed := m.mask, reach := m.mask, sgen := m.sgen
          forming := none, holds := [], throt := [], leavers := [], joins := [], recs := recs, carryWait := fromSpan } }
        let s := (forAll m.jobs (fun s j => s.switchJob j) s).dropJobs (m.jobs.map (fun j => j.1.val))
        ((s.rejoinSpan).spanDone .ok).spanEvt 0

/-- SB_FORM CARRY at the new lead. A new lead that was in no span switches on it, since it sees no edge of the old span. -/
def execSbFormCarry (m : FormCarry) (s : State) : Out :=
  .next (
    let s := if s.span.st = .none then s.doSwitch else s
    s.takeCarry m)

/-! ### LEAVE (R380) -/

/-- LEAVE: a member tells the lead and leaves at its next edge; a lead dissolves the span at its next cut. A wafer in no
span has none to leave: OK at once (DESIGN CHOICE). -/
def State.leave (s : State) : State :=
  if s.bru.step != 15 || !s.span.go || s.span.op != 2 || s.span.leaving then s
  else
    match s.span.st with
    | .none => s.spanDone .ok
    | .lead => { s with span := { s.span with leaving := true } }
    | _ => { s with span := { s.span with leaving := true } }.toWafer s.span.lead.toNat (.abort 0 2 s.span.wid)

def execLeave (s : State) : Out := .next s.leave

/-- The lead's next cut: LEAVEs of members, its own. -/
def State.cutLeaves (s : State) : State :=
  if s.span.st ≠ .lead then s
  else if s.span.leaving then (s.toAll (.abort 0 2 s.span.wid)).leaveSpan
  else
    let ws := s.span.leavers
    let left := ws.foldl (fun (m : BitVec 32) w => setBits m w 1 0) s.span.reach
    ({ s with span := { s.span with leavers := [], reach := left } }).loseWafers ws

end Sys2Proof.Machine
end

