-- ==== Sys2Proof/Machine/Fault.lean ====
section
/-! DEFINITION. Errors at the root: LOG, the error history and muzzles (R396-R400), CPER records (R402, R403), scrubbing
(R383-R385), the pack processors' watchdogs (R394), the error registers' commands (R406), power-cycle requests (R405). -/

namespace Sys2Proof.Machine

open Sys2Proof

/-! ### The error history (R396, R397) -/

def histStCode : HistSt → Nat
  | .service => 0 | .watch => 1 | .muzzled => 2

/-- The 256-bit history record of R397, its CRC over bits [255:32]. -/
def histWord (r : HistRec) : BitVec 256 :=
  let top := unitCode r.uid * 2 ^ 200 + histStCode r.st * 2 ^ 198 + r.lcls.toNat * 2 ^ 190 + r.tcnt.toNat * 2 ^ 160
    + r.pcnt.toNat * 2 ^ 152 + r.cecnt.toNat * 2 ^ 128 + r.wbeg.toNat * 2 ^ 80 + r.last.toNat * 2 ^ 32
  BitVec.ofNat 256 (top * 2 ^ 32 + (crc32 (leBytes 28 top)).toNat)

def HistRec.fresh (u : UnitId) (now : BitVec 48) : HistRec :=
  { uid := u, st := .service, lcls := 0, tcnt := 0, pcnt := 0, cecnt := 0, wbeg := now, last := now, events := [],
    ceAt := none, clear := false }

/-- Powered time as the records hold it. -/
def State.ms48 (s : State) : BitVec 48 := BitVec.ofNat 48 s.poweredMs

def State.histOf (s : State) (u : UnitId) : HistRec := (s.err.hist.find? (fun r => r.uid == u)).getD (HistRec.fresh u s.ms48)

/-- The record that makes room: of an in-service unit, without a permanent event, with the oldest LAST (R397). -/
def oldestFree (l : List HistRec) : Option HistRec :=
  (l.filter (fun r => r.st != .muzzled && r.pcnt == 0)).foldl (fun (b : Option HistRec) r =>
    match b with
    | none => some r
    | some x => if r.last.toNat < x.last.toNat then some r else some x) none

def putHist (l : List HistRec) (r : HistRec) : List HistRec :=
  if l.any (fun x => x.uid == r.uid) then l.map (fun x => if x.uid == r.uid then r else x)
  else if l.length < 16384 then l ++ [r]
  else
    match oldestFree l with
    | some x => l.erase x ++ [r]
    | none => l

/-- A record is updated, and its write waits for the cask store. -/
def State.saveHist (s : State) (r : HistRec) : State :=
  { s with err := { s.err with hist := putHist s.err.hist r } }.caskAdd (.history r)

/-! ### Muzzle thresholds (R399, R421) -/

/-- The row of Table - Muzzle thresholds for a unit. -/
def threshRow : UnitKind → Option Nat
  | .csn => some 0 | .hub => some 1 | .hubMash => some 2 | .rootMash => some 2 | .router => some 3 | .meshLink => some 4
  | .expressLink => some 4 | .spine => some 5 | .sideband => some 6 | .packProc => some 7 | .rootSite => some 8 | _ => none

/-- The classes whose transient events a row counts. -/
def threshClasses (row : Nat) : List Nat :=
  match row with
  | 0 => [0x05, 0x0C, 0x0D] | 1 => [0x05, 0x06, 0x0A] | 2 => [0x09] | 4 => [0x03] | 5 => [0x11] | 6 => [0x03] | 7 => [0x0E]
  | 8 => [0x06] | _ => []

/-- Rows whose unit one permanent event muzzles: all but links, spine inputs and sidebands. -/
def permRow (row : Nat) : Bool := row != 4 && row != 5 && row != 6

/-- Count and window (ms) of a row. -/
def State.threshOf (s : State) (row : Nat) : Nat × Nat :=
  let t := (s.bru.thresholds[row]?).getD (0, 0)
  (t.1, t.2 * 60000)

/-- The window of a unit's record, in ms: that of its row, and at least the hour of a link's FLIT_RETRY limit. -/
def State.windowOf (s : State) (k : UnitKind) : Nat :=
  match threshRow k with
  | some row => if row = 4 then Nat.max (s.threshOf row).2 3600000 else (s.threshOf row).2
  | none => 0

/-- Events of a record within the last w ms. -/
def recentIn (l : List (Byte × BitVec 48)) (now : BitVec 48) (w : Nat) : List (Byte × BitVec 48) :=
  l.filter (fun e => now.toNat < e.2.toNat + w)

/-- Whether a record meets its unit's threshold. -/
def State.meets (s : State) (r : HistRec) : Bool :=
  match threshRow r.uid.kind with
  | none => false
  | some row =>
    let t := s.threshOf row
    let n := ((recentIn r.events s.ms48 t.2).filter (fun e => (threshClasses row).contains e.1.toNat)).length
    let retries := ((recentIn r.events s.ms48 3600000).filter (fun e => e.1 == 0x02)).length
    (permRow row && r.pcnt != 0) || (t.1 != 0 && t.2 != 0 && decide (t.1 ≤ n)) || (row == 4 && decide (s.bru.flitLim < retries))

/-! ### Muzzles (R30, R134, R147, R399, R400) -/

/-- The clusters for which a cluster substitutes (R224). -/
def State.standIns (s : State) (c : Nat) : List Nat :=
  s.fn.flatMap (fun p => (p.2.subs.filter (fun b => b.s == c && b.x != c)).map (·.x))

/-- A member cluster of a barrier of an image. -/
def State.inPacks (s : State) (m : PitchImage) (c : Nat) : Bool :=
  (imgBars m).any (fun b => bit (s.frecOf (fieldOf c) b).mem.toNat (localOf c))

/-- Clusters that need a substitute because this one is lost while a step of its function is open: itself, where it is a member
of the step's packs, and the one it stands in for (R224, R231). A replay already ordered waits for it. -/
def State.noteLost (s : State) (c : Nat) : State :=
  match s.fnOf c with
  | none => s
  | some f =>
    match s.stepOf f with
    | none => s
    | some (_, _, m) =>
      let xs := (if s.inPacks m c then [c] else []) ++ ((s.fnAt f).subs.filter (fun b => b.s == c && b.x != c)).map (·.x)
      if (s.fnAt f).cst = .idle ∨ xs = [] then s
      else
        s.updFn f (fun x =>
          let x := { x with lostNow := (x.lostNow ++ xs).eraseDups }
          if x.cst = .suspect then { x with needSub := (x.needSub ++ xs).eraseDups, ready := false } else x)

/-- A cluster leaves service: every pack loses it, and the packs of the cluster it substitutes for lose that one. -/
def State.dropCluster (s : State) (c : Nat) : State :=
  let xs := s.standIns c
  let s := (s.noteLost c).loseCluster c
  forAll xs (fun s x => s.loseCluster x) s

/-- A hub that is muzzled is reset (R43): what reaches its port from now on is answered by the router there (R30). Its epoch
stays, and what its inputs last told; the field's clock is not moved. -/
def Hub.muzzled (x : Hub) : Hub :=
  { Hub.init with epoch := x.epoch, muz := true, op := x.op, alert := x.alert, temps := x.temps, vin := x.vin, mash := x.mash,
                  edgeAt := x.edgeAt, spineMuz := x.spineMuz, intv := x.intv }

/-- The kennel entries homed at a hub go with it; their waiters end FENCED, as every operation on them does from now on (R30,
R43; assumption 90, DEDUCED). -/
def State.dropEntries (s : State) (h : Nat) : State :=
  let keys := (tkeys s.ken).filter (fun k => homeHub k == h)
  let s := forAll keys (fun s k => forAll (s.kenAt k).queue (fun s w => s.endWaiter k w .fenced 0) s) s
  forAll keys (fun s k => s.setKen k KEntry.init) s

/-- A hub leaves service (R30, R43, R134): its clusters are lost with it, and the clusters they stand in for; its field leaves
the kiln's limits (R209). -/
def State.dropHub (s : State) (h : Nat) : State :=
  let cs := (s.fn.flatMap (fun p => p.2.members)).filter (fun c => fieldOf c == h)
  let xs := (cs.flatMap s.standIns).filter (fun x => fieldOf x != h)
  let s := forAll cs (fun s c => s.noteLost c) s
  let s := forAll s.packed (fun s b => s.loseHub h b) s
  let s := (forAll xs (fun s x => s.loseCluster x) s).dropEntries h
  let s := s.mapFrec (fun k x => if k / 65536 = h then FieldRec.init else x)
  let s := { s with kiln := { s.kiln with fields := tset KField.init s.kiln.fields h KField.init } }
  { (s.updHub h Hub.muzzled).clearThrots with mesh := { s.mesh with reloading := true } }

/-- A router leaves service: its links go down and its cluster is absent (R58, R61). -/
def State.dropRouter (s : State) (c : Nat) : State :=
  let s := s.dropCluster c
  let s := { s with mesh := { s.mesh with
    dead := if s.mesh.dead.contains c then s.mesh.dead else s.mesh.dead ++ [c]
    why := tupd (0 : BitVec 6) s.mesh.why c (fun w => w ||| 2) } }
  forAll (linksOfRouter c) (fun s l => s.downLink l) s

/-- What a muzzle does to its unit at once. -/
def State.muzzleEffect (s : State) (u : UnitId) : State :=
  let i := u.idx.toNat
  match u.kind with
  | .csn => (s.dropCluster i).updCsn i (fun c => { c with muz := true })
  | .hub => s.dropHub i
  | .hubMash => s.updHub (i / 8) (fun x => { x with mash := setBits x.mash (i % 8) 1 0 })
  | .rootMash => { s with err := { s.err with rootMash := setBits s.err.rootMash i 1 0 } }
  | .router => s.dropRouter i
  | .meshLink => s.downLink i
  | .expressLink => s.downLink (65536 + i)
  | .spine => s.updHub i (fun x => { x with spineMuz := true })
  | .sideband =>
    let ls := s.span.links.filter (fun l => !((l.a.val == s.self && l.pa.val == i) || (l.b.val == s.self && l.pb.val == i)))
    (s.updPort i (fun x => { x with muz := true })).portDown i ls
  | .packProc => { s with err := { s.err with ppMuz := s.err.ppMuz.set i true, ppHalt := s.err.ppHalt.set i true } }
  | .rootSite => s.needVarvo true
  | .regArray => s
  | .wafer => s

/-- The last pack processor in service, and a root site whose partner is muzzled, are never muzzled (R400). -/
def State.spared (s : State) (u : UnitId) : Bool :=
  match u.kind with
  | .packProc => (s.err.ppMuz[1 - u.idx.toNat]?).getD false
  | .rootSite => (s.histOf (unitId .rootSite (1 - u.idx.toNat))).st == .muzzled
  | _ => false

/-- Good cores of the clusters in service (R400, R411). -/
def State.goodCores (s : State) : Nat :=
  ((List.range 8064).map (fun i => if s.inService (clusterAt i) then (s.coreIxs (clusterAt i)).length else 0)).sum

def gradeFloor (g : BitVec 2) : Nat := if g = 0 then 372000 else if g = 1 then 360000 else 344000

/-- GRADE_LOW, where the good cores have fallen below the floor of the wafer's grade (R400). -/
def State.gradeCheck (s : State) (before : Nat) : State :=
  let fl := gradeFloor s.cask.grade
  if fl ≤ before ∧ s.goodCores < fl then (s.report 0x16 (unitId .wafer 0) 4 0 0 none).errBit 4 else s

/-- A unit is muzzled: its record, its effect, MUZ, and the report (R399, R400). -/
def State.muzzleOne (s : State) (u : UnitId) : State :=
  let r := s.histOf u
  if r.st = .muzzled then s
  else if s.spared u then s.saveHist { r with st := .watch }
  else
    let before := s.goodCores
    let s := (s.saveHist { r with st := .muzzled }).muzzleEffect u
    ((s.errBit 3).report 0x14 u 4 1 5 none).gradeCheck before

/-- A muzzle; a hub left without a mash unit is muzzled with its last one (R147). -/
def State.muzzle (s : State) (u : UnitId) : State :=
  let s := s.muzzleOne u
  let h := u.idx.toNat / 8
  if u.kind = .hubMash ∧ (s.hubAt h).mash = 0 then s.muzzleOne (unitId .hub h) else s

/-! ### LOG at the root (R397-R401) -/

/-- Severity and permanence of a LOG: whether it counts as an event, transient or permanent, of its unit's record.
INFO reports of the history, the kiln and the cask store count as neither (DEDUCED); an undetermined event counts as
transient (DEDUCED). -/
def logCounts (m : LogMsg) : Bool := !([0x10, 0x14, 0x16, 0x17, 0x18].contains m.cls.toNat) && m.sev != 0

/-- The record of a unit after a LOG. -/
def State.histAfter (s : State) (m : LogMsg) : HistRec :=
  let r := s.histOf m.uid
  let now := s.ms48
  let r := { r with lcls := m.cls, last := now }
  let r := if m.sev = 0 then { r with cecnt := satAdd r.cecnt m.cnt.toNat } else r
  if m.perm = 1 ∧ m.cls ≠ 0x14 then { r with pcnt := satInc r.pcnt }
  else if logCounts m then
    let ev := recentIn r.events now (s.windowOf r.uid.kind) ++ List.replicate m.cnt.toNat (m.cls, now)
    { r with events := ev, tcnt := BitVec.ofNat 16 (Nat.min ev.length 65535),
             wbeg := ((ev.head?).map (·.2)).getD now, st := if r.st = .service then .watch else r.st }
  else r

/-- The record takes a LOG; a corrected count goes to the cask store at most once a second (R397). -/
def State.record (s : State) (m : LogMsg) : State :=
  let r := s.histAfter m
  let due := match r.ceAt with | none => true | some t => decide (t.toNat + 1000 ≤ s.poweredMs)
  let s := if m.sev = 0 ∧ m.perm ≠ 1 then
      (if due then s.saveHist { r with ceAt := some s.ms48 } else { s with err := { s.err with hist := putHist s.err.hist r } })
    else s.saveHist r
  if s.meets (s.histOf m.uid) then s.muzzle m.uid else s

/-- A record joins the CPER queue of 256; a full one drops its oldest record of a severity below CONTAINED (R403). -/
def State.queueCper (s : State) (m : LogMsg) : State :=
  let low (x : LogMsg) : Bool := x.sev == 0 || x.sev == 1 || x.sev == 4
  if s.err.cper.length < 256 then { s with err := { s.err with cper := s.err.cper ++ [m] } }
  else
    match s.err.cper.find? low with
    | some x => { s with err := { s.err with cper := s.err.cper.erase x ++ [m] } }.errBit 5
    | none => s.errBit 5

/-- LOG at the root. A FATAL record also goes to the always-on buffer of 16. -/
def State.takeLog (s : State) (m : LogMsg) : State :=
  let s := if m.sev = 2 ∨ m.sev = 3 then
      { s with err := { s.err with lcls := m.cls, lfunc := m.func } }.errBit 0
    else s
  let s := if m.sev = 3 then
      { s with err := { s.err with aon := if s.err.aon.length < 16 then s.err.aon ++ [m] else s.err.aon } }
    else s.queueCper m
  s.record m

/-- A reserved encoding of SEV, PERM or ACT (R401). -/
def logReserved (m : LogMsg) : Bool := decide (4 < m.sev.toNat) || m.perm == 3 || decide (9 < m.act.toNat)

/-- LOG. One with a reserved encoding has no effect but to be taken (assumption 12, DESIGN CHOICE). -/
def execLog (m : LogMsg) (s : State) : Out :=
  let g := Msg.log m
  .next (if s.stopped g then s.stopMsg g else if logReserved m then s.taken g else (s.taken g).takeLog m)

/-- WATCH_WINDOW_EXPIRY: a unit's window holds no transient event any more (R399). -/
def execWatchWindowExpiry (uid : UnitId) (s : State) : Out :=
  .next (
    let r := s.histOf uid
    let ev := recentIn r.events s.ms48 (s.windowOf uid.kind)
    if r.st = .watch ∧ ev = [] then s.saveHist { r with st := .service, events := [], tcnt := 0 } else s)

/-! ### CPER (R402, R403) -/

/-- The bytes of a GUID: its first three fields little-endian. -/
def guid (a b c : Nat) (d : List Nat) : List Byte := leBytes 4 a ++ leBytes 2 b ++ leBytes 2 c ++ d.map (BitVec.ofNat 8)

/-- The CPER severity of a SEV. -/
def cperSev (sev : BitVec 3) : Nat := if sev = 2 then 0 else if sev = 3 then 1 else if sev = 4 then 3 else 2

/-- The section of 64 bytes. -/
def State.cperBody (s : State) (m : LogMsg) : List Byte :=
  let f := m.func.toNat
  let x := s.fnAt f
  leBytes 2 1 ++ [m.cls, BitVec.ofNat 8 m.sev.toNat] ++ leBytes 4 (unitCode m.uid)
    ++ [if m.fv then BitVec.ofNat 8 f else 0xFF, BitVec.ofNat 8 m.act.toNat, BitVec.ofNat 8 m.perm.toNat,
        BitVec.ofNat 8 (histStCode (s.histOf m.uid).st)]
    ++ leBytes 4 m.cnt.toNat ++ leBytes 8 s.cask.ident.toNat ++ leBytes 6 s.tick.num.toNat ++ [BitVec.ofNat 8 s.self, 0]
    ++ leBytes 8 s.poweredMs ++ leBytes 8 (if m.fv then x.ckpt.toNat * 2 ^ 32 + x.cep.toNat else 0)
    ++ leBytes 8 m.d1.toNat ++ leBytes 8 m.d2.toNat

/-- The whole record: header of 128 bytes, one section descriptor of 72, the section. The layout outside R402's items is
UEFI's (PRESUMED). -/
def State.cperBytes (s : State) (m : LogMsg) : List Byte :=
  let sev := leBytes 4 (cperSev m.sev)
  [0x43, 0x50, 0x45, 0x52] ++ leBytes 2 0x0101 ++ leBytes 4 0xFFFFFFFF ++ leBytes 2 1 ++ sev ++ leBytes 4 1 ++ leBytes 4 264
    ++ leBytes 8 0 ++ (leBytes 8 s.cask.ident.toNat ++ leBytes 8 0) ++ leBytes 16 0
    ++ guid 0x5C1A0D73 0x8E24 0x4B6F [0xA3, 0xD9, 0x72, 0xE4, 0xB1, 0x0F, 0x6C, 0x58]
    ++ guid 0x0B8F62E1 0x3D47 0x4C9A [0xB5, 0xE0, 0x19, 0xA6, 0xD7, 0xF3, 0xC2, 0x84]
    ++ leBytes 8 s.cask.cperSeq.toNat ++ leBytes 4 0 ++ leBytes 8 0 ++ leBytes 12 0
    ++ leBytes 4 200 ++ leBytes 4 64 ++ leBytes 2 0x0100 ++ leBytes 1 0 ++ leBytes 1 0 ++ leBytes 4 1
    ++ guid 0xE47D2B90 0x6A15 0x4F3C [0x8D, 0x71, 0xC2, 0xB0, 0x9E, 0x5A, 0x4F, 0x16]
    ++ leBytes 16 0 ++ sev ++ leBytes 20 0 ++ s.cperBody m

/-- Sending one record over the management bus, once the Varvo has its address there (R403, R453). -/
def State.sendCper (s : State) (m : LogMsg) : State :=
  let s := (s.emit (.cper (s.cperBytes m))).emit .ibi
  { s with cask := { s.cask with cperSeq := s.cask.cperSeq + 1 } }.caskAdd .counters

/-- CPER_POST: the always-on buffer's record first, then the oldest queued. -/
def execCperPost (s : State) : Out :=
  .next (
    if s.bru.i3c.isNone then s
    else
      match s.err.aon, s.err.cper with
      | m :: rest, _ => { s with err := { s.err with aon := rest } }.sendCper m
      | [], m :: rest => { s with err := { s.err with cper := rest } }.sendCper m
      | [], [] => s)

/-! ### Power-cycle requests (R405, R462) -/

/-- The FATAL record of a power-cycle request. -/
def cycleLog : LogMsg := mkLog 0x18 (unitId .wafer 0) 3 0 4 none 1 0 0

/-- A module power cycle is requested: a FATAL record with ACT 4, and pwrcyc_req. -/
def State.requestCycle (s : State) : State :=
  ({ s with err := { s.err with
    pwrcyc := true, pwrcycAt := s.now, aon := if s.err.aon.length < 16 then s.err.aon ++ [cycleLog] else s.err.aon } }).emit
    (.pwrcycReq true)

/-- PWRCYC_REPEAT: aon_pg has stayed high for 10 s, and the FATAL record is sent again. -/
def execPwrcycRepeat (s : State) : Out :=
  .next (
    if s.err.pwrcyc && s.bru.aonPg && decide (s.err.pwrcycAt + cyc 10000000000 ≤ s.now) then
      { s with err := { s.err with
        pwrcycAt := s.now, aon := if s.err.aon.length < 16 then s.err.aon ++ [cycleLog] else s.err.aon } }
    else s)

/-! ### Scrubbing (R383-R385) -/

/-- The unit address a containment note carries. -/
def State.unitAddr (s : State) (u : UnitId) : Nat :=
  match u.kind with
  | .csn => u.idx.toNat
  | .hub => hubAddr u.idx.toNat
  | _ => rootAddr s.rootField

/-- The function that holds the block of a kennel index; a system entry's is the holder of its slot (R257, R327). -/
def State.kenOwner (s : State) (k : Nat) : Option Nat :=
  let has (x : Fn) : Bool :=
    if k < 1048576 then x.blk0.contains (k / 256)
    else if k < 1310720 then x.blk1.contains ((k - 1048576) / 256)
    else x.slotBlk.contains ((k - 1310720) / 32)
  (s.fn.find? (fun p => has p.2)).map Prod.fst

/-- The function that holds a barrier's block. -/
def State.barOwner (s : State) (b : Nat) : Option Nat := (s.fn.find? (fun p => p.2.blk3.contains (b / 16))).map Prod.fst

/-- A spare word is rebuilt: an unallocated entry as FREE, a route table or distance copy by firmware. -/
def State.rebuild (s : State) (what : Struct) : State :=
  match what with
  | .kennelEntry k => s.setKen k KEntry.init
  | .barrierRec b => s.setPrec b RootRec.init
  | .routeTable => { s with mesh := { s.mesh with reloading := true } }
  | .distCopy => { s with mesh := { s.mesh with reloading := true } }
  | _ => s

/-- An uncorrectable word is read back at the next reset of its owner: of a function, or of the Varvo (R398). -/
def State.awaitRetest (s : State) (u : UnitId) (f : Option Nat) : State :=
  { s with err := { s.err with retest := s.err.retest ++ [(u, f.map fnOfNat)] } }

/-- An uncorrectable word of class STATE_UE_SPARE, read back at once: a failure is a permanent event, and so is a rebuilt word
that is again uncorrectable when next read (R385, R398). -/
def State.ueSpare (s : State) (u : UnitId) (what : Struct) (word : BitVec 64) : State :=
  let again := s.err.rebuilt.contains (u, word)
  let perm := again || s.readBackFails
  let s := (s.drawn.rebuild what).report 0x07 u 1 (if perm then 1 else 0) 0 none
  { s with err := { s.err with rebuilt := if again then s.err.rebuilt else s.err.rebuilt ++ [(u, word)] } }

/-- An uncorrectable word of class STATE_UE_SHARED. -/
def State.ueShared (s : State) (u : UnitId) : State :=
  (s.send (.resetNote none { kind := .contain, newEp := 0, cls := 0x06, func := 0, shared := true, master := BitVec.ofNat 33 (s.unitAddr u) })).report
    0x06 u 3 2 3 none |>.awaitRetest u none

/-- An uncorrectable word of a function, or of no function. -/
def State.ueHeld (s : State) (u : UnitId) (what : Struct) (word : BitVec 64) (o : Option Nat) : State :=
  match o with
  | some f => (s.contain 0x05 f u (s.unitAddr u)).awaitRetest u (some f)
  | none => s.ueSpare u what word

/-- An uncorrectable partial buffer poisons the generation that holds it (R159). -/
def State.poisonBuf (s : State) (hub : Option Nat) (b : Nat) : State :=
  match hub with
  | some h => if (s.frecOf h b).st = .idle then s else s.updFr h b (fun r => { r with psn := true })
  | none => if (s.precAt b).resv then s.updPrec b (fun r => { r with pois := true }) else s

/-- An uncorrectable word, by its owner (R384). -/
def State.ueOwner (s : State) (u : UnitId) (what : Struct) (word : BitVec 64) : State :=
  match what with
  | .csnArray c =>
    match s.fnOf c with
    | some f => (s.contain 0x05 f u (s.unitAddr u)).awaitRetest u (some f)
    | none => (s.drawn.resetAlone c (s.csnAt c).pepoch).report 0x05 u 2 (b2n s.readBackFails) 2 none
  | .kennelEntry k => s.ueHeld u what word (s.kenOwner k)
  | .barrierRec b => s.ueHeld u what word (s.barOwner b)
  | .ofFn o => s.ueHeld u what word (o.map Fin.val)
  | .partialBuf hub b =>
    (s.poisonBuf hub b).ueHeld u what word (if (s.precAt b).resv then s.barFn b else none)
  | .shared => s.ueShared u
  | .routeTable => s.ueSpare u what word
  | .distCopy => s.ueSpare u what word

/-- A corrected word: at most one LOG per unit and millisecond; its third correction within 24 h is a permanent event
(R383, R398, R401). -/
def State.ceWord (s : State) (u : UnitId) (word : BitVec 64) : State :=
  let past := s.err.corr.filter (fun c => decide (s.poweredMs < c.2.2.toNat + 86400000))
  let n := (past.filter (fun c => c.1 == u && c.2.1 == word)).length
  let old := s.err.ce.find? (fun c => c.1 == u)
  let sum := (old.map (·.2.1)).getD 0 + 1
  let due := match old with | some c => decide (c.2.2 + cyc 1000000 ≤ s.now) | none => true
  let rest := s.err.ce.filter (fun c => c.1 != u)
  let at_ := match old with | some c => c.2.2 | none => s.now
  let s := { s with err := { s.err with
    corr := past ++ [(u, word, s.ms48)], ce := rest ++ [if due || decide (2 ≤ n) then (u, 0, s.now) else (u, sum, at_)] } }
  if 2 ≤ n then s.report 0x04 u 0 1 0 none sum else if due then s.report 0x04 u 0 0 0 none sum else s

/-- SCRUB_PASS: one protected word is read, with the number of bits in error that the decoder finds. -/
def execScrubPass (uid : UnitId) (what : Struct) (word : BitVec 64) (errBits : BitVec 4) (s : State) : Out :=
  .next (
    if errBits = 0 then { s with err := { s.err with rebuilt := s.err.rebuilt.erase (uid, word) } }
    else if errBits.toNat ≤ 2 then s.ceWord uid word
    else s.ueOwner uid what word)

/-! ### The error registers' commands (R404, R406) -/

/-- The manager's ABORT of a partition, REASON 0; of a span job's partition, by the lead on every member (R371). -/
def State.mgrAbort (s : State) (f : Nat) : State :=
  let s := { s with err := { s.err with abort := true, abortLeft := s.hubsUp } }
  if (s.fnAt f).job then
    match s.span.st with
    | .lead => (s.toAll (.abort (fnOfNat f) 0 s.span.wid)).abortFn f 0 .aborted
    | .member => s.toWafer s.span.lead.toNat (.abort (fnOfNat f) 0 s.span.wid)
    | _ => s.abortFn f 0 .aborted
  else s.abortFn f 0 .aborted

/-- A write of VSF_ERR_CTRL. -/
def State.writeErrCtrl (s : State) (v : Reg) : State :=
  if s.bru.step != 15 then s
  else
    let n := v.toNat
    let s := { s with err := { s.err with vec := BitVec.ofNat 11 (bits n 6 11) } }
    let s :=
      if s.err.reinit || s.err.abort then s
      else
        let f := bits n 0 6
        let s := { s with err := { s.err with func := fnOfNat f } }
        let s := if bit n 22 then { s.decideReset f 0 true with err := { s.err with reinit := true } } else s
        if bit n 21 then s.mgrAbort f else s
    if bit n 23 ∧ bits n 24 8 = 0x5A then { s.needVarvo false with err := { (s.needVarvo false).err with vrst := true } } else s

/-- VRST. -/
def execVrst (v : Reg) (s : State) : Out := .next (s.writeErrCtrl v)

/-- REINIT. -/
def execReinit (v : Reg) (s : State) : Out := .next (s.writeErrCtrl v)

/-- MANAGER_ABORT. -/
def execManagerAbort (v : Reg) (s : State) : Out := .next (s.writeErrCtrl v)

/-- A write of VSF_ERR_HCLR; the record is cleared, and the unit back in service, at the next Varvo reset. -/
def State.writeHclr (s : State) (v : Reg) : State :=
  if s.bru.step != 15 then s
  else
    let u := BitVec.ofNat 24 v.toNat
    let s := { s with err := { s.err with unit := u } }
    if bit v.toNat 31 then
      { s with err := { s.err with
        hclr := true, hist := s.err.hist.map (fun r => if unitCode r.uid == u.toNat then { r with clear := true } else r) } }
    else s

/-- HISTORY_CLEAR. -/
def execHistoryClear (v : Reg) (s : State) : Out := .next (s.writeHclr v)

/-! ### Pack processors (R394) -/

/-- PP_WATCHDOG_EXPIRY: the roles pass to the other processor; with none left, or both within 4 ms, the Varvo is reset. -/
def execPpWatchdogExpiry (p : Fin 2) (s : State) : Out :=
  .next (
    let i := p.val
    if (s.err.ppHalt[i]?).getD false then s
    else
      let alone := (s.err.ppHalt[1 - i]?).getD false
      let both := match (s.err.ppExp[1 - i]?).getD none with | some t => decide (s.now ≤ t + cyc 4000000) | none => false
      let s := { s with err := { s.err with ppHalt := s.err.ppHalt.set i true, ppExp := s.err.ppExp.set i (some s.now) } }
      let s := s.report 0x0E (unitId .packProc i) 1 0 0 none
      if alone || both then s.needVarvo true else s)

/-- PP_SELF_CHECK_PASS: a reloaded processor takes back its role; a muzzled one does not. -/
def execPpSelfCheckPass (p : Fin 2) (s : State) : Out :=
  .next (if (s.err.ppMuz[p.val]?).getD false then s else { s with err := { s.err with ppHalt := s.err.ppHalt.set p.val false } })

end Sys2Proof.Machine
end

