-- ==== Sys2Proof/Machine/Pack.lean ====
section
/-! DEFINITION. Packs: PACK_SET, PACK_CLEAR, and the lead's answers to a span-scope PACK_SET (R105-R108, R138, R364). -/

namespace Sys2Proof.Machine

open Sys2Proof

/-! ### Membership images (R105) -/

/-- The members of an image: cluster ID and local count. -/
def imgMembers (img : List Byte) : List (Nat × Byte) :=
  (img.zipIdx.take 8064).filterMap (fun p => if p.1 = 0 then none else some (clusterAt p.2, p.1))

/-- Hubs of a member list, rising. -/
def memberFields (ms : List (Nat × Byte)) : List Nat := (List.range 84).filter (fun h => ms.any (fun m => fieldOf m.1 == h))

/-! ### Partial buffers (R138, R327) -/

/-- Partial buffers in use at a hub, and those of one function: a pack's, until its barrier returns to IDLE. -/
def State.hubBufs (s : State) (h : Nat) : Nat := (s.prec.filter (fun p => p.2.resv && bit p.2.bufs.toNat h)).length
def State.fnHubBufs (s : State) (f h : Nat) : Nat :=
  (s.prec.filter (fun p => p.2.resv && bit p.2.bufs.toNat h && p.2.func.val == f)).length

/-- Whether every pool has room for one more pack of a function over some fields, with `n` buffers of the root. -/
def State.packRoom (s : State) (f : Nat) (hs : List Nat) (n : Nat) : Bool :=
  s.rootRoom f n && hs.all (fun h => decide (s.hubBufs h < 256) && decide (s.fnHubBufs f h < Nat.min (s.fnAt f).qph 256))

/-! ### Binding (R107) -/

/-- The member hubs' records of a pack. -/
def State.bindField (s : State) (b : Nat) (ms : List (Nat × Byte)) (g : Byte) (auto : Bool) (h : Nat) : State :=
  let ls := (ms.filter (fun m => fieldOf m.1 == h)).map (fun m => localOf m.1)
  let mem := ls.foldl (fun (m : BitVec 96) l => setBits m l 1 1) 0
  let s := s.updFr h b (fun _ =>
    { FieldRec.init with mem := mem, exp := ls.length, gen := g, st := if auto then .armed else .gather })
  if auto then s.armBarrier h b else s

/-- A pack is bound at generation g: every member CSN's leg, every hub's record, and the root's record. -/
def State.packBind (s : State) (b : Nat) (ms : List (Nat × Byte)) (g : Byte) (rec : RootRec → RootRec) : State :=
  let hs := memberFields ms
  let s := forAll ms (fun s m => s.onStatus m.1 (.legBind (BitVec.ofNat 16 b) m.2 g none)) s
  let mfs := hs.foldl (fun (m : BitVec 84) h => setBits m h 1 1) 0
  let s := s.updPrec b (fun r =>
    let r := rec { r.cleared with mfs := mfs, fexp := hs.length, nlost := 0, gen := g, held := false, bufs := mfs }
    { r with st := if r.auto then .armed else .gather })
  forAll hs (fun s h => s.bindField b ms g (s.precAt b).auto h) s

/-! ### PACK_SET (R106, R107, R364) -/

/-- The barrier a PACK or OBJ descriptor's handle names, where it is of class 0x3 and the function holds it. -/
def State.heldBar (s : State) (f : Nat) (handle : Nat) : Option Nat :=
  let b := handle % 2 ^ 20
  if handle / 2 ^ 20 = 3 ∧ b < 65536 ∧ (s.precAt b).st ≠ .free ∧ (s.precAt b).func.val = f ∧ b ≠ 65535 then some b else none

/-- What a PACK_SET writes of the root record. -/
def packRec (s : State) (f : Nat) (d : BitVec 512) (r : RootRec) : RootRec :=
  let pay := BitVec.ofNat 32 (dField d 288 32)
  { r with auto := bit d.toNat 359, scope := BitVec.ofNat 2 (dScope d), func := fnOfNat f, pepoch := (s.fnAt f).pepoch,
           tmo := BitVec.ofNat 8 (dField d 344 8), payload := pay, resv := pdLanes pay != 0, join := none }

/-- Buffers of the root that a PACK_SET takes: one, and one more for the span record that it opens at the lead (R138). -/
def State.rootNeed (s : State) (d : BitVec 512) (b : Nat) : Nat :=
  if dScope d = 2 ∧ s.span.st = .lead ∧ !(s.srecAt b).open_ then 2 else 1

/-- The status of a PACK_SET that is turned away; none where it binds. -/
def State.packCheck (s : State) (f : Nat) (d : BitVec 512) (b : Nat) (ms : List (Nat × Byte)) : Option Status :=
  let lanes := pdLanes (BitVec.ofNat 32 (dField d 288 32))
  if ms.any (fun m => !(s.fnAt f).members.contains m.1 || !s.inService m.1) then some .fenced
  else if dScope d = 2 ∧ s.span.st ≠ .lead ∧ s.span.st ≠ .member then some .spanLost
  else if ms.any (fun m => (s.csnAt m.1).highFree.isNone) then some .noResource
  else if lanes ≠ 0 ∧ !s.packRoom f (memberFields ms) (s.rootNeed d b) then some .noResource
  else none

/-- PACK_SET once its handle and fields stand. -/
def State.packSet (s : State) (f r : Nat) (i : BitVec 16) (d : BitVec 512) (b : Nat) (img : List Byte) : State :=
  let ms := imgMembers img
  match s.packCheck f d b ms with
  | some st => s.finish r i st
  | none =>
    if ms = [] then s.finish r i .ok
    else if dScope d = 2 then
      if s.span.st = .lead then
        let j := s.spanJoin f b s.self (s.fnAt f).pepoch (BitVec.ofNat 32 (dField d 288 32))
        if j.2 then ((j.1.packBind b ms (j.1.srecAt b).gen (packRec s f d)).finish r i .ok) else s.finish r i .noResource
      else
        ((s.begin_ r i).updPrec b (fun x => { x with join := some ⟨r, i, img⟩ })).toWafer s.span.lead.toNat
          (.packJoin (fnOfNat f) (BitVec.ofNat 16 b) (s.fnAt f).pepoch (BitVec.ofNat 32 (dField d 288 32)))
    else (s.packBind b ms (s.precAt b).gen (packRec s f d)).finish r i .ok

/-- PACK_SET. With a reserved encoding (R7), on a barrier that is not IDLE (R107) or with a payload descriptor outside its limits
(R137) it binds nothing and ends with a status the specification leaves open (R9; assumption 12, DESIGN CHOICE). -/
def execPackSet (r : RingIx) (sqi : BitVec 16) (img : List Byte) (s : State) : Out :=
  match (s.ringAt r.val).toRun sqi 2 1, s.ringFn r.val with
  | some c, some f =>
    let d := c.d.bits
    let pay := BitVec.ofNat 32 (dField d 288 32)
    if dScope d = 0 ∨ dScope d = 3 ∨ 4 < dHandle d / 2 ^ 20 ∨ pdReserved pay then .next (s.drawn.finish r.val sqi s.anyStatus)
    else
      match s.heldBar f (dHandle d) with
      | none => .next (s.finish r.val sqi .fenced)
      | some b =>
        if (s.precAt b).st ≠ .idle ∨ (s.precAt b).join.isSome ∨ pdOutside pay then .next (s.drawn.finish r.val sqi s.anyStatus)
        else .next (s.packSet f r.val sqi d b img)
  | _, _ => .next s

/-- The PACK_SET that waits for the lead's answer, its ring's command still there. -/
def State.waitingJoin (s : State) (b : Nat) : Option (JoinWait × Cmd) :=
  match (s.precAt b).join with
  | none => none
  | some j =>
    match (s.ringAt j.ring).cmdAt j.sqi with
    | some c => if c.done then none else some (j, c)
    | none => none

/-- SB_PACK ACK: the member binds at the record's GEN, and PACK_SET completes. -/
def State.packAck (s : State) (b : Nat) (g : Byte) : State :=
  match s.waitingJoin b with
  | none => s
  | some (j, c) =>
    let f := (s.precAt b).func.val
    let ms := imgMembers j.img
    let s := s.updPrec b (fun r => { r with join := none })
    match s.packCheck f c.d.bits b ms with
    | some st => (s.toWafer s.span.lead.toNat (.packLeave (fnOfNat f) (BitVec.ofNat 16 b))).finish j.ring j.sqi st
    | none => (s.packBind b ms g (packRec s f c.d.bits)).finish j.ring j.sqi .ok

def execSbPackAck (sgen : BitVec 16) (bar : BarIx) (gen : Byte) (s : State) : Out :=
  .next (if s.sgenOk sgen then s.packAck bar.toNat gen else s)

/-- SB_PACK NACK: PACK_SET completes NO_RESOURCE, and nothing is bound. -/
def State.packNack (s : State) (b : Nat) : State :=
  match s.waitingJoin b with
  | none => s
  | some (j, _) => (s.updPrec b (fun r => { r with join := none })).finish j.ring j.sqi .noResource

def execSbPackNack (sgen : BitVec 16) (bar : BarIx) (s : State) : Out :=
  .next (if s.sgenOk sgen then s.packNack bar.toNat else s)

/-! ### PACK_CLEAR (R108) -/

/-- A release of the barrier is on its way to a hub, stands in a hub's wave queue, or its waves are not all issued. -/
def State.wavesLeft (s : State) (b : Nat) : Bool :=
  s.net.any (fun m => match m with | .release _ _ r => r.bar.toNat == b | _ => false) ||
  s.hub.any (fun h => h.2.waveQ.any (fun r => r.bar.toNat == b) ||
    (match h.2.run with | some r => !r.waves.isEmpty && r.rel.bar.toNat == b | none => false))

/-- PACK_CLEAR waits for a PACK_SET that is still binding, for the RELEASE of a record in DECIDING, and for the waves of a
release already queued. -/
def State.packClear (s : State) (r : Nat) (i : BitVec 16) (b : Nat) : State :=
  let p := s.precAt b
  if (s.waitingJoin b).isSome ∨ p.st = .deciding ∨ s.wavesLeft b then s
  else if p.st = .idle then s.finish r i .ok
  else (s.idleBarrier b true).finish r i .ok

/-- PACK_CLEAR. A HANDLE of a reserved class ends with a status left open (R7, R9; assumption 12, DESIGN CHOICE). -/
def execPackClear (r : RingIx) (sqi : BitVec 16) (s : State) : Out :=
  match (s.ringAt r.val).toRun sqi 2 2, s.ringFn r.val with
  | some c, some f =>
    if 4 < dHandle c.d.bits / 2 ^ 20 then .next (s.drawn.finish r.val sqi s.anyStatus)
    else
      match s.heldBar f (dHandle c.d.bits) with
      | none => .next (s.finish r.val sqi .fenced)
      | some b => .next (s.packClear r.val sqi b)
  | _, _ => .next s

end Sys2Proof.Machine
end

