-- ==== Sys2Proof/Machine/Loader.lean ====
section
/-! DEFINITION. Broadcast loading and repair (R65, R427-R431), MGMT at a hub (R202, R429), partition resets as the loader
sees them (R432), commands of VSF_BRU_CMD as they complete (R433). -/

namespace Sys2Proof.Machine

open Sys2Proof

/-! ### Commands of VSF_BRU_CMD -/

/-- A command of VSF_BRU_CMD may act: GO is set with its OP, and bring-up is done (R408, R433). -/
def State.bruRuns (s : State) (op : Nat) : Bool := s.bru.step == 15 && s.bru.go && s.bru.op.toNat == op

/-- It completes. -/
def State.bruDone (s : State) (st : Status) (cerr : Nat := 0) : State :=
  { s with bru := { s.bru with go := false, status := st, cerr := BitVec.ofNat 3 cerr } }

/-! ### The firmware image (R422) -/

def fwVersion (img : List Byte) : BitVec 32 := BitVec.ofNat 32 (fieldAt img 4 4)
def fwLen (img : List Byte) : Nat := fieldAt img 8 4
def fwSvn (img : List Byte) : BitVec 16 := BitVec.ofNat 16 (fieldAt img 12 2)
def fwNsec (img : List Byte) : Nat := fieldAt img 14 2
/-- Type, offset, length and address of section entry i. -/
def fwSec (img : List Byte) (i : Nat) : Nat × Nat × Nat × Nat :=
  (fieldAt img (128 + 16 * i) 4, fieldAt img (132 + 16 * i) 4, fieldAt img (136 + 16 * i) 4, fieldAt img (140 + 16 * i) 4)

/-- Whether region 1 is in force: the pointer record with the higher SEQ (R425). -/
def Cask.ptr (c : Cask) : FwPtr := if c.ptr0.seq.toNat < c.ptr1.seq.toNat then c.ptr1 else c.ptr0
def Cask.image (c : Cask) : List Byte := if c.ptr.region then c.fw1 else c.fw0

/-- Padding bytes to a multiple of 128. -/
def pad128 (b : List Byte) : List Byte := b ++ List.replicate ((128 - b.length % 128) % 128) 0

/-- The core boot section of the image in force: its cluster-memory address and its bytes, padded to whole packets. An image
without one loads no byte at 0x002E_0000. -/
def Cask.bootSection (c : Cask) : Nat × List Byte :=
  match ((List.range (fwNsec c.image)).map (fwSec c.image)).find? (fun x => x.1 == 2) with
  | some (_, off, len, addr) => (addr, pad128 (sliceAt c.image off len))
  | none => (0x002E0000, [])

/-! ### Manifests and packets (R65, R427) -/

/-- The manifest of a boot load: RELCORE 1, the cores starting at the section's address (DEDUCED: R431 releases the cores to
ENTRY, and the section table gives one address). -/
def Cask.bootManifest (c : Cask) : Manifest :=
  let b := c.bootSection
  { base := BitVec.ofNat 32 b.1, lenb := BitVec.ofNat 32 b.2.length, npkt := BitVec.ofNat 32 (b.2.length / 128), crc := crc32 b.2,
    relcore := true, entry := BitVec.ofNat 32 b.1 }

/-! ### Packets at a CSN (R65, R427, R429) -/

/-- The multicast packet in flight of which a cluster's copy is one. -/
def State.mcMsg (s : State) (cl : Nat) (p : LoadPkt) : Msg :=
  (s.net.find? (fun m => match m with | .loadMc d q _ => q == p && d.contains cl | _ => false)).getD (.loadMc [cl] p s.now)

/-- It has reached that cluster, or is discarded on the way to it; its other copies go on. -/
def State.mcTaken (s : State) (cl : Nat) (m : Msg) : State :=
  match m with
  | .loadMc d q t =>
    let rest := d.filter (fun c => c != cl)
    { s with net := if rest = [] then s.net.erase m else s.net.replace m (.loadMc rest q t) }
  | _ => s

/-- A CSN takes a packet: the first manifest of a load, or 128 bytes, counted while a load of its function is open. -/
def State.takePkt (s : State) (cl : Nat) (p : LoadPkt) : State :=
  let c := s.csnAt cl
  if c.rst.isSome then s.updCsn cl (fun c => { c with eject := c.eject + 1 })
  else if p.seq = 0xFFFFFFFF then
    if c.loadOpen && c.manifest.isNone then s.updCsn cl (fun c => { c with manifest := some (manifestOf p.data) }) else s
  else
    let s := s.emit (.cmWrite cl p.addr.toNat p.data)
    if c.loadOpen && p.func.val == (s.fnOf cl).getD 0 then
      s.updCsn cl (fun c => { c with nrcv := Nat.min (c.nrcv + 1) 16777215 })
    else s

/-- LOAD_MC. A branch that is down misses the message (R65). -/
def execLoadMc (cl : Cluster) (p : LoadPkt) (s : State) : Out :=
  .next (
    let m := s.mcMsg cl.id p
    if s.outOfTurn m then s
    else
      let s := s.mcTaken cl.id m
      if s.reachable cl.id then s.takePkt cl.id p else s)

/-- LOAD_UC, under the epoch of the target's partition (R429). -/
def State.takeUc (s : State) (cl : Nat) (tep : Epoch) (p : LoadPkt) : State :=
  let s := s.taken (.loadUc cl tep p)
  if (s.csnAt cl).rst.isNone && tep != (s.csnAt cl).pepoch then s else s.takePkt cl p

def execLoadUc (cl : Cluster) (tep : Epoch) (p : LoadPkt) (s : State) : Out :=
  let m := Msg.loadUc cl.id tep p
  .next (if s.stopped m then s.stopMsg m else s.takeUc cl.id tep p)

/-- MGMT at a hub: the allowance word, a repair order, or a force of the operating point (R187, R202, R207, R429). -/
def State.takeMgmt (s : State) (h : Nat) (tep : Epoch) (m : MgmtMsg) : State :=
  let s := s.taken (.mgmt h tep m)
  if (s.hubAt h).muz || tep != (s.hubAt h).epoch then s
  else
    match m with
    | .allowance w => s.updHub h (fun x => { x with allow := w })
    | .repairTarget x => s.updCsn (h * 128 + x.val) (fun c => { c with nrcv := 0 })
    | .repairDonor d _ _ =>
      let c := s.csnAt (h * 128 + d.val)
      match c.manifest with
      | some m => s.emit (.cmRead (h * 128 + d.val) m.base.toNat m.lenb.toNat)
      | none => s
    | .opForce b => (s.updHub h (fun x => { x with force := b || x.alert })).setPoint h none

def execMgmt (hub : Field) (tep : Epoch) (m : MgmtMsg) (s : State) : Out :=
  let g := Msg.mgmt hub.val tep m
  .next (if s.stopped g then s.stopMsg g else s.takeMgmt hub.val tep m)

/-! ### The loader (R427-R431) -/

/-- Whether a cluster may take part in a load. -/
def State.loadable (s : State) (c : Nat) : Bool := s.inService c && (s.csnAt c).rst.isNone

/-- LOAD_OPEN, the manifest, the packets, the manifest again. A branch that is down misses the messages (R65). -/
def State.sendLoad (s : State) (l : Load) : State :=
  let f := fnOfNat (l.func.getD 0)
  let mc (p : LoadPkt) : Msg := .loadMc (l.set.filter s.reachable) p s.now
  (s.sendAll (l.set.map (fun c => .status c 0))).sendAll
    ([mc (manifestPkt f l.man)] ++ (dataPkts f l.man s.cask.bootSection.2).map mc ++ [mc (manifestPkt f l.man)])

/-- The check order: the loader opens a generation of barrier 65,535, and each hub gives its CSNs the order. -/
def State.orderCheck (s : State) (l : Load) : State :=
  let s := (s.openGen 65535).sendAll (l.set.map (fun c => .status c 1))
  { s with bru := { s.bru with load := some { l with checking := true, donors := [] } } }

/-- The loader's pack and record (R427). -/
def loaderRec (r : RootRec) : RootRec :=
  { r with auto := false, scope := 1, func := 0, pepoch := 0, tmo := 0, payload := 0, role := 1, resv := false, join := none }

/-- A load begins over its set. -/
def State.beginLoad (s : State) (l : Load) : State :=
  let l := { l with set := l.set.filter s.loadable, round := 0, bads := [], donors := [], begun := true }
  let s := (s.idleBarrier 65535 true).updPrec 65535 (fun r => { r with st := .idle })
  let s := s.packBind 65535 (l.set.map (fun c => (c, 1))) (s.precAt 65535).gen loaderRec
  (s.sendLoad l).orderCheck l

/-- The cores of a cluster are released to the entry of the boot load (R431). -/
def State.releaseCores (s : State) (c : Nat) (entry : BitVec 22) : State :=
  let s := (s.updCsn c (fun x => { x with entry := entry, loadOpen := false })).emit (.coreGo c entry)
  forAll (s.coresOf c) (fun s n =>
    let s := s.updCore n (fun x => { x with go := true })
    if (s.coreAt n).rst.isSome then s else s.emit (.coreRst n false)) s

/-- Bring-up is over: STEP reads 0xF, and a RUN of 1 from the recipe starts the generator (R445). -/
def State.bringUpOver (s : State) : State :=
  { s with
    bru := { s.bru with step := 15 }
    tick := if bit s.tick.ctrl.toNat 0 then { s.tick with st := .running, pred := gridUp s.now + cyc 4000 } else s.tick }

/-- The boot load of bring-up is done: step 8 begins, its memory test first, or bring-up is over (R407, R409, R414). -/
def State.bootLoaded (s : State) : State :=
  if s.bru.step = 7 ∧ s.bru.full then
    { s with bru := { s.bru with step := 8, mtest := true, mtestSeen := [], mtestAt := s.now } }.emit .mtestGo
  else if s.bru.step = 7 ∨ s.bru.step = 8 then s.bringUpOver
  else s

/-- A load ends: its pack is cleared, its CSNs close it, and the cores start; a BOOT_LOAD completes. -/
def State.endLoad (s : State) (l : Load) : State :=
  let s := s.idleBarrier 65535 true
  let s := forAll l.set (fun s c =>
    if l.man.relcore then s.releaseCores c (BitVec.ofNat 22 l.man.entry.toNat)
    else s.updCsn c (fun x => { x with loadOpen := false })) s
  let s := { s with bru := { s.bru with load := none } }
  if l.func.isSome then s.bruDone .ok else s.bootLoaded

/-- Distance of two clusters in the loader's sense (R429). -/
def loadDist (a b : Nat) : Nat :=
  distance (gridRow (fieldOf a) * 8 + rowOf a) (gridRow (fieldOf b) * 8 + rowOf b)
    + distance (gridCol (fieldOf a) * 12 + colOf a) (gridCol (fieldOf b) * 12 + colOf b)

/-- The donor of X: the nearest clear cluster that serves fewer than 4 targets, ties to the lower ID. -/
def donorOf (clear : List Nat) (used : List (Nat × Nat)) (x : Nat) : Option Nat :=
  (clear.filter (fun d => decide ((used.filter (fun p => p.2 == d)).length < 4))).foldl (fun (b : Option Nat) d =>
    match b with
    | none => some d
    | some e => if loadDist x d < loadDist x e ∨ (loadDist x d = loadDist x e ∧ d < e) then some d else some e) none

/-- The donors of a round, target by target. -/
def donorsOf (clear bad : List Nat) : List (Nat × Nat) :=
  bad.foldl (fun (u : List (Nat × Nat)) x => match donorOf clear u x with | some d => u ++ [(x, d)] | none => u) []

/-- A repair round: orders to the hubs of targets and donors, or the whole load again where no cluster is clear. -/
def State.repairRound (s : State) (l : Load) (bad : List Nat) : State :=
  let clear := l.set.filter (fun c => !bad.contains c)
  let ds := donorsOf clear bad
  let l := { l with round := l.round + 1, bad := bad, donors := ds, checking := false }
  let s := { s with bru := { s.bru with load := some l } }
  if clear = [] then s.sendLoad l
  else
    let lc (c : Nat) : Loc := ⟨localOf c % 96, Nat.mod_lt _ (by decide)⟩
    s.sendAll (ds.flatMap (fun p =>
      [.mgmt (fieldOf p.1) (s.hubAt (fieldOf p.1)).epoch (.repairTarget (lc p.1)),
       .mgmt (fieldOf p.2) (s.hubAt (fieldOf p.2)).epoch (.repairDonor (lc p.2) p.1 (s.csnAt p.1).pepoch)]))

/-- A cluster still BAD after its third round: a permanent event, and muzzled at once (R430). -/
def State.muzzleLoad (s : State) (c : Nat) : State :=
  let u := unitId .csn c
  let r := s.histOf u
  (s.saveHist { r with pcnt := satInc r.pcnt, last := s.ms48 }).muzzle u

/-- Rounds a BAD target has had: those with a donor that is still in service and not reset, and whole loads (R430). -/
def State.countRounds (s : State) (l : Load) (bad : List Nat) : Tbl Nat :=
  bad.foldl (fun (t : Tbl Nat) x =>
    let n : Nat := match l.donors.find? (fun p => p.1 == x) with
      | some p => if s.loadable p.2 then 1 else 0
      | none => if l.round ≠ 0 ∧ l.donors = [] then 1 else 0
    tset 0 t x (tget 0 t x + n)) l.bads

/-- The loader reads the masks of a check (R428-R430). A check released FENCED is repeated and counts as no round (R432). -/
def State.loadDecide (s : State) (fenced : Bool) (masks : Tbl (BitVec 96)) : State :=
  match s.bru.load with
  | none => s
  | some l =>
    let l := { l with set := l.set.filter s.loadable, checking := false }
    if fenced then s.orderCheck l
    else
      let bad := (maskClusters masks).filter (fun c => l.set.contains c)
      let bads := s.countRounds l bad
      let dead := bad.filter (fun c => decide (3 ≤ tget 0 bads c))
      let s := forAll dead (fun s c => s.muzzleLoad c) s
      let l := { l with set := l.set.filter (fun c => !dead.contains c), bads := bads }
      let left := bad.filter (fun c => !dead.contains c)
      if left = [] then s.endLoad l else s.repairRound l left

/-- REPAIR_ROUND_DONE: the check again. -/
def execRepairRoundDone (s : State) : Out :=
  match s.bru.load with
  | some l => if l.begun && !l.checking then .next (s.orderCheck l) else .next s
  | none => .next s

/-! ### BOOT_LOAD and partition resets (R431, R432) -/

/-- BOOT_LOAD: the partition is reset first, its cores held until the load's final check; a function without a partition
completes OK. -/
def State.bootLoad (s : State) : State :=
  if !s.bruRuns 7 || s.bru.load.isSome then s
  else
    let f := s.bru.func.val
    if (s.fnAt f).members = [] then s.bruDone .ok
    else
      let cs := (s.fnAt f).members
      let s := forAll cs (fun s c => forAll (s.coresOf c) (fun s n => s.updCore n (fun x => { x with go := false })) s) s
      let l : Load := { func := some f, set := cs, man := s.cask.bootManifest, round := 0, bad := [], bads := [], checking := false,
                        donors := [], begun := false }
      { s.decideReset f 0 false with bru := { s.bru with load := some l } }

def execBootLoad (s : State) : Out := .next s.bootLoad

/-- A reset of the partition being loaded ends the load, which starts again after the reset. -/
def State.loadReset (s : State) (f : Nat) : State :=
  match s.bru.load with
  | some l =>
    if l.func = some f ∧ l.begun then
      let s := s.idleBarrier 65535 true
      { s with bru := { s.bru with load := some { l with begun := false, checking := false, set := (s.fnAt f).members } } }
    else s
  | none => s

/-- PARTITION_RESET. -/
def execPartitionReset (f : Func) (cls : Byte) (s : State) : Out := .next ((s.beginReset f.val cls).loadReset f.val)

/-- PARTITION_RESET_COMPLETE; a load that waited for it begins. -/
def execPartitionResetComplete (f : Func) (s : State) : Out :=
  let t := s.completeReset f.val
  match t.bru.load with
  | some l => if l.func = some f.val ∧ !l.begun ∧ (t.fnAt f.val).rst.isNone then .next (t.beginLoad l) else .next t
  | none => .next t

end Sys2Proof.Machine
end

