-- ==== Sys2Proof/Machine/Decide.lean ====
section
/-! DEFINITION. The decision of a barrier's generation at the deciding root: BARRIER_RESULT_READY, and SB_RELEASE at a
member of a span (R111, R122, R150, R159, R216, R364, R366). -/

namespace Sys2Proof.Machine

open Sys2Proof

/-- STEP of a barrier's stochastic bits: the tick at which the running step first began, or the current tick for a barrier
outside the running pitch list (R150). -/
def State.srStep (s : State) (b : Nat) : BitVec 32 :=
  let w := s.walkerOf b
  match s.runOf w with
  | some r =>
    if (imgBars r.img).contains b then (if r.img.cmt && w != katWalker then (s.fnAt w).step else r.key)
    else BitVec.ofNat 32 s.tick.num.toNat
  | none => BitVec.ofNat 32 s.tick.num.toNat

/-- SEQ: the earlier releases of a barrier within that step (R150). -/
def State.srSeq (s : State) (b : Nat) : Byte :=
  let r := s.precAt b
  if r.seqStep = s.srStep b then r.seq else 0

/-- One more release within the step. -/
def State.seqMore (s : State) (b : Nat) : State :=
  let n := s.srSeq b + 1
  let k := s.srStep b
  s.updPrec b (fun r => { r with seq := n, seqStep := k })

/-- The result of a folded generation under a payload descriptor (R139, R148-R159); none for a plain barrier. -/
def State.winRes (s : State) (b : Nat) (pay : BitVec 32) (p : Partial) (ncont : Nat) (pois : Bool) : WinRes :=
  if pdLanes pay = 0 then { bytes := [], flags := [], ncont := ncont }
  else
    let x := resultOf pay (srKey (BitVec.ofNat 16 b) (s.barEpoch b) (s.srSeq b) (s.srStep b)) p ncont pois
    { bytes := x.1, flags := x.2, ncont := ncont }

/-- The status of a release: the worst arrival's, with SUSPECT where a commit barrier has a suspect cluster and its function
enforces (R122, R216). -/
def State.decideStatus (s : State) (b : Nat) (w : Status) (suspect : Bool) : Status :=
  let r := s.precAt b
  if r.role = 1 ∧ suspect ∧ (noFnBar b ∨ !(s.fnAt r.func.val).report) then worseOf w .suspect else w

/-- The slot engine reads the result (R161, R260). -/
def State.latchFor (s : State) (b : Nat) (st : Status) (w : WinRes) : State :=
  if noFnBar b then s
  else
    match s.runOf (s.walkerOf b) with
    | some r => s.latchLanes r (BitVec.ofNat 16 b) st w
    | none => s

/-- The skew of the running step's heel point is taken before its arrival times are cleared (R182). -/
def State.skewFor (s : State) (b : Nat) : State :=
  if noFnBar b then s
  else
    match s.runOf (s.walkerOf b) with
    | some r => if r.img.heel.toNat = b ∧ r.heelOpen then s.takeSkew (s.walkerOf b) b r.tick else s
    | none => s

/-- A barrier is released on this wafer: the engines read it, RELEASE goes to the hubs, the walk goes on. -/
def State.releaseHere (s : State) (b : Nat) (rel : Release) (c : CommitIn) : State :=
  ((((s.latchFor b rel.stat rel.res).skewFor b).seqMore b).releaseRoot b rel).walkRelease (s.walkerOf b) b rel c

/-- The loader's barrier: OK whatever the masks hold, FENCED where a member was lost; then the loader reads the masks. -/
def State.loaderReady (s : State) : State :=
  let p := s.precAt 65535
  let fenced := p.wstat == .fenced
  let s := s.releaseRoot 65535
    { bar := 65535, gen := p.gen, nlost := p.nlost, stat := if fenced then .fenced else .ok, pois := false,
      res := { bytes := [], flags := [], ncont := p.ncl } }
  s.loadDecide fenced p.masks

/-- A wafer-scope barrier. -/
def State.waferReady (s : State) (b : Nat) : State :=
  let p := s.precAt b
  let hit := p.masks != []
  s.releaseHere b
    { bar := BitVec.ofNat 16 b, gen := p.gen, nlost := p.nlost, stat := s.decideStatus b p.wstat hit, pois := p.pois,
      res := s.winRes b p.payload p.part p.ncl p.pois } ⟨p.masks, hit, none⟩

/-- A span record's next generation. -/
def SpanRec.next (r : SpanRec) : SpanRec :=
  { SpanRec.init with open_ := true, wexp := r.wexp, gen := r.gen + 1, members := r.members, pay := r.pay }

/-- A span-scope barrier at the lead: SB_RELEASE to every joined member, and the lead's own release where it holds a pack. -/
def State.spanReady (s : State) (b : Nat) : State :=
  let r := s.srecAt b
  let p := s.precAt b
  let hit := r.nsus != 0
  let st := s.decideStatus b r.wstat hit
  let rel : Release :=
    { bar := BitVec.ofNat 16 b, gen := r.gen, nlost := r.nlost, stat := st, pois := r.pois,
      res := s.winRes b r.pay r.part r.ncl r.pois }
  let epoch := if p.role = 1 ∧ st = .ok then (s.fnAt p.func.val).cep + 1 else 0
  let others := (r.members.map Prod.fst).filter (fun w => w != s.self)
  let s := (s.skewFor b).sendAll (others.map (fun w => .sb (some w) (.release { rel := rel, epoch := epoch })))
  let s := s.updSrec b SpanRec.next
  if p.st = .idle ∨ p.st = .free then s.seqMore b
  else (((s.latchFor b st rel.res).seqMore b).releaseRoot b rel).walkRelease (s.walkerOf b) b rel ⟨p.masks, hit, none⟩

/-- A barrier's generation whose result is ready is released. -/
def State.resultReady (s : State) (b : Nat) : State :=
  if (s.precAt b).scope = 2 then (if s.span.st = .lead ∧ (s.srecAt b).deciding then s.spanReady b else s)
  else if (s.precAt b).st = .deciding then (if b = 65535 then s.loaderReady else s.waferReady b)
  else s

/-- BARRIER_RESULT_READY. -/
def execBarrierResultReady (bar : BarIx) (s : State) : Out := .next (s.resultReady bar.toNat)

/-- SB_RELEASE at a member: its wafer is released, whatever it has gathered, where GEN is the record's (R366). The frame tells
a suspect verdict of another wafer by STAT alone (R241). -/
def State.spanRelease (s : State) (r : SbRelease) : State :=
  let b := r.rel.bar.toNat
  let p := s.precAt b
  if p.st = .idle ∨ p.st = .free ∨ p.gen ≠ r.rel.gen then s
  else s.releaseHere b r.rel ⟨p.masks, p.masks != [] || r.rel.stat == .suspect, if p.role = 1 then some r.epoch else none⟩

def execSbRelease (sgen : BitVec 16) (r : SbRelease) (s : State) : Out :=
  .next (if s.sgenOk sgen && s.span.st != .lead then s.spanRelease r else s)

end Sys2Proof.Machine
end

