-- ==== Sys2Proof/Machine/BringUp.lean ====
section
/-! DEFINITION. Bring-up from power good and from a Varvo reset (R407-R414), the memory test, the defect map image, the loss
of always-on power (R452). -/

namespace Sys2Proof.Machine

open Sys2Proof

/-! ### What a reset leaves (R404, R457) -/

/-- A FATAL record goes to the always-on buffer of 16 (R403). No class of R382 names a failed bring-up step: it is reported as
RESET_ESCALATE (PRESUMED). -/
def State.fatal (s : State) : State :=
  { s with err := { s.err with
    aon := if s.err.aon.length < 16 then s.err.aon ++ [mkLog 0x18 (unitId .wafer 0) 3 0 0 none 1 0 0] else s.err.aon } }

/-- The FATAL records on their way to the root, which reach the always-on buffer before the reset (R403). -/
def State.fatalInFlight (s : State) : List LogMsg :=
  s.net.filterMap (fun (m : Msg) => match m with | .log l => if l.sev = 3 then some l else none | _ => none)

/-- The writes that still wait after a reset: history records, counters and erases (R333, R432, R457). -/
def keptJob : CaskJob → Bool
  | .erase _ => true | .history _ => true | .counters => true | _ => false

/-- The error handling after a reset. -/
def Err.restarted (e : Err) (fatals : List LogMsg) : Err :=
  { Err.init with
    hist := e.hist.filter (fun r => !r.clear), corr := e.corr, retest := e.retest, aon := (e.aon ++ fatals).take 16, pwrcyc := e.pwrcyc,
    pwrcycAt := e.pwrcycAt, bits := if e.byError then 4 else 0 }

/-- Every unit at its reset values under its next epoch; `adv` is 1 at a Varvo reset, 0 after a module power cycle (R15). What
survives: the cask store, the always-on error buffer, power-cycle request and pending erases, the memory-test part of the
defect map, the management bus, the state of the external inputs, and the error history, which the cask store holds. -/
def State.restart (s : State) (adv : Epoch) (full : Bool) : State :=
  { State.reset with
    now := s.now, fresh := s.fresh, pending := s.pending, out := s.out
    cask := { s.cask with hist := s.cask.hist.filter (fun r => !s.err.hist.any (fun e => e.uid == r.uid && e.clear)) }
    csn := tabulate Csn.init 10752 (fun c =>
      if clusterIdOk c then { Csn.init with epoch := (s.csnAt c).epoch + adv, spineFail := (s.csnAt c).spineFail } else Csn.init)
    core := tabulate Core.init 688128 (fun n =>
      if clusterIdOk (n / 64) ∧ n % 64 < 48 then { Core.init with epoch := (s.coreAt n).epoch + adv } else Core.init)
    hub := tabulate Hub.init 84 (fun h =>
      { Hub.init with
        epoch := (s.hubAt h).epoch + adv, alert := (s.hubAt h).alert, force := (s.hubAt h).alert,
        op := if (s.hubAt h).alert then 7 else 0, allow := if (s.hubAt h).alert then alertWord else 0,
        temps := (s.hubAt h).temps, vin := (s.hubAt h).vin })
    fn := tabulate Fn.init 64 (fun f =>
      { Fn.init with
        epoch := (s.fnAt f).epoch + adv, pepoch := (s.fnAt f).pepoch + adv, erase := (s.fnAt f).erase })
    kiln := { Kiln.init with base := s.now }
    mesh := { Mesh.init with
      siteEpoch := s.mesh.siteEpoch.map (fun (e : Epoch) => e + adv)
      why := s.mesh.why.filterMap (fun (p : Nat × BitVec 6) => if bit p.2.toNat 5 then some (p.1, 32) else none) }
    span := { Span.init with
      ports := s.span.ports.filterMap (fun (p : Nat × Port) =>
        if p.2.nelUp then some (p.1, { Port.init with nelUp := true, upAt := p.2.upAt }) else none) }
    err := s.err.restarted s.fatalInFlight
    bru := { Bru.init with
      holdup := s.bru.holdup, aonPg := s.bru.aonPg, full := full, i3c := s.bru.i3c, caskQ := s.bru.caskQ.filter keptJob } }

/-! ### Steps 1 to 6 -/

/-- Step 1: the image in force and the identity word. -/
def State.stepRoot (s : State) : State :=
  let p := s.cask.ptr
  let img := s.cask.image
  { s with
    bru := { s.bru with
      step := 2, fwr := p.region, fwver := fwVersion img, svnMin := p.minsvn, svnCur := fwSvn img }
    span := { s.span with ident := s.cask.ident } }

/-- Step 2: the recipe in force, the reset values, CKPT (R237, R333, R419). -/
def State.stepRecipe (s : State) : State :=
  let r := s.cask.recipe
  let x := (recipeEntries r.2).foldl applyEntry ({ s.bru with rcp := BitVec.ofNat 2 r.1, step := 3 }, rhoBase)
  let s := { s with bru := x.1, kiln := { s.kiln with rho := x.2 } }
  let s := s.resetAllRegs
  forAll (List.range 64) (fun s f =>
    let e := if (s.fnAt f).erase then 0 else s.ckptOf f
    s.updFn f (fun x => { x with ckpt := e, cep := e })) s

/-- A unit that fails a start-up test: a permanent event, and a muzzle (R398, R400, R407). -/
def State.failUnit (s : State) (u : UnitId) : State :=
  let r := { s.histOf u with pcnt := satInc (s.histOf u).pcnt, last := s.ms48 }
  if r.st = .muzzled then s.saveHist r
  else if s.spared u then s.saveHist { r with st := .watch }
  else ((s.saveHist { r with st := .muzzled }).errBit 3).report 0x14 u 4 1 5 none

/-- The words that still wait are read back at this reset, and a failure is a permanent event of their unit (R398). -/
def State.retestAll (s : State) : State :=
  forAll s.err.retest (fun s e => if s.readBackFails then s.drawn.failUnit e.1 else s.drawn)
    { s with err := { s.err with retest := [] } }

/-- Whether the history has a unit muzzled. -/
def State.isMuz (s : State) (k : UnitKind) (i : Nat) : Bool := (s.histOf (unitId k i)).st == .muzzled

/-- The muzzled units of a kind. -/
def State.muzzledOf (s : State) (k : UnitKind) : List Nat :=
  (s.err.hist.filter (fun r => r.uid.kind == k && r.st == .muzzled)).map (fun r => r.uid.idx.toNat)

/-- Step 3: the first site that passes its self-check and is not muzzled (R36, R410). -/
def State.siteFor (s : State) (b : BringUp) : Option Bool :=
  ([false, true].filter (fun i => !s.isMuz .rootSite (b2n i) && !b.siteFails.contains (b2n i))).head?

/-- The failures of steps 4 and 5 enter the history. -/
def State.failUnits (s : State) (b : BringUp) : State :=
  let s := forAll b.hubFails (fun s h => s.failUnit (unitId .hub h.val)) s
  let s := forAll b.routerFails (fun s c => s.failUnit (unitId .router c.id)) s
  let s := forAll b.linkFails (fun s l => s.failUnit (linkUnit l)) s
  forAll b.spineFails (fun s h => s.failUnit (unitId .spine h.val)) s

/-- Muzzled units of the history are out of service: hubs, mash units, spine inputs, routers, CSNs, sideband ports, pack
processors. -/
def State.applyMuzzles (s : State) : State :=
  let s := s.tabHub 84 (fun h =>
    { s.hubAt h with
      muz := s.isMuz .hub h, spineMuz := s.isMuz .spine h
      mash := (s.muzzledOf .hubMash).foldl (fun (m : Byte) i => if i / 8 = h then setBits m (i % 8) 1 0 else m) 0xFF })
  let s := s.mapHub (fun x => { x with muz := x.muz || x.mash == 0 })
  let s := { s with
    mesh := { s.mesh with dead := s.muzzledOf .router }
    err := { s.err with
      rootMash := (s.muzzledOf .rootMash).foldl (fun (m : BitVec 32) i => setBits m i 1 0) s.err.rootMash
      ppMuz := [s.isMuz .packProc 0, s.isMuz .packProc 1], ppHalt := [s.isMuz .packProc 0, s.isMuz .packProc 1] } }
  let s := forAll (s.muzzledOf .csn) (fun s c => s.updCsn c (fun x => { x with muz := true })) s
  forAll (s.muzzledOf .sideband) (fun s p => s.updPort p (fun x => { x with muz := true })) s

/-- Links out of service, the express tree, and what the first distance table is computed from (R60, R69). An express link is
named by its child in the tree over every wired link (DEDUCED). -/
def State.trainMesh (s : State) : State :=
  let ls := s.muzzledOf .meshLink ++ s.mesh.dead.flatMap linksOfRouter
  let s := forAll ls (fun s l => s.updLink l (fun x => { x with down := true })) s
  let s := { s with mesh := { s.mesh with tree := s.buildTree } }
  let s := forAll (s.muzzledOf .expressLink) (fun s f =>
    s.updLink (pairKey f (s.treeAt f).1) (fun x => { x with down := true })) s
  s.publish

/-- WHY of a cluster at step 6 (R61, R411, R412): floor plan, router test, no route, hub, cluster, memory test. -/
def State.whyOf (s : State) (c : Nat) : BitVec 6 :=
  BitVec.ofNat 6 (b2n (tget (0 : BitVec 48) s.cask.floor c == BitVec.allOnes 48)
    + 2 * b2n (s.mesh.dead.contains c) + 4 * b2n (s.noRoute c) + 8 * b2n (s.hubAt (fieldOf c)).muz
    + 16 * b2n (s.csnAt c).muz + 32 * b2n (bit (tget (0 : BitVec 6) s.mesh.why c).toNat 5))

/-- Step 6: the defect map, the distance table with GEN 1, and the CSNs' epoch tables of step 5 (R50, R69, R411). -/
def State.mapDefects (s : State) (b : BringUp) : State :=
  let eps := tabulate (0 : Epoch) 86 (fun u => if u < 84 then (s.hubAt u).epoch else (s.mesh.siteEpoch[u - 84]?).getD 0)
  let s := s.tabCsn 10752 (fun c => if clusterIdOk c then { s.csnAt c with eptab := eps } else Csn.init)
  { s with
    mesh := { s.mesh with
      gen := 1, why := tabulate (0 : BitVec 6) 10752 (fun c => if clusterIdOk c then s.whyOf c else 0)
      ports := putPorts [] b.dist } }

/-- GRADE_LOW where the good cores are below the floor of the wafer's grade (R400, R407). -/
def State.gradeReport (s : State) : State :=
  if s.goodCores < gradeFloor s.cask.grade then (s.report 0x16 (unitId .wafer 0) 4 0 0 none).errBit 4 else s

/-- Step 7: the boot load over every in-service cluster begins; clusters that fail the known-answer kernels twice are
muzzled (R413, R427). No generation of barrier 65,535 can be open here. -/
def State.bootAll (s : State) : State :=
  let l : Load := { func := none, set := ((List.range 8064).map clusterAt).filter s.inService, man := s.cask.bootManifest,
                    round := 0, bad := [], bads := [], checking := false, donors := [], begun := false }
  s.beginLoad l

/-- The known-answer pitch lists of the image in force, at PLIDs 2,032 and up, with the results that they expect: what its
TYPE 3 section holds, which has no stated layout; lists that keep to barriers 65,520-65,534 (R269, R413, R422; assumption 88). -/
def Cask.katLists (c : Cask) : List KatList :=
  match ((List.range (fwNsec c.image)).map (fwSec c.image)).find? (fun x => x.1 == 3) with
  | none => []
  | some (_, off, len, _) =>
    let sec := sliceAt c.image off len
    (List.range 16).filterMap (fun i =>
      match Config.katImage sec i with
      | some m =>
        let ps := Config.katPacks sec i
        let known (b : Nat) : Bool := decide (65520 ≤ b) && decide (b < 65535) && ps.any (fun p => p.1.toNat == b)
        if (imgBars m).all known then some ⟨m, Config.katExpected sec i, ps⟩ else none
      | none => none)

/-- Step 7 admits the known-answer pitch lists (R413). -/
def State.admitKat (s : State) : State := { s with kat := { s.kat with lists := s.cask.katLists } }

/-- Steps 4 to 7. -/
def State.stepUnits (s : State) (b : BringUp) : State :=
  let s := ((s.failUnits b).applyMuzzles).trainMesh
  let s := (s.mapDefects b).gradeReport
  let s := forAll b.katFails (fun s c =>
    (s.failUnit (unitId .csn c.id)).updCsn c.id (fun x => { x with muz := true })) s
  State.bootAll { s.admitKat with bru := { s.bru with step := 7 } }

/-- Bring-up stops in a step: a FATAL record, and at a Varvo reset a module power cycle is requested (R405, R407). -/
def State.stopBringUp (s : State) (cycle : Bool) : State := if cycle then s.requestCycle else s.fatal

/-- Step 1, with an image in force that is not valid: the mask-ROM loader (R424). -/
def State.recovery (s : State) : State :=
  ({ s with bru := { s.bru with step := 14, fwver := 0 } }).stopBringUp (!s.bru.full)

/-- Step 3 and what follows it. -/
def State.stepSites (s : State) (b : BringUp) : State :=
  let s := forAll b.siteFails (fun s i => s.failUnit (unitId .rootSite i)) s
  match s.siteFor b with
  | none => s.stopBringUp true
  | some r => State.stepUnits { s with mesh := { s.mesh with root := r }, bru := { s.bru with step := 4 } } b

/-- Bring-up from step 1 (R407, R409, R410, R424). -/
def State.bringUp (s : State) (adv : Epoch) (full : Bool) (b : BringUp) : State :=
  let s := s.restart adv full
  if !b.firmwareValid then s.recovery
  else
    let s := s.stepRoot
    if !b.factoryValid then s.stopBringUp (!full) else s.stepRecipe.retestAll.stepSites b

/-! ### The commands -/

/-- The times of Varvo resets within the last hour, this one included, and the request that a third brings (R405). -/
def State.countReset (s : State) : State :=
  let ts := s.cask.resets.filter (fun t => decide (s.poweredMs < t.toNat + 3600000)) ++ [s.ms48]
  let s := ({ s with cask := { s.cask with resets := ts } }).caskAdd .counters
  if 3 ≤ ts.length then s.requestCycle else s

/-- A Varvo reset that is due; a restart that the mask-ROM loader ordered (R404, R424). -/
def State.varvoReset (s : State) (b : BringUp) : State :=
  if !s.err.resetDue then s
  else if s.bru.step = 14 then s.bringUp 0 s.bru.full b
  else s.countReset.bringUp 1 false b

/-- VARVO_RESET. -/
def execVarvoReset (b : BringUp) (s : State) : Out := .next (s.varvoReset b)

/-- Power good: bring-up at step 1, the history read from the cask store (R407). Where always-on power is already good, the
command is holdup_ok asserting again. -/
def State.powerGood (s : State) (b : BringUp) : State :=
  if s.bru.aonPg then { s with bru := { s.bru with holdup := true } }
  else
    State.bringUp { s with bru := { s.bru with aonPg := true, holdup := true }, err := { s.err with hist := s.cask.hist } } 0 true b

/-- POWER_GOOD. -/
def execPowerGood (b : BringUp) (s : State) : Out := .next (s.powerGood b)

/-- AON_PG_DEASSERT: every state outside the cask store is lost; pwrcyc_req is released. The powered-time counter is kept. -/
def State.aonLost (s : State) : State :=
  { State.reset with
    fresh := s.fresh, pending := s.pending, out := s.out ++ [.pwrcycReq false]
    cask := { s.cask with powered := BitVec.ofNat 48 s.poweredMs } }

def execAonPgDeassert (s : State) : Out := .next s.aonLost

/-! ### The memory test (R414) -/

/-- A cluster whose memory failed: added to the defect map, with a new generation of the distance table. -/
def State.mtestFail (s : State) (c : Nat) : State :=
  if bit (tget (0 : BitVec 6) s.mesh.why c).toNat 5 then s
  else
    let before := s.goodCores
    State.gradeCheck { s with mesh := { s.mesh with
      why := tupd (0 : BitVec 6) s.mesh.why c (fun w => w ||| 32), gen := s.mesh.gen + 1 } } before

/-- MTEST_RES: a report before mtest_done (R462). -/
def State.mtestResult (s : State) (c : Nat) (pass : Bool) : State :=
  if !s.bru.mtest then s
  else
    let s := { s with bru := { s.bru with mtestSeen := if s.bru.mtestSeen.contains c then s.bru.mtestSeen else s.bru.mtestSeen ++ [c] } }
    if pass then s else s.mtestFail c

def execMtestRes (cl : Cluster) (pass : Bool) (s : State) : Out := .next (s.mtestResult cl.id pass)

/-- The test is over: a cluster without a result has failed (R414, R462), and the boot section is loaded again. -/
def State.mtestEnd (s : State) : State :=
  let none_ := ((List.range 8064).map clusterAt).filter (fun c => s.inService c && !s.bru.mtestSeen.contains c)
  let s := forAll none_ (fun s c => s.mtestFail c) s
  State.bootAll { s with bru := { s.bru with mtest := false } }

/-- MTEST_DONE. -/
def execMtestDone (s : State) : Out := .next (if s.bru.mtest then s.mtestEnd else s)

/-- MTEST_TIMEOUT: 657 s. -/
def execMtestTimeout (s : State) : Out :=
  .next (if s.bru.mtest && decide (s.bru.mtestAt + cyc 657000000000 ≤ s.now) then s.mtestEnd else s)

/-! ### MAP_READ (R412) -/

/-- Good cores of a cluster that the floor plan leaves (R411). -/
def State.goodMask (s : State) (c : Nat) : BitVec 48 := if s.absent c then 0 else ~~~(tget (0 : BitVec 48) s.cask.floor c)

/-- A cluster record: absent for a bit of WHY, its router forwarding unless the router test failed (R61). -/
def State.mapRecord (s : State) (c : Nat) : BitVec 64 :=
  let w := (tget (0 : BitVec 6) s.mesh.why c).toNat
  let st := if w = 0 then 0 else if bit w 1 then 1 else 2
  let m := (s.goodMask c).toNat
  BitVec.ofNat 64 (st * 2 ^ 60 + w * 2 ^ 54 + popCount m 48 * 2 ^ 48 + m)

/-- The defect map image of 64,576 bytes. -/
def State.mapImage (s : State) : List Byte :=
  let n := s.goodCores
  let hdr := leBytes 4 0 ++ leBytes 4 1 ++ leBytes 4 s.mesh.gen.toNat
    ++ leBytes 3 (n + b2n (decide (n < gradeFloor s.cask.grade)) * 2 ^ 21 + s.cask.grade.toNat * 2 ^ 22) ++ leBytes 45 0
  let body := (List.range 8064).flatMap (fun i => leBytes 8 (s.mapRecord (clusterAt i)).toNat)
  hdr ++ leBytes 4 (crc32 (hdr ++ body)).toNat ++ body

/-- The host address of a BRU command. -/
def Bru.addr (b : Bru) : BitVec 64 := BitVec.ofNat 64 (b.cmdHi.toNat * 2 ^ 32 + b.cmdLo.toNat / 64 * 64)

/-- MAP_READ. -/
def State.mapRead (s : State) : State :=
  if s.bruRuns 6 then (s.emit (.hostImage 0 s.bru.addr s.mapImage)).bruDone .ok else s

def execMapRead (s : State) : Out := .next s.mapRead

end Sys2Proof.Machine
end

