-- ==== Sys2Proof/Machine/Store.lean ====
section
/-! DEFINITION. Writes to the cask store (R415-R417), recipe commands (R418-R421), the firmware image and its update by
command and by PLDM (R422-R426), the management bus address (R453). -/

namespace Sys2Proof.Machine

open Sys2Proof

/-! ### Hold-up energy (R416) -/

/-- A LINEAR11 reading of PMBus in volts (PRESUMED: the specification names READ_VIN only). -/
def linear11 (w : BitVec 16) : Q :=
  let m : Int := if bit w.toNat 10 then (bits w.toNat 0 11 : Nat) - 2048 else (bits w.toNat 0 11 : Nat)
  let e := bits w.toNat 11 5
  if e < 16 then mkQ (m * 2 ^ e) 1 else mkQ m (2 ^ (32 - e))

/-- The lowest input voltage last reported; 0 where none is. -/
def State.vinMin (s : State) : Q :=
  let vs := ((List.range 84).map (fun h => (s.hubAt h).vin)).filter (fun v => v != 0)
  match vs.map linear11 with
  | [] => Q.zero
  | v :: rest => rest.foldl Q.min v

/-- The check before each unit: holdup_ok, and EAV ≥ 1.5 × ECMT with CHU 0.120 F, VMIN 40.0 V, ECMT 2.0 mJ, that is
VIN² ≥ 1,600.05 V². -/
def State.holdupGood (s : State) : Bool :=
  let v := s.vinMin
  s.bru.holdup && Q.lt Q.zero v && (mkQ 32001 20).le (v.mul v)

/-! ### What each write does (R417) -/

/-- A cask record is written: the member's CASK_BAR for that epoch completes, and CKPT is its epoch (R235); in a span each member
completes its own by its own write, since no frame tells of another's (assumption 65, DEDUCED). -/
def State.wroteRecord (s : State) (f : Nat) (r : CaskRec) : State :=
  let s := s.putCask f r
  match (s.fnAt f).cask with
  | some c =>
    if c.epoch = r.cep then
      (s.updFn f (fun x => { x with
        ckpt := c.epoch, cask := none, commits := x.commits.filter (fun p => decide (c.epoch.toNat < p.1.toNat)) })).finish c.ring c.sqi .ok
    else s
  | none => s

/-- Both record slots of a function are erased; a PART_CREATE that waits completes (R333). -/
def State.wroteErase (s : State) (f : Nat) : State :=
  let s := { s with cask := { s.cask with
    recs := tset none (tset none s.cask.recs (f * 2) none) (f * 2 + 1) none } }
  let s := s.updFn f (fun x => { x with erase := false })
  if s.mgr.erasing && s.mgr.func.val == f then { s with mgr := { s.mgr with go := false, status := .ok, erasing := false } } else s

/-- A unit of a recipe slot; the slot holds the image with the last. -/
def State.wroteRecipe (s : State) (slot : Bool) (r : RecipeSlot) (left : Nat) : State :=
  let v := if left ≤ 1 then some r else none
  let s := { s with cask := if slot then { s.cask with rcp1 := v } else { s.cask with rcp0 := v } }
  if left ≤ 1 then s.bruDone .ok
  else { s with bru := { s.bru with caskQ := .recipe slot r (left - 1) :: s.bru.caskQ } }

/-- The first n units of the staged image, over what the region held. -/
def overlay (img old : List Byte) (n : Nat) : List Byte := img.take (4096 * n) ++ old.drop (4096 * n)

/-- Units of 4 KiB that some bytes take. -/
def unitsOf (n : Nat) : Nat := (n + 4095) / 4096

/-- PLDM command codes of the messages that the firmware device sends, and completion codes (PRESUMED: those of PLDM for
Firmware Update). A message sent is 256 × its command + its result. -/
def pldmRequestData : Nat := 0x15
def pldmTransferComplete : Nat := 0x16
def pldmVerifyComplete : Nat := 0x17
def pldmApplyComplete : Nat := 0x18
def pldmBusy : Nat := 0x86
def pldmNotInUpdate : Nat := 0x80
def pldmWrongState : Nat := 0x84
def pldmOutOfRange : Nat := 0x82
def pldmIncomplete : Nat := 0x85

def State.pldmSend (s : State) (cmd res : Nat) : State := (s.emit (.pldm (256 * cmd + res))).emit .ibi
def State.pldmAnswer (s : State) (code : Nat) : State := (s.emit (.pldm code)).emit .ibi

/-- The end of a firmware commit: FW_COMMIT's status, or ApplyComplete in a PLDM session. -/
def State.commitEnd (s : State) (st : Status) (cerr : Nat) : State :=
  let s := if st = .ok then { s with bru := { s.bru with stg := false, stage := [] } } else s
  match s.bru.sess with
  | .transfer => { s.pldmSend pldmApplyComplete (if st = .ok then 0 else 1) with
      bru := { s.bru with sess := if st = .ok then .applied else .offered, stg := false, stage := [] } }
  | _ => if s.bru.op = 5 then s.bruDone st cerr else s

/-- A unit of a firmware commit: image units to the region not in force, the read-back, then the pointer record with the
lower SEQ (R425). `left` counts the pointer's unit. -/
def State.wroteFirmware (s : State) (left : Nat) (ok : Bool) : State :=
  let img := s.bru.stage
  let p := s.cask.ptr
  let n := unitsOf img.length
  if 1 < left then
    let old := if p.region then s.cask.fw0 else s.cask.fw1
    let now := overlay img old (n + 2 - left)
    let s := { s with cask := if p.region then { s.cask with fw0 := now } else { s.cask with fw1 := now } }
    let s := { s with bru := { s.bru with fwUnits := s.bru.fwUnits + 1 } }
    if left = 2 ∧ !ok then s.commitEnd .fenced 4
    else { s with bru := { s.bru with caskQ := s.bru.caskQ ++ [.firmware (left - 1) ok] } }
  else
    let q : FwPtr := { region := !p.region, minsvn := fwSvn img, seq := p.seq + 1 }
    let s := { s with cask := if s.cask.ptr0.seq.toNat < s.cask.ptr1.seq.toNat then { s.cask with ptr0 := q } else { s.cask with ptr1 := q } }
    s.commitEnd .ok 0

/-- One unit is written. -/
def State.wroteUnit (s : State) (j : CaskJob) : State :=
  match j with
  | .record f r => s.wroteRecord f.val r
  | .erase f => s.wroteErase f.val
  | .history r => { s with cask := { s.cask with hist := putHist s.cask.hist r } }
  | .counters => s
  | .recipe slot r left => s.wroteRecipe slot r left
  | .recipeErase => { s with cask := { s.cask with rcp0 := none, rcp1 := none } }.bruDone .ok
  | .firmware left ok => s.wroteFirmware left ok

/-- CASK_UNIT_WRITE: the unit at the head is written, or deferred for 1 ms. -/
def State.caskUnit (s : State) : State :=
  match s.bru.caskQ with
  | [] => s
  | j :: rest =>
    if s.holdupGood then
      State.wroteUnit ({ s with bru := { s.bru with caskQ := rest, deferred := 0 } }.emit (.caskUnit j)) j
    else { s with bru := { s.bru with deferred := s.bru.deferred + 1 } }

def execCaskUnitWrite (s : State) : Out := .next s.caskUnit

/-- What a deferral of 100 ms ends: CASK_BAR, FW_COMMIT or the PART_CREATE of an erase; the erase itself is retried. -/
def State.deferEnds (s : State) (j : CaskJob) (rest : List CaskJob) : State :=
  match j with
  | .record f _ =>
    let s := { s with bru := { s.bru with caskQ := rest } }
    match (s.fnAt f.val).cask with
    | some c => (s.updFn f.val (fun x => { x with cask := none })).finish c.ring c.sqi .timeout
    | none => s
  | .erase f =>
    if s.mgr.erasing && s.mgr.func.val == f.val then
      { s with mgr := { s.mgr with go := false, status := .timeout, erasing := false } }
    else s
  | .firmware _ _ => State.commitEnd { s with bru := { s.bru with caskQ := rest } } .timeout 0
  | _ => s

/-- CASK_DEFER: a write has been deferred for 100 ms. -/
def State.caskDefer (s : State) : State :=
  match s.bru.caskQ with
  | [] => s
  | j :: rest =>
    if s.bru.deferred < 100 then s
    else
      State.deferEnds ({ s with bru := { s.bru with deferred := 0 } }.report 0x17 (unitId .wafer 0) 4 0 0 none) j rest

def execCaskDefer (s : State) : Out := .next s.caskDefer

/-- HOLDUP_LOSS: the unit in progress has completed, for a command takes no time; none is begun. -/
def execHoldupLoss (s : State) : Out := .next { s with bru := { s.bru with holdup := false } }

/-! ### Recipe commands (R420) -/

/-- SEQ of a slot; an empty slot counts as 0 (DEDUCED). -/
def slotSeq (r : Option RecipeSlot) : Nat := match r with | some x => x.seq.toNat | none => 0

/-- RECIPE_WRITE. -/
def State.recipeWrite (s : State) (img : List Byte) : State :=
  if !s.bruRuns 1 || s.bru.caskQ.any (fun j => match j with | .recipe _ _ _ => true | _ => false) then s
  else if recipeErr img ≠ 0 then s.bruDone .fenced (recipeErr img)
  else
    let a := slotSeq s.cask.rcp0
    let b := slotSeq s.cask.rcp1
    let seq := Nat.max a b + 1
    s.caskAdd (.recipe (decide (b < a)) { seq := BitVec.ofNat 32 seq, img := recipeStored img seq } (unitsOf img.length))

def execRecipeWrite (img : List Byte) (s : State) : Out := .next (s.recipeWrite img)

/-- The base recipe's image: one entry with SEL 0xFF for every field and item, in key order, with SEQ and TOOL 0 (DESIGN
CHOICE: the specification gives the base values and the format, and not the entries of the factory block's image). -/
def baseEntries : List (Nat × Nat) :=
  keyFields.map (fun k => (k.key, k.base)) ++ (List.range 8).map (fun i => (0x1000 + i, (rhoCodes[i]?).getD 0))
    ++ (List.range 9).map (fun i => (0x1010 + i, ((thresholdsBase[i]?).getD (0, 0)).1 * 65536 + ((thresholdsBase[i]?).getD (0, 0)).2))
    ++ [(0x1019, 10000), (0x1020, 100)]

def baseRecipe : List Byte :=
  recipeStored (leBytes 56 0 ++ leBytes 2 baseEntries.length ++ leBytes 2 1 ++ leBytes 4 0x52C19E07
    ++ baseEntries.flatMap (fun (e : Nat × Nat) => leBytes 4 e.2 ++ [0, 0xFF] ++ leBytes 2 e.1)) 0

/-- The recipe that RECIPE_READ writes: the slot in force, or the base recipe. -/
def State.recipeInForce (s : State) : List Byte :=
  match (if s.bru.rcp = 1 then s.cask.rcp0 else if s.bru.rcp = 2 then s.cask.rcp1 else none) with
  | some r => r.img
  | none => baseRecipe

/-- RECIPE_READ. -/
def State.recipeRead (s : State) : State :=
  if s.bruRuns 2 then (s.emit (.hostImage 0 s.bru.addr s.recipeInForce)).bruDone .ok else s

def execRecipeRead (s : State) : Out := .next s.recipeRead

/-- RECIPE_CLEAR. -/
def State.recipeClear (s : State) : State :=
  if !s.bruRuns 3 || s.bru.caskQ.contains .recipeErase then s else s.caskAdd .recipeErase

def execRecipeClear (s : State) : Out := .next s.recipeClear

/-! ### Firmware (R422-R425) -/

/-- A section entry is valid: a known TYPE, within LEN, and within 64 KiB at its address for the loaded types. -/
def secOk (img : List Byte) (i : Nat) : Bool :=
  let x := fwSec img i
  let within := decide (384 ≤ x.2.1) && decide (x.2.1 + x.2.2.1 + 96 ≤ fwLen img)
  match x.1 with
  | 1 => within
  | 2 => within && decide (x.2.2.1 ≤ 65536) && x.2.2.2 == 0x002E0000
  | 3 => within && decide (x.2.2.1 ≤ 65536) && x.2.2.2 == 0x002F0000
  | 4 => within
  | _ => false

/-- CERR of a firmware image, 0 where it is valid (R423, R433). -/
def fwErr (img : List Byte) (minsvn : BitVec 16) : Nat :=
  if fieldAt img 0 4 ≠ 0x7F3A0C51 then 2
  else if fwLen img ≠ img.length ∨ 8388608 < img.length ∨ fwNsec img = 0 ∨ 16 < fwNsec img
      ∨ !(List.range (fwNsec img)).all (secOk img) then 1
  else if !Config.signatureValid img then 4
  else if (fwSvn img).toNat < minsvn.toNat then 5
  else 0

/-- FW_STAGE. One staging is held at a time. -/
def State.fwStage (s : State) (img : List Byte) : State :=
  if !s.bruRuns 4 then s
  else if s.bru.stg || s.bru.sess != .idle then s.bruDone .noResource
  else
    let e := fwErr img s.cask.ptr.minsvn
    if e ≠ 0 then s.bruDone .fenced e
    else State.bruDone { s with bru := { s.bru with stage := img, stg := true } } .ok

def execFwStage (img : List Byte) (s : State) : Out := .next (s.fwStage img)

/-- A commit waits in the store's queue. -/
def State.committing (s : State) : Bool := s.bru.caskQ.any (fun j => match j with | .firmware _ _ => true | _ => false)

/-- FW_COMMIT; `ok`: the image read back verifies. -/
def State.fwCommit (s : State) (ok : Bool) : State :=
  if !s.bruRuns 5 || s.committing then s
  else if !s.bru.stg then s.bruDone .fenced 6
  else State.caskAdd { s with bru := { s.bru with fwUnits := 0 } } (.firmware (unitsOf s.bru.stage.length + 1) ok)

def execFwCommit (readBackOk : Bool) (s : State) : Out := .next (s.fwCommit readBackOk)

/-! ### PLDM for Firmware Update (R426) -/

/-- REQUEST_UPDATE. -/
def State.requestUpdate (s : State) : State :=
  if s.bru.sess != .idle || s.bru.stg then s.pldmAnswer pldmBusy
  else { s with bru := { s.bru with sess := .requested, stage := [], sessLen := 0 } }.pldmAnswer 0

def execRequestUpdate (s : State) : Out := .next s.requestUpdate

/-- PASS_COMPONENT_TABLE. -/
def State.passTable (s : State) : State :=
  if s.bru.sess = .requested then { s with bru := { s.bru with sess := .offered } }.pldmAnswer 0 else s.pldmAnswer pldmWrongState

def execPassComponentTable (s : State) : Out := .next s.passTable

/-- UPDATE_COMPONENT: the transfer begins with the first RequestFirmwareData. -/
def State.updateComponent (s : State) (len : BitVec 32) : State :=
  if s.bru.sess = .offered then
    ({ s with bru := { s.bru with sess := .transfer, stage := [], sessLen := len } }.pldmAnswer 0).pldmSend pldmRequestData 0
  else s.pldmAnswer pldmWrongState

def execUpdateComponent (len : BitVec 32) (s : State) : Out := .next (s.updateComponent len)

/-- The whole component has arrived: TransferComplete, VerifyComplete with the result of R423, and where it is valid the
commit (R425). -/
def State.transferDone (s : State) : State :=
  let e := fwErr s.bru.stage s.cask.ptr.minsvn
  let s := (s.pldmSend pldmTransferComplete 0).pldmSend pldmVerifyComplete e
  if e = 0 then
    State.caskAdd { s with bru := { s.bru with stg := true, fwUnits := 0 } } (.firmware (unitsOf s.bru.stage.length + 1) true)
  else { s with bru := { s.bru with sess := .offered, stage := [] } }

/-- FIRMWARE_DATA: the chunk that RequestFirmwareData asked for; a transfer has at most 1,024 bytes. -/
def State.firmwareData (s : State) (c : FwChunk) : State :=
  if s.bru.sess != .transfer || s.bru.stg then s.pldmAnswer pldmWrongState
  else if c.offset.toNat ≠ s.bru.stage.length ∨ 1024 < c.data.length then s.pldmAnswer pldmOutOfRange
  else
    let img := (s.bru.stage ++ c.data).take s.bru.sessLen.toNat
    let s := { s with bru := { s.bru with stage := img } }
    if s.bru.sessLen.toNat ≤ img.length then s.transferDone else s.pldmSend pldmRequestData 0

def execFirmwareData (c : FwChunk) (s : State) : Out := .next (s.firmwareData c)

/-- ACTIVATE_FIRMWARE: a Varvo reset, or the restart of bring-up from the mask-ROM loader. -/
def State.activate (s : State) : State :=
  match s.bru.sess with
  | .applied => (State.needVarvo { s with bru := { s.bru with sess := .idle } } false).pldmAnswer 0
  | .idle => s.pldmAnswer pldmNotInUpdate
  | _ => s.pldmAnswer pldmIncomplete

def execActivateFirmware (s : State) : Out := .next s.activate

/-- CANCEL_UPDATE: the session and its staging are abandoned. -/
def State.cancelUpdate (s : State) : State :=
  if s.bru.sess = .idle then s.pldmAnswer pldmNotInUpdate
  else
    { s with bru := { s.bru with
      sess := .idle, stage := [], stg := false, sessLen := 0
      caskQ := s.bru.caskQ.filter (fun j => match j with | .firmware _ _ => false | _ => true) } }.pldmAnswer 0

def execCancelUpdate (s : State) : Out := .next s.cancelUpdate

/-- ENTDAA: the dynamic address on the management bus. -/
def execEntdaa (addr : BitVec 7) (s : State) : Out := .next { s with bru := { s.bru with i3c := some addr } }

end Sys2Proof.Machine
end

