-- ==== Sys2Proof/Machine/Telemetry.lean ====
section
/-! DEFINITION. The kiln's inputs: TELEM and its attribution (R185-R188), settling and the history (R190-R194), the di/dt
allowance and droop (R202, R203), alerts and heat (R204-R208). -/

namespace Sys2Proof.Machine

open Sys2Proof

/-! ### Intervals and limits -/

/-- Cycles of one telemetry interval, 50 µs. -/
def intvLen : Nat := cyc 50000

/-- The running interval's number since the Varvo reset (R185). -/
def State.intvNow (s : State) : Nat := (s.now - s.kiln.base) / intvLen

/-- WCAP in W; 0 is used as 32,000 (R189). -/
def Kiln.wcap (k : Kiln) : Nat := let w := bits k.limitF.toNat 16 16; if w = 0 then 32000 else w
/-- IDLE in mW. -/
def Kiln.idleMw (k : Kiln) : Nat := bits k.idleF.toNat 0 12
def Kiln.thot (k : Kiln) : Nat := bits k.thermF.toNat 16 8
/-- TWARN, used as THOT − 1 where it is not below THOT. -/
def Kiln.twarn (k : Kiln) : Int :=
  let w := bits k.thermF.toNat 8 8
  if w < k.thot then (w : Int) else (k.thot : Int) - 1
def Kiln.hys (k : Kiln) : Nat := bits k.thermF.toNat 0 8

/-- FLIMf of a field in W (R207). TMAX is in 1/8 °C. -/
def State.flim (s : State) (h : Nat) : Q :=
  let k := s.kiln
  let fl := Q.ofNat (bits k.limitF.toNat 0 12)
  let t : Int := (s.kfAt h).tmax.toNat
  if t ≤ 8 * k.twarn then fl
  else if 8 * (k.thot : Int) ≤ t then fl.mul ⟨1, 2⟩
  else fl.mul (Q.sub ⟨1, 1⟩ (mkQ (t - 8 * k.twarn) (16 * ((k.thot : Int) - k.twarn)).toNat))

/-- The in-service clusters of a function, and those in one field (R188, R209). -/
def State.live (s : State) (f : Nat) : List Nat := (s.fnAt f).members.filter s.inService
def State.liveIn (s : State) (f h : Nat) : Nat := ((s.live f).filter (fun c => fieldOf c == h)).length
/-- The in-service clusters of a field. -/
def State.fieldLive (s : State) (h : Nat) : List Nat := ((List.range 96).map (fun l => h * 128 + l)).filter s.inService
/-- The functions that own a partition. -/
def State.parts (s : State) : List Nat := (s.fn.filter (fun p => p.2.members != [])).map Prod.fst

/-! ### TELEM at the hub (R185, R186, R449, R451) -/

/-- Mean of V × I over the interval's pairs, in 0.1 W: current in 0.1 A, voltage in mV. -/
def pavgOf (l : List (BitVec 16 × BitVec 12)) : Nat :=
  if l = [] then 0 else Nat.min ((l.map (fun p => p.1.toNat * p.2.toNat)).sum / (1000 * l.length)) 65535

/-- The CSNs of a field whose counters its hub reads at the interval's end: one in reset answers later (R67). -/
def State.droopCsns (s : State) (h : Nat) : List Nat :=
  ((List.range 96).map (fun l => h * 128 + l)).filter (fun c => (s.csnAt c).rst.isNone)

/-- The droop count of a cluster row in an interval: what RD_DRP has already read, and what stands in the counters (R185). -/
def State.rowDroop (s : State) (h r : Nat) : Nat :=
  Nat.min ((((s.hubAt h).drp[r]?).getD 0)
    + (((s.droopCsns h).filter (fun c => rowOf c == r)).map (fun c => (s.csnAt c).droop.toNat)).sum) 65535

/-- The TELEM of the interval that has just ended, `n` its number. The mean of the sensors is rounded down (assumption 83, DESIGN
CHOICE). -/
def State.telemOf (s : State) (h n : Nat) : Telem :=
  let x := s.hubAt h
  let ts := x.temps.map BitVec.toNat
  let rows := (List.range 8).map (s.rowDroop h)
  let drp := Nat.min rows.sum 65535
  { pavg := BitVec.ofNat 16 (pavgOf x.avs), ipk := BitVec.ofNat 16 ((x.avs.map (fun p => p.1.toNat)).foldl Nat.max 0)
    vout := ((x.avs.getLast?).map (·.2)).getD 0, opf := x.op, alr := x.alr, seq := BitVec.ofNat 16 n, step := x.step, slew := x.slew
    tmax := BitVec.ofNat 12 (ts.foldl Nat.max 0), tavg := BitVec.ofNat 12 (ts.sum / 4), drp := BitVec.ofNat 16 drp
    rows := if drp = 0 then [] else rows.map (BitVec.ofNat 16) }

/-- TELEM_INTERVAL_END: the hub reads and clears its CSNs' droop counters and sends its TELEM. -/
def State.intervalEnd (s : State) (h : Nat) : State :=
  let n := s.intvNow
  if (s.hubAt h).muz || n = 0 || BitVec.ofNat 16 n == (s.hubAt h).intv then s
  else
    let t := s.telemOf h (n - 1)
    let s := forAll (s.droopCsns h) (fun s c => s.updCsn c (fun x => { x with droop := 0 })) s
    (s.updHub h (fun x => { x with intv := BitVec.ofNat 16 n, drp := List.replicate 8 0, avs := [], alr := x.alert })).send (.telem h t)

def execTelemIntervalEnd (hub : Field) (s : State) : Out := .next (s.intervalEnd hub.val)

/-! ### Attribution (R188) -/

/-- Cycles that interval n and a tick share. -/
def Unsettled.overlap (u : Unsettled) (a b : Nat) : Nat :=
  let hi := match u.stop with | some t => Nat.min b t | none => b
  hi - Nat.max a u.start

/-- A field's energy in interval n, in nJ, goes to the ticks of the partitions there, by clusters and by time. -/
def State.chargeShare (s : State) (h n : Nat) (e : Q) : State :=
  let a := s.kiln.base + n * intvLen
  let b := a + intvLen
  let total := (s.fieldLive h).length
  forAll (s.parts.filter (fun f => s.liveIn f h != 0)) (fun s f =>
    let share := (e.mul (mkQ (s.liveIn f h : Int) total)).div (Q.ofNat intvLen)
    s.updFn f (fun x => { x with open_ := x.open_.map (fun u =>
      let o := u.overlap a b
      if o = 0 then u else { u with got := u.got.add (share.mul (Q.ofNat o)) }) })) s

/-- An interval of a field is accounted for. -/
def KField.account (k : KField) (n : Nat) : KField :=
  let k := if n = k.acctTo then { k with acctTo := n + 1 } else { k with ahead := n :: k.ahead }
  (List.range k.ahead.length).foldl (fun (k : KField) _ =>
    if k.ahead.contains k.acctTo then { k with acctTo := k.acctTo + 1, ahead := k.ahead.erase k.acctTo } else k) k

/-- Whether an interval is already received or declared missed. -/
def KField.hasAcct (k : KField) (n : Nat) : Bool := decide (n < k.acctTo) || k.ahead.contains n

/-! ### The energy account and the history (R190-R194) -/

/-- CAP and CRD as in force since the last cut. -/
def Fn.cap16 (x : Fn) : Nat := bits x.capF.toNat 0 16
def Fn.crd (x : Fn) : Nat := bits x.capF.toNat 24 4
def Fn.pri (x : Fn) : Nat := bits x.capF.toNat 28 4

/-- W of a tick of `per` ns, in nJ. -/
def Fn.allowance (x : Fn) (per : Nat) : Q := Q.ofNat (x.cap16 * per)

/-- A clamped to −W … W × CRD / 16. -/
def Fn.clampBal (x : Fn) (per : Nat) (a : Q) : Q :=
  let w := x.allowance per
  if x.cap16 = 0 then Q.zero else (a.max w.neg).min (w.mul (mkQ (x.crd : Int) 16))

/-- DH of a phase; 0 is read as PER / NPH (R192). -/
def dhOf (m : PitchImage) (per : Nat) (p : Phase) : Q :=
  if p.dh = 0 then mkQ (per : Int) m.phases.length else Q.ofNat p.dh.toNat

def sumQ (l : List Q) : Q := l.foldl Q.add Q.zero

/-- The partition's share of its fields' limits for one tick, in nJ (R192). -/
def State.limitShare (s : State) (f per : Nat) : Q :=
  sumQ ((s.fieldsOf f).map (fun h => ((s.flim h).mul (Q.ofNat (per * s.liveIn f h))).div ⟨96, 1⟩))

/-- EH in nJ; 0 is read as W of a tick of `perW`, or as the share of the limits over `per` where CAP is 0 (R192, R199). -/
def State.hintE (s : State) (f perW per : Nat) (m : PitchImage) : Q :=
  if m.eh != 0 then Q.ofNat (m.eh.toNat * 1000)
  else if (s.fnAt f).cap16 = 0 then s.limitShare f per else (s.fnAt f).allowance perW

/-- The sum of the duration hints, in ns. -/
def hintT (m : PitchImage) (per : Nat) : Q := sumQ (m.phases.map (dhOf m per))

/-- PER as used (R165). -/
def clampPer (p : Nat) : Nat := Nat.max 20000 (Nat.min p 100000000)
def State.setPer (s : State) : Nat := clampPer (bits s.tick.period.toNat 0 27)

/-- A history entry starts, at an admission, with the image's hints as they are read then (R192, R193). -/
def State.startHist (s : State) (f v : Nat) (m : PitchImage) : State :=
  let per := s.setPer
  let h : Hist := { n := 0, since := s.now, mE := s.hintE f per per m, dE := Q.zero, mT := hintT m per, dT := Q.zero }
  { s with kiln := { s.kiln with hist := tset Hist.init s.kiln.hist v h } }

/-- A measured step enters a history entry. -/
def Hist.add (h : Hist) (e t : Q) : Hist :=
  let mE := h.mE.add ((e.sub h.mE).mul ⟨1, 8⟩)
  let mT := h.mT.add ((t.sub h.mT).mul ⟨1, 8⟩)
  { h with
    mE := mE, mT := mT
    dE := h.dE.add (((e.sub mE).abs.sub h.dE).mul ⟨1, 8⟩), dT := h.dT.add (((t.sub mT).abs.sub h.dT).mul ⟨1, 8⟩) }

/-- Every interval that overlaps a tick of a function is accounted for. -/
def State.settled (s : State) (f : Nat) (u : Unsettled) : Bool :=
  match u.stop with
  | none => false
  | some t => (s.fieldsOf f).all (fun h => (s.hubAt h).muz || decide (t ≤ s.kiln.base + (s.kfAt h).acctTo * intvLen))

/-- A settled step of the list since its entry started: it is counted, and enters the means where nothing disturbed it (R192,
R193). -/
def Hist.settle (h : Hist) (u : Unsettled) : Hist :=
  if u.start < h.since then h
  else
    let g := { h with n := h.n + 1 }
    match u.dur with
    | some d => if u.clean then g.add (u.got.mul u.norm) ((Q.ofNat d).mul u.normT) else g
    | none => g

/-- A tick is settled: the forecast gives way to the measurement, and its step to the history. -/
def State.settleOne (s : State) (f : Nat) (u : Unsettled) : State :=
  let s := s.updFn f (fun x => { x with
    open_ := x.open_.erase u, bal := x.clampBal s.tick.perNext (x.bal.add (u.forecast.sub u.got)) })
  match u.plid with
  | some p => { s with kiln := { s.kiln with hist := tset Hist.init s.kiln.hist p ((tget Hist.init s.kiln.hist p).settle u) } }
  | none => s

/-- Settling what can be settled, oldest tick first. -/
def State.settleTicks (s : State) : State :=
  forAll s.parts (fun s f =>
    forAll ((s.fnAt f).open_.reverse.filter (s.settled f)) (fun s u => s.settleOne f u) s) s

/-! ### Forces (R187, R204, R205, R207) -/

/-- A hub's MGMT message under its epoch. -/
def State.mgmtTo (s : State) (h : Nat) (m : MgmtMsg) : State := s.send (.mgmt h (s.hubAt h).epoch m)

/-- A field is forced by the kiln: OP7 and the alert allowance, and a throttle notice (R182, R187, R207). -/
def State.kilnForce (s : State) (h : Nat) : State :=
  (((s.mgmtTo h (.opForce true)).mgmtTo h (.allowance alertWord))).noticeField h (s.kfAt h).opf (s.fnsIn h)

/-- A force of a field has ended: where none is left the word last computed goes out, the field leaves OP7, and the throttles
it held are cleared (R205, R208). -/
def State.kilnLift (s : State) (h : Nat) : State :=
  if (s.kfAt h).forced then s
  else ((s.mgmtTo h (.allowance (s.kfAt h).word)).mgmtTo h (.opForce false)).clearField h

/-! ### di/dt allowance (R202, R203) -/

/-- ΔI in amperes at an operating point; ICL 0 is used as 1. -/
def Kiln.deltaI (k : Kiln) (op : Nat) : Q :=
  let icl := Nat.max 1 (bits k.didtF.toNat 8 8)
  mkQ ((icl * opFreq op : Nat) : Int) (16 * 30)

/-- ⌈a⌉ as a number. -/
def Q.ceil (a : Q) : Nat := (-(Q.floor a.neg)).toNat

/-- SPC for a CPW: ⌈CPW × ΔI / SLEW⌉, at least 8; SLEW in 0.01 A/ns. -/
def spcFor (cpw : Nat) (di : Q) (slew : Nat) : Nat :=
  Nat.max 8 (Q.ceil (((Q.ofNat cpw).mul di).div (mkQ (slew : Int) 100)))

/-- Step 3: CPW falls while SPC is above 64. -/
def shrink (di : Q) (slew : Nat) : Nat → Nat → Nat × Nat
  | 0, cpw => (cpw, Nat.min 64 (spcFor cpw di slew))
  | n + 1, cpw =>
    if 64 < spcFor cpw di slew ∧ 1 < cpw then shrink di slew n (cpw - 1) else (cpw, Nat.min 64 (spcFor cpw di slew))

/-- CPW and SPC of a report (R202). -/
def Kiln.pace (k : Kiln) (t : Telem) : Nat × Nat :=
  let di := k.deltaI t.opf.toNat
  if t.slew = 0 then (1, 64)
  else
    let cpw := Nat.min 96 (Nat.max 1 (Q.floor ((mkQ (t.step.toNat : Int) 10).div di)).toNat)
    shrink di t.slew.toNat 96 cpw

/-- The allowance word of R128: CPW in the upper byte, SPC in the lower. -/
def paceWord (cpw spc : Nat) : BitVec 16 := BitVec.ofNat 16 (cpw * 256 + spc)

/-! ### TELEM at the root -/

/-- The full number of the interval a SEQ names, the newest that has ended. -/
def State.intvOf (s : State) (seq : BitVec 16) : Nat :=
  let last := s.intvNow - 1
  last - (BitVec.ofNat 16 last - seq).toNat

/-- Whether a TELEM is newer than what the hub has sent (R187). -/
def State.telemNew (s : State) (h : Nat) (t : Telem) : Bool :=
  match (s.kfAt h).seq with
  | none => true
  | some q =>
    decide ((s.kfAt h).heard + 32768 ≤ s.intvNow) || (t.seq != q && decide ((t.seq - q).toNat < 32768))

/-- The counts of a field after a TELEM, its own TMAX already in force (R205): quiet and cool intervals, droop, the halving of
words, the speed limit (R203, R205, R207). An interval whose TELEM is lost neither counts in a run of consecutive intervals nor breaks it (assumption 82, DESIGN
CHOICE). A speed limit is set at the third consecutive interval over DTH, and at the third after that (DEDUCED). -/
def State.telemCounts (s : State) (h : Nat) (t : Telem) : KField :=
  let k := s.kfAt h
  let quiet := !t.alr && (mkQ (t.pavg.toNat : Int) 10).le ((s.flim h).mul ⟨9, 10⟩)
  let cool := decide (t.tmax.toNat + 8 * s.kiln.hys ≤ 8 * s.kiln.thot)
  let wide := decide (bits s.kiln.didtF.toNat 16 16 < t.drp.toNat)
  let overN := if wide then k.overN + 1 else 0
  { k with
    seq := some t.seq, heard := s.intvNow, tmax := t.tmax, opf := t.opf
    quiet := if k.alertForce && quiet then k.quiet + 1 else 0
    cool := if k.thermForce && cool then k.cool + 1 else 0
    overN := if overN = 3 then 0 else overN, underN := if wide then 0 else k.underN + 1
    halve := if wide then 4 else k.halve
    droopLim := if overN = 3 then some (BitVec.ofNat 3 (Nat.min 7 (t.opf.toNat + 1))) else k.droopLim }

/-- The word for a field after a TELEM, and one halving fewer. -/
def State.newWord (s : State) (h : Nat) (t : Telem) : State :=
  let p := s.kiln.pace t
  let cpw := if (s.kfAt h).halve = 0 then p.1 else Nat.max 1 (p.1 / 2)
  s.updKf h (fun k => { k with word := paceWord cpw p.2, halve := k.halve - 1 })

/-- TELEM: attribution, forces, and the new allowance. -/
def State.takeTelem (s : State) (h : Nat) (t : Telem) : State :=
  if (s.hubAt h).muz || !s.telemNew h t then s
  else
    let n := s.intvOf t.seq
    let s := if (s.kfAt h).hasAcct n then s
      else (s.chargeShare h n (Q.ofNat (t.pavg.toNat * 5000))).updKf h (fun k => k.account n)
    let s := s.updKf h (fun k => { k with tmax := t.tmax })
    let k := s.telemCounts h t
    let s := (s.updKf h (fun _ => k)).newWord h t
    let hot := decide (8 * s.kiln.thot ≤ t.tmax.toNat)
    let lost := k.lossForce
    let was := k.thermForce
    let s := s.updKf h (fun k => { k with lossForce := false, thermForce := k.thermForce || hot, cool := if hot then 0 else k.cool })
    let s := if hot && !was then s.kilnForce h else s
    let s := if lost then s.kilnLift h else s
    (s.mgmtTo h (.allowance (if (s.kfAt h).forced then alertWord else (s.kfAt h).word))).settleTicks

def execTelem (hub : Field) (t : Telem) (s : State) : Out :=
  let m := Msg.telem hub.val t
  .next (if s.stopped m then s.stopMsg m else (s.taken m).takeTelem hub.val t)

/-- TELEM_LOSS: no TELEM for 4 consecutive intervals (R187). -/
def State.telemLost (s : State) (h : Nat) : State :=
  let k := s.kfAt h
  if k.lossForce || (s.hubAt h).muz || decide (s.intvNow < k.heard + 5) then s
  else
    let s := s.updKf h (fun k => { k with lossForce := true, quiet := 0 })
    (s.kilnForce h).report 0x0F (unitId .hub h) 1 0 9 none

def execTelemLoss (hub : Field) (s : State) : Out := .next (s.telemLost hub.val)

/-- TELEM_MISSED: 3 µs after the end of the interval that follows, an interval not received is charged at FLIMf (R188). -/
def State.telemMissed (s : State) (h : Nat) : State :=
  let n := (s.kfAt h).acctTo
  if (s.hubAt h).muz || decide (s.now < s.kiln.base + (n + 2) * intvLen + cyc 3000) then s
  else (((s.chargeShare h n ((s.flim h).mul (Q.ofNat 50000))).updKf h (fun k => k.account n))).settleTicks

def execTelemMissed (hub : Field) (s : State) : Out := .next (s.telemMissed hub.val)

/-! ### Alerts, lifts and limits (R203-R207) -/

def Kiln.rwin (k : Kiln) : Nat := cyc (bits k.rcvF.toNat 16 8 * 1000000)
def Kiln.rpt (k : Kiln) : Nat := bits k.rcvF.toNat 8 8
/-- HOLD; 0 is used as 1. -/
def Kiln.hold (k : Kiln) : Nat := Nat.max 1 (bits k.rcvF.toNat 0 8)

/-- ALERT_NOTE at the root: the force is known, every job granted a faster point than OP7 there is noticed, and repeated alerts
bring the speed limit CEIL (R182, R204-R206). -/
def State.takeAlert (s : State) (h : Nat) (n : AlertNote) : State :=
  if !n.asrt || (s.hubAt h).muz then s
  else
    let k := s.kiln
    let s := s.updKf h (fun x => { x with
      alertForce := true, quiet := 0, alerts := s.now :: x.alerts.filter (fun t => decide (s.now < t + cyc 1000000000)) })
    let s := s.noticeField h n.opb ((s.fnsIn h).filter (fun f => decide (s.grantNow f < 7)))
    let many := ((s.kfAt h).alerts.filter (fun t => decide (s.now ≤ t + k.rwin))).length
    if k.rwin ≠ 0 ∧ k.rpt ≠ 0 ∧ k.rpt ≤ many then
      (s.updKf h (fun x => { x with ceilLim := some (BitVec.ofNat 3 (bits k.rcvF.toNat 24 3)) })).report 0x10 (unitId .hub h) 4 0 9 none
    else s

def execAlertNote (hub : Field) (n : AlertNote) (s : State) : Out :=
  let m := Msg.alertNote hub.val n
  .next (if s.stopped m then s.stopMsg m else (s.taken m).takeAlert hub.val n)

/-- ALERT_FORCE_LIFT: HOLD consecutive quiet intervals. -/
def State.alertLift (s : State) (h : Nat) : State :=
  let k := s.kfAt h
  if k.alertForce && decide (s.kiln.hold ≤ k.quiet) then
    (s.updKf h (fun k => { k with alertForce := false, quiet := 0 })).kilnLift h
  else s

def execAlertForceLift (hub : Field) (s : State) : Out := .next (s.alertLift hub.val)

/-- THERMAL_FORCE_LIFT: two consecutive intervals at or below THOT − HYS. -/
def State.thermalLift (s : State) (h : Nat) : State :=
  let k := s.kfAt h
  if k.thermForce && decide (2 ≤ k.cool) then
    (s.updKf h (fun k => { k with thermForce := false, cool := 0 })).kilnLift h
  else s

def execThermalForceLift (hub : Field) (s : State) : Out := .next (s.thermalLift hub.val)

/-- DROOP_LIMIT_EXPIRY: 20 consecutive intervals at or below DTH. -/
def execDroopLimitExpiry (hub : Field) (s : State) : Out :=
  .next (if 20 ≤ (s.kfAt hub.val).underN then s.updKf hub.val (fun k => { k with droopLim := none }) else s)

/-- ALERT_CEIL_EXPIRY: 1,000 ms without an alert. -/
def execAlertCeilExpiry (hub : Field) (s : State) : Out :=
  .next (
    let quiet := match (s.kfAt hub.val).alerts with | t :: _ => decide (t + cyc 1000000000 ≤ s.now) | [] => true
    if quiet then s.updKf hub.val (fun k => { k with ceilLim := none }) else s)

end Sys2Proof.Machine
end

