-- ==== Sys2Proof/Machine/Kiln.lean ====
section
/-! DEFINITION. Forecasts and the dispatch decision (R192-R200), throttle policies (R182, R183, R199), a member's kiln report
(R369). Energies are in nJ, times in ns. -/

namespace Sys2Proof.Machine

open Sys2Proof

/-! ### Forecasts (R192, R194) -/

/-- F and T at preferred points of an image, whose history entry is v's. -/
def State.forecastE (s : State) (f v : Nat) (m : PitchImage) (perW per : Nat) : Q :=
  let h := tget Hist.init s.kiln.hist v
  if h.n < 4 then s.hintE f perW per m else h.mE.add (h.dE.mul ⟨2, 1⟩)

def State.forecastT (s : State) (v : Nat) (m : PitchImage) (per : Nat) : Q :=
  let h := tget Hist.init s.kiln.hist v
  if h.n < 4 then hintT m per else h.mT.add (h.dT.mul ⟨2, 1⟩)

def State.rho (s : State) (op : Nat) : Q := (s.kiln.rho[op]?).getD ⟨1, 1⟩

/-- The ratios of energy and of duration at some grants to those at the preferred points. -/
def State.ratioE (s : State) (m : PitchImage) (gops : List (BitVec 3)) (per : Nat) : Q :=
  (sumQ ((m.phases.zip gops).map (fun p => (dhOf m per p.1).mul ((s.rho p.2.toNat).div (s.rho p.1.opp.toNat))))).div (hintT m per)

def ratioT (m : PitchImage) (gops : List (BitVec 3)) (per : Nat) : Q :=
  (sumQ ((m.phases.zip gops).map (fun p => (dhOf m per p.1).mul (mkQ (opFreq p.1.opp.toNat : Int) (opFreq p.2.toNat))))).div (hintT m per)

/-- The idle forecast of n clusters for a tick, in nJ (R196). -/
def State.idleE (s : State) (n per : Nat) : Q := mkQ ((s.kiln.idleMw * n * per : Nat) : Int) 1000

/-! ### Grants (R195) -/

/-- The largest point that the fields of a partition put on every phase: speed limits, and OP7 where one is forced. -/
def State.floorOp (s : State) (hs : List Nat) : Nat :=
  hs.foldl (fun (m : Nat) h =>
    let k := s.kfAt h
    let lim (o : Option (BitVec 3)) : Nat := match o with | some p => p.toNat | none => 0
    Nat.max m (Nat.max (if k.forced then 7 else 0) (Nat.max (lim k.droopLim) (lim k.ceilLim)))) 0

/-- Each phase's grant for a g, over some fields. -/
def State.grants (s : State) (hs : List Nat) (m : PitchImage) (g : Nat) : List (BitVec 3) :=
  m.phases.map (fun p => BitVec.ofNat 3 (Nat.max p.opp.toNat (Nat.max g (s.floorOp hs))))

/-! ### Limits (R187, R196) -/

/-- What the functions have reserved: the energy of a dispatch, or none for the idle forecast of the coming tick. -/
abbrev Resv := List (Nat × Option Q)

/-- The energy that a function has reserved for a tick of a period. -/
def State.resvE (s : State) (r : Resv) (f per : Nat) : Q :=
  match (r.find? (fun p => p.1 == f)).bind (·.2) with
  | some e => e
  | none => s.idleE (s.live f).length per

/-- What a function reserves instead. -/
def Resv.put (r : Resv) (f : Nat) (e : Q) : Resv := (f, some e) :: r.filter (fun p => p.1 != f)

/-- Part of a function's energy that falls on a field. -/
def State.inField (s : State) (f h : Nat) (e : Q) : Q :=
  let n := (s.live f).length
  if n = 0 then Q.zero else e.mul (mkQ (s.liveIn f h : Int) n)

/-- The clusters of a field that no partition owns. -/
def State.unowned (s : State) (h : Nat) : Nat := ((s.fieldLive h).filter (fun c => (s.fnOf c).isNone)).length

/-- WCAP × PER in nJ. -/
def State.waferE (s : State) (per : Nat) : Q := Q.ofNat (s.kiln.wcap * per)
def State.fieldE (s : State) (h per : Nat) : Q := (s.flim h).mul (Q.ofNat per)

/-- The fields with limits: a muzzled hub's has none (R209). -/
def State.limitFields (s : State) : List Nat := (List.range 84).filter (fun h => !(s.hubAt h).muz)

/-- The energy reserved in a field: of every partition, and of the clusters of none. A field whose telemetry is lost counts as
drawing its limit (R187). -/
def State.fieldResv (s : State) (r : Resv) (h per : Nat) : Q :=
  if (s.kfAt h).lossForce then s.fieldE h per
  else (sumQ ((r.filter (fun p => s.liveIn p.1 h != 0)).map (fun p => s.inField p.1 h (s.resvE r p.1 per)))).add
    (s.idleE (s.unowned h) per)

/-- Whether reservations meet the limits of R196: the wafer's, and every field's. -/
def State.fits (s : State) (r : Resv) (per : Nat) : Bool :=
  let es := s.limitFields.map (fun h => (h, s.fieldResv r h per))
  (sumQ (es.map (·.2))).le (s.waferE per) && es.all (fun e => e.2.le (s.fieldE e.1 per))

/-! ### The members of a span (R200, R369) -/

/-- The members whose kilns a lead's decision must satisfy. -/
def State.followers (s : State) : List Nat := (maskWs s.span.reach).filter (fun w => w != s.self)

/-- A member's latest report on a job, if it came within its last two intervals. -/
def State.reportOf (s : State) (w f : Nat) : Option SbKiln :=
  (s.kiln.reports.find? (fun r => r.1.src.val == w && r.1.func.val == f && decide (s.now ≤ r.2 + 2 * intvLen))).map (·.1)

/-- Conditions 2 and 3 on every member for a candidate whose energy is scaled by a ratio. A variant that a member does not
report is judged by the forecast of its list (DEDUCED). -/
def State.membersAllow (s : State) (f plid v : Nat) (ratio : Q) : Bool :=
  if !(s.fnAt f).job || s.span.st != .lead then true
  else
    s.followers.all (fun w =>
      match s.reportOf w f with
      | none => false
      | some r =>
        match (r.cands.find? (fun c => c.1.toNat == v)).or (r.cands.find? (fun c => c.1.toNat == plid)) with
        | none => false
        | some c =>
          let e := (Q.ofNat (c.2.2.toNat * 64)).mul ratio
          e.le (Q.ofNat r.bud.toNat) && e.le (Q.ofNat r.head.toNat))

/-! ### One candidate (R195) -/

/-- A pair of candidate and g that is tried: the choice it would make, whether condition 1 holds, whether all three hold. -/
structure Trial where
  c : Choice
  one : Bool
  all : Bool
  per : Nat
  deriving DecidableEq, Repr

/-- What is tried: the function, its list, the PLID of the image and the image, whether as a replay. -/
structure Cand where
  f : Nat
  plid : Nat
  v : Nat
  img : PitchImage
  replay : Bool
  deriving DecidableEq, Repr

/-- The ratio of R194 by which a measurement is normalised. -/
def normOf (q : Q) : Q := if q.num = 0 then ⟨1, 1⟩ else (⟨1, 1⟩ : Q).div q

/-- Trying a candidate at some grants. `nom` is PER, which the hints of 0 are read by; `per` the period of the tick that it is
tried for; `slack` the B of STRETCH. -/
def State.tryGrants (s : State) (r : Resv) (c : Cand) (gops : List (BitVec 3)) (nom per slack : Nat) : Trial :=
  let x := s.fnAt c.f
  let re := s.ratioE c.img gops nom
  let rt := ratioT c.img gops nom
  let e := (s.forecastE c.f c.v c.img per nom).mul re
  let t := (s.forecastT c.v c.img nom).mul rt
  let one := t.le (Q.ofNat (per + slack))
  let budget := x.cap16 = 0 || e.le ((x.allowance per).add (x.clampBal per x.bal))
  { c := { plid := c.plid, image := c.v, img := c.img, gops := gops, replay := c.replay, step := 0, energy := e, dur := t,
           norm := normOf re, normT := normOf rt, slots := [] }
    one := one, all := one && budget && s.fits (r.put c.f e) per && s.membersAllow c.f c.plid c.v re, per := per }

/-- g = g0, g0 + 1, … 7 until condition 1 fails. -/
def State.tryGs (s : State) (r : Resv) (c : Cand) (nom per slack : Nat) : List Nat → Option Trial
  | [] => none
  | g :: gs =>
    let t := s.tryGrants r c (s.grants (s.fieldsOf c.f) c.img g) nom per slack
    if !t.one then none else if t.all then some t else s.tryGs r c nom per slack gs

/-! ### Policies (R182, R183, R199) -/

/-- How a job's candidates are tried at a cut. -/
inductive Mode where
  | plain
  | stretch
  | level
  | shed
  deriving DecidableEq, Repr

/-- A job throttled by skew alone: its OPt is its own grants, so that LEVEL changes nothing (R183). -/
def Thr.skewOnly (t : Thr) : Bool := t.bySkew && !t.byForce

/-- STRETCH that acts as LEVEL after two consecutive overruns (R183). -/
def Thr.fallen (t : Thr) : Bool := decide (2 ≤ t.overruns)

/-- The mode in force, and whether it is a fallback of R183. -/
def State.modeOf (s : State) (f : Nat) : Mode × Bool :=
  let x := s.fnAt f
  if !x.throt.inForce then (.plain, false)
  else
    let level : Mode := if x.throt.skewOnly then .plain else .level
    match polOf x.thr with
    | 0 => (level, false)
    | 1 => if x.throt.fallen then (level, true) else (.stretch, false)
    | _ => (.shed, false)

/-- LEVEL is in force for a job by its policy, or as the fallback of STRETCH (R169, R182, R183). -/
def Fn.levels (x : Fn) : Bool := x.throt.inForce && (polOf x.thr == 0 || (polOf x.thr == 1 && x.throt.fallen))

/-- OPt: the highest-numbered point in force on any field of the job, on any member. -/
def State.optOf (s : State) (f : Nat) : Nat :=
  let own := (s.fieldsOf f).foldl (fun (m : Nat) h => Nat.max m (if (s.kfAt h).forced then 7 else (s.hubAt h).op.toNat)) 0
  if (s.fnAt f).job && s.span.st == .lead && !s.span.throt.isEmpty then 7 else own

/-- P′ of an image at OPt. -/
def levelPer (m : PitchImage) (opt per : Nat) : Nat :=
  let opf := (m.phases.map (fun p => p.opp.toNat)).foldl Nat.min 7
  Nat.min 100000000 ((per * opFreq opf + opFreq opt - 1) / opFreq opt)

/-- STBF as in force: the lead's on a member. -/
def State.stbf (s : State) : Nat := if s.tick.st = .follow then s.tick.stbfLead.toNat else bits s.tick.ctrl.toNat 8 8
/-- B of a period (R166), by the STBF that stands where it is asked for: a write between the cut and the hold point counts
already (assumption 81, DESIGN CHOICE). -/
def State.stretchOf (s : State) (per : Nat) : Nat := per * s.stbf / 256

/-- A dispatch: the trial, whether it levels the period, whether it used a fallback of R183. -/
structure Win where
  t : Trial
  levels : Bool
  fallback : Bool
  deriving DecidableEq, Repr

/-- A candidate at its own P′ with g = OPt alone. -/
def State.levelTrial (s : State) (r : Resv) (c : Cand) (nom : Nat) : Trial :=
  let opt := s.optOf c.f
  s.tryGrants r c (s.grants (s.fieldsOf c.f) c.img opt) nom (levelPer c.img opt nom) 0

def State.tryLevel (s : State) (r : Resv) (c : Cand) (nom : Nat) (fb : Bool) : Option Win :=
  let t := s.levelTrial r c nom
  if t.all then some ⟨t, true, fb⟩ else none

def allGs : List Nat := [0, 1, 2, 3, 4, 5, 6, 7]

/-- A candidate with the period and the duration as they stand. -/
def State.tryPlain (s : State) (r : Resv) (c : Cand) (nom per slack : Nat) (fb : Bool) : Option Win :=
  (s.tryGs r c nom per slack allGs).map (fun t => ⟨t, false, fb⟩)

/-- The lighter variant of a list's candidate. -/
def State.variantOf (s : State) (c : Cand) : Cand :=
  let v := c.img.var.toNat
  { c with v := v, img := (s.plAt v).img }

/-- One candidate under the mode in force: its own image, or its lighter variant. -/
def State.tryCand (s : State) (r : Resv) (c : Cand) (nom per : Nat) : Option Win :=
  let md := s.modeOf c.f
  match md.1 with
  | .plain => s.tryPlain r c nom per 0 md.2
  | .stretch => s.tryPlain r c nom per (s.stretchOf per) false
  | .level => s.tryLevel r c nom md.2
  | .shed =>
    if c.replay then s.tryPlain r c nom per 0 false
    else if c.img.var ≠ 0xFFFF then s.tryPlain r (s.variantOf c) nom per 0 false
    else if (s.fnAt c.f).throt.skewOnly then s.tryPlain r c nom per 0 true
    else s.tryLevel r c nom true

/-- A replay that no pair of R195 dispatches: the smallest g that meets condition 1, else the preferred points as the limits
raise them (R198); under LEVEL OPt is the only g, and the tick is levelled (R199). -/
def State.forceReplay (s : State) (r : Resv) (c : Cand) (nom per : Nat) : Win :=
  let md := s.modeOf c.f
  let hs := s.fieldsOf c.f
  match md.1 with
  | .level =>
    let t := s.levelTrial r c nom
    ⟨if t.one then t else s.tryGrants r c (s.grants hs c.img 0) nom t.per 0, true, md.2⟩
  | .plain | .stretch | .shed =>
    let slack := if md.1 = .stretch then s.stretchOf per else 0
    let ts := allGs.map (fun g => s.tryGrants r c (s.grants hs c.img g) nom per slack)
    match ts.find? (fun t => t.one) with
    | some t => ⟨t, false, md.2⟩
    | none => ⟨s.tryGrants r c (s.grants hs c.img 0) nom per slack, false, md.2⟩

/-! ### Ready candidates (R252) -/

/-- A pitch list is ready. -/
def State.plReady (s : State) (f p : Nat) : Bool :=
  let l := s.plAt p
  let x := s.fnAt f
  l.st == .queued && (l.img.binds.isEmpty || (imgSlots l.img).any (fun k => (s.slotAt k).st == .active)) &&
  x.cst != .failed && x.cst != .poisoned && !x.broken

/-- The ready lists in admission order, at most 16. -/
def State.candidates (s : State) (f : Nat) : List Nat := ((s.fnAt f).order.filter (fun p => s.plReady f p)).take 16

/-- The replay that is the first candidate, with the image that its step ran (R198, R253). -/
def State.replayDue (s : State) (f : Nat) : Option Cand :=
  let x := s.fnAt f
  if x.cst == .suspect && !x.broken then x.replayOf.map (fun r => ⟨f, r.1, r.2.1, r.2.2, true⟩) else none

/-- A list's own candidate. -/
def State.candOf (s : State) (f p : Nat) : Cand := ⟨f, p, p, (s.plAt p).img, false⟩

/-- The first candidate that some g dispatches. -/
def State.tryAll (s : State) (r : Resv) (f nom per : Nat) : List Nat → Option Win
  | [] => none
  | p :: ps =>
    match s.tryCand r (s.candOf f p) nom per with
    | some w => some w
    | none => s.tryAll r f nom per ps

/-! ### Known-answer ticks (R269) -/

/-- A known-answer run: list, clusters, whether it is the rerun after a mismatch. -/
structure KatPick where
  ix : Nat
  set : List Nat
  again : Bool
  deriving DecidableEq, Repr

/-- Whether a known-answer step may be chosen at all: lists are admitted, none is chosen or running, no load is open (its
barrier and its memory are shared with them), and a pack processor schedules them (R35; assumption 88). -/
def State.katFree (s : State) : Bool :=
  !s.kat.lists.isEmpty && s.kat.cur.isNone && s.bru.load.isNone && (s.err.roleAt 1).isSome

def State.kai (s : State) : Nat := bits s.kiln.ka.toNat 0 16 * 65536
def State.kmax (s : State) : Nat := bits s.kiln.ka.toNat 16 16 * 65536

/-- The run that some clusters are due at a cut: the rerun of a mismatch, or one on all of them. Which list that is, is a free
value. -/
def State.katPick (s : State) (owner : Option Nat) (cs : List Nat) (idle : Bool) (age : Nat) : Option KatPick :=
  if !s.katFree then none
  else
    match s.kat.retry.find? (fun q => idle && q.1 == owner) with
    | some q => some ⟨q.2.1, q.2.2.filter (fun c => cs.contains c), true⟩
    | none =>
      if (idle && decide (s.kai ≤ age)) || (s.kmax != 0 && decide (s.kmax ≤ age)) then some ⟨s.peek % s.kat.lists.length, cs, false⟩
      else none

/-- A known-answer tick takes a partition's tick, never ahead of a replay. -/
def State.katDue (s : State) (f : Nat) (idle : Bool) : Option KatPick :=
  if (s.fnAt f).cst = .suspect then none else s.katPick (some f) (s.live f) idle (s.fnAt f).kaAge

/-- The clusters in service that no partition owns. -/
def State.unownedAll (s : State) : List Nat := (List.range 84).flatMap (fun h => (s.fieldLive h).filter (fun c => (s.fnOf c).isNone))

/-- The root record of a known-answer pack: gated, of the wafer, with the role its list gives it. -/
def katRec (m : PitchImage) (f : Nat) (pep : Epoch) (b : Nat) (tmo : Byte) (pay : BitVec 32) (r : RootRec) : RootRec :=
  { r with auto := false, scope := 1, func := fnOfNat f, pepoch := pep, tmo := tmo, payload := pay, resv := false, join := none,
           role := if m.heel.toNat = b then 2 else if m.cmt && m.commit.toNat == b then 1 else 0 }

/-- The root sets the packs of a known-answer list over some clusters, in the tick before it runs. -/
def State.katBind (s : State) (l : KatList) (f : Nat) (pep : Epoch) (set : List Nat) : State :=
  forAll (imgBars l.img).eraseDups (fun s b =>
    match l.packs.find? (fun p => p.1.toNat == b) with
    | some p => s.packBind b (set.map (fun c => (c, p.2.1))) (s.precAt b).gen (katRec l.img f pep b p.2.2.1 p.2.2.2)
    | none => s) s

/-- A known-answer step is chosen for the coming tick. -/
def State.katChoose (s : State) (owner : Option Nat) (k : KatPick) (next : BitVec 48) : State :=
  let s := { s.drawn with kat := { s.kat with
    retry := if k.again then s.kat.retry.filter (fun q => !(q.1 == owner && q.2.1 == k.ix)) else s.kat.retry } }
  match s.kat.lists[k.ix]? with
  | none => s
  | some l =>
    let n := (imgBars l.img).eraseDups.length
    let set := k.set.filter (fun c => decide (n ≤ (s.csnAt c).freeEnts))
    if set = [] then s
    else
      let f := owner.getD 0
      let pep := match owner with | some f => (s.fnAt f).pepoch | none => 0
      let low : BitVec 32 := BitVec.ofNat 32 next.toNat
      let r : Run :=
        { plid := 2032 + k.ix, image := 2032 + k.ix, img := l.img, slots := [], gops := s.grants ((set.map fieldOf).eraseDups) l.img 0
          rpl := 0, tick := next.toNat, key := low, phase := 0, opened := 0, waitOrd := false, bound := [], commitOpen := false
          commitDone := false, heelOpen := false, heelDone := false, counted := false, start := s.now, closers := [] }
      let s := { s with kat := { s.kat with cur := some ⟨owner, k.ix, set, k.again, false, [], r⟩ } }
      let s := match owner with
        | some f => s.updFn f (fun x => { x with kaAge := 0 })
        | none => { s with kat := { s.kat with age := 0 } }
      s.katBind l f pep set

/-! ### One partition at the cut (R195-R198) -/

/-- What a cut decides for a partition: a step, a cool tick, a known-answer tick, or nothing. -/
inductive Verd where
  | go (w : Win)
  | cool
  | kat (k : KatPick)
  | idle
  deriving DecidableEq, Repr

/-- A span job on a member is decided by the lead; a job that a formation holds, or whose partition is in reset, runs none. A
replay whose substitutes or members are not ready leaves a cool tick (assumption 84, DESIGN CHOICE). -/
def State.decideFn (s : State) (r : Resv) (f nom per : Nat) : Verd :=
  let x := s.fnAt f
  if x.rst.isSome || s.formHolds f || (x.job && s.span.st != .lead) then .idle
  else
    match s.replayDue f with
    | some c =>
      if !s.allReady f then .cool
      else
        match s.tryCand r c nom per with
        | some w => .go w
        | none => .go (s.forceReplay r c nom per)
    | none =>
      let cs := s.candidates f
      match s.katDue f cs.isEmpty with
      | some k => .kat k
      | none => if cs.isEmpty then .idle else match s.tryAll r f nom per cs with | some w => .go w | none => .cool

/-- The functions with a partition, in descending PRI, ties to the lower number (R196). -/
def State.byPri (s : State) : List Nat :=
  (List.range 16).reverse.flatMap (fun p => s.parts.filter (fun f => (s.fnAt f).pri == p))

/-- What a function reserves before the decisions: a span job on a member what its last dispatched step did (R369), any other
partition the idle forecast. -/
def State.firstResv (s : State) (f : Nat) : Option Q :=
  if (s.fnAt f).job && s.span.st != .lead then (s.fnAt f).jobFc else none

/-- STEP of the chosen run: the tick number at which the step first began. -/
def State.stepFor (s : State) (f : Nat) (replay : Bool) (next : BitVec 48) : BitVec 32 :=
  if replay then (s.fnAt f).step else BitVec.ofNat 32 next.toNat

/-- The slots that a choice considers: the bound slots that are ACTIVE now (R257, R267). -/
def State.activeSlots (s : State) (m : PitchImage) : List Nat := (imgSlots m).filter (fun k => (s.slotAt k).st == .active)

/-- A member's tick is cool unless its lead dispatches the job (R197, R200). -/
def State.coolUnless (s : State) (f : Nat) : Bool := (s.replayDue f).isSome || !(s.candidates f).isEmpty

/-- The choice is latched and its list is RUNNING (R39, R251), with the counts of R183 and R197; a replay sends its view again (R265). -/
def State.latchChoice (s : State) (f : Nat) (v : Verd) (next : BitVec 48) : State :=
  match v with
  | .go w =>
    let c := { w.t.c with step := s.stepFor f w.t.c.replay next, slots := s.activeSlots w.t.c.img }
    let s := s.updFn f (fun x => { x with choice := some c, jobFc := some c.energy, ovr := if w.fallback then satInc x.ovr else x.ovr })
    let s := s.updPl c.plid (fun p => { p with st := .running })
    if c.replay ∧ c.img.binds ≠ [] then s.sameView c.plid else s
  | .cool => s.updFn f (fun x => { x with choice := none, coolCnt := satInc x.coolCnt })
  | .kat k => (s.updFn f (fun x => { x with choice := none })).katChoose (some f) k next
  | .idle =>
    if (s.fnAt f).job && s.span.st == .member then s.updFn f (fun x => { x with coolDue := s.coolUnless f })
    else s.updFn f (fun x => { x with choice := none })

/-- Deciding one partition after another: the state, the reservations, the period that levelled jobs ask for. -/
def decideGo (nom per : Nat) (next : BitVec 48) : List Nat → State × Resv × Nat → State × Resv × Nat
  | [], a => a
  | f :: fs, (s, r, p) =>
    let v := s.decideFn r f nom per
    let s := s.latchChoice f v next
    match v with
    | .go w => decideGo nom per next fs (s, r.put f w.t.c.energy, if w.levels then Nat.max p w.t.per else p)
    | _ => decideGo nom per next fs (s, r, p)

/-- The decisions of a cut, the period of the coming tick, and whether a dispatch levelled it (R183, R196). Where one does, every
partition is decided at the coming tick's period, which a first round of the same decisions has found (R191; assumption 91,
DESIGN CHOICE). -/
def State.decideAll (s : State) (per : Nat) (next : BitVec 48) : State × Nat × Bool :=
  let start : State × Resv × Nat := (s, s.parts.map (fun f => (f, s.firstResv f)), 0)
  let a := decideGo per per next s.byPri start
  let b := if a.2.2 ≤ per || s.tick.st == .follow then a else decideGo per a.2.2 next s.byPri start
  (b.1, if b.2.2 = 0 then per else b.2.2, b.2.2 != 0)

/-- The clusters of no partition run a known-answer step once KAI has elapsed (R269). -/
def State.katUnowned (s : State) (next : BitVec 48) : State :=
  if !s.katFree then s
  else
    let cs := s.unownedAll
    match (if cs = [] then none else s.katPick none cs true s.kat.age) with
    | some k => s.katChoose none k next
    | none => s

/-! ### A member's report (R369) -/

/-- What each function has reserved since the last cut. -/
def State.resvNow (s : State) : Resv :=
  s.parts.map (fun f => (f, match (s.fnAt f).choice with | some c => some c.energy | none => s.firstResv f))

/-- The largest energy a job may reserve here under R196: of what each limit leaves beside the others' reservations, its share. -/
def State.roomOf (s : State) (f per : Nat) : Q :=
  let r := s.resvNow.put f Q.zero
  let n := (s.live f).length
  if !s.fits r per then Q.zero
  else
    let hs := s.limitFields.filter (fun h => s.liveIn f h != 0 && !(s.kfAt h).lossForce)
    let share (k : Nat) (room : Q) : Q := room.mul (mkQ (n : Int) k)
    let k := (hs.map (s.liveIn f)).sum
    let total := sumQ (s.limitFields.map (fun h => s.fieldResv r h per))
    if k = 0 then s.waferE per
    else hs.foldl (fun (m : Q) h => m.min (share (s.liveIn f h) ((s.fieldE h per).sub (s.fieldResv r h per))))
      (share k ((s.waferE per).sub total))

/-- A quantity as a register of w bits, in `unit` nJ or ns, rounded down and clipped. -/
def clipQ (w unit : Nat) (q : Q) : BitVec w := BitVec.ofNat w (Nat.min (Q.floor (q.div (Q.ofNat unit))).toNat (2 ^ w - 1))

/-- A forecast rounded up, so that no rounding lowers it (DESIGN CHOICE). -/
def clipUp (w unit : Nat) (q : Q) : BitVec w := BitVec.ofNat w (Nat.min (Q.ceil (q.div (Q.ofNat unit))) (2 ^ w - 1))

/-- The lists a report names: the first 16 in admission order that are, or may be at a cut, candidates. -/
def State.reported (s : State) (f : Nat) : List Nat :=
  ((s.fnAt f).order.filter (fun p => (s.plAt p).st == .queued || (s.plAt p).st == .running)).take 16

/-- The report on one job. A job with CAP 0 has no budget of its own: all ones. -/
def State.kilnReport (s : State) (f : Nat) : SbKiln :=
  let per := s.tick.perNext
  let x := s.fnAt f
  { src := ⟨s.self % 32, Nat.mod_lt _ (by decide)⟩, func := fnOfNat f
    bud := if x.cap16 = 0 then 0xFFFFFFFF else clipQ 32 1000 ((x.allowance per).add (x.clampBal per x.bal))
    head := clipQ 32 1000 (s.roomOf f per), intv := BitVec.ofNat 16 (s.intvNow - 1)
    cands := (s.reported f).map (fun p =>
      (BitVec.ofNat 11 p, clipUp 27 1 (s.forecastT p (s.plAt p).img per), clipUp 26 64000 (s.forecastE f p (s.plAt p).img per per))) }

/-- What the end of an interval has a member's kiln send. -/
def State.sendReports (s : State) : State :=
  if s.span.st = .member then forAll s.jobs (fun s f => s.toWafer s.span.lead.toNat (.kiln (s.kilnReport f))) s else s

/-- KILN_REPORT_SEND. -/
def execKilnReportSend (s : State) : Out := .next s.sendReports

end Sys2Proof.Machine
end

