-- ==== Sys2Proof/Machine/Tick.lean ====
section
/-! DEFINITION. The tick: RUN, the dispatch cut, TICK_NOTE, the hold point, held edges and the deadline, the edge and what it
starts, PITCH at a hub, and a span member's tick (R39, R163-R182, R255, R362, R363). Times are in cycles, periods in ns. -/

namespace Sys2Proof.Machine

open Sys2Proof

/-! ### Periods (R165, R166) -/

/-- Now is a moment of the grid: an edge may be issued. -/
def State.onGrid (s : State) : Bool := s.now % 3 == 0

def State.withTick (s : State) (g : Tick → Tick) : State := { s with tick := g s.tick }

/-! ### RUN and the latch of TICK_HI -/

/-- RUN_WRITE: a write to RUN (R167). In FOLLOW it only sets the bit. -/
def State.writeRun (s : State) (run : Bool) : State :=
  if s.bru.step ≠ 15 then s
  else
    let s := s.withTick (fun t => { t with ctrl := setBits t.ctrl 0 1 (b2n run) })
    match s.tick.st, run with
    | .stopped, true => s.withTick (fun t => { t.halt with st := .running, pred := gridUp s.now + cyc 4000 })
    | .running, _ | .held, _ => s.withTick (fun t => { t with stopReq := !run })
    | _, _ => s

def execRunWrite (run : Bool) (s : State) : Out := .next (s.writeRun run)

/-- TICK_NOW_LATCH: a read of VSF_TCK_NOW_LO (R165). -/
def State.latchNow (s : State) : State :=
  (s.withTick (fun t => { t with hiLatch := BitVec.ofNat 16 (bits t.num.toNat 32 16) })).emit
    (.regData (BitVec.ofNat 32 s.tick.num.toNat))

def execTickNowLatch (s : State) : Out := .next (if s.bru.step = 15 then s.latchNow else s.emit (.regData 0))

/-! ### The dispatch cut -/

/-- A cut is due: 2.000 µs before the predicted edge; on a member, once the lead's CUT form has come (DEDUCED). -/
def State.cutDue (s : State) : Bool :=
  match s.tick.st with
  | .running => !s.tick.cutDone && decide (s.tick.pred ≤ s.now + cyc 2000)
  | .follow => !s.tick.cutDone && s.tick.lead.isSome
  | _ => false

/-- Registers and notices that take effect at a cut, and the clusters that count from it (R182, R189, R209, R241). -/
def State.latchRegs (s : State) : State :=
  let s := s.mapFn (fun x => { x with
    capF := x.cap, cmtCtrlF := x.cmtCtrl, cmtTolF := x.cmtTol, throt := { x.throt with inForce := x.throt.noticed } })
  let s := forAll s.parts (fun s f => s.updFn f (fun x => { x with nLive := (s.live f).length })) s
  let k := s.kiln
  { s with kiln := { k with limitF := k.limit, idleF := k.idle, thermF := k.therm, didtF := k.didt, rcvF := k.rcv } }

/-- A replay waits one tick more for the members' ready reports (R229). -/
def State.waitReady (s : State) : State :=
  forAll s.parts (fun s f =>
    if (s.fnAt f).cst = .suspect ∧ !s.allReady f then s.updFn f (fun x => { x with readyWait := x.readyWait + 1 }) else s) s

/-- A member's cool ticks: its lead has dispatched no step of the job in the tick that runs (R197, R200). -/
def State.coolMembers (s : State) : State :=
  forAll s.parts (fun s f => s.updFn f (fun x =>
    let ran := match x.open_.head? with | some u => u.plid.isSome | none => true
    { x with coolDue := false, coolCnt := if x.coolDue && !ran then satInc x.coolCnt else x.coolCnt })) s

/-- A is clamped to the W of the coming tick, and ACC shows what the cut used (R189, R190). -/
def State.latchAcc (s : State) (per : Nat) : State :=
  forAll s.parts (fun s f => s.updFn f (fun x =>
    let a := x.clampBal per x.bal
    { x with bal := a, acc := BitVec.ofInt 32 (a.div (Q.ofNat 1000)).floor })) s

/-- PITCH of an image with its grants, for tick `tick` of this wafer (R255). -/
def pitchMsg (f plid : Nat) (rpl : BitVec 2) (tick : BitVec 48) (step : BitVec 32) (gops : List (BitVec 3)) (m : PitchImage) :
    PitchMsg :=
  { func := fnOfNat f, plid := BitVec.ofNat 11 plid, rpl := rpl, cmt := m.cmt
    tick := BitVec.ofNat 32 tick.toNat, heel := m.heel, commit := m.commit, step := step, gops := gops
    phases := m.phases.map (·.bars), bounds := m.binds.map (fun b => (b.ph, b.bar)) }

/-- PITCH of a choice (R253, R255). -/
def State.pitchOf (s : State) (f : Nat) (c : Choice) (tick : BitVec 48) : PitchMsg :=
  pitchMsg f c.image (if c.replay then (s.fnAt f).rpl + 1 else 0) tick c.step c.gops c.img

/-- A PITCH to the hubs of some fields. -/
def State.pitchTo (s : State) (hs : List Nat) (m : PitchMsg) : State :=
  s.sendAll ((hs.filter (fun h => !(s.hubAt h).muz)).map (fun h => .pitch h (s.hubAt h).epoch m))

/-- PITCH to every hub whose field holds a cluster of the partition. -/
def State.sendPitch (s : State) (f : Nat) (c : Choice) (tick : BitVec 48) : State :=
  s.pitchTo (s.fieldsOf f) (s.pitchOf f c tick)

/-- PITCH of the known-answer step that was chosen, to the hubs of its clusters (R255, R269). -/
def State.katPitch (s : State) (next : BitVec 48) : State :=
  match s.kat.cur with
  | some k =>
    if k.begun then s
    else s.pitchTo (k.set.map fieldOf).eraseDups (pitchMsg (k.owner.getD 0) k.run.plid 0 next k.run.key k.run.gops k.run.img)
  | none => s

/-- SB_PITCH of a choice (R363). -/
def State.sbPitchOf (s : State) (f : Nat) (c : Choice) : SbPitch :=
  let m := s.pitchOf f c 0
  { func := m.func, plid := m.plid, rpl := m.rpl, gops := m.gops, step := m.step }

/-- SB_TICK of the coming edge, with a time of the lead's time base. -/
def State.sbTick (s : State) (at_ : Nat) : SbTick :=
  let t := s.tick
  { tick := t.nextNum, pch := t.any && t.perNext != t.per, lvl := t.lvl, etime := BitVec.ofNat 48 (at_ / 3)
    stbf := BitVec.ofNat 8 (bits t.ctrl.toNat 8 8), per := BitVec.ofNat 27 t.perNext }

/-- LEVEL is in force for some job on this wafer: by its policy, by a fallback, or because a dispatch was levelled (R169). -/
def State.anyLevel (s : State) (dispatched : Bool) : Bool := dispatched || s.parts.any (fun f => (s.fnAt f).levels)

/-- What the cut sends: the lead's frames, and PITCH for every choice made here. -/
def State.sendCut (s : State) (next : BitVec 48) : State :=
  let lead := s.span.st == .lead
  let s := if lead then s.toAll (.tickCut (s.sbTick s.tick.pred)) else s
  forAll s.parts (fun s f =>
    match (s.fnAt f).choice with
    | some c =>
      if (s.fnAt f).job && !lead then s
      else
        let s := s.sendPitch f c next
        if (s.fnAt f).job then s.toAll (.pitch (s.sbPitchOf f c)) else s
    | none => s) (s.katPitch next)

/-- The work of a cut, in order: what takes effect at it, retries, decisions, messages, views (R39, R195, R259, R265). -/
def State.cutWork (s : State) : State :=
  let follow := s.tick.st == .follow
  let next := s.tick.nextNum
  let s := (((if follow then s else s.chooseSwitch next).latchRegs).retrySlots).waitReady
  let per0 := if follow then s.tick.perNext else s.setPer
  let d := (if follow then s.coolMembers else s).decideAll per0 next
  let s := d.1.katUnowned next
  let s := if follow then (s.latchAcc per0).withTick (fun t => { t with cutDone := true })
    else
      let lvl := s.anyLevel d.2.2
      (s.latchAcc d.2.1).withTick (fun t => { t with cutDone := true, perNext := d.2.1, lvl := lvl })
  (s.sendCut next).cutViews

/-- DISPATCH_CUT. RUN written 0 stops the generator here; a lead that leaves dissolves its span here. -/
def State.cut (s : State) : State :=
  if !s.cutDue then s
  else if s.tick.stopReq then s.withTick Tick.halt
  else
    let s := s.cutLeaves
    if s.tick.st = .stopped then s else s.cutWork

def execDispatchCut (s : State) : Out := .next s.cut

/-! ### TICK_NOTE -/

/-- The note of the coming edge. -/
def State.tickNote (s : State) : TickNote :=
  let m := s.sbTick 0
  let pch := match s.tick.lead with | some l => l.pch | none => m.pch
  { tick := BitVec.ofNat 32 s.tick.nextNum.toNat, pch := pch, lvl := s.tick.lvl, per := m.per }

/-- A member whose own heel point is unreleased asks the lead to hold (R181). -/
def State.askHold (s : State) : State :=
  if s.span.st != .member || s.heelsDone then s
  else
    let n := match s.tick.lead with | some m => m.tick | none => s.tick.nextNum
    ({ s with span := { s.span with holds := s.self :: s.span.holds } }).toWafer s.span.lead.toNat (.hold n true)

/-- TICK_NOTE_INJECT: 1.500 µs before the predicted edge, to every hub (R169). -/
def State.injectNote (s : State) : State :=
  if !s.tick.cutDone || s.tick.noted || s.tick.st == .held || !decide (s.tick.pred ≤ s.now + cyc 1500) then s
  else
    let n := s.tickNote
    ((s.sendAll (s.hubsUp.map (fun h => .tickNote h none n))).withTick (fun t => { t with noted := true })).askHold

def execTickNoteInject (s : State) : Out := .next s.injectNote

/-- TICK_NOTE at a hub, which forwards it to its in-service CSNs; at a CSN, which keeps it for the coming edge; the port of a
CSN in reset discards it (R67, R169, R170). -/
def State.noteAt (s : State) (h : Nat) (cl : Option Nat) (n : TickNote) : State :=
  let s := s.taken (.tickNote h cl n)
  match cl with
  | none => if (s.hubAt h).muz then s else s.sendAll ((s.fieldLive h).map (fun c => .tickNote h (some c) n))
  | some c =>
    if (s.csnAt c).rst.isSome then s.updCsn c (fun x => { x with eject := x.eject + 1 })
    else s.updCsn c (fun x => { x with note := some n.tick })

def execTickNote (hub : Field) (cl : Option Loc) (n : TickNote) (s : State) : Out :=
  let c := cl.map (fun l => Cluster.id ⟨hub, l⟩)
  let m := Msg.tickNote hub.val c n
  .next (if s.stopped m then s.stopMsg m else s.noteAt hub.val c n)

/-- The edge that a repeater predicts has been due for 10 ns, and it has issued none (R63). -/
def State.edgeMissing (s : State) (h : Nat) : Bool :=
  match (s.hubAt h).edgeAt with | some e => decide (e + cyc 10 ≤ s.now) | none => false

/-- SPINE_EDGE_MISSING: the repeater issues the edge from its counter, muzzles its spine input and reports it (R63). -/
def State.spineLate (s : State) (h : Nat) : State :=
  if !s.edgeMissing h then s
  else
    let s := (s.updHub h (fun x => { x with edgeAt := none })).emit (.csnEdge h)
    if (s.hubAt h).spineMuz then s
    else (s.updHub h (fun x => { x with spineMuz := true })).report 0x11 (unitId .spine h) 1 0 5 none

def execSpineEdgeMissing (hub : Field) (s : State) : Out := .next (s.spineLate hub.val)

/-! ### The edge: accounts, steps, hubs -/

/-- The choice that the edge starts (R39): the step before it has ended, and the commit record still allows it. -/
def State.startable (s : State) (f : Nat) : Option Choice :=
  let x := s.fnAt f
  match x.choice with
  | none => none
  | some c =>
    let cmtOk := if c.replay then x.cst == .suspect else x.cst != .suspect && x.cst != .failed && x.cst != .poisoned
    if x.run.isNone && x.rst.isNone && !x.broken && (s.plAt c.plid).st == .running && cmtOk then some c else none

/-- A tick begins in a partition's account: the tick before it stops, this one counts provisionally (R188, R190). -/
def State.openTick (s : State) (f : Nat) (c : Option Choice) : State :=
  let per := s.tick.per
  let idle := s.idleE (s.fnAt f).nLive per
  let fc := match c with | some c => c.energy | none => idle
  let u : Unsettled :=
    { tick := s.tick.num.toNat, start := s.now, stop := none, w := (s.fnAt f).allowance per, forecast := fc, got := Q.zero
      plid := c.map (·.image), norm := (c.map (·.norm)).getD ⟨1, 1⟩, normT := (c.map (·.normT)).getD ⟨1, 1⟩, dur := none
      clean := match c with | some c => !c.replay | none => false }
  s.updFn f (fun x => { x with
    open_ := u :: x.open_.map (fun v => if v.stop.isNone then { v with stop := some s.now } else v)
    bal := x.clampBal per (x.bal.add (u.w.sub u.forecast)), kaAge := x.kaAge + 1 })

/-- The step of a choice begins at the root (R223, R246, R251). -/
def State.startStep (s : State) (f : Nat) (c : Choice) : State :=
  let m := c.img
  let s := s.beginStep f m.cmt c.replay c.step.toNat
  let r : Run :=
    { plid := c.plid, image := c.image, img := m, slots := c.slots, gops := c.gops, rpl := if c.replay then (s.fnAt f).rpl else 0, tick := s.tick.num.toNat
      key := c.step, phase := 0, opened := 0, waitOrd := false, bound := [], commitOpen := false, commitDone := false
      heelOpen := false, heelDone := false, counted := false, start := s.now, closers := [] }
  let s := s.updFn f (fun x => { x with run := some r, choice := none })
  let s := forAll (imgBars m).eraseDups (fun s b =>
    if (s.precAt b).st = .free then s else s.updPrec b (fun r => { r with seq := 0 })) s
  (s.enterPhase f m 0).walkGo f

/-- The choice of a partition starts its step, or is void. -/
def State.takeChoice (s : State) (f : Nat) : State :=
  match s.startable f with
  | some c => s.startStep f c
  | none => s.voidChoice f

/-- A member's span job whose heel point is unreleased here at an edge before D: the lead has released it, and its SB_RELEASE is
on the way (R176, R181). -/
def State.inFlight (s : State) (f : Nat) : Bool :=
  s.tick.st == .follow && (s.fnAt f).job && !(s.fnAt f).broken && (s.fnAt f).run.isSome

/-- One partition at an edge. -/
def State.edgeFn (s : State) (f : Nat) : State :=
  if s.inFlight f then (s.openTick f (s.fnAt f).choice).updFn f (fun x => { x with edgeHeld := true })
  else (s.openTick f (s.startable f)).takeChoice f

/-- A hub's walk under a key takes the PITCH that it holds for the edge. -/
def takeWalk (t : Tbl (Option HubWalk)) (k : Nat) : Tbl (Option HubWalk) :=
  match tget none t (k + 64) with
  | some w => tset none (tset none t (k + 64) none) k (some { w with edge := true, started := false, phase := 0 })
  | none => t

/-- A hub at an edge: the started walks take their PITCH; other PITCHes of the edge are void, but those that still wait. -/
def hubTakesEdge (started waiting : List Nat) (x : Hub) : Hub :=
  let w := started.foldl takeWalk x.walks
  { x with edgeAt := none, walks := w.filter (fun p => p.1 % 128 < 64 || waiting.contains (p.1 - 64)) }

/-- The hubs at an edge (R172). -/
def State.hubsEdge (s : State) (started waiting : List Nat) : State :=
  let s := s.mapHub (hubTakesEdge started waiting)
  forAll (tkeys s.hub) (fun s h => s.hubStart h) s

/-- The known-answer step that was chosen for this edge begins (R269). -/
def State.katBegin (s : State) : State :=
  let s := { s with kat := { s.kat with age := s.kat.age + 1 } }
  match s.kat.cur with
  | some k =>
    if k.begun then s
    else
      let r := { k.run with start := s.now, tick := s.tick.num.toNat }
      let s := { s with kat := { s.kat with cur := some { k with begun := true, run := r } } }
      (s.enterPhase katWalker k.run.img 0).walkGo katWalker
  | none => s

/-- The tick's own registers at an edge (R163, R164). A held generator whose RUN was written 0 stops after it (R167). -/
def Tick.advance (t : Tick) (now : Nat) : Tick :=
  let u := { t with
    num := t.nextNum, any := true, per := t.perNext, pred := now + cyc t.perNext, cutDone := false, noted := false, passed := false
    dueNow := false, etime := none, late := [], lastHeel := none, lead := none, st := if t.st = .held then .running else t.st }
  if t.st = .held && t.stopReq then u.halt else u

/-- The switch of a formation whose tick this is (R377). -/
def State.switchDue (s : State) : Bool :=
  match s.span.forming with
  | some x => (match x.switch with | some m => m.t == s.tick.num | none => false)
  | none => false

/-- The edge is issued. `late`: the functions that a held edge counts a stretch for (R177). -/
def State.issueEdge (s : State) (late : List Nat) : State :=
  let s := forAll late (fun s f => s.updFn f (fun x => { x with str := satInc x.str })) s
  let s := { s with tick := s.tick.advance s.now, span := { s.span with holds := [] } }
  let s := s.emit (.spineEdge s.tick.num)
  let s := s.sendAll ((s.csn.filter (fun p => p.2.spineFail && s.inService p.1)).map (fun p => .edge p.1))
  let s := forAll (s.parts.filter (fun f => (s.fnAt f).subs != [] &&
    ((s.fnAt f).cst == .idle || (s.fnAt f).cst == .failed || (s.fnAt f).cst == .poisoned))) (fun s f => s.freeSubs f) s
  let waiting := s.parts.filter s.inFlight
  let started := s.parts.filter (fun f => (s.startable f).isSome)
  let kat := match s.kat.cur with | some k => if k.begun then [] else [walkKey katWalker] | none => []
  let s := ((forAll s.parts (fun s f => s.edgeFn f) s).katBegin).hubsEdge (started ++ kat) waiting
  let s := forAll s.hubsUp (fun s h => s.updHub h (fun x => { x with edgeAt := some s.now })) s
  if s.switchDue then s.doSwitch else s

/-! ### The hold point, held edges, the deadline (R177-R179) -/

/-- Nothing holds the edge: no heel point here is unreleased, and at the lead no member holds. -/
def State.noHold (s : State) : Bool := s.heelsDone && (s.span.st != .lead || s.span.holds.isEmpty)

/-- The lead announces the edge (R362). -/
def State.announceEdge (s : State) (at_ : Nat) : State :=
  (s.toAll (.tickEdge (s.sbTick at_))).withTick (fun t => { t with etime := some at_ })

/-- The announced time has come. -/
def State.etimeDue (s : State) : Bool := match s.tick.etime with | some e => s.onGrid && decide (e ≤ s.now) | none => false

/-- HOLD_POINT: at the predicted edge, or 1,000 ns before it at the lead of a span, which announces the edge there and issues
it at the time announced. -/
def State.holdPoint (s : State) : State :=
  let lead := s.span.st == .lead
  let t := s.tick
  if t.st ≠ .running ∨ !t.noted then s
  else if t.passed then (if s.etimeDue then s.issueEdge [] else s)
  else if s.now < (if lead then t.pred - cyc 1000 else t.pred) then s
  else if s.noHold then
    if lead then (s.withTick (fun t => { t with passed := true })).announceEdge (Nat.max t.pred (gridUp (s.now + cyc 1000)))
    else if s.onGrid then s.issueEdge [] else s
  else
    let late := s.heelsOpen
    s.withTick (fun t => { t with st := .held, passed := true, late := late, dead := t.pred + cyc (s.stretchOf t.per) })

def execHoldPoint (s : State) : Out := .next s.holdPoint

/-- HELD_EDGE: 40 ns after the last release; in a span, 1,000 ns after the lead has learnt of it, which announces it then;
never later than D, which the lead announces 1,000 ns ahead at the latest. -/
def State.heldEdge (s : State) : State :=
  let t := s.tick
  if t.st ≠ .held then s
  else if t.etime.isSome then (if s.etimeDue && s.noHold then s.issueEdge t.late else s)
  else if !s.noHold then s
  else
    let last := t.lastHeel.getD s.now
    let soon := gridUp (s.now + cyc 1000)
    if s.span.st = .lead then s.announceEdge (if soon ≤ t.dead then soon else Nat.max t.dead (gridUp s.now))
    else if s.onGrid && decide (Nat.min (gridUp (last + cyc 40)) t.dead ≤ s.now) then s.issueEdge t.late
    else s

def execHeldEdge (s : State) : Out := .next s.heldEdge

/-- A heel point still unreleased whose decision is being made now (R111, R178). -/
def State.heelDeciding (s : State) : Bool :=
  s.heelsOpen.any (fun f =>
    match (s.fnAt f).run with
    | some r =>
      let b := r.img.heel.toNat
      r.heelOpen && ((s.precAt b).st == .deciding || (s.precAt b).scope == 2 && (s.srecAt b).deciding)
    | none => false)

/-- Every heel point unreleased at D is overrun, a known-answer step among them ends, and the edge is issued (R179). -/
def State.overrunEdge (s : State) : State := ((forAll s.heelsOpen (fun s f => s.overrunFn f) s).katStop).issueEdge s.tick.late

/-- The moment at which a held edge is issued whatever is unreleased: D, or what the lead has announced for it. -/
def Tick.deadAt (t : Tick) : Nat := t.etime.getD t.dead

/-- TICK_DEADLINE: at D the edge is issued, and every partition whose heel point is unreleased is overrun. The lead announces
it 1,000 ns before (R181). A heel point whose release is decided in the root cycle that contains D counts as released before
it: while one is being decided, the cycle's end acts (R178). -/
def State.tickDeadline (s : State) : State :=
  let t := s.tick
  if t.st ≠ .held then s
  else
    let s := if s.span.st == .lead && t.etime.isNone && decide (t.dead ≤ s.now + cyc 1000) then
        s.announceEdge (Nat.max (gridUp (s.now + cyc 1000)) t.dead)
      else s
    let d := s.tick.deadAt
    if s.now < d || !s.onGrid then s
    else if s.now = d && s.heelDeciding then s.withTick (fun t => { t with dueNow := true })
    else s.overrunEdge

def execTickDeadline (s : State) : Out := .next s.tickDeadline

/-- A span job's heel point has been released here after the edge that its lead issued: the step of the choice begins now. -/
def State.lateEdge (s : State) (f : Nat) : State :=
  let x := s.fnAt f
  if !x.edgeHeld || x.run.isSome then s
  else
    let on := (s.startable f).isSome
    let s := (s.updFn f (fun x => { x with edgeHeld := false })).takeChoice f
    if on then forAll (tkeys s.hub) (fun s h => (s.updHub h (fun x => { x with walks := takeWalk x.walks f })).hubStart h) s else s

/-- The end of a cycle: the records that it made ready take their order (R318), the steps that an edge has left for a heel
release, and what had to wait for a decision of the same cycle (R178). -/
def State.cycleEnd (s : State) : State :=
  let s := s.mapRing Ring.cycleEnd
  let s := forAll s.parts (fun s f => s.lateEdge f) s
  if !s.tick.dueNow then s
  else
    let s := s.withTick (fun t => { t with dueNow := false })
    if s.tick.st ≠ .held then s else if s.noHold then s.issueEdge s.tick.late else s.overrunEdge

/-! ### PITCH at a hub (R255, R363) -/

/-- The walker of a PITCH: the known-answer lists are those from PLID 2,032 on (R269). -/
def pitchWalker (m : PitchMsg) : Nat := if 2032 ≤ m.plid.toNat then katWalker else m.func.val

/-- The step of a PITCH is the one that runs, of a tick whose edge has passed; it does not wait for a heel release. -/
def State.pitchLate (s : State) (w : Nat) (m : PitchMsg) : Bool :=
  s.tick.any && m.tick == BitVec.ofNat 32 s.tick.num.toNat && !(w != katWalker && (s.fnAt w).edgeHeld)

/-- A hub prepares to walk the step from the edge; after the edge it walks it at once. `differ`: the hub's sequencers disagree
about the message (R232, R233). -/
def State.takePitch (s : State) (h : Nat) (tep : Epoch) (m : PitchMsg) (differ : Bool) : State :=
  let s := s.taken (.pitch h tep m)
  let w := pitchWalker m
  if tep ≠ (s.hubAt h).epoch ∨ (s.hubAt h).muz then s
  else if differ then s.diverge h (s.walkFn w)
  else
    let put (s : State) (k : Nat) (e : Bool) : State :=
      s.updHub h (fun x => { x with walks := tset none x.walks k (some { msg := m, edge := e, started := false, phase := 0 }) })
    if s.pitchLate w m then (if (s.runOf w).isNone then s else (put s (walkKey w) true).hubStart h)
    else put s (walkKey w + 64) false

def execPitch (hub : HubIn) (tep : Epoch) (m : PitchMsg) (s : State) : Out :=
  let x := Msg.pitch hub.hub.val tep m
  .next (if s.stopped x then s.stopMsg x else s.takePitch hub.hub.val tep m hub.differ)

/-! ### The tick of a span member (R181, R361-R363) -/

/-- A time of the lead's time base, in cycles of this wafer's: a moment of its grid. -/
def State.localTime (s : State) (t : BitVec 48) : Nat :=
  (3 * ((s.ns : Int) + (t - BitVec.ofInt 48 ((s.ns : Int) + s.leadOff)).toInt)).toNat

/-- A wafer that joins a span switches at the first tick of the new SGEN (R377). -/
def State.joinTick (s : State) (g : BitVec 16) : State :=
  match s.span.forming with
  | some x => (match x.switch with | some m => if m.sgen = g ∧ m.stays ∧ s.span.sgen ≠ g then s.doSwitch else s | none => s)
  | none => s

/-- SB_TICK CUT at a member. -/
def State.takeCutForm (s : State) (m : SbTick) : State :=
  s.withTick (fun t => { t with
    lead := some m, stbfLead := m.stbf, pred := s.localTime m.etime, perNext := clampPer m.per.toNat, lvl := m.lvl })

def execSbTickCut (sgen : BitVec 16) (m : SbTick) (s : State) : Out :=
  .next (
    let s := s.joinTick sgen
    if s.sgenOk sgen && s.tick.st == .follow then s.takeCutForm m else s)

/-- The functions an edge at time e counts a stretch for on a member: those unreleased at the hold point (R177). -/
def State.lateAt (s : State) (e : Nat) : List Nat := if s.tick.pred < e then (s.tick.late ++ s.heelsOpen).eraseDups else []

/-- An edge at time e comes no earlier than D: the lead has overrun what was unreleased at it (R181). -/
def State.pastDead (s : State) (e : Nat) : Bool := decide (s.tick.pred + cyc (s.stretchOf s.tick.per) ≤ e)

/-- A member's edge of time e: heel points unreleased here are overrun, but those of span jobs only at D; then a wafer that was
leaving leaves (R179, R181, R380). -/
def State.memberEdge (s : State) (e : Nat) (late : List Nat) : State :=
  let fs := s.heelsOpen.filter (fun f => s.pastDead e || !(s.fnAt f).job)
  let s := ((forAll fs (fun s f => s.overrunFn f) s).katStop).issueEdge late
  if s.span.leaving && s.span.st == .member then s.leaveSpan else s

/-- SB_TICK EDGE at a member: the time of the edge. One that is past issues the edge on arrival, at the next moment of the grid,
and every span job's function counts a stretch (R362). -/
def State.takeEdgeForm (s : State) (m : SbTick) : State :=
  let e := s.localTime m.etime
  if s.now ≤ e then s.withTick (fun t => { t with etime := some e })
  else
    let late := (s.lateAt e ++ s.jobs).eraseDups
    if s.onGrid then s.memberEdge s.now late
    else s.withTick (fun t => { t with etime := some (gridUp s.now), late := late })

def execSbTickEdge (sgen : BitVec 16) (m : SbTick) (s : State) : Out :=
  .next (if s.sgenOk sgen && s.tick.st == .follow && s.tick.lead.isSome then s.takeEdgeForm m else s)

/-- FOLLOW_EDGE: the announced time has come. -/
def State.followEdge (s : State) : State :=
  match s.tick.st, s.tick.etime with
  | .follow, some e => if s.onGrid && decide (e ≤ s.now) then s.memberEdge e (s.lateAt e) else s
  | _, _ => s

def execFollowEdge (s : State) : Out := .next s.followEdge

/-- The list whose step an SB_PITCH names by its own PLID or by its lighter variant's. -/
def State.ownerOf (s : State) (f v : Nat) : Nat :=
  if (s.plAt v).st = .variant then ((s.fnAt f).order.find? (fun p => (s.plAt p).img.var.toNat == v)).getD v else v

/-- The candidate that an SB_PITCH names: the step to replay with the image that it ran, or a list's image of now. -/
def State.sbCand (s : State) (m : SbPitch) : Cand :=
  let f := m.func.val
  let v := m.plid.toNat
  match (if m.rpl = 0 then none else (s.fnAt f).replayOf) with
  | some r => ⟨f, r.1, r.2.1, r.2.2, true⟩
  | none => ⟨f, s.ownerOf f v, v, (s.plAt v).img, m.rpl != 0⟩

/-- The choice that the lead's dispatch makes here, with this wafer's own forecasts. -/
def State.followChoice (s : State) (m : SbPitch) : Choice :=
  let c := s.sbCand m
  let t := s.tryGrants [] c (m.gops.take c.img.phases.length) s.tick.perNext s.tick.perNext 0
  { t.c with step := m.step, slots := s.activeSlots c.img }

/-- The edge has passed: the step starts at once, or with the heel release that it waits for, and its forecast replaces the
idle one (R363, R369). -/
def State.lateStart (s : State) (f : Nat) (c : Choice) : State :=
  let s := s.updFn f (fun x =>
    match x.open_ with
    | u :: us =>
      { x with bal := x.clampBal s.tick.per (x.bal.add (u.forecast.sub c.energy))
               open_ := { u with forecast := c.energy, plid := some c.image, norm := c.norm, normT := c.normT, clean := false } :: us }
    | [] => x)
  if (s.fnAt f).edgeHeld then s else s.takeChoice f

/-- SB_PITCH at a member: its own choice, PITCH to its hubs. -/
def State.takeSbPitch (s : State) (m : SbPitch) : State :=
  let f := m.func.val
  let c := s.followChoice m
  let x := s.fnAt f
  if !x.job || x.broken || x.choice.isSome || (s.plAt c.plid).st != .queued then s
  else
    let s := (s.updFn f (fun x => { x with choice := some c, jobFc := some c.energy })).updPl c.plid (fun p => { p with st := .running })
    let s := if c.replay ∧ c.img.binds ≠ [] then s.sameView c.plid else s
    if s.tick.lead.isSome then s.sendPitch f c s.tick.nextNum
    else (s.sendPitch f c s.tick.num).lateStart f c

def execSbPitch (sgen : BitVec 16) (m : SbPitch) (s : State) : Out :=
  .next (if s.sgenOk sgen && s.tick.st == .follow then s.takeSbPitch m else s)

end Sys2Proof.Machine
end

