-- ==== Sys2Proof/Machine/Rings.lean ====
section
/-! DEFINITION. Doorbells and descriptor fetch, ring control and sparge, the DATA and INFO families (R302-R315, R322-R324). -/

namespace Sys2Proof.Machine

open Sys2Proof

/-! ### Access (R302, R408) -/

/-- A function's access to a ring's block or doorbell page: denied and counted where it does not hold the ring; ignored
while bring-up runs. -/
def State.ringAccess (s : State) (f r : Nat) (g : State → State) : State :=
  if s.bru.step ≠ 15 then s
  else if (s.fnAt f).rings.contains r then g s
  else s.updFn f (fun x => { x with deny := satInc x.deny })

/-! ### Doorbells and fetch (R307, R308) -/

/-- Descriptor reads up to the producer index: at most 8 a request, none across the end of the queue. -/
def fetchGo (r : Nat) : Nat → State → State
  | 0, s => s
  | fuel + 1, s =>
    let x := s.ringAt r
    let left := (x.pi + x.size - x.asked) % x.size
    if left = 0 then s
    else
      let n := Nat.min 8 (Nat.min left (x.size - x.asked))
      fetchGo r fuel ((s.updRing r (fun y => { y with asked := (y.asked + n) % y.size })).emit (.sqRead r x.asked n))

/-- The ring engine fetches; not under HOLD, nor while the partition resets (R349, R391). -/
def State.fetchRing (s : State) (r : Nat) : State :=
  match s.ringFn r with
  | none => s
  | some f =>
    if (s.ringAt r).st ≠ .run ∨ (s.fnAt f).hold ∨ (s.fnAt f).rst.isSome then s else fetchGo r (s.ringAt r).size s

/-- A doorbell outside its bounds: PI beyond the ring, or behind descriptors already exposed. Its outcome is unpredictable
(R307); it has none (assumption 12, DESIGN CHOICE). -/
def Ring.badPi (x : Ring) (p : Nat) : Bool :=
  x.st == .run && (decide (x.size ≤ p) || decide ((p + x.size - x.sqc) % x.size < (x.pi + x.size - x.sqc) % x.size))

/-- VSF_HIF_DB_SQ: ignored unless the ring is in RUN. -/
def State.doorSq (s : State) (r p : Nat) : State :=
  if (s.ringAt r).st = .run && !(s.ringAt r).badPi p then (s.updRing r (fun x => { x with pi := p })).fetchRing r else s

def execVsfHifDbSq (f : Func) (r : RingIx) (pidx : BitVec 16) (s : State) : Out :=
  .next (s.ringAccess f.val r.val (fun s => s.doorSq r.val pidx.toNat))

/-- Records that a HEAD acknowledges. -/
def Ring.acks (x : Ring) (h : Nat) : Nat :=
  let n := (h + x.size - x.head) % x.size
  if n = 0 && x.unack == x.size then x.size else n

/-- A HEAD outside the records posted and not yet acknowledged: unpredictable like a PI outside its bounds (R307). -/
def Ring.badHead (x : Ring) (h : Nat) : Bool := x.st != .off && (decide (x.size ≤ h) || decide (x.unack < x.acks h))

/-- VSF_HIF_DB_CQ: ignored in OFF. -/
def State.doorCq (s : State) (r h : Nat) : State :=
  if (s.ringAt r).st = .off || (s.ringAt r).badHead h then s
  else s.updRing r (fun x => { x with unack := x.unack - x.acks h, head := h })

def execVsfHifDbCq (f : Func) (r : RingIx) (head : BitVec 16) (s : State) : Out :=
  .next (s.ringAccess f.val r.val (fun s => s.doorCq r.val head.toNat))

/-- DESC_FETCH_DONE: the descriptors are the ring's next, and start in ring order as they may (R290, R308). What a read
brings after a sparge began is dropped. -/
def State.fetched (s : State) (r : Nat) (ds : List (BitVec 512)) : State :=
  let x := s.ringAt r
  let n := (x.asked + x.size - x.sqc) % x.size
  if x.st ≠ .run then s
  else
    let new := (ds.take n).zipIdx.map (fun p => (⟨BitVec.ofNat 16 ((x.sqc + p.2) % x.size), p.1⟩ : Desc))
    (s.updRing r (fun y => { y with fetched := y.fetched ++ new, sqc := (y.sqc + new.length) % y.size })).startRing r

def execDescFetchDone (r : RingIx) (descs : List (BitVec 512)) (s : State) : Out := .next (s.fetched r.val descs)

/-- NOP completes OK (R310). -/
def execNop (r : RingIx) (sqi : BitVec 16) (s : State) : Out :=
  .next (if ((s.ringAt r.val).toRun sqi 0 0).isSome then s.finish r.val sqi .ok else s)

/-! ### Ring control (R304-R306) -/

/-- OFF to RUN. -/
def Ring.enabled (x : Ring) : Ring :=
  { x with st := .run, en := true, sqc := 0, pi := 0, asked := 0, cqp := 0, head := 0, unack := 0, phase := true, cnt := 0, firstAt := none }

/-- RING_ENABLE: EN written 1. -/
def execRingEnable (f : Func) (r : RingIx) (s : State) : Out :=
  .next (s.ringAccess f.val r.val (fun s => s.updRing r.val (fun x => if x.st = .off then x.enabled else { x with en := true })))

/-- A sparge begins: fetched descriptors end ABORTED, queued kennel requests are withdrawn, a cask barrier of the ring ends. -/
def State.beginSparge (s : State) (f r : Nat) : State :=
  let s := s.updRing r (fun x => { x with
    st := .sparge, pi := x.sqc, asked := x.sqc, fetched := [], ready := x.ready ++ x.fetched.map (fun d => cmdRec d .aborted false 0) })
  let s := s.withdrawRing f r
  match (s.fnAt f).cask with
  | some c => if c.ring = r then s.endCask f .aborted else s
  | none => s

/-- EN written 0. -/
def State.disableRing (s : State) (f r : Nat) : State :=
  let s := s.updRing r (fun x => { x with en := false, st := if x.st = .drained then .off else x.st })
  if (s.ringAt r).st = .run then s.beginSparge f r else s

def execRingDisable (f : Func) (r : RingIx) (s : State) : Out :=
  .next (s.ringAccess f.val r.val (fun s => s.disableRing f.val r.val))

/-- SPARGE written 1. -/
def execRingSparge (f : Func) (r : RingIx) (s : State) : Out :=
  .next (s.ringAccess f.val r.val (fun s => if (s.ringAt r.val).st = .run then s.beginSparge f.val r.val else s))

/-- SPARGE_DRAINED: every started command is posted, and the SPARGED note waits for its place in the completion queue. -/
def State.spargeNote (s : State) (r : Nat) : State :=
  let x := s.ringAt r
  let noted := x.ready.any (fun c => c.note && bits c.bits.toNat 192 16 == 0)
  if x.st = .sparge ∧ x.started.isEmpty ∧ !noted ∧ x.ready.all (fun c => c.cmd.isNone) then
    s.updRing r (fun x => { x with ready := x.ready ++ [spargedRec r] })
  else s

def execSpargeDrained (r : RingIx) (s : State) : Out := .next (s.spargeNote r.val)

/-! ### DATA and INFO (R313-R315) -/

/-- COPY_IN and COPY_OUT: the command goes to the DMA queue. A LEN of 0 completes OK with no access. -/
def State.copy (s : State) (r : Nat) (i : BitVec 16) (out : Bool) (c : Cmd) (f : Nat) : State :=
  let d := c.d.bits
  if dLen d = 0 then s.finish r i .ok
  else (s.begin_ r i).emit (.dmaReq (fnOfNat f) r i out (BitVec.ofNat 64 (dAddr d)) (BitVec.ofNat 64 (dField d 128 64))
    (BitVec.ofNat 32 (dLen d)))

def execCopyIn (r : RingIx) (sqi : BitVec 16) (s : State) : Out :=
  .next (match (s.ringAt r.val).toRun sqi 6 1, s.ringFn r.val with
    | some c, some f => s.copy r.val sqi false c f
    | _, _ => s)

def execCopyOut (r : RingIx) (sqi : BitVec 16) (s : State) : Out :=
  .next (match (s.ringAt r.val).toRun sqi 6 2, s.ringFn r.val with
    | some c, some f => s.copy r.val sqi true c f
    | _, _ => s)

/-- A DATA command that the DMA queue holds. -/
def Ring.dataCmd (x : Ring) (i : BitVec 16) : Option Cmd :=
  match x.cmdAt i with
  | some c => if c.begun && !c.done && dFam c.d.bits == 6 then some c else none
  | none => none

/-- The pages a COPY_OUT wrote are logged before its record. -/
def State.logData (s : State) (f r : Nat) (c : Cmd) : State :=
  if dOp c.d.bits = 2 then s.logWrite f (s.ringAt r).link (dAddr c.d.bits) (dLen c.d.bits) else s

/-- DMA_DONE. -/
def execDmaDone (r : RingIx) (sqi : BitVec 16) (s : State) : Out :=
  .next (match (s.ringAt r.val).dataCmd sqi, s.ringFn r.val with
    | some c, some f => (s.logData f r.val c).finish r.val sqi .ok false (dLen c.d.bits)
    | _, _ => s)

/-- A DATA command ends POISON: its writes may have landed in part, and how many bytes were moved is a free value up to LEN
(R317, R323; assumption 97). -/
def State.poisonData (s : State) (r : Nat) (i : BitVec 16) (c : Cmd) : State :=
  s.drawn.finish r i .poison false (s.peek % (dLen c.d.bits + 1))

/-- DMA_ERR: FENCED with no transfer, or POISON. -/
def execDmaErr (r : RingIx) (sqi : BitVec 16) (fenced : Bool) (s : State) : Out :=
  .next (match (s.ringAt r.val).dataCmd sqi, s.ringFn r.val with
    | some c, some f =>
      if fenced then s.finish r.val sqi .fenced else (s.logData f r.val c).poisonData r.val sqi c
    | _, _ => s)

/-- A write of a command's image to host memory. -/
def State.writeImage (s : State) (f r addr : Nat) (bytes : List Byte) : State :=
  (s.emit (.hostImage (fnOfNat f) (BitVec.ofNat 64 addr) bytes)).logWrite f (s.ringAt r).link addr bytes.length

/-- Size of the distance table image (R69). -/
def distSize : Nat := 3484048

/-- DIST_READ: the first LEN bytes of the image, and no more than it has (R314, R315). -/
def execDistRead (r : RingIx) (sqi : BitVec 16) (s : State) : Out :=
  .next (match (s.ringAt r.val).toRun sqi 7 1, s.ringFn r.val with
    | some c, some f =>
      let n := Nat.min (dLen c.d.bits) distSize
      let res := n + s.mesh.gen.toNat * 2 ^ 32
      if n = 0 then s.finish r.val sqi .ok false res
      else (s.writeImage f r.val (dAddr c.d.bits) (s.distImage.take n)).finish r.val sqi .ok false res
    | _, _ => s)

/-- A command whose meaning reads or writes host memory. -/
def usesHost (c : Cmd) : Bool :=
  let fo := (dFam c.d.bits, dOp c.d.bits)
  (!c.begun && [(2, 1), (3, 1), (4, 1), (5, 1), (5, 2), (7, 1)].contains fo) || fo.1 == 6

/-- HOST_BUS_ERROR: the command completes POISON, and the ring carries on (R322). -/
def execHostBusError (r : RingIx) (sqi : BitVec 16) (s : State) : Out :=
  .next (match (s.ringAt r.val).cmdAt sqi with
    | some c =>
      if c.done || !usesHost c then s
      else if dFam c.d.bits = 6 then s.poisonData r.val sqi c
      else s.finish r.val sqi .poison
    | none => s)

/-! ### COMMIT (R224, R235) -/

/-- CMT_SET: the spare set. A cluster that is not the partition's, or is in a muzzled unit, is FENCED (R8, R224). -/
def State.cmtSet (s : State) (f r : Nat) (i : BitVec 16) (img : List Byte) : State :=
  let cs := (imgMembers img).map (·.1)
  if cs.all (fun c => (s.fnAt f).members.contains c && s.inService c) then
    (s.updFn f (fun x => { x with spares := cs })).finish r i .ok
  else s.finish r i .fenced

def execCmtSet (r : RingIx) (sqi : BitVec 16) (img : List Byte) (s : State) : Out :=
  .next (match (s.ringAt r.val).toRun sqi 3 1, s.ringFn r.val with
    | some _, some f => s.cmtSet f r.val sqi img
    | _, _ => s)

/-- CASK_BAR: at once where e is at most CKPT; refused where one is outstanding; else it waits for CEP. -/
def State.caskBar (s : State) (f r : Nat) (i : BitVec 16) (e : BitVec 32) (job : BitVec 64) : State :=
  let x := s.fnAt f
  if e.toNat ≤ x.ckpt.toNat then s.finish r i .ok
  else if x.cask.isSome then s.finish r i .noResource
  else (s.begin_ r i).updFn f (fun x => { x with cask := some ⟨r, i, e, job⟩ })

def execCaskBar (r : RingIx) (sqi : BitVec 16) (s : State) : Out :=
  .next (match (s.ringAt r.val).toRun sqi 3 2, s.ringFn r.val with
    | some c, some f =>
      s.caskBar f r.val sqi (BitVec.ofNat 32 (dField c.d.bits 352 32)) (BitVec.ofNat 64 (dField c.d.bits 288 64))
    | _, _ => s)

/-! ### PITCH_ADMIT: the image (R245-R248) -/

def phaseOf (p : Nat) : Phase :=
  { opp := BitVec.ofNat 3 (bits p 253 3), dh := BitVec.ofNat 32 (bits p 192 32)
    bars := (List.range (bits p 250 3)).map (fun j => BitVec.ofNat 16 (bits p (16 * j) 16)) }

def bindOf (p : Nat) : Binding :=
  { bar := BitVec.ofNat 16 (bits p 48 16), ph := BitVec.ofNat 3 (bits p 45 3), slot0 := BitVec.ofNat 10 (bits p 32 10)
    nl := BitVec.ofNat 6 (bits p 24 6) }

def pitchNph (img : List Byte) : Nat := bits (fieldAt img 0 64) 308 4
def pitchNbind (img : List Byte) : Nat := bits (fieldAt img 0 64) 312 6
/-- The size that an image states. -/
def pitchSize (img : List Byte) : Nat := 64 + 32 * pitchNph img + 8 * pitchNbind img

/-- The image as read. -/
def pitchImage (img : List Byte) : PitchImage :=
  let h := fieldAt img 0 64
  { utag := BitVec.ofNat 32 (bits h 480 32), count := BitVec.ofNat 32 (bits h 448 32), eh := BitVec.ofNat 32 (bits h 416 32)
    heel := BitVec.ofNat 16 (bits h 400 16), commit := BitVec.ofNat 16 (bits h 384 16), var := BitVec.ofNat 16 (bits h 368 16)
    cevery := BitVec.ofNat 16 (bits h 352 16), cring := BitVec.ofNat 12 (bits h 340 12), vaddr := BitVec.ofNat 22 (bits h 318 22)
    cmt := bit h 307, vonly := bit h 306
    phases := (List.range (pitchNph img)).map (fun k => phaseOf (fieldAt img (64 + 32 * k) 32))
    binds := (List.range (pitchNbind img)).map (fun k => bindOf (fieldAt img (64 + 32 * pitchNph img + 8 * k) 8)) }

/-- A barrier allocated to a function. -/
def State.ownsBar (s : State) (f b : Nat) : Bool :=
  (s.precAt b).st != .free && (s.precAt b).func.val == f && b != 65535

/-- A pitch list that a function holds. -/
def State.ownsPl (s : State) (f p : Nat) : Bool := decide (p < 2032) && (s.plAt p).st != .free && (s.plAt p).func.val == f

/-- A slot of a function's blocks. -/
def State.ownsSlot (s : State) (f k : Nat) : Bool := decide (k < 1024) && (s.fnAt f).slotBlk.contains (k / 32)

/-- An image names something that is not the function's. -/
def State.pitchFenced (s : State) (f : Nat) (m : PitchImage) : Bool :=
  !((imgBars m).all (fun b => s.ownsBar f b)) || (m.var != 0xFFFF && !s.ownsPl f m.var.toNat) ||
  !((s.fnAt f).rings.contains m.cring.toNat) || !((imgSlots m).all (fun k => s.ownsSlot f k))

/-- The faults of an image that the Varvo does not check (R246, R248): counts outside their ranges, a bound barrier that
stands elsewhere, HEEL or COMMIT standing twice, a view beyond its limit, a VAR that is no variant, a slot bound twice. What a
bound barrier's pack carries is known where it stands: packs and admissions come in any order (R176). -/
def State.pitchFaulty (s : State) (f plid : Nat) (m : PitchImage) : Bool :=
  let ord := m.phases.flatMap (fun p => p.bars.map BitVec.toNat)
  let bnd := m.binds.map (fun b => b.bar.toNat)
  let other := (s.listsOf f).filter (fun q => q != plid && q != m.var.toNat && (s.plAt q).img.var.toNat != plid)
  m.phases.length = 0 || decide (8 < m.phases.length) || decide (32 < m.binds.length) ||
  m.phases.any (fun p => decide (6 < p.bars.length)) ||
  m.binds.any (fun b => decide (m.phases.length ≤ b.ph.toNat) || b.nl == 0 || decide (32 < b.nl.toNat)) ||
  bnd.any (fun b => ord.contains b) || (ord ++ bnd).contains m.heel.toNat ||
  (m.cmt && ((ord ++ bnd).contains m.commit.toNat || m.commit == m.heel)) ||
  (m.binds != [] && decide (0x2E0000 < m.vaddr.toNat + 256 * (((imgSlots m).length + 6) / 7))) ||
  m.vaddr.toNat % 128 != 0 ||
  (m.var != 0xFFFF && !(s.plAt m.var.toNat).img.vonly) ||
  (imgSlots m).eraseDups.length != (imgSlots m).length ||
  other.any (fun q => (imgSlots (s.plAt q).img).any (fun k => (imgSlots m).contains k))

/-- The lowest free PLID within the quota. -/
def State.freePlid (s : State) (f : Nat) : Option Nat :=
  if Nat.min (s.fnAt f).qpl 2032 ≤ (s.listsOf f).length then none
  else (List.range 2032).find? (fun p => (s.plAt p).st == .free)

/-- A buffer for the commit engine's masks is at hand, where the admission takes one (R213, R250). -/
def State.cmtRoom (s : State) (f : Nat) (old : PitchList) (m : PitchImage) : Bool :=
  !m.cmt || (old.st != .free && old.reserves) || s.rootRoom f 1

/-- An admission takes effect (R249, R251): a new list, a replaced image, or an image that waits for the heel release. -/
def State.bindImage (s : State) (f plid : Nat) (m : PitchImage) : State :=
  let old := s.plAt plid
  let s := s.startHist f plid m
  if old.st = .running then
    (s.updPl plid (fun p => { p with nextImg := some m })).setRoles f m
  else
    let s := if old.st = .held then s.leaveHeld f plid else s
    let s := if old.st = .free then s.setPl plid { PitchList.init with st := .queued, func := fnOfNat f, img := m } else s
    s.putImage f plid m

/-- PITCH_ADMIT of an image that has no fault. -/
def State.pitchAdmit (s : State) (f r : Nat) (i : BitVec 16) (id : Nat) (m : PitchImage) : State :=
  let fresh := id == 0xFFFF
  if (!fresh && !s.ownsPl f id) || s.pitchFenced f m then s.finish r i .fenced
  else
    match (if fresh then s.freePlid f else some id) with
    | none => s.finish r i .noResource
    | some p => if s.cmtRoom f (s.plAt p) m then (s.bindImage f p m).finish r i .ok false p else s.finish r i .noResource

/-- PITCH_ADMIT of an image as it was read. One with a fault that is not checked is unpredictable: nothing is admitted, and the
status is one that nothing fixes (R9, R248; assumption 12, DESIGN CHOICE). -/
def State.pitchCmd (s : State) (f r : Nat) (i : BitVec 16) (d : BitVec 512) (img : List Byte) : State :=
  if dLen d = 0 then s.finish r i .ok false 0xFFFF
  else if dLen d < 64 ∨ dLen d < pitchSize img then s.drawn.finish r i s.anyStatus
  else
    let m := pitchImage img
    let fenced := (dId d != 0xFFFF && !s.ownsPl f (dId d)) || s.pitchFenced f m
    if !fenced && s.pitchFaulty f (dId d) m then s.drawn.finish r i s.anyStatus
    else s.pitchAdmit f r i (dId d) m

def execPitchAdmit (r : RingIx) (sqi : BitVec 16) (img : List Byte) (s : State) : Out :=
  .next (match (s.ringAt r.val).toRun sqi 4 1, s.ringFn r.val with
    | some c, some f => s.pitchCmd f r.val sqi c.d.bits img
    | _, _ => s)

/-- PITCH_RETIRE: at once, or at the heel release of a running list (R251). A second one waits behind the first. -/
def State.pitchRetire (s : State) (f r : Nat) (i : BitVec 16) (id : Nat) : State :=
  if !s.ownsPl f id then s.finish r i .fenced
  else if (s.plAt id).st = .running then
    if (s.plAt id).retire.isSome then s
    else (s.begin_ r i).updPl id (fun p => { p with retire := some (r, i) })
  else s.retireNow f id r i

def execPitchRetire (r : RingIx) (sqi : BitVec 16) (s : State) : Out :=
  .next (match (s.ringAt r.val).toRun sqi 4 2, s.ringFn r.val with
    | some c, some f => s.pitchRetire f r.val sqi (dId c.d.bits)
    | _, _ => s)

/-! ### SEQ (R256-R263) -/

/-- The object an index of class 0x0 names is allocated to the function. -/
def State.ownsKen (s : State) (f k : Nat) : Bool := (s.kenAt k).kind != .free && (s.kenAt k).func.val == f

/-- Whether a SEQ_ADMIT is turned away. -/
def State.seqFenced (s : State) (f k : Nat) (x : Slot) : Bool :=
  !s.ownsSlot f k || !s.ownsPl f x.plid.toNat || !(s.fnAt f).rings.contains x.cring.toNat || (x.shv && !s.ownsKen f x.shp.toNat)

/-- A slot is admitted: its budget is set, its pages are taken, its STATE follows; it is first considered at the next cut
(R257-R259). -/
def State.seqAdmit (s : State) (f k n : Nat) (x : Slot) : State :=
  let s := (s.setSlot k { x with st := .active, isNew := true }).setBudget f k n
  let s := if x.maxUsed ≤ x.pos.toNat then s.endSlot k .maxlen else s.pageSlot k
  (s.nextCut k).markView x.plid.toNat

/-- SEQ_ADMIT of an image. On a slot that is not FREE the outcome is unpredictable: nothing is admitted, and the status is one
that nothing fixes (R257; assumption 12, DESIGN CHOICE). -/
def State.seqCmd (s : State) (f r : Nat) (i : BitVec 16) (d : BitVec 512) (img : List Byte) : State :=
  let k := dId d
  let x := slotOf f img
  if s.seqFenced f k x then s.finish r i .fenced
  else if (s.slotAt k).st ≠ .free then s.drawn.finish r i s.anyStatus
  else (s.seqAdmit f k (dN d) x).finish r i .ok

def execSeqAdmit (r : RingIx) (sqi : BitVec 16) (img : List Byte) (s : State) : Out :=
  .next (match (s.ringAt r.val).toRun sqi 5 1, s.ringFn r.val with
    | some c, some f => s.seqCmd f r.val sqi c.d.bits img
    | _, _ => s)

/-- SEQ_READ: the slot record goes to host memory. -/
def execSeqRead (r : RingIx) (sqi : BitVec 16) (s : State) : Out :=
  .next (match (s.ringAt r.val).toRun sqi 5 2, s.ringFn r.val with
    | some c, some f =>
      let k := dId c.d.bits
      if s.ownsSlot f k then
        (s.writeImage f r.val (dAddr c.d.bits) (leBytes 64 (slotWord (s.slotAt k)).toNat)).finish r.val sqi .ok
      else s.finish r.val sqi .fenced
    | _, _ => s)

/-- A SEQ_CTL whose ACT is `act`: FENCED where the slot is not the function's, else the action, and OK (R263). -/
def State.seqCtl (s : State) (r : Nat) (i : BitVec 16) (act : Nat) (g : Nat → Nat → State → State) : State :=
  match (s.ringAt r).toRun i 5 3, s.ringFn r with
  | some c, some f =>
    let k := dId c.d.bits
    if dField c.d.bits 364 4 ≠ act then s
    else if s.ownsSlot f k then (g k (dN c.d.bits) s).finish r i .ok
    else s.finish r i .fenced
  | _, _ => s

def execSeqCtlPause (r : RingIx) (sqi : BitVec 16) (s : State) : Out :=
  .next (s.seqCtl r.val sqi 0 (fun k _ s => s.pauseSlot k))

def execSeqCtlResume (r : RingIx) (sqi : BitVec 16) (s : State) : Out :=
  .next (s.seqCtl r.val sqi 1 (fun k _ s => s.resumeSlot k))

def execSeqCtlCancel (r : RingIx) (sqi : BitVec 16) (s : State) : Out :=
  .next (s.seqCtl r.val sqi 2 (fun k _ s => s.cancelSlot k))

/-- BUDGET n: TOK_RETURN n on the slot's entry; no effect on a FREE or ENDING slot. -/
def execSeqCtlBudget (r : RingIx) (sqi : BitVec 16) (s : State) : Out :=
  .next (s.seqCtl r.val sqi 3 (fun k n s =>
    if (s.slotAt k).st.live then s.giveBack (s.slotAt k).func.val (kennelIndex 2 k) n else s))

end Sys2Proof.Machine
end

