-- ==== Sys2Proof/Machine/Vf.lean ====
section
/-! DEFINITION. The manager's commands, grants and quotas, the mediation mailbox, dirty-page logging commands and the host
hold (R326-R350, R463). -/

namespace Sys2Proof.Machine

open Sys2Proof

/-! ### The command block (R330, R331) -/

def mField (b : BitVec 512) (lo w : Nat) : Nat := bits b.toNat lo w
def mOp (b : BitVec 512) : Nat := mField b 504 8
def mCls (b : BitVec 512) : Nat := mField b 492 4
def mFirst (b : BitVec 512) : Nat := mField b 448 32
def mCnt (b : BitVec 512) : Nat := mField b 416 32
def mAddr0 (b : BitVec 512) : BitVec 64 := BitVec.ofNat 64 (mField b 256 64)

/-- A manager command is started: GO reads 1, and bring-up is done (R408). -/
def State.mgrRuns (s : State) : Bool := s.bru.step == 15 && s.mgr.go
def State.mgrFn (s : State) : Nat := s.mgr.func.val

/-- The command completes. -/
def State.mgrDone (s : State) (st : Status) : State := { s with mgr := { s.mgr with go := false, status := st } }

/-! ### Quotas and units (R327-R329) -/

/-- The Q fields take effect; a field above its pool is used as the pool. -/
def State.setQuotas (s : State) (f : Nat) (b : BitVec 512) : State :=
  s.updFn f (fun x => { x with
    qwait := Nat.min (mField b 370 14) 8192, qscan := Nat.min (mField b 359 11) 1984, qph := Nat.min (mField b 350 9) 256
    qpr := Nat.min (mField b 340 10) 512, qpl := Nat.min (mField b 328 12) 2032 })

/-- QUOTA_SET. -/
def execQuotaSet (block : BitVec 512) (s : State) : Out :=
  .next (if s.mgrRuns && mOp block == 3 then (s.setQuotas s.mgrFn block).mgrDone .ok else s)

/-- Blocks or rings of a CLS; none where the CLS is reserved. -/
def unitCount (cls : Nat) : Option Nat :=
  if cls = 0 then some 4096 else if cls = 1 then some 1024 else if cls = 3 then some 4095
  else if cls = 8 then some 32 else if cls = 9 then some 4096 else none

/-- The units of a class that a function holds, and replacing them. -/
def Fn.units (x : Fn) (cls : Nat) : List Nat :=
  if cls = 0 then x.blk0 else if cls = 1 then x.blk1 else if cls = 3 then x.blk3 else if cls = 8 then x.slotBlk else x.rings

def Fn.setUnits (x : Fn) (cls : Nat) (l : List Nat) : Fn :=
  if cls = 0 then { x with blk0 := l } else if cls = 1 then { x with blk1 := l } else if cls = 3 then { x with blk3 := l }
  else if cls = 8 then { x with slotBlk := l } else { x with rings := l }

/-- The units a block names; none where one lies beyond its range. -/
def unitsNamed (b : BitVec 512) (n : Nat) : Option (List Nat) :=
  if mCnt b = 0 then some [] else if mFirst b + mCnt b ≤ n then some ((List.range (mCnt b)).map (fun i => mFirst b + i)) else none

/-- Another function holds a unit. -/
def State.heldElsewhere (s : State) (f cls u : Nat) : Bool :=
  s.fn.any (fun p => p.1 != f && (p.2.units cls).contains u)

/-- GRANT once its units stand: all of them, or none (R328). A ring takes its reset values at its assignment (R304). -/
def State.grantUnits (s : State) (f cls : Nat) (us : List Nat) : State :=
  let have_ := (s.fnAt f).units cls
  let new := us.filter (fun u => !have_.contains u)
  let all := (List.range 4096).filter (fun u => have_.contains u || us.contains u)
  if us.any (fun u => s.heldElsewhere f cls u) || (cls == 9 && decide (2048 < all.length)) then s.mgrDone .noResource
  else
    let s := s.updFn f (fun x => x.setUnits cls all)
    let s := if cls = 9 then forAll new (fun s r => s.setRing r (s.freshRing f)) s else s
    s.mgrDone .ok

/-- GRANT. A reserved CLS changes nothing, and the status is one that nothing fixes (R7; assumption 12, DESIGN CHOICE). -/
def State.grant (s : State) (block : BitVec 512) : State :=
  if !s.mgrRuns || mOp block != 4 then s
  else
    match unitCount (mCls block) with
    | none => s.drawn.mgrDone s.anyStatus
    | some n =>
      match unitsNamed block n with
      | none => s.mgrDone .fenced
      | some us => s.grantUnits s.mgrFn (mCls block) us

def execGrant (block : BitVec 512) (s : State) : Out := .next (s.grant block)

/-! ### Freeing objects (R328, R339) -/

/-- A kennel object is freed: queued requests end ABORTED, its timers are released, the entry is FREE. -/
def State.freeKen (s : State) (k : Nat) : State :=
  let s := forAll (s.kenAt k).queue (fun s w => s.endWaiter k w .aborted 0) s
  let s := s.disarm (homeHub k) (s.kenAt k).leash (.leash k)
  s.setKen k KEntry.init

/-- A PACK_SET that is still binding completes ABORTED, and its wafer leaves the span record it asked for (R107). -/
def State.abortJoin (s : State) (b : Nat) : State :=
  match s.waitingJoin b with
  | none => s
  | some (j, _) =>
    ((s.updPrec b (fun r => { r with join := none })).toWafer s.span.lead.toNat
      (.packLeave (s.precAt b).func (BitVec.ofNat 16 b))).finish j.ring j.sqi .aborted

/-- A barrier is freed: cleared under R108 where it is not IDLE, then FREE, its buffers back in the pools. One that a pitch list
names is freed like any other (R339 calls that outcome unpredictable; assumption 12, DESIGN CHOICE). -/
def State.freeBar (s : State) (b : Nat) : State :=
  let s := (s.abortJoin b).idleBarrier b true
  let s := forAll (List.range 84) (fun s h => s.setFrec (frecKey h b) FieldRec.init) s
  s.setPrec b RootRec.init

/-- A barrier whose clearing must wait: for a RELEASE in DECIDING, or for waves already queued (R108). -/
def State.barBusy (s : State) (b : Nat) : Bool := (s.precAt b).st == .deciding || s.wavesLeft b

/-- The allocated barriers of some blocks. -/
def State.barsIn (s : State) (us : List Nat) : List Nat :=
  (tkeys s.prec).filter (fun b => us.contains (b / 16) && (s.precAt b).st != .free)

/-- The allocated kennel objects of some blocks of a class. -/
def State.kensIn (s : State) (cls : Nat) (us : List Nat) : List Nat :=
  let base := kennelIndex cls 0
  (tkeys s.ken).filter (fun k => decide (base ≤ k) && decide (k < base + classRange cls) && us.contains ((k - base) / 256) &&
    (s.kenAt k).kind != .free)

/-- A ring goes to OFF as on reassignment: no record; queued kennel requests are withdrawn, DATA commands ended (R306,
R323). -/
def State.dropRing (s : State) (f r : Nat) : State :=
  let s := s.withdrawRing f r
  let data := (s.ringAt r).started.any (fun c => c.begun && !c.done && dFam c.d.bits == 6)
  let s := if data then s.emit (.dmaEnd (fnOfNat f)) else s
  let s := match (s.fnAt f).cask with
    | some c => if c.ring = r then s.updFn f (fun x => { x with cask := none }) else s
    | none => s
  s.setRing r (s.freshRing f)

/-- What REVOKE does to the objects of one class's units before they return to the pool. -/
def State.freeUnits (s : State) (f cls : Nat) (us : List Nat) : State :=
  if cls = 3 then forAll (s.barsIn us) (fun s b => s.freeBar b) s
  else if cls = 8 then
    forAll ((tkeys s.slot).filter (fun k => us.contains (k / 32))) (fun s k => s.setSlot k Slot.init) s
  else if cls = 9 then forAll us (fun s r => s.dropRing f r) s
  else forAll (s.kensIn cls us) (fun s k => s.freeKen k) s

/-- Units of a function return to the pool. -/
def State.revokeUnits (s : State) (f cls : Nat) (us : List Nat) : State :=
  let mine := us.filter (fun u => ((s.fnAt f).units cls).contains u)
  (s.freeUnits f cls mine).updFn f (fun x => x.setUnits cls ((x.units cls).filter (fun u => !mine.contains u)))

/-- The barriers that a REVOKE frees (R328). -/
def State.revokeBars (s : State) (f : Nat) (b : BitVec 512) (us : List Nat) : List Nat :=
  if mCls b = 3 then s.barsIn (us.filter (fun u => ((s.fnAt f).units 3).contains u)) else []

/-- REVOKE: it waits while a barrier's clearing must wait (R108). A reserved CLS is as in GRANT. -/
def State.revoke (s : State) (block : BitVec 512) : State :=
  if !s.mgrRuns || mOp block != 5 then s
  else
    match unitCount (mCls block) with
    | none => s.drawn.mgrDone s.anyStatus
    | some n =>
      match unitsNamed block n with
      | none => s.mgrDone .fenced
      | some us =>
        if (s.revokeBars s.mgrFn block us).any s.barBusy then s
        else (s.revokeUnits s.mgrFn (mCls block) us).mgrDone .ok

def execRevoke (block : BitVec 512) (s : State) : Out := .next (s.revoke block)

/-! ### Partitions (R333, R334) -/

/-- The check of PART_CREATE that fails, if one does. -/
def State.createCheck (s : State) (f : Nat) (cs : List Nat) : Option Status :=
  if cs.any (fun c => !s.inService c) then some .fenced
  else if (s.fnAt f).members ≠ [] ∨ cs.any (fun c => (s.fnOf c).isSome) then some .noResource
  else none

/-- The partition is made: epochs, members, quotas, balance, epochs of the commit record. A known-answer step on clusters of no
partition ends (assumption 88). -/
def State.createPart (s : State) (f : Nat) (keep : Bool) (cs : List Nat) (b : BitVec 512) : State :=
  let pep := (s.fnAt f).pepoch + 1
  let s := forAll cs (fun s c => s.resetAlone c pep) (s.katDrop none)
  let ck := if keep then s.ckptOf f else 0
  let s := (s.updFn f (fun x => { x with
    pepoch := pep, epochAt := some s.now, members := cs, bal := Q.zero, acc := 0, open_ := [], commits := [], ckpt := ck, cep := ck })).setQuotas f b
  if keep then s.mgrDone .ok
  else
    let s := (s.updFn f (fun x => { x with erase := true })).caskAdd (.erase (fnOfNat f))
    { s with mgr := { s.mgr with erasing := true } }

/-- PART_CREATE. It waits for the erase of the cask records, and for the partition epoch where R388 defers it. -/
def State.partCreate (s : State) (b : BitVec 512) (img : List Byte) : State :=
  let f := s.mgrFn
  let cs := (imgMembers img).map (·.1)
  if !s.mgrRuns || mOp b != 1 || s.mgr.erasing || s.mgr.destroying then s
  else
    match s.createCheck f cs with
    | some st => s.mgrDone st
    | none =>
      if cs = [] then s.mgrDone .ok
      else if !s.epochFree (s.fnAt f).epochAt then s
      else s.createPart f (bit b.toNat 503) cs b

def execPartCreate (block : BitVec 512) (img : List Byte) (s : State) : Out := .next (s.partCreate block img)

/-- After the partition reset: grants, clusters, quotas and the host hold go; cask records, the cap and the mailbox page
stay. -/
def State.destroyPart (s : State) (f : Nat) : State :=
  let s := forAll [0, 1, 3, 8, 9] (fun s cls => s.revokeUnits f cls ((s.fnAt f).units cls)) s
  let s := s.updFn f (fun x => { x with
    members := [], qwait := 0, qscan := 0, qph := 0, qpr := 0, qpl := 0, hold := false, held := false, spares := [], job := false
    broken := false })
  { s with mgr := { s.mgr with go := false, status := .ok, destroying := false } }

/-- PART_DESTROY: a partition reset, and once it is complete the rest. -/
def State.partDestroy (s : State) : State :=
  let f := s.mgrFn
  if !s.mgrRuns || s.mgr.erasing then s
  else if s.mgr.destroying then (if (s.fnAt f).rst.isSome then s else s.destroyPart f)
  else if (s.fnAt f).members = [] then s.mgrDone .ok
  else { s.beginReset f 0 with mgr := { (s.beginReset f 0).mgr with destroying := true } }

def execPartDestroy (s : State) : Out := .next s.partDestroy

/-! ### MBX_SET, MBX_REPLY, NOTE (R332, R340, R341) -/

/-- MBX_SET. -/
def execMbxSet (block : BitVec 512) (s : State) : Out :=
  .next (
    if !s.mgrRuns || mOp block != 6 then s
    else if s.mgrFn = 0 then s.mgrDone .fenced
    else
      (s.updFn s.mgrFn (fun x => { x with mbxPage := some (mAddr0 block, BitVec.ofNat 2 (mField block 414 2)) })).mgrDone .ok)

/-- The tenant's interrupt for replies and notices. -/
def State.mbxMsix (s : State) (f : Nat) : State := s.msix f (s.fnAt f).mbxVec

/-- MBX_REPLY: a forwarded request is done; otherwise ABORTED and no effect. -/
def execMbxReply (s : State) : Out :=
  .next (
    let f := s.mgrFn
    if !s.mgrRuns then s
    else if f = 0 then s.mgrDone .fenced
    else if (s.fnAt f).mbxSt ≠ .forwarded then s.mgrDone .aborted
    else
      let s := { s with mgr := { s.mgr with fwd := setBits s.mgr.fwd f 1 0 } }
      ((s.updFn f (fun x => { x with mbxSt := .done })).mbxMsix f).mgrDone .ok)

/-- NOTE: refused while one is pending; it waits under HOLD (R349). -/
def execNote (s : State) : Out :=
  .next (
    let f := s.mgrFn
    if !s.mgrRuns then s
    else if f = 0 then s.mgrDone .fenced
    else if (s.fnAt f).hold then s
    else if (s.fnAt f).npend then s.mgrDone .noResource
    else ((s.updFn f (fun x => { x with npend := true })).mbxMsix f).mgrDone .ok)

/-! ### Dirty-page logging and the host hold (R346, R348, R349) -/

/-- DLOG_SET. Bits [11:0] of the window's base are ignored. -/
def execDlogSet (block : BitVec 512) (s : State) : Out :=
  .next (
    if !s.mgrRuns || mOp block != 9 then s
    else
      let w := BitVec.ofNat 64 (mField block 128 64 / 4096 * 4096)
      (s.updFn s.mgrFn (fun x => { x with
        dlBuf := some (mAddr0 block, BitVec.ofNat 64 (mField block 192 64), w, BitVec.ofNat 32 (mField block 96 32)), dlBits := [] })).mgrDone .ok)

/-- DLOG_SWAP: ACT names the other buffer, and the old one's first word is read over each link. -/
def execDlogSwap (s : State) : Out :=
  .next (
    if !s.mgrRuns then s
    else
      let f := s.mgrFn
      let old := match (s.fnAt f).dlBuf with
        | some (a, b, _, _) => if (s.fnAt f).dlAct then b else a
        | none => 0
      let s := s.updFn f (fun x => { x with dlAct := !x.dlAct, dlBits := [] })
      (s.emitAll (List.replicate 4 (.hostRead 0 old 8))).mgrDone .ok)

/-- The hold is cleared: held MSI-X messages go, fetching and starting resume. -/
def State.unhold (s : State) (f : Nat) : State :=
  let go := (s.fnAt f).pend.filter (fun v => !(s.fnAt f).mskd.contains v)
  let s := s.updFn f (fun x => { x with hold := false, held := false, pend := x.pend.filter (fun v => x.mskd.contains v) })
  let s := s.emitAll (go.map (fun v => .msix (fnOfNat f) v))
  forAll (s.fnAt f).rings (fun s r => s.fetchRing r) (s.startRings f)

/-- HOLD. -/
def execHold (block : BitVec 512) (s : State) : Out :=
  .next (
    if !s.mgrRuns || mOp block != 11 then s
    else
      let f := s.mgrFn
      (if bit block.toNat 502 then s.updFn f (fun x => { x with hold := true }) else s.unhold f).mgrDone .ok)

/-- No host-memory access of a function is outstanding: no descriptor read, no DATA command. -/
def State.hostQuiet (s : State) (f : Nat) : Bool :=
  (s.fnAt f).rings.all (fun r =>
    let x := s.ringAt r
    x.asked == x.sqc && !x.started.any (fun c => c.begun && !c.done && dFam c.d.bits == 6))

/-- HOST_HELD. -/
def execHostHeld (f : Func) (s : State) : Out :=
  .next (if (s.fnAt f.val).hold && s.hostQuiet f.val then s.updFn f.val (fun x => { x with held := true }) else s)

/-! ### The mailbox (R335-R343, R463) -/

/-- A function re-initialisation is in progress: the function's own writes to its set are ignored (R447). -/
def Fn.frozen (x : Fn) : Bool := match x.rst with | some r => r.regs | none => false

/-- REQ written 1: ignored unless RST is IDLE or DONE. -/
def State.mbxPost (s : State) (f : Nat) : State :=
  if (s.fnAt f).mbxSt = .idle ∨ (s.fnAt f).mbxSt = .done then s.updFn f (fun x => { x with mbxSt := .serving }) else s

/-- MBX_REQ: the function posts its request; ignored while it is re-initialised (R447). -/
def execMbxReq (f : Func) (s : State) : Out :=
  .next (if s.bru.step = 15 ∧ f.val ≠ 0 ∧ !(s.fnAt f.val).frozen then s.mbxPost f.val else s)

def hType (h : BitVec 128) : Nat := bits h.toNat 88 8
def hLen (h : BitVec 128) : Nat := bits h.toNat 64 10
def hSeq (h : BitVec 128) : Nat := bits h.toNat 96 32

/-- A request waits for service; a held function's does not (R349). -/
def State.mbxWaits (s : State) (f : Nat) : Bool := f != 0 && (s.fnAt f).mbxSt == .serving && !(s.fnAt f).hold

/-- The round robin has come to a function (R342). -/
def State.mbxTurn (s : State) (f : Nat) : Bool :=
  s.mbxWaits f && (((List.range 64).map (fun i => (s.mgr.lastMbx + 1 + i) % 64)).find? s.mbxWaits) == some f

/-- A request of a reserved TYPE, or of a LEN other than its type's (R343, R463). -/
def mbxBad (h : BitVec 128) : Bool :=
  let t := hType h
  if t = 1 then hLen h != 16 else if t = 2 then hLen h != 8 else if t = 3 then hLen h != 0
  else if t = 0x10 then decide (1008 < hLen h) else true

/-- A reply: the reply area, then DONE, then the interrupt. It repeats SEQ and TYPE (DEDUCED). -/
def State.mbxAnswer (s : State) (f : Nat) (h : BitVec 128) (st : Status) (pay : List Byte) : State :=
  let hdr := leBytes 16 (hSeq h * 2 ^ 96 + hType h * 2 ^ 88 + (statusCode st).toNat * 2 ^ 80 + pay.length * 2 ^ 64)
  let s := match (s.fnAt f).mbxPage with
    | some (a, l) =>
      (s.emit (.hostImage 0 (a + 0x400) (hdr ++ pay))).logWrite f l.toNat (a.toNat + 0x400) (16 + pay.length)
    | none => s
  let s := { s.updFn f (fun x => { x with mbxSt := .done }) with mgr := { s.mgr with lastMbx := f } }
  s.mbxMsix f

/-- A request whose outcome is unpredictable has no effect, and is answered with a status that nothing fixes (R7, R343, R463;
assumption 12, DESIGN CHOICE). -/
def State.mbxAny (s : State) (f : Nat) (h : BitVec 128) : State := s.drawn.mbxAnswer f h s.anyStatus []

/-- Serving a request of one TYPE, when its turn has come. -/
def State.mbxServe (s : State) (f : Nat) (h : BitVec 128) (t : Nat) (go : State) : State :=
  if !s.mbxTurn f then s
  else if mbxBad h then s.mbxAny f h
  else if hType h ≠ t then s
  else go

/-- The free handles of a function's granted blocks of class 0x0 or 0x1, rising; none homed at a muzzled hub (R30). -/
def State.freeKens (s : State) (f cls : Nat) : List Nat :=
  ((s.fnAt f).units cls).flatMap (fun b => ((List.range 256).map (fun i => b * 256 + i)).filter (fun i =>
    (s.kenAt (kennelIndex cls i)).kind == .free && !(s.hubAt (homeHub (kennelIndex cls i))).muz))

/-- The free barriers of its granted blocks, rising. -/
def State.freeBars (s : State) (f : Nat) : List Nat :=
  (s.fnAt f).blk3.flatMap (fun b => ((List.range 16).map (fun i => b * 16 + i)).filter (fun i => (s.precAt i).st == .free))

/-- Express hops between two hubs along the PARENT chains. -/
def State.hubHops (s : State) (a b : Nat) : Nat := (s.pathEdges a b).length

/-- The hub nearest to h that homes one of some indices; ties to the lower field. -/
def State.nearHub (s : State) (cls h : Nat) (is : List Nat) : Option Nat :=
  ((List.range 84).filter (fun g => is.any (fun i => homeHub (kennelIndex cls i) == g))).foldl (fun (b : Option Nat) g =>
    match b with
    | none => some g
    | some c => if s.hubHops h g < s.hubHops h c then some g else some c) none

/-- The index that the allocator takes (R29, R338): MODE 0 the lowest, 1 STRICT at h, 2 PREFER the nearest to h. -/
def State.pickKen (s : State) (f cls mode h : Nat) : Option Nat :=
  let is := s.freeKens f cls
  let home (g : Nat) : Option Nat := is.find? (fun i => homeHub (kennelIndex cls i) == g)
  if mode = 0 then is.head?
  else if mode = 1 then home h
  else match s.nearHub cls h is with | some g => home g | none => none

/-- The new entry of a KIND. -/
def newEntry (f kind : Nat) (p : BitVec 128) : KEntry :=
  let lim := BitVec.ofNat 32 (bits p.toNat 32 32)
  let cnt := BitVec.ofNat 32 (bits p.toNat 0 32)
  let e := { KEntry.init with func := fnOfNat f }
  if kind = 3 then { e with kind := .atomicWord, value := BitVec.ofNat 64 p.toNat }
  else if kind = 4 then { e with kind := .lock }
  else { e with kind := if kind = 1 then .semaphore else .tokenPool, limit := lim, count := (setClip lim cnt).1 }

/-- The KIND is allowed in the class, and MODE is no reserved encoding. -/
def allocOk (cls kind mode : Nat) : Bool :=
  (cls == 0 && [1, 2, 3].contains kind && mode != 3) || (cls == 1 && kind == 4 && mode != 3) || (cls == 3 && kind == 0)

/-- OBJ_ALLOC of a request without a reserved encoding. A hint that names no hub, or a muzzled one, is FENCED (R8). -/
def State.objAlloc (s : State) (f : Nat) (h p : BitVec 128) : State :=
  let cls := bits p.toNat 124 4
  let mode := bits p.toNat 118 2
  let hub := bits p.toNat 104 7
  if cls = 3 then
    match (s.freeBars f).head? with
    | some b => (s.setPrec b { RootRec.init with st := .idle, func := fnOfNat f }).mbxAnswer f h .ok (leBytes 8 (3 * 2 ^ 20 + b))
    | none => s.mbxAnswer f h .noResource []
  else if mode ≠ 0 ∧ (83 < hub ∨ (s.hubAt hub).muz) then s.mbxAnswer f h .fenced []
  else
    match s.pickKen f cls mode hub with
    | some i => (s.setKen (kennelIndex cls i) (newEntry f (bits p.toNat 120 4) p)).mbxAnswer f h .ok (leBytes 8 (cls * 2 ^ 20 + i))
    | none => s.mbxAnswer f h .noResource []

/-- OBJ_ALLOC. -/
def execObjAlloc (f : Func) (hdr : BitVec 128) (pay : BitVec 128) (s : State) : Out :=
  .next (s.mbxServe f.val hdr 1 (
    if allocOk (bits pay.toNat 124 4) (bits pay.toNat 120 4) (bits pay.toNat 118 2) then s.objAlloc f.val hdr pay
    else s.mbxAny f.val hdr))

/-- The kennel index of a handle of class 0x0 or 0x1 that is allocated to the function. -/
def State.heldKen (s : State) (f handle : Nat) : Option Nat :=
  let cls := handle / 2 ^ 20
  let i := handle % 2 ^ 20
  if (cls = 0 ∨ cls = 1) ∧ i < classRange cls ∧ s.ownsKen f (kennelIndex cls i) then some (kennelIndex cls i) else none

/-- OBJ_FREE. A barrier is freed once R108 lets it be cleared. -/
def State.objFree (s : State) (f : Nat) (hdr : BitVec 128) (x : Nat) : State :=
  if 4 < x / 2 ^ 20 then s.mbxAny f hdr
  else
    match s.heldKen f x, s.heldBar f x with
    | some k, _ => (s.freeKen k).mbxAnswer f hdr .ok []
    | none, some b => if s.barBusy b then s else (s.freeBar b).mbxAnswer f hdr .ok []
    | none, none => s.mbxAnswer f hdr .fenced []

def execObjFree (f : Func) (hdr : BitVec 128) (pay : BitVec 64) (s : State) : Out :=
  .next (s.mbxServe f.val hdr 2 (s.objFree f.val hdr (bits pay.toNat 0 24)))

/-- The largest value of a count over the hubs in service. -/
def State.maxHub (s : State) (g : Nat → Nat) : Nat := (s.hubsUp.map g).foldl Nat.max 0

/-- The twelve words of POOL_QUERY: granted or quota, and in use, counted in objects, slots, rings and records. -/
def State.poolWords (s : State) (f : Nat) : List Nat :=
  let x := s.fnAt f
  let n := x.members.length
  let w (g u : Nat) : Nat := g * 2 ^ 32 + u
  let all (cls : Nat) : Nat := (s.kensIn cls (x.units cls)).length
  [w n n, w (256 * x.blk0.length) (all 0), w (256 * x.blk1.length) (all 1), w (16 * x.blk3.length) (s.barsIn x.blk3).length,
   w (32 * x.slotBlk.length) ((tkeys s.slot).filter (fun k => x.slotBlk.contains (k / 32) && (s.slotAt k).st != .free)).length,
   w x.rings.length x.rings.length, w x.qwait (s.maxHub (fun h => s.poolOf h f)),
   w x.qscan (s.maxHub (fun h => ((s.hubAt h).scan.filter (fun t => t.func.val == f)).length)),
   w x.qph (s.maxHub (fun h => s.fnHubBufs f h)), w x.qpr (s.fnRootBufs f), w x.qpl (s.listsOf f).length, n]

/-- POOL_QUERY. -/
def execPoolQuery (f : Func) (hdr : BitVec 128) (s : State) : Out :=
  .next (s.mbxServe f.val hdr 3 (s.mbxAnswer f.val hdr .ok ((s.poolWords f.val).flatMap (leBytes 8))))

/-- ASK: forwarded to the manager (R340). -/
def State.forward (s : State) (f : Nat) : State :=
  let s := { s.updFn f (fun x => { x with mbxSt := .forwarded }) with
    mgr := { s.mgr with fwd := setBits s.mgr.fwd f 1 1, lastMbx := f } }
  s.msix 0 s.mgr.vec

def execAsk (f : Func) (hdr : BitVec 128) (s : State) : Out := 
  .next (s.mbxServe f.val hdr 0x10 (s.forward f.val))

end Sys2Proof.Machine
end

