-- ==== Sys2Proof/Machine/Regs.lean ====
section
/-! DEFINITION. REG_WRITE: the map of BAR0 and the access rules of its registers (R301, R304, R305, R408, R434-R447). -/

namespace Sys2Proof.Machine

open Sys2Proof

/-- The fields of a register that a mask names take the written value; the others keep theirs (R6, R437). -/
def putFields (old mask v : Reg) : Reg := (old &&& ~~~mask) ||| (v &&& mask)

/-! ### The wafer block (R439) -/

/-- VSF_TCK_CTRL: STBF and RUN. -/
def State.writeTickCtrl (s : State) (v : Reg) : State :=
  (s.withTick (fun t => { t with ctrl := putFields t.ctrl 0x0000FF00 v })).writeRun (bit v.toNat 0)

/-- VSF_VFN_CMD: ignored while GO reads 1. -/
def State.writeMgrCmd (s : State) (v : Reg) : State :=
  if s.mgr.go then s
  else { s with mgr := { s.mgr with func := fnOfNat (bits v.toNat 0 6), go := bit v.toNat 31 } }

/-- VSF_SPN_CMD: ignored while GO reads 1. -/
def State.writeSpanCmd (s : State) (v : Reg) : State :=
  if s.span.go then s
  else { s with span := { s.span with op := BitVec.ofNat 8 v.toNat, go := bit v.toNat 31 } }

/-- VSF_BRU_CMD: ignored while GO reads 1. -/
def State.writeBruCmd (s : State) (v : Reg) : State :=
  if s.bru.go then s
  else { s with bru := { s.bru with
    op := BitVec.ofNat 8 v.toNat, func := fnOfNat (bits v.toNat 8 6), go := bit v.toNat 31 } }

/-- The command registers and their address registers: written at any step of bring-up (R408). -/
def State.writeCommand (s : State) (off : Nat) (v : Reg) : State :=
  match off with
  | 0x100 => { s with mgr := { s.mgr with cmdLo := putFields s.mgr.cmdLo 0xFFFFFFC0 v } }
  | 0x104 => { s with mgr := { s.mgr with cmdHi := v } }
  | 0x108 => s.writeMgrCmd v
  | 0x200 => { s with span := { s.span with cmdLo := putFields s.span.cmdLo 0xFFFFFFC0 v } }
  | 0x204 => { s with span := { s.span with cmdHi := v } }
  | 0x208 => s.writeSpanCmd v
  | 0x400 => { s with bru := { s.bru with cmdLo := putFields s.bru.cmdLo 0xFFFFFFC0 v } }
  | 0x404 => { s with bru := { s.bru with cmdHi := v } }
  | 0x408 => s.writeBruCmd v
  | _ => s

/-- The other registers of the wafer block; read-only and reserved offsets ignore the write. -/
def State.writeWafer (s : State) (off : Nat) (v : Reg) : State :=
  match off with
  | 0x000 => s.withTick (fun t => { t with period := putFields t.period 0x07FFFFFF v })
  | 0x004 => s.writeTickCtrl v
  | 0x040 => { s with kiln := { s.kiln with limit := putFields s.kiln.limit 0xFFFF0FFF v } }
  | 0x044 => { s with kiln := { s.kiln with idle := putFields s.kiln.idle 0x00000FFF v } }
  | 0x048 => { s with kiln := { s.kiln with therm := putFields s.kiln.therm 0x00FFFFFF v } }
  | 0x04C => { s with kiln := { s.kiln with didt := putFields s.kiln.didt 0xFFFFFF00 v } }
  | 0x050 => { s with kiln := { s.kiln with rcv := putFields s.kiln.rcv 0x07FFFFFF v } }
  | 0x080 => { s with kiln := { s.kiln with ka := v } }
  | 0x10C => { s with mgr := { s.mgr with vec := BitVec.ofNat 11 v.toNat } }
  | 0x110 => { s with mgr := { s.mgr with fwd := s.mgr.fwd &&& ~~~(BitVec.ofNat 64 (v.toNat / 2 * 2)) } }
  | 0x114 => { s with mgr := { s.mgr with fwd := s.mgr.fwd &&& ~~~(BitVec.ofNat 64 (v.toNat * 2 ^ 32)) } }
  | 0x21C => { s with span := { s.span with ctrl := putFields s.span.ctrl 0x001F07FF v } }
  | 0x220 => { s with span := { s.span with evt := s.span.evt &&& ~~~(v &&& 0x0000001F) } }
  | 0x300 => s.writeErrCtrl v
  | 0x304 => { s with err := { s.err with bits := s.err.bits &&& ~~~(BitVec.ofNat 6 v.toNat) } }
  | 0x308 => s.writeHclr v
  | _ => s.writeCommand off v

/-! ### The function set (R441) -/

/-- VSF_VFN_MBX: REQ, NPEND and VEC; function 0 has none. -/
def State.writeMbx (s : State) (f : Nat) (v : Reg) : State :=
  if f = 0 then s
  else
    let s := s.updFn f (fun x => { x with mbxVec := BitVec.ofNat 11 v.toNat, npend := x.npend && !bit v.toNat 30 })
    if bit v.toNat 31 then s.mbxPost f else s

/-- VSF_VFN_DLOG: EN takes 1 only once a DLOG_SET has completed; OVF clears; function 0 has none. -/
def State.writeDlog (s : State) (f : Nat) (v : Reg) : State :=
  if f = 0 then s
  else s.updFn f (fun x => { x with
    dlEn := if bit v.toNat 31 then x.dlEn || x.dlBuf.isSome else false, dlOvf := x.dlOvf && !bit v.toNat 29 })

/-- A write to a function's own set: the fields that the function may write. -/
def State.writeOwn (s : State) (f : Nat) (off : Nat) (v : Reg) : State :=
  match off with
  | 0x30 => s.updFn f (fun x => { x with cmtCtrl := putFields x.cmtCtrl 0x00FFF038 v })
  | 0x34 => s.updFn f (fun x => { x with cmtTol := v })
  | 0x50 => s.updFn f (fun x => { x with seqCtrl := putFields x.seqCtrl 0x0000FF00 v })
  | 0x60 => s.updFn f (fun x => { x with evr := putFields x.evr 0x00001FFF v })
  | 0x70 => s.writeMbx f v
  | 0x84 => s.updFn f (fun x => { x with fcfg := putFields x.fcfg 0x00000FFF v })
  | _ => s

/-- A write by PF0 to a function's set: every field with the access of its map. -/
def State.writeSet (s : State) (f : Nat) (off : Nat) (v : Reg) : State :=
  match off with
  | 0x10 => s.updFn f (fun x => { x with thr := putFields x.thr 0x00000FF3 v })
  | 0x20 => s.updFn f (fun x => { x with cap := putFields x.cap 0xFF00FFFF v })
  | 0x30 => s.updFn f (fun x => { x with cmtCtrl := putFields x.cmtCtrl 0x00FFF03B v })
  | 0x74 => s.writeDlog f v
  | _ => s.writeOwn f off v

/-! ### Ring blocks (R304, R305) -/

/-- VSF_HIF_RCTL: EN, then SPARGE (R306). -/
def State.writeRctl (s : State) (f r : Nat) (v : Reg) : State :=
  if !bit v.toNat 0 then s.disableRing f r
  else if (s.ringAt r).st = .off then s.updRing r Ring.enabled
  else
    let s := s.updRing r (fun x => { x with en := true })
    if bit v.toNat 1 ∧ (s.ringAt r).st = .run then s.beginSparge f r else s

/-- A ring's register written in OFF alone. -/
def State.updOff (s : State) (r : Nat) (g : Ring → Ring) : State := s.updRing r (fun x => if x.st = .off then g x else x)

/-- A register of a ring's block: the queue and configuration registers only in OFF. -/
def State.writeRing (s : State) (f r : Nat) (off : Nat) (v : Reg) : State :=
  match off with
  | 0x00 => s.updOff r (fun x => { x with sqbLo := putFields x.sqbLo 0xFFFFF000 v })
  | 0x04 => s.updOff r (fun x => { x with sqbHi := v })
  | 0x08 => s.updOff r (fun x => { x with cqbLo := putFields x.cqbLo 0xFFFFF000 v })
  | 0x0C => s.updOff r (fun x => { x with cqbHi := v })
  | 0x10 => s.updOff r (fun x => { x with rcfg := putFields x.rcfg 0x007FFC1F v })
  | 0x14 => s.updRing r (fun x => { x with rmod := putFields x.rmod 0xFF00FFFF v })
  | 0x18 => s.writeRctl f r v
  | _ => s

/-! ### The MSI-X table (R301, R321) -/

/-- The vector control word of an entry masks and unmasks it; the message words are the PCI Express side's own. -/
def State.writeMsix (s : State) (f : Nat) (off : Nat) (v : Reg) : State :=
  let vec := BitVec.ofNat 11 (off / 16)
  if off % 16 ≠ 12 then s
  else if bit v.toNat 0 then
    s.updFn f (fun x => { x with mskd := if x.mskd.contains vec then x.mskd else x.mskd ++ [vec] })
  else s.unmask f vec

/-! ### BAR0 (R301, R434) -/

/-- A whole aligned register write by a function, once bring-up is done. -/
def State.writeBar0 (s : State) (f off : Nat) (v : Reg) : State :=
  if off < 0x1000 then if f = 0 then s.writeWafer off v else s
  else if off < 0x1100 then
    if f = 0 then s.writeSet 0 (off - 0x1000) v
    else if (s.fnAt f).frozen then s
    else s.writeOwn f (off - 0x1000) v
  else if off < 0x2000 then s
  else if off < 0x6000 then if f = 0 then s.writeSet ((off - 0x2000) / 0x100) (off % 0x100) v else s
  else if off < 0x10000 then s
  else if off < 0x50000 then
    s.ringAccess f ((off - 0x10000) / 64) (fun s => s.writeRing f ((off - 0x10000) / 64) (off % 64) v)
  else if 0x80000 ≤ off ∧ off < 0x88000 then s.writeMsix f (off - 0x80000) v
  else s

/-- REG_WRITE: a write narrower than a register or misaligned is ignored (R436); until bring-up is done, only the command
registers are written (R408); in mask-ROM recovery, none (R424). -/
def State.regWrite (s : State) (f off : Nat) (be : BitVec 4) (v : Reg) : State :=
  if be ≠ 0xF ∨ off % 4 ≠ 0 ∨ s.bru.step = 14 then s
  else if s.bru.step ≠ 15 then if f = 0 ∧ off < 0x1000 then s.writeCommand off v else s
  else s.writeBar0 f off v

def execRegWrite (f : Func) (off : BitVec 20) (be : BitVec 4) (v : Reg) (s : State) : Out :=
  .next (s.regWrite f.val off.toNat be v)

end Sys2Proof.Machine
end

