-- ==== Sys2Proof/Machine/RegRead.lean ====
section
/-! DEFINITION. What a read of a register returns: the map of BAR0 and of the doorbell pages (R5, R301, R302, R307, R408, R424,
R434-R442). The table has no row for a read but TICK_NOW_LATCH, whose side effect is the only one (R436); a denied read of a
ring's block or page counts (R302). -/

namespace Sys2Proof.Machine

open Sys2Proof

/-! ### The mash units in service (R440) -/

def unitsIn (x : Hub) : Nat := popCount x.mash.toNat 8

/-- HDEG: hubs in service with fewer than 8 mash units. -/
def State.hdeg (s : State) : Nat := (s.hubsUp.filter (fun h => decide (unitsIn (s.hubAt h) < 8))).length

/-- HMIN: the fewest mash units at any hub in service. -/
def State.hmin (s : State) : Nat := (s.hubsUp.map (fun h => unitsIn (s.hubAt h))).foldl Nat.min 8

/-- RUNITS: mash units in service at the active root. -/
def State.runits (s : State) : Nat := popCount s.err.rootMash.toNat 32

/-- VSF_MSH_STAT. -/
def State.mshStat (s : State) : Nat := s.hdeg * 2 ^ 16 + s.hmin * 2 ^ 8 + s.runits

/-! ### The wafer block (R439) -/

/-- GO, STATUS and the rest of a command register. -/
def cmdWord (go : Bool) (st : Status) (rest : Nat) : Nat := b2n go * 2 ^ 31 + (statusCode st).toNat * 2 ^ 23 + rest

/-- STATE of VSF_SPN_STAT: SWITCHING while a formation is in progress (R374, R377). -/
def State.spanState (s : State) : Nat :=
  if s.span.forming.isSome then 4
  else match s.span.st with | .none => 0 | .member => 1 | .lead => 2 | .electing => 3

/-- VSF_SPN_STAT. -/
def State.spanStat (s : State) : Nat :=
  s.spanState * 2 ^ 29 + s.span.wid.toNat * 2 ^ 24 + s.span.lead.toNat * 2 ^ 19 + (maskCount s.span.formed - 1) * 2 ^ 14 +
    s.spanDepth * 2 ^ 12

/-- VSF_SPN_PORTn. -/
def State.portWord (s : State) (n : Nat) : Nat :=
  let p := s.portAt n
  b2n p.up * 2 ^ 31 + s.portTree n * 2 ^ 29 + p.peer.toNat * 2 ^ 24 + p.retry.toNat * 2 ^ 12 + p.downs.toNat

/-- VSF_ERR_CTRL: VRKEY is write-only and reads 0. -/
def State.errCtrl (s : State) : Nat :=
  b2n s.err.vrst * 2 ^ 23 + b2n s.err.reinit * 2 ^ 22 + b2n s.err.abort * 2 ^ 21 + s.err.vec.toNat * 2 ^ 6 + s.err.func.val

/-- VSF_BRU_STAT. -/
def State.bruStat (s : State) : Nat :=
  s.bru.step.toNat * 2 ^ 28 + b2n s.mesh.root * 2 ^ 27 + s.bru.rcp.toNat * 2 ^ 25 + b2n s.bru.fwr * 2 ^ 24 + b2n s.bru.stg * 2 ^ 23 +
    s.bru.nign.toNat

/-- The command registers, their address registers, and what bring-up shows of itself (R408). -/
def State.readCommand (s : State) (off : Nat) : Nat :=
  match off with
  | 0x100 => s.mgr.cmdLo.toNat
  | 0x104 => s.mgr.cmdHi.toNat
  | 0x108 => cmdWord s.mgr.go s.mgr.status s.mgr.func.val
  | 0x200 => s.span.cmdLo.toNat
  | 0x204 => s.span.cmdHi.toNat
  | 0x208 => cmdWord s.span.go s.span.status s.span.op.toNat
  | 0x214 => if s.bru.step.toNat < 2 then 0 else bits s.span.ident.toNat 0 32
  | 0x218 => if s.bru.step.toNat < 2 then 0 else bits s.span.ident.toNat 32 32
  | 0x400 => s.bru.cmdLo.toNat
  | 0x404 => s.bru.cmdHi.toNat
  | 0x408 => cmdWord s.bru.go s.bru.status (s.bru.cerr.toNat * 2 ^ 20 + s.bru.func.val * 2 ^ 8 + s.bru.op.toNat)
  | 0x40C => s.bruStat
  | 0x410 => s.bru.fwver.toNat
  | 0x414 => s.bru.svnMin.toNat * 2 ^ 16 + s.bru.svnCur.toNat
  | _ => 0

/-- The wafer block; reserved offsets read 0 (R435). -/
def State.readWafer (s : State) (off : Nat) : Nat :=
  match off with
  | 0x000 => s.tick.period.toNat
  | 0x004 => s.tick.ctrl.toNat
  | 0x008 => bits s.tick.num.toNat 0 32
  | 0x00C => s.tick.hiLatch.toNat
  | 0x040 => s.kiln.limit.toNat
  | 0x044 => s.kiln.idle.toNat
  | 0x048 => s.kiln.therm.toNat
  | 0x04C => s.kiln.didt.toNat
  | 0x050 => s.kiln.rcv.toNat
  | 0x080 => s.kiln.ka.toNat
  | 0x0A0 => s.mshStat
  | 0x10C => s.mgr.vec.toNat
  | 0x110 => bits s.mgr.fwd.toNat 0 32
  | 0x114 => bits s.mgr.fwd.toNat 32 32
  | 0x20C => s.spanStat
  | 0x210 => s.span.sgen.toNat
  | 0x21C => s.span.ctrl.toNat
  | 0x220 => s.span.evt.toNat
  | 0x300 => s.errCtrl
  | 0x304 => s.err.lcls.toNat * 2 ^ 24 + s.err.lfunc.toNat * 2 ^ 18 + s.err.bits.toNat
  | 0x308 => b2n s.err.hclr * 2 ^ 31 + s.err.unit.toNat
  | _ => if 0x240 ≤ off ∧ off < 0x280 ∧ off % 4 = 0 then s.portWord ((off - 0x240) / 4) else s.readCommand off

/-! ### The function sets (R441) -/

def mbxCode : MbxSt → Nat
  | .idle => 0
  | .serving => 1
  | .forwarded => 2
  | .done => 3

/-- VSF_VFN_MBX; function 0 has none. -/
def Fn.mbxWord (x : Fn) : Nat := b2n x.npend * 2 ^ 30 + mbxCode x.mbxSt * 2 ^ 28 + x.mbxVec.toNat

/-- VSF_VFN_DLOG. -/
def Fn.dlogWord (x : Fn) : Nat :=
  b2n x.dlEn * 2 ^ 31 + b2n x.dlAct * 2 ^ 30 + b2n x.dlOvf * 2 ^ 29 + b2n x.hold * 2 ^ 28 + b2n x.held * 2 ^ 27

/-- A function's set as PF0 reads it. -/
def State.readSet (s : State) (f off : Nat) : Nat :=
  let x := s.fnAt f
  match off with
  | 0x00 => x.nown.toNat
  | 0x04 => x.stale.toNat
  | 0x08 => x.untimed.toNat
  | 0x10 => x.thr.toNat
  | 0x14 => x.str.toNat
  | 0x18 => x.ovr.toNat
  | 0x20 => x.cap.toNat
  | 0x24 => x.acc.toNat
  | 0x28 => x.coolCnt.toNat
  | 0x30 => x.cmtCtrl.toNat
  | 0x34 => x.cmtTol.toNat
  | 0x38 => x.cep.toNat
  | 0x3C => x.ckpt.toNat
  | 0x40 => x.cmtCnt.toNat
  | 0x50 => x.seqCtrl.toNat
  | 0x54 => x.seqCnt.toNat
  | 0x60 => x.evr.toNat
  | 0x64 => x.deny.toNat
  | 0x70 => if f = 0 then 0 else x.mbxWord
  | 0x74 => if f = 0 then 0 else x.dlogWord
  | 0x80 => x.nrst.toNat * 2 ^ 16 + x.lcls.toNat * 2 ^ 8
  | 0x84 => x.fcfg.toNat
  | _ => 0

/-- A function's own set: VSF_VFN_DLOG reads 0 to a virtual function. -/
def State.readOwn (s : State) (f off : Nat) : Nat := if off = 0x74 then 0 else s.readSet f off

/-! ### Ring blocks, doorbell pages, the MSI-X structures (R301, R304, R305, R307) -/

def ringStCode : RingSt → Nat
  | .off => 0
  | .run => 1
  | .sparge => 2
  | .drained => 3

/-- VSF_HIF_RCTL: SPARGE reads 1 while the ring is in SPARGE. -/
def Ring.ctlWord (x : Ring) : Nat := ringStCode x.st * 2 ^ 30 + b2n (x.st == .sparge) * 2 + b2n x.en

def Ring.read (x : Ring) (off : Nat) : Nat :=
  match off with
  | 0x00 => x.sqbLo.toNat
  | 0x04 => x.sqbHi.toNat
  | 0x08 => x.cqbLo.toNat
  | 0x0C => x.cqbHi.toNat
  | 0x10 => x.rcfg.toNat
  | 0x14 => x.rmod.toNat
  | 0x18 => x.ctlWord
  | _ => 0

/-- A doorbell page: the two doorbells are write-only and read 0. -/
def Ring.readDoor (x : Ring) (off : Nat) : Nat := if off = 8 then x.cqp % 65536 * 2 ^ 16 + x.sqc % 65536 else 0

/-- The vector control words and the pending bits; the message words are the PCI Express side's own. -/
def Fn.readMsix (x : Fn) (off : Nat) : Nat :=
  if off < 0x8000 then b2n (off % 16 == 12 && x.mskd.contains (BitVec.ofNat 11 (off / 16)))
  else if 0x10000 ≤ off ∧ off < 0x10100 then
    ((List.range 32).map (fun i => b2n (x.pend.contains (BitVec.ofNat 11 ((off - 0x10000) * 8 + i))) * 2 ^ i)).sum
  else 0

/-! ### A read (R434, R436) -/

/-- The register at an aligned offset of BAR0, once bring-up is done. -/
def State.readBar0 (s : State) (f off : Nat) : Nat :=
  if off < 0x1000 then if f = 0 then s.readWafer off else 0
  else if off < 0x1100 then if f = 0 then s.readSet 0 (off - 0x1000) else s.readOwn f (off - 0x1000)
  else if off < 0x2000 then 0
  else if off < 0x6000 then if f = 0 then s.readSet ((off - 0x2000) / 0x100) (off % 0x100) else 0
  else if off < 0x10000 then 0
  else if off < 0x50000 then
    let r := (off - 0x10000) / 64
    if (s.fnAt f).rings.contains r then (s.ringAt r).read (off % 64) else 0
  else if 0x80000 ≤ off then (s.fnAt f).readMsix (off - 0x80000)
  else 0

/-- The register at an aligned offset: during bring-up what R408 shows, in mask-ROM recovery what R424 shows. -/
def State.readWord (s : State) (f off : Nat) : Nat :=
  if s.bru.step = 15 then s.readBar0 f off
  else if f ≠ 0 then 0
  else if s.bru.step = 14 then (if off = 0x40C then s.bruStat else 0)
  else if off < 0x1000 then s.readCommand off else 0

/-- A read of n bytes within one register. -/
def State.regRead (s : State) (f off n : Nat) : Nat := bits (s.readWord f (off / 4 * 4)) (8 * (off % 4)) (8 * n)

/-- A read of a doorbell page's register: BAR2, ring r at r × 0x1000. -/
def State.doorRead (s : State) (f off : Nat) : Nat :=
  let r := off / 0x1000
  if s.bru.step = 15 ∧ (s.fnAt f).rings.contains r then (s.ringAt r).readDoor (off % 0x1000) else 0

/-- What a read of a ring's block or page leaves: a denied one counts (R302). -/
def State.ringReadBy (s : State) (f r : Nat) : State := s.ringAccess f r (fun s => s)

end Sys2Proof.Machine
end

