-- ==== Sys2Proof/Machine/Dispatch.lean ====
section
/-! DEFINITION. The dispatch: one arm per command, each one call of its meaning. -/

namespace Sys2Proof.Machine

open Sys2Proof

/-- The effect of a command on everything but the queue of waiting commands. -/
def exec (i : Instr) (s : State) : Host.Outcome State Fault Refusal :=
  match i with
  | .kenIssue c op q => Sys2Proof.Machine.execKenIssue c op q s
  | .load hub tep q => Sys2Proof.Machine.execLoad hub tep q s
  | .store hub tep q => Sys2Proof.Machine.execStore hub tep q s
  | .swap hub tep q => Sys2Proof.Machine.execSwap hub tep q s
  | .cas hub tep q => Sys2Proof.Machine.execCas hub tep q s
  | .add hub tep q => Sys2Proof.Machine.execAdd hub tep q s
  | .and hub tep q => Sys2Proof.Machine.execAnd hub tep q s
  | .or hub tep q => Sys2Proof.Machine.execOr hub tep q s
  | .xor hub tep q => Sys2Proof.Machine.execXor hub tep q s
  | .umax hub tep q => Sys2Proof.Machine.execUmax hub tep q s
  | .umin hub tep q => Sys2Proof.Machine.execUmin hub tep q s
  | .smax hub tep q => Sys2Proof.Machine.execSmax hub tep q s
  | .smin hub tep q => Sys2Proof.Machine.execSmin hub tep q s
  | .semWait hub tep q => Sys2Proof.Machine.execSemWait hub tep q s
  | .semSignal hub tep q => Sys2Proof.Machine.execSemSignal hub tep q s
  | .semSet hub tep q => Sys2Proof.Machine.execSemSet hub tep q s
  | .semRead hub tep q => Sys2Proof.Machine.execSemRead hub tep q s
  | .tokTake hub tep q => Sys2Proof.Machine.execTokTake hub tep q s
  | .tokReturn hub tep q => Sys2Proof.Machine.execTokReturn hub tep q s
  | .tokSet hub tep q => Sys2Proof.Machine.execTokSet hub tep q s
  | .tokRead hub tep q => Sys2Proof.Machine.execTokRead hub tep q s
  | .lockAcq hub tep q => Sys2Proof.Machine.execLockAcq hub tep q s
  | .lockRel hub tep q => Sys2Proof.Machine.execLockRel hub tep q s
  | .lockConfirm hub tep q => Sys2Proof.Machine.execLockConfirm hub tep q s
  | .lockCancel hub tep q => Sys2Proof.Machine.execLockCancel hub tep q s
  | .lockRenew hub tep q => Sys2Proof.Machine.execLockRenew hub tep q s
  | .lockRead hub tep q => Sys2Proof.Machine.execLockRead hub tep q s
  | .withdraw hub tep q => Sys2Proof.Machine.execWithdraw hub tep q s
  | .leashExpiry k => Sys2Proof.Machine.execLeashExpiry k s
  | .waitTimeout k m t => Sys2Proof.Machine.execWaitTimeout k m t s
  | .kenRsp tep r => Sys2Proof.Machine.execKenRsp tep r s
  | .whistle c tep cause r => Sys2Proof.Machine.execWhistle c tep cause r s
  | .kenReqSpan src tep op q => Sys2Proof.Machine.execKenReqSpan src tep op q s
  | .barInit c ix exp => Sys2Proof.Machine.execBarInit c ix exp s
  | .barFree c ix => Sys2Proof.Machine.execBarFree c ix s
  | .barArrive c b => Sys2Proof.Machine.execBarArrive c b s
  | .barWait c b g wait => Sys2Proof.Machine.execBarWait c b g wait s
  | .barSync c b => Sys2Proof.Machine.execBarSync c b s
  | .barRead c b => Sys2Proof.Machine.execBarRead c b s
  | .tickArm c => Sys2Proof.Machine.execTickArm c s
  | .tickRead c => Sys2Proof.Machine.execTickRead c s
  | .cmtRead c => Sys2Proof.Machine.execCmtRead c s
  | .coreDistRead c entry => Sys2Proof.Machine.execCoreDistRead c entry s
  | .syncFence c scope w inv => Sys2Proof.Machine.execSyncFence c scope w inv s
  | .fenceComplete c lost => Sys2Proof.Machine.execFenceComplete c lost s
  | .broadcastRead c addr => Sys2Proof.Machine.execBroadcastRead c addr s
  | .cmWriteSnoop cl addr => Sys2Proof.Machine.execCmWriteSnoop cl addr s
  | .abftRecord cl zr zc accepted => Sys2Proof.Machine.execAbftRecord cl zr zc accepted s
  | .droopEvent c => Sys2Proof.Machine.execDroopEvent c s
  | .cinvAck c => Sys2Proof.Machine.execCinvAck c s
  | .invAck who => Sys2Proof.Machine.execInvAck who s
  | .invTimeout who => Sys2Proof.Machine.execInvTimeout who s
  | .tickNote hub cl n => Sys2Proof.Machine.execTickNote hub cl n s
  | .edge cl => Sys2Proof.Machine.execEdge cl s
  | .tickEdge cl => Sys2Proof.Machine.execTickEdge cl s
  | .spineEdgeMissing hub => Sys2Proof.Machine.execSpineEdgeMissing hub s
  | .abort hub cl tep m => Sys2Proof.Machine.execAbort hub cl tep m s
  | .resetNote hub n => Sys2Proof.Machine.execResetNote hub n s
  | .resetNoteAtRoot n => Sys2Proof.Machine.execResetNoteAtRoot n s
  | .resetNoteContain n => Sys2Proof.Machine.execResetNoteContain n s
  | .alertNote hub n => Sys2Proof.Machine.execAlertNote hub n s
  | .linkNote link => Sys2Proof.Machine.execLinkNote link s
  | .arrive hub tep a => Sys2Proof.Machine.execArrive hub tep a s
  | .fieldArrive hub tep a => Sys2Proof.Machine.execFieldArrive hub tep a s
  | .mashFold hub residueBad => Sys2Proof.Machine.execMashFold hub residueBad s
  | .barrierResultReady bar => Sys2Proof.Machine.execBarrierResultReady bar s
  | .release hub tep r => Sys2Proof.Machine.execRelease hub tep r s
  | .releaseBegin hub => Sys2Proof.Machine.execReleaseBegin hub s
  | .releaseWave hub => Sys2Proof.Machine.execReleaseWave hub s
  | .releaseAtCsn cl tep r => Sys2Proof.Machine.execReleaseAtCsn cl tep r s
  | .barrierTimeout hub bar => Sys2Proof.Machine.execBarrierTimeout hub bar s
  | .pitch hub tep m => Sys2Proof.Machine.execPitch hub tep m s
  | .proxyRecord hub p => Sys2Proof.Machine.execProxyRecord hub p s
  | .loadMc cl p => Sys2Proof.Machine.execLoadMc cl p s
  | .loadUc cl tep p => Sys2Proof.Machine.execLoadUc cl tep p s
  | .mcBranchDrop router => Sys2Proof.Machine.execMcBranchDrop router s
  | .telem hub t => Sys2Proof.Machine.execTelem hub t s
  | .telemIntervalEnd hub => Sys2Proof.Machine.execTelemIntervalEnd hub s
  | .telemLoss hub => Sys2Proof.Machine.execTelemLoss hub s
  | .telemMissed hub => Sys2Proof.Machine.execTelemMissed hub s
  | .alertForceLift hub => Sys2Proof.Machine.execAlertForceLift hub s
  | .thermalForceLift hub => Sys2Proof.Machine.execThermalForceLift hub s
  | .droopLimitExpiry hub => Sys2Proof.Machine.execDroopLimitExpiry hub s
  | .alertCeilExpiry hub => Sys2Proof.Machine.execAlertCeilExpiry hub s
  | .log m => Sys2Proof.Machine.execLog m s
  | .mgmt hub tep m => Sys2Proof.Machine.execMgmt hub tep m s
  | .routeLoad router entries => Sys2Proof.Machine.execRouteLoad router entries s
  | .linkRetry link errBits => Sys2Proof.Machine.execLinkRetry link errBits s
  | .routeReload ports => Sys2Proof.Machine.execRouteReload ports s
  | .rdDrp cl => Sys2Proof.Machine.execRdDrp cl s
  | .loadOpen cl => Sys2Proof.Machine.execLoadOpen cl s
  | .loadCheck cl bytes => Sys2Proof.Machine.execLoadCheck cl bytes s
  | .loadSend donor target tepoch bytes => Sys2Proof.Machine.execLoadSend donor target tepoch bytes s
  | .legBind cl bar exp gen proxyFor => Sys2Proof.Machine.execLegBind cl bar exp gen proxyFor s
  | .legFree cl bar proxyFor => Sys2Proof.Machine.execLegFree cl bar proxyFor s
  | .epochLoad cl tab part => Sys2Proof.Machine.execEpochLoad cl tab part s
  | .runWrite run => Sys2Proof.Machine.execRunWrite run s
  | .tickNowLatch => Sys2Proof.Machine.execTickNowLatch s
  | .dispatchCut => Sys2Proof.Machine.execDispatchCut s
  | .tickNoteInject => Sys2Proof.Machine.execTickNoteInject s
  | .holdPoint => Sys2Proof.Machine.execHoldPoint s
  | .heldEdge => Sys2Proof.Machine.execHeldEdge s
  | .tickDeadline => Sys2Proof.Machine.execTickDeadline s
  | .followEdge => Sys2Proof.Machine.execFollowEdge s
  | .opChangeComplete hub => Sys2Proof.Machine.execOpChangeComplete hub s
  | .avsRead hub cur volt => Sys2Proof.Machine.execAvsRead hub cur volt s
  | .thermalRead hub t0 t1 t2 t3 => Sys2Proof.Machine.execThermalRead hub t0 t1 t2 t3 s
  | .pmbusRead hub vin step slew => Sys2Proof.Machine.execPmbusRead hub vin step slew s
  | .fclkAck hub => Sys2Proof.Machine.execFclkAck hub s
  | .fclkOpRepeat hub => Sys2Proof.Machine.execFclkOpRepeat hub s
  | .regAlertAssert hub => Sys2Proof.Machine.execRegAlertAssert hub s
  | .regAlertDeassert hub => Sys2Proof.Machine.execRegAlertDeassert hub s
  | .kilnReportSend => Sys2Proof.Machine.execKilnReportSend s
  | .substituteBind f => Sys2Proof.Machine.execSubstituteBind f s
  | .replayReadyTimeout f => Sys2Proof.Machine.execReplayReadyTimeout f s
  | .caskRecordWrite f => Sys2Proof.Machine.execCaskRecordWrite f s
  | .caskUnitWrite => Sys2Proof.Machine.execCaskUnitWrite s
  | .caskDefer => Sys2Proof.Machine.execCaskDefer s
  | .holdupLoss => Sys2Proof.Machine.execHoldupLoss s
  | .viewSend plid => Sys2Proof.Machine.execViewSend plid s
  | .vsfHifDbSq f r pidx => Sys2Proof.Machine.execVsfHifDbSq f r pidx s
  | .vsfHifDbCq f r head => Sys2Proof.Machine.execVsfHifDbCq f r head s
  | .descFetchDone r descs => Sys2Proof.Machine.execDescFetchDone r descs s
  | .nop r sqi => Sys2Proof.Machine.execNop r sqi s
  | .kennelDesc r sqi => Sys2Proof.Machine.execKennelDesc r sqi s
  | .packSet r sqi img => Sys2Proof.Machine.execPackSet r sqi img s
  | .packClear r sqi => Sys2Proof.Machine.execPackClear r sqi s
  | .cmtSet r sqi img => Sys2Proof.Machine.execCmtSet r sqi img s
  | .caskBar r sqi => Sys2Proof.Machine.execCaskBar r sqi s
  | .pitchAdmit r sqi img => Sys2Proof.Machine.execPitchAdmit r sqi img s
  | .pitchRetire r sqi => Sys2Proof.Machine.execPitchRetire r sqi s
  | .seqAdmit r sqi img => Sys2Proof.Machine.execSeqAdmit r sqi img s
  | .seqRead r sqi => Sys2Proof.Machine.execSeqRead r sqi s
  | .seqCtlPause r sqi => Sys2Proof.Machine.execSeqCtlPause r sqi s
  | .seqCtlResume r sqi => Sys2Proof.Machine.execSeqCtlResume r sqi s
  | .seqCtlCancel r sqi => Sys2Proof.Machine.execSeqCtlCancel r sqi s
  | .seqCtlBudget r sqi => Sys2Proof.Machine.execSeqCtlBudget r sqi s
  | .copyIn r sqi => Sys2Proof.Machine.execCopyIn r sqi s
  | .copyOut r sqi => Sys2Proof.Machine.execCopyOut r sqi s
  | .distRead r sqi => Sys2Proof.Machine.execDistRead r sqi s
  | .dmaDone r sqi => Sys2Proof.Machine.execDmaDone r sqi s
  | .dmaErr r sqi fenced => Sys2Proof.Machine.execDmaErr r sqi fenced s
  | .hostBusError r sqi => Sys2Proof.Machine.execHostBusError r sqi s
  | .completionPost r => Sys2Proof.Machine.execCompletionPost r s
  | .msixTimeout r => Sys2Proof.Machine.execMsixTimeout r s
  | .ringEnable f r => Sys2Proof.Machine.execRingEnable f r s
  | .ringDisable f r => Sys2Proof.Machine.execRingDisable f r s
  | .ringSparge f r => Sys2Proof.Machine.execRingSparge f r s
  | .spargeDrained r => Sys2Proof.Machine.execSpargeDrained r s
  | .partCreate block img => Sys2Proof.Machine.execPartCreate block img s
  | .partDestroy => Sys2Proof.Machine.execPartDestroy s
  | .quotaSet block => Sys2Proof.Machine.execQuotaSet block s
  | .grant block => Sys2Proof.Machine.execGrant block s
  | .revoke block => Sys2Proof.Machine.execRevoke block s
  | .mbxSet block => Sys2Proof.Machine.execMbxSet block s
  | .mbxReply => Sys2Proof.Machine.execMbxReply s
  | .note => Sys2Proof.Machine.execNote s
  | .dlogSet block => Sys2Proof.Machine.execDlogSet block s
  | .dlogSwap => Sys2Proof.Machine.execDlogSwap s
  | .hold block => Sys2Proof.Machine.execHold block s
  | .hostHeld f => Sys2Proof.Machine.execHostHeld f s
  | .mbxReq f => Sys2Proof.Machine.execMbxReq f s
  | .objAlloc f hdr pay => Sys2Proof.Machine.execObjAlloc f hdr pay s
  | .objFree f hdr pay => Sys2Proof.Machine.execObjFree f hdr pay s
  | .poolQuery f hdr => Sys2Proof.Machine.execPoolQuery f hdr s
  | .ask f hdr => Sys2Proof.Machine.execAsk f hdr s
  | .form img links spansOk leadHasJobs inSpan => Sys2Proof.Machine.execForm img links spansOk leadHasJobs inSpan s
  | .leave => Sys2Proof.Machine.execLeave s
  | .formJoinTimeout => Sys2Proof.Machine.execFormJoinTimeout s
  | .sbTickCut sgen m => Sys2Proof.Machine.execSbTickCut sgen m s
  | .sbTickEdge sgen m => Sys2Proof.Machine.execSbTickEdge sgen m s
  | .sbHold sgen src tick req => Sys2Proof.Machine.execSbHold sgen src tick req s
  | .sbThrot sgen src asrt field opb => Sys2Proof.Machine.execSbThrot sgen src asrt field opb s
  | .sbPitch sgen m => Sys2Proof.Machine.execSbPitch sgen m s
  | .sbAbort sgen src f code waf => Sys2Proof.Machine.execSbAbort sgen src f code waf s
  | .sbResetn sgen src m => Sys2Proof.Machine.execSbResetn sgen src m s
  | .sbArrive sgen a => Sys2Proof.Machine.execSbArrive sgen a s
  | .sbRelease sgen r => Sys2Proof.Machine.execSbRelease sgen r s
  | .sbKreq sgen src f rtag op q => Sys2Proof.Machine.execSbKreq sgen src f rtag op q s
  | .sbKrsp sgen rtag deferred r => Sys2Proof.Machine.execSbKrsp sgen rtag deferred r s
  | .sbCmt sgen src f epoch nsub => Sys2Proof.Machine.execSbCmt sgen src f epoch nsub s
  | .sbPackJoin sgen src f bar join => Sys2Proof.Machine.execSbPackJoin sgen src f bar join s
  | .sbPackLeave sgen src f bar => Sys2Proof.Machine.execSbPackLeave sgen src f bar s
  | .sbPackAck sgen bar gen => Sys2Proof.Machine.execSbPackAck sgen bar gen s
  | .sbPackNack sgen bar => Sys2Proof.Machine.execSbPackNack sgen bar s
  | .sbKiln sgen m => Sys2Proof.Machine.execSbKiln sgen m s
  | .sbFormJoin src sgen => Sys2Proof.Machine.execSbFormJoin src sgen s
  | .sbFormSwitch m => Sys2Proof.Machine.execSbFormSwitch m s
  | .sbFormCarry m => Sys2Proof.Machine.execSbFormCarry m s
  | .sbTsync port t1 t2 t3 t4 => Sys2Proof.Machine.execSbTsync port t1 t2 t3 t4 s
  | .tsyncInterval => Sys2Proof.Machine.execTsyncInterval s
  | .sbHello port ident wid sgen => Sys2Proof.Machine.execSbHello port ident wid sgen s
  | .sbElect src reach formed => Sys2Proof.Machine.execSbElect src reach formed s
  | .electFlood => Sys2Proof.Machine.execElectFlood s
  | .electStable => Sys2Proof.Machine.execElectStable s
  | .sbLive port => Sys2Proof.Machine.execSbLive port s
  | .sbLiveSend port => Sys2Proof.Machine.execSbLiveSend port s
  | .sbNak port lseq links => Sys2Proof.Machine.execSbNak port lseq links s
  | .sbFrameError port last lenReserved => Sys2Proof.Machine.execSbFrameError port last lenReserved s
  | .sbLinkSilent port links => Sys2Proof.Machine.execSbLinkSilent port links s
  | .nelUpDeassert port links => Sys2Proof.Machine.execNelUpDeassert port links s
  | .nelLinkUp port links => Sys2Proof.Machine.execNelLinkUp port links s
  | .scrubPass uid what word errBits => Sys2Proof.Machine.execScrubPass uid what word errBits s
  | .partitionReset f cls => Sys2Proof.Machine.execPartitionReset f cls s
  | .partitionResetComplete f => Sys2Proof.Machine.execPartitionResetComplete f s
  | .resetEscalate f => Sys2Proof.Machine.execResetEscalate f s
  | .epochAdvance cl => Sys2Proof.Machine.execEpochAdvance cl s
  | .coreReset c => Sys2Proof.Machine.execCoreReset c s
  | .coreRetireDone c => Sys2Proof.Machine.execCoreRetireDone c s
  | .coreRetireTimeout c => Sys2Proof.Machine.execCoreRetireTimeout c s
  | .functionLevelReset f => Sys2Proof.Machine.execFunctionLevelReset f s
  | .vrst v => Sys2Proof.Machine.execVrst v s
  | .varvoReset b => Sys2Proof.Machine.execVarvoReset b s
  | .reinit v => Sys2Proof.Machine.execReinit v s
  | .managerAbort v => Sys2Proof.Machine.execManagerAbort v s
  | .historyClear v => Sys2Proof.Machine.execHistoryClear v s
  | .ppWatchdogExpiry p => Sys2Proof.Machine.execPpWatchdogExpiry p s
  | .ppSelfCheckPass p => Sys2Proof.Machine.execPpSelfCheckPass p s
  | .cperPost => Sys2Proof.Machine.execCperPost s
  | .pwrcycRepeat => Sys2Proof.Machine.execPwrcycRepeat s
  | .powerGood b => Sys2Proof.Machine.execPowerGood b s
  | .mtestRes cl pass => Sys2Proof.Machine.execMtestRes cl pass s
  | .mtestDone => Sys2Proof.Machine.execMtestDone s
  | .mtestTimeout => Sys2Proof.Machine.execMtestTimeout s
  | .repairRoundDone => Sys2Proof.Machine.execRepairRoundDone s
  | .recipeWrite img => Sys2Proof.Machine.execRecipeWrite img s
  | .recipeRead => Sys2Proof.Machine.execRecipeRead s
  | .recipeClear => Sys2Proof.Machine.execRecipeClear s
  | .fwStage img => Sys2Proof.Machine.execFwStage img s
  | .fwCommit readBackOk => Sys2Proof.Machine.execFwCommit readBackOk s
  | .mapRead => Sys2Proof.Machine.execMapRead s
  | .bootLoad => Sys2Proof.Machine.execBootLoad s
  | .requestUpdate => Sys2Proof.Machine.execRequestUpdate s
  | .passComponentTable => Sys2Proof.Machine.execPassComponentTable s
  | .updateComponent len => Sys2Proof.Machine.execUpdateComponent len s
  | .firmwareData c => Sys2Proof.Machine.execFirmwareData c s
  | .activateFirmware => Sys2Proof.Machine.execActivateFirmware s
  | .cancelUpdate => Sys2Proof.Machine.execCancelUpdate s
  | .entdaa addr => Sys2Proof.Machine.execEntdaa addr s
  | .regWrite f off be v => Sys2Proof.Machine.execRegWrite f off be v s
  | .whistleCauseWrite c v => Sys2Proof.Machine.execWhistleCauseWrite c v s
  | .cmRsp cl addr bytes pois => Sys2Proof.Machine.execCmRsp cl addr bytes pois s
  | .storeCountsZero c own waf spn => Sys2Proof.Machine.execStoreCountsZero c own waf spn s
  | .msixUnmask f vec => Sys2Proof.Machine.execMsixUnmask f vec s
  | .aonPgDeassert => Sys2Proof.Machine.execAonPgDeassert s
  | .nelUpAssert port => Sys2Proof.Machine.execNelUpAssert port s
  | .watchWindowExpiry uid => Sys2Proof.Machine.execWatchWindowExpiry uid s
  | .csnSpineInputFail cl => Sys2Proof.Machine.execCsnSpineInputFail cl s

end Sys2Proof.Machine
end

