-- ==== Sys2Proof/Machine/Step.lean ====
section
/-! DEFINITION. One step of the Varvo: the command at the front of the queue, or one cycle of time. -/

namespace Sys2Proof.Machine

open Sys2Proof

/-- The passing of one cycle of the fixed 3.0 GHz clock: what a step does when no command waits (assumption 1,
DESIGN CHOICE). What the passing of time brings about is a command of the table, given when its moment has come; a cycle's end
settles what waited for the commands of its own cycle (R178). -/
def State.idleCycle (s : State) : State := { s.cycleEnd with now := s.now + 1 }

/-- One step: the command at the front of the queue acts on the state with the queue's rest. -/
def step (s : State) : Host.Outcome State Fault Refusal :=
  match s.pending with
  | [] => .next s.idleCycle
  | c :: rest => exec c { s with pending := rest }

/-- The state with the command that a word spells at the front of its queue; unchanged where the word spells none. -/
def State.withFetchWord (s : State) (nbits w : Nat) : State :=
  match decodeTableWord nbits w with
  | some c => { s with pending := c :: s.pending }
  | none => s

end Sys2Proof.Machine
end

