-- ==== Sys2Proof/Safety.lean ====
section
/-! DEFINITION. What the statements are said in: a command that completes, and a canonical state. -/

namespace Sys2Proof.Machine

open Sys2Proof

/-- The command completes at s, and P holds of the state it gives. -/
def Completes (c : Instr) (s : State) (P : State → Prop) : Prop := ∃ t, exec c s = .next t ∧ P t

/-- The command stops at s with the named fault. -/
def Stops (c : Instr) (s : State) (f : Fault) : Prop := exec c s = .fault f

/-- A safe step: it gives a next state or stops by name; it is never refused. -/
def Answered (o : Out) : Prop := (∃ t, o = .next t) ∨ ∃ f, o = .fault f

end Sys2Proof.Machine
end

