-- ==== Sys2Proof/Certificates/Slice0/Obligations.lean ====
section
/-! DEFINITION. The statements for the provers. The next state of a command is given whole wherever it is short, so that what
is not written in it is unchanged; elsewhere the statement says what the next state holds. -/

open Sys2Proof Sys2Proof.Machine

namespace Sys2Proof.Machine

/-- The kennel index that a request names (R28). -/
def keyOf (q : KMsg) : Nat := kennelIndex q.args.cls.toNat q.args.index.toNat

end Sys2Proof.Machine

/-! ### The queue (R438 and the block's interface) -/

/-- A step gives the command at the front of the queue to exec, with the queue's rest. -/
def Obligations.StepRunsFrontCommand : Prop :=
  ∀ (c : Instr) (q : List Instr) (s : State), step { s with pending := c :: q } = exec c { s with pending := q }

/-- With no command waiting, a step passes one cycle of the root time base and changes nothing else, but that the cycle's end
settles a deadline that came due in it and the edges that it left for a heel release (DESIGN CHOICE, log entry 1). -/
def Obligations.EmptyQueuePassesOneCycle : Prop :=
  ∀ s : State, s.pending = [] →
    (s.tick.dueNow = false → (∀ f ∈ s.parts, (s.fnAt f).edgeHeld = false) → step s = .next { s with now := s.now + 1 }) ∧
    (∃ t, step s = .next t ∧ t.now = s.now + 1 ∧ t.pending = [])

/-- No command touches the commands that wait behind it. -/
def Obligations.CommandsLeaveQueue : Prop :=
  ∀ (c : Instr) (s t : State), exec c s = .next t → t.pending = s.pending

/-- Every step keeps every unit table in its canonical form. -/
def Obligations.StepKeepsCanonicalForm : Prop :=
  ∀ s t : State, s.wf = true → step s = .next t → t.wf = true

/-- The reset state: canonical, no command waiting, nothing in flight; bring-up at step 1, the tick STOPPED, every
litter epoch 0, the wafer in no span; the set-up registers at the reset values of their maps. Where the specification
states no value it is the model's (log entries 4, 6). -/
def Obligations.ResetState : Prop :=
  let s := State.reset
  s.wf = true ∧ s.pending = [] ∧ s.net = [] ∧ s.out = [] ∧ s.bru.step = 1 ∧ s.tick.st = .stopped ∧ s.span.st = .none ∧ s.span.wid = 0 ∧
  (∀ h, (s.hubAt h).epoch = 0) ∧ (∀ c, (s.csnAt c).epoch = 0) ∧ (∀ n, (s.coreAt n).epoch = 0) ∧ (∀ f, (s.fnAt f).pepoch = 0) ∧
  s.tick.period = 500000 ∧ s.tick.ctrl = 0x00001000 ∧ s.kiln.limit = 0x7D0001C2 ∧ s.kiln.idle = 1000 ∧
  s.kiln.therm = 0x00695F05 ∧ s.kiln.didt = 0x01004000 ∧ s.kiln.rcv = 0x020A0304 ∧ s.kiln.ka = 0x00400010 ∧
  (∀ f, (s.fnAt f).thr = 0x00000100 ∧ (s.fnAt f).cap = 0x04000000 ∧ (s.fnAt f).cmtCtrl = 0x00000028 ∧
    (s.fnAt f).cmtTol = 0x40800000 ∧ (s.fnAt f).seqCtrl = 0x00004000) ∧ s.span.ctrl = 0x001F0000

/-- No command is refused and none stops the block: exec answers a next state to every command in every state, and so does
every step. What an unpredictable command leaves is confined as R9 says; the Varvo goes on. -/
def Obligations.NoStepIsRefused : Prop :=
  (∀ (c : Instr) (s : State), ∃ t, exec c s = .next t) ∧ ∀ s : State, Answered (step s) ∧ ∃ t, step s = .next t

/-! ### The kennel -/

namespace Sys2Proof.Machine

/-- A request passes the checks of its home hub: the hub in service, the handle a kennel handle homed there, the entry of
the KIND given, the issuer the entry's function (or a class 0x2 handle, or a master of another wafer), the epoch current. -/
def AtHome (s : State) (hub : Field) (tep : Epoch) (q : KMsg) (kind : Kind) : Prop :=
  (s.hubAt hub.val).muz = false ∧ q.args.cls.toNat ≤ 2 ∧ q.args.index.toNat < classRange q.args.cls.toNat ∧
  homeHub (keyOf q) = hub.val ∧ (s.kenAt (keyOf q)).kind = kind ∧ kind ≠ .free ∧
  (q.args.cls = 2 ∨ Master.wafer q.master ≠ s.span.wid.toNat ∨
    s.masterFn q.master = some (s.kenAt (keyOf q)).func.val) ∧
  tep = (s.hubAt hub.val).epoch

/-- The reply of R78 that the unit at an address ends a request with at once. -/
def answerOf (src : Nat) (op : KOp) (q : KMsg) (st : Status) (flag : Bool) (grant : BitVec 16) (aux : BitVec 32)
    (res : BitVec 64) : Msg := .kenRsp (Master.epoch q.master) (replyTo src op q st flag grant aux res)

/-- The reply of a home hub. -/
def answer (hub : Field) (op : KOp) (q : KMsg) (st : Status) (flag : Bool) (grant : BitVec 16) (aux : BitVec 32)
    (res : BitVec 64) : Msg := answerOf (hubAddr hub.val) op q st flag grant aux res

/-- A request reaches its hub now, whatever its operation: no older message of its flow is in flight (R57, R58). -/
def Arrives (s : State) (hub : Field) (tep : Epoch) (q : KMsg) : Prop := ∀ op, s.stopped (.kenReq hub.val tep op q) = false

/-- The state once a request is taken off the mesh. -/
def begun (s : State) (hub : Field) (tep : Epoch) (op : KOp) (q : KMsg) : State := s.taken (.kenReq hub.val tep op q)

end Sys2Proof.Machine

/-- The atomic operations: the new VALUE, the reply and, since the next state is given whole, nothing else changed. -/
def Obligations.AtomicOperations : Prop :=
  ∀ (s : State) (hub : Field) (tep : Epoch) (q : KMsg), Arrives s hub tep q → AtHome s hub tep (s.renewed q) .atomicWord →
    let r := s.renewed q
    let v := (s.kenAt (keyOf r)).value
    let a := r.args.a
    let done (op : KOp) (new : BitVec 64) (flag : Bool) (res : BitVec 64) : Out :=
      .next (((begun s hub tep op q).updKen (keyOf r) (fun e => { e with value := new })).send (answer hub op r .ok flag 0 0 res))
    exec (.load hub tep q) s = done .load v false v ∧
    exec (.store hub tep q) s = done .store a false 0 ∧
    exec (.swap hub tep q) s = done .swap a false v ∧
    exec (.cas hub tep q) s = done .cas (if v = a then r.args.b else v) (v == a) v ∧
    exec (.add hub tep q) s = done .add (v + a) false v ∧
    exec (.and hub tep q) s = done .and (v &&& a) false v ∧
    exec (.or hub tep q) s = done .or (v ||| a) false v ∧
    exec (.xor hub tep q) s = done .xor (v ^^^ a) false v ∧
    exec (.umax hub tep q) s = done .umax (if v.toNat < a.toNat then a else v) false v ∧
    exec (.umin hub tep q) s = done .umin (if a.toNat < v.toNat then a else v) false v ∧
    exec (.smax hub tep q) s = done .smax (if v.toInt < a.toInt then a else v) false v ∧
    exec (.smin hub tep q) s = done .smin (if a.toInt < v.toInt then a else v) false v

/-- Taking from a semaphore or a token pool with nobody waiting: COUNT falls by N, or by min(N, COUNT) for a pool whose COUNT
is at least M′, and the reply reports OK, with GRANT for a pool. -/
def Sys2Proof.Machine.Says.TakeWhenEnough : Prop :=
  ∀ (s : State) (hub : Field) (tep : Epoch) (q : KMsg),
    let r := s.renewed q
    let e := s.kenAt (keyOf r)
    Arrives s hub tep q → e.queue = [] → r.args.n ≠ 0 →
    (AtHome s hub tep r .semaphore → r.args.n.toNat ≤ e.count.toNat →
      let c := e.count - BitVec.ofNat 32 r.args.n.toNat
      exec (.semWait hub tep q) s = .next (((begun s hub tep .semWait q).updKen (keyOf r)
        (fun e => { e with count := c })).send (answer hub .semWait r .ok false 0 c 0))) ∧
    (AtHome s hub tep r .tokenPool → r.args.m.toNat ≤ r.args.n.toNat →
      (if r.args.m = 0 then r.args.n.toNat else r.args.m.toNat) ≤ e.count.toNat →
      let g := Nat.min r.args.n.toNat e.count.toNat
      let c := e.count - BitVec.ofNat 32 g
      exec (.tokTake hub tep q) s = .next (((begun s hub tep .tokTake q).updKen (keyOf r)
        (fun e => { e with count := c })).send (answer hub .tokTake r .ok false (BitVec.ofNat 16 g) c 0)))

/-- Giving to, setting and reading a semaphore or token pool with nobody waiting: COUNT is clipped to LIMIT, FLAG says
whether it was, AUX is COUNT afterwards; a read changes nothing. -/
def Sys2Proof.Machine.Says.GiveSetAndRead : Prop :=
  ∀ (s : State) (hub : Field) (tep : Epoch) (q : KMsg),
    let r := s.renewed q
    let e := s.kenAt (keyOf r)
    let sum := e.count.toNat + r.args.n.toNat
    let lim := BitVec.ofNat 32 (r.args.a.toNat / 2 ^ 32)
    let cnt := BitVec.ofNat 32 r.args.a.toNat
    let give (op : KOp) : Out :=
      let c := if sum ≤ e.limit.toNat then BitVec.ofNat 32 sum else e.limit
      .next (((begun s hub tep op q).updKen (keyOf r) (fun e => { e with count := c })).send
        (answer hub op r .ok (decide (e.limit.toNat < sum)) 0 c 0))
    let set (op : KOp) : Out :=
      let c := if cnt.toNat ≤ lim.toNat then cnt else lim
      .next (((begun s hub tep op q).updKen (keyOf r) (fun e => { e with limit := lim, count := c })).send
        (answer hub op r .ok (decide (lim.toNat < cnt.toNat)) 0 c 0))
    let read (op : KOp) : Out := .next ((begun s hub tep op q).send (answer hub op r .ok false 0 0 (e.limit ++ e.count)))
    Arrives s hub tep q → s.wf = true → e.queue = [] →
    (AtHome s hub tep r .semaphore →
      exec (.semSignal hub tep q) s = give .semSignal ∧ exec (.semSet hub tep q) s = set .semSet ∧
      exec (.semRead hub tep q) s = read .semRead) ∧
    (AtHome s hub tep r .tokenPool →
      exec (.tokReturn hub tep q) s = give .tokReturn ∧ exec (.tokSet hub tep q) s = set .tokSet ∧
      exec (.tokRead hub tep q) s = read .tokRead)

/-- A take that COUNT or a waiter does not let through: with WAIT 0 it ends TIMEOUT and changes nothing at the entry. -/
def Sys2Proof.Machine.Says.TakeWithoutWaiting : Prop :=
  ∀ (s : State) (hub : Field) (tep : Epoch) (q : KMsg),
    let r := s.renewed q
    let e := s.kenAt (keyOf r)
    Arrives s hub tep q → AtHome s hub tep r .semaphore → r.args.n ≠ 0 → r.args.wait = false → (e.queue ≠ [] ∨ e.count.toNat < r.args.n.toNat) →
      exec (.semWait hub tep q) s = .next ((begun s hub tep .semWait q).send (answer hub .semWait r .timeout false 0 e.count 0))

/-- A signal that brings COUNT to what the head waiter needs ends its wait: the request leaves the queue with OK, and COUNT
falls by its N. -/
def Sys2Proof.Machine.Says.SignalServesHeadWaiter : Prop :=
  ∀ (s : State) (hub : Field) (tep : Epoch) (q : KMsg) (w : Waiter),
    let r := s.renewed q
    let e := s.kenAt (keyOf r)
    Arrives s hub tep q → s.wf = true → AtHome s hub tep r .semaphore → e.queue = [w] → w.op = .semWait → w.deadline = none → w.timer = .none →
    e.count.toNat + r.args.n.toNat ≤ e.limit.toNat → w.n.toNat ≤ e.count.toNat + r.args.n.toNat →
    Completes (.semSignal hub tep q) s (fun t =>
      (t.kenAt (keyOf r)).queue = [] ∧
      (t.kenAt (keyOf r)).count.toNat = e.count.toNat + r.args.n.toNat - w.n.toNat)

/-- Acquiring a free lock that needs no leash: the requester becomes its owner, ahead or held as it asked, and is told of a
pending PHANTOM or ABANDONED, which that grant clears. -/
def Sys2Proof.Machine.Says.LockAcquireFree : Prop :=
  ∀ (s : State) (hub : Field) (tep : Epoch) (q : KMsg),
    let r := s.renewed q
    let e := s.kenAt (keyOf r)
    Arrives s hub tep q → s.wf = true → AtHome s hub tep r .lock → e.st = .free → r.args.leash = 0 →
    Completes (.lockAcq hub tep q) s (fun t =>
      let u := t.kenAt (keyOf r)
      u.owner = r.master ∧ u.st = (if r.args.ahead then .heldAhead else .held) ∧
      u.phn = false ∧ u.abnd = (e.phn && e.abnd) ∧
      t.net = (begun s hub tep .lockAcq q).net ++ [answer hub .lockAcq r
        (if e.phn then .phantom else if e.abnd then .abandoned else .ok) false 0 (BitVec.ofNat 32 e.queue.length) 0])

/-- The owner's operations on a lock with no waiter and no running leash: LOCK_REL frees it, LOCK_CONFIRM makes it HELD,
LOCK_CANCEL frees it with PHN from HELD_AHEAD, LOCK_RENEW with LEASH 0 leaves it held without a leash. -/
def Sys2Proof.Machine.Says.LockOwnerOperations : Prop :=
  ∀ (s : State) (hub : Field) (tep : Epoch) (q : KMsg),
    let r := s.renewed q
    let e := s.kenAt (keyOf r)
    Arrives s hub tep q → s.wf = true → AtHome s hub tep r .lock → e.st ≠ .free → e.owner = r.master → e.queue = [] → e.leash = .none →
    (r.args.ret = false → Completes (.lockRel hub tep q) s (fun t =>
      (t.kenAt (keyOf r)).st = .free ∧ (t.kenAt (keyOf r)).abnd = e.abnd ∧ (t.kenAt (keyOf r)).phn = e.phn)) ∧
    Completes (.lockConfirm hub tep q) s (fun t =>
      (t.kenAt (keyOf r)).st = .held ∧ (t.kenAt (keyOf r)).owner = e.owner) ∧
    (e.st = .heldAhead → Completes (.lockCancel hub tep q) s (fun t =>
      (t.kenAt (keyOf r)).st = .free ∧ (t.kenAt (keyOf r)).phn = true)) ∧
    (r.args.leash = 0 → Completes (.lockRenew hub tep q) s (fun t =>
      (t.kenAt (keyOf r)).st = e.st ∧ (t.kenAt (keyOf r)).leash = .none)) ∧
    Completes (.lockRead hub tep q) s (fun t =>
      t.ken = s.ken ∧ t.net = (begun s hub tep .lockRead q).net ++
        [answer hub .lockRead r .ok false 0 0 (lockWord e)])

/-- R86: a master that does not hold a lock is answered NOT_OWNER and the entry stands; LOCK_REL and LOCK_CANCEL then advance
the issuing function's non-owner counter, LOCK_CONFIRM and LOCK_RENEW do not. -/
def Obligations.NotOwnerCounting : Prop :=
  ∀ (s : State) (hub : Field) (tep : Epoch) (q : KMsg),
    let r := s.renewed q
    let e := s.kenAt (keyOf r)
    Arrives s hub tep q → AtHome s hub tep r .lock → (e.st = .free ∨ e.owner ≠ r.master) → r.args.ret = false →
    let no (op : KOp) : Msg := answer hub op r .notOwner false 0 (BitVec.ofNat 32 e.queue.length) 0
    let counted (op : KOp) : Out :=
      .next (((begun s hub tep op q).updFn e.func.val (fun x => { x with nown := satInc x.nown })).send (no op))
    exec (.lockRel hub tep q) s = counted .lockRel ∧ exec (.lockCancel hub tep q) s = counted .lockCancel ∧
    exec (.lockConfirm hub tep q) s = .next ((begun s hub tep .lockConfirm q).send (no .lockConfirm)) ∧
    exec (.lockRenew hub tep q) s = .next ((begun s hub tep .lockRenew q).send (no .lockRenew))

/-- WITHDRAW of a request still queued removes it, ends it ABORTED and reports FLAG 0; of none, it reports FLAG 1. -/
def Sys2Proof.Machine.Says.WithdrawEndsQueuedRequest : Prop :=
  ∀ (s : State) (hub : Field) (tep : Epoch) (q : KMsg) (w : Waiter),
    let r := s.renewed q
    let e := s.kenAt (keyOf r)
    Arrives s hub tep q → AtHome s hub tep r .lock →
    (e.queue = [] → exec (.withdraw hub tep q) s =
      .next ((begun s hub tep .withdraw q).send (answer hub .withdraw r .ok true 0 0 0))) ∧
    (s.wf = true → e.queue = [w] → w.master = r.master → w.tag = r.args.ctag → w.timer = .none →
      Completes (.withdraw hub tep q) s (fun t =>
        (t.kenAt (keyOf r)).queue = [] ∧ (t.kenAt (keyOf r)).owner = e.owner ∧
        t.net.getLast? = some (answer hub .withdraw r .ok false 0 0 0)))

/-- Expiries at a hub: a leash past its deadline frees the lock with ABND; a wait past its deadline leaves the queue. -/
def Sys2Proof.Machine.Says.KennelExpiries : Prop :=
  ∀ (s : State) (k : Fin 1376256), s.wf = true →
    (∀ i, (s.kenAt k.val).kind = .lock → (s.kenAt k.val).st ≠ .free → (s.kenAt k.val).leash = .comparator i →
      (s.kenAt k.val).queue = [] → passed s.units (s.kenAt k.val).deadline = true →
      Completes (.leashExpiry k) s (fun t =>
        (t.kenAt k.val).st = .free ∧ (t.kenAt k.val).abnd = true ∧ (t.kenAt k.val).leash = .none ∧
        ((t.hubAt (homeHub k.val)).cmpAt i) = none)) ∧
    (∀ (w : Waiter) (d : BitVec 32), (s.kenAt k.val).kind = .lock → (s.kenAt k.val).queue = [w] → w.timer = .none →
      w.deadline = some d → passed s.units d = true →
      Completes (.waitTimeout k w.master w.tag) s (fun t =>
        (t.kenAt k.val).queue = [] ∧ (t.kenAt k.val).st = (s.kenAt k.val).st))

/-- What a hub refuses: FENCED from a muzzled hub, and for a handle that names no entry of the hub or none of the issuer's
function; GONE for a stale epoch. The entry is unchanged. -/
def Obligations.HomeHubRefuses : Prop :=
  ∀ (s : State) (hub : Field) (tep : Epoch) (q : KMsg),
    let r := s.renewed q
    let no (st : Status) : Out := .next ((begun s hub tep .add q).send (answer hub .add r st false 0 0 0))
    Arrives s hub tep q →
    ((s.hubAt hub.val).muz = true → exec (.add hub tep q) s = no .fenced) ∧
    ((s.kenAt (keyOf r)).kind = .free → exec (.add hub tep q) s = no .fenced) ∧
    (2 < r.args.cls.toNat → exec (.add hub tep q) s = no .fenced) ∧
    (∀ kind, AtHome s hub (s.hubAt hub.val).epoch r kind → tep ≠ (s.hubAt hub.val).epoch →
      exec (.add hub tep q) s = no .gone)

/-- The 17 commands of semaphores, token pools, locks and expiries complete with their own effect: for every state and request
that passes the checks of its home hub, each answers a next state, in which the entry holds what R83, R85, R88, R89 and R100
give. -/
def Obligations.KennelCommandsComplete : Prop :=
  ∀ (s : State) (hub : Field) (tep : Epoch) (q : KMsg),
    let r := s.renewed q
    let k := keyOf r
    let e := s.kenAt k
    let n := r.args.n.toNat
    let lim := BitVec.ofNat 32 (r.args.a.toNat / 2 ^ 32)
    let cnt := BitVec.ofNat 32 r.args.a.toNat
    Arrives s hub tep q → s.wf = true → e.queue = [] →
    (AtHome s hub tep r .semaphore →
      (n ≤ e.count.toNat → ∃ t, exec (.semWait hub tep q) s = .next t ∧ (t.kenAt k).count.toNat = e.count.toNat - n) ∧
      (∃ t, exec (.semSignal hub tep q) s = .next t ∧ (t.kenAt k).count.toNat = min (e.count.toNat + n) e.limit.toNat) ∧
      (∃ t, exec (.semSet hub tep q) s = .next t ∧ (t.kenAt k).limit = lim ∧
        (t.kenAt k).count.toNat = min cnt.toNat lim.toNat) ∧
      (∃ t, exec (.semRead hub tep q) s = .next t ∧ t.ken = s.ken ∧
        t.net = (begun s hub tep .semRead q).net ++ [answer hub .semRead r .ok false 0 0 (e.limit ++ e.count)])) ∧
    (AtHome s hub tep r .tokenPool →
      (r.args.m.toNat ≤ n → (if r.args.m = 0 then n else r.args.m.toNat) ≤ e.count.toNat →
        ∃ t, exec (.tokTake hub tep q) s = .next t ∧ (t.kenAt k).count.toNat = e.count.toNat - min n e.count.toNat) ∧
      (∃ t, exec (.tokReturn hub tep q) s = .next t ∧ (t.kenAt k).count.toNat = min (e.count.toNat + n) e.limit.toNat) ∧
      (∃ t, exec (.tokSet hub tep q) s = .next t ∧ (t.kenAt k).limit = lim ∧
        (t.kenAt k).count.toNat = min cnt.toNat lim.toNat) ∧
      (∃ t, exec (.tokRead hub tep q) s = .next t ∧ t.ken = s.ken ∧
        t.net = (begun s hub tep .tokRead q).net ++ [answer hub .tokRead r .ok false 0 0 (e.limit ++ e.count)])) ∧
    (AtHome s hub tep r .lock →
      (e.st = .free → r.args.leash = 0 → ∃ t, exec (.lockAcq hub tep q) s = .next t ∧ (t.kenAt k).owner = r.master ∧
        (t.kenAt k).st = (if r.args.ahead then .heldAhead else .held)) ∧
      (∃ t, exec (.lockRead hub tep q) s = .next t ∧ t.ken = s.ken ∧
        t.net = (begun s hub tep .lockRead q).net ++ [answer hub .lockRead r .ok false 0 0 (lockWord e)]) ∧
      (e.st ≠ .free → e.owner = r.master →
        (∃ t, exec (.lockRel hub tep q) s = .next t ∧ (t.kenAt k).st = .free) ∧
        (∃ t, exec (.lockConfirm hub tep q) s = .next t ∧ (t.kenAt k).st = .held ∧ (t.kenAt k).owner = r.master) ∧
        (∃ t, exec (.lockCancel hub tep q) s = .next t ∧ (t.kenAt k).st = (if e.st = .heldAhead then .free else .held)) ∧
        (r.args.leash = 0 → ∃ t, exec (.lockRenew hub tep q) s = .next t ∧ (t.kenAt k).st = e.st ∧
          (t.kenAt k).leash = .none)) ∧
      (e.st ≠ .free → e.leash ≠ .none → passed s.units e.deadline = true → ∀ i : Fin 1376256, i.val = k →
        ∃ t, exec (.leashExpiry i) s = .next t ∧ (t.kenAt k).st = .free ∧ (t.kenAt k).abnd = true)) ∧
    (∀ kind, AtHome s hub tep r kind → ∃ t, exec (.withdraw hub tep q) s = .next t ∧ t.ken = s.ken ∧
      t.net = (begun s hub tep .withdraw q).net ++ [answer hub .withdraw r .ok true 0 0 0]) ∧
    (∀ (i : Fin 1376256) (w : Waiter) (d : BitVec 32), (s.kenAt i.val).queue = [w] → w.deadline = some d →
      passed s.units d = true → ∃ t, exec (.waitTimeout i w.master w.tag) s = .next t ∧ (t.kenAt i.val).queue = [])

/-! ### The sync port of a core -/

namespace Sys2Proof.Machine

/-- No operation is held at a port of the cluster. -/
def Calm (s : State) (cl : Nat) : Prop := ∀ n ∈ s.coresOf cl, (s.coreAt n).stall = none

/-- The core's port takes an operation, and nothing is held at its cluster. -/
def PortFree (s : State) (c : CoreRef) : Prop := portOpen (s.coreAt c.id) = true ∧ Calm s c.cl.id

/-- The entry a core-side barrier command names by its index. -/
def entOf (s : State) (c : CoreRef) (ix : Byte) : BarEntry := (s.csnAt c.cl.id).entAt ix.toNat

end Sys2Proof.Machine

/-- KEN_ISSUE at a core with nothing outstanding: the port returns a TAG, and the KEN_REQ leaves for the home hub with RET 0,
the core's own identity and the epoch the CSN holds for that hub. -/
def Sys2Proof.Machine.Says.KennelIssueSendsRequest : Prop :=
  ∀ (s : State) (c : CoreRef) (op : BitVec 5) (o : KOp) (q : KArgs),
    let h := homeHub (kennelIndex q.cls.toNat q.index.toNat)
    kopOf op.toNat = some o → (q.scope = 0 ∨ q.scope = 1) → q.cls.toNat ≤ 1 → q.index.toNat < classRange q.cls.toNat →
    ¬ h ∈ s.mesh.shownMuz → q.pub = false → PortFree s c → (s.coreAt c.id).reqs = [] →
    storesDone (s.coreAt c.id) q.scope.toNat = true →
    Completes (.kenIssue c op q) s (fun t => ∃ tag : Tag,
      t.out = s.out ++ [.portTag c.id tag] ∧
      t.net = s.net ++ [.kenReq h (s.epTab c.cl.id h) o ⟨{ q with ret := false }, s.coreMaster c.id, tag⟩])

/-- An issue of a reserved operation code, scope or class is unpredictable within the bounds of R9: it ends at the port with some
status, and only the free value that gave it is used up (DESIGN CHOICE, log entry 12). -/
def Sys2Proof.Machine.Says.ReservedKennelEncodingEnds : Prop :=
  ∀ (s : State) (c : CoreRef) (op : BitVec 5) (q : KArgs),
    (kopOf op.toNat = none ∨ q.scope = 3 ∨ 2 < q.cls.toNat) → portOpen (s.coreAt c.id) = true →
      ∃ st : Status, exec (.kenIssue c op q) s = .next (s.drawn.emit (.portAny c.id st))

/-- The end of a core's one request reaches its port: a KEN_RSP is placed there; a WHISTLE is placed there too, and sets
KSTAT, KTAG and its cause. The TAG is free again. -/
def Sys2Proof.Machine.Says.KennelResultReachesCore : Prop :=
  ∀ (s : State) (c : CoreRef) (r : KRsp) (q : Req),
    let e : KRsp := { r with master := s.newMaster r.master }
    s.wf = true → (s.csnAt c.cl.id).rst = none → (s.coreAt c.id).reqs = [q] → q.tag = r.tag → q.silent = false → q.own = false →
    Calm s c.cl.id → Master.core e.master = c.id → Master.wafer e.master = s.span.wid.toNat → Master.isFn e.master = false →
    (s.stopped (.kenRsp (s.coreAt c.id).epoch r) = false → Completes (.kenRsp (s.coreAt c.id).epoch r) s (fun t =>
      t.out = s.out ++ [.portKen c.id e] ∧ (t.coreAt c.id).reqs = [] ∧ (t.coreAt c.id).wcr = (s.coreAt c.id).wcr)) ∧
    (s.stopped (.whistle c.id (s.coreAt c.id).epoch .sem r) = false → r.status ≠ .aborted → r.status ≠ .spanLost →
      Completes (.whistle c (s.coreAt c.id).epoch .sem r) s (fun t =>
      t.out = s.out ++ [.portKen c.id r] ∧ (t.coreAt c.id).reqs = [] ∧
      (t.coreAt c.id).wcr = setCause (setKtag (s.coreAt c.id).wcr r.tag r.status) .sem))

/-- A reply under a stale epoch is discarded and counted, a notice discarded; nothing reaches the core. -/
def Sys2Proof.Machine.Says.StaleReplyIsCounted : Prop :=
  ∀ (s : State) (c : CoreRef) (tep : Epoch) (cause : Cause) (r : KRsp),
    (s.csnAt c.cl.id).rst = none → tep ≠ (s.coreAt c.id).epoch → s.stopped (.whistle c.id tep cause r) = false →
    ((cause = .lock ∨ cause = .sem) → exec (.whistle c tep cause r) s =
      .next ((s.taken (.whistle c.id tep cause r)).updCsn c.cl.id (fun x => { x with stale := x.stale + 1 }))) ∧
    (cause ≠ .lock → cause ≠ .sem → exec (.whistle c tep cause r) s = .next (s.taken (.whistle c.id tep cause r)))

/-- A SPAN-scope request at the root: the lead checks it and injects it to its home hub with that hub's epoch; a stale
partition epoch is answered GONE. -/
def Sys2Proof.Machine.Says.SpanRequestAtRoot : Prop :=
  ∀ (s : State) (src : Cluster) (tep : Epoch) (op : KOp) (q : KMsg) (f : Nat),
    s.fnOf src.id = some f → s.stopped (.kenReqRoot src.id tep op q) = false →
    (tep ≠ (s.fnAt f).pepoch → exec (.kenReqSpan src tep op q) s =
      .next ((s.taken (.kenReqRoot src.id tep op q)).send (answerOf s.rootUnit op q .gone false 0 0 0))) ∧
    (tep = (s.fnAt f).pepoch → s.span.st = .lead → q.args.cls.toNat ≤ 1 → q.args.index.toNat < classRange q.args.cls.toNat →
      (s.kenAt (keyOf q)).kind ≠ .free → (s.kenAt (keyOf q)).func.val = f → (s.hubAt (homeHub (keyOf q))).muz = false →
      exec (.kenReqSpan src tep op q) s = .next ((s.taken (.kenReqRoot src.id tep op q)).send
        (.kenReq (homeHub (keyOf q)) (s.hubAt (homeHub (keyOf q))).epoch op q)))

/-- BAR_INIT and BAR_FREE of an entry on which no core waits: the generation ends ABORTED, GEN advances, and the entry is a
cluster barrier of EXP with nothing arrived, or free. -/
def Sys2Proof.Machine.Says.BarrierInitAndFree : Prop :=
  ∀ (s : State) (c : CoreRef) (ix exp : Byte), s.wf = true → twf BarEntry.init (s.csnAt c.cl.id).ents = true →
    PortFree s c → (entOf s c ix).mode ≠ 2 → (entOf s c ix).waitm = 0 →
    Completes (.barInit c ix exp) s (fun t =>
      let u := entOf t c ix
      u.mode = 1 ∧ u.exp = exp ∧ u.arr = 0 ∧ u.early = 0 ∧ u.psn = false ∧ u.gen = (entOf s c ix).gen + 1 ∧
      u.rgen = (entOf s c ix).gen ∧ u.rstat = .aborted ∧ t.out = s.out ++ [.portOk c.id]) ∧
    Completes (.barFree c ix) s (fun t =>
      let u := entOf t c ix
      u.mode = 0 ∧ u.gen = (entOf s c ix).gen + 1 ∧ u.rgen = (entOf s c ix).gen ∧ u.rstat = .aborted ∧
      t.out = s.out ++ [.portOk c.id])

/-- A core-side command that names a leg by its index, or an entry of another MODE, is unpredictable within the bounds of R9: it
ends at the port with some status, and no entry changes (DESIGN CHOICE, log entry 12). -/
def Sys2Proof.Machine.Says.BarrierMisnamedEnds : Prop :=
  ∀ (s : State) (c : CoreRef) (ix exp g : Byte) (w : Bool), PortFree s c →
    let ends (i : Instr) : Prop := ∃ st : Status, exec i s = .next (s.drawn.emit (.portAny c.id st))
    ((entOf s c ix).mode = 2 → ends (.barInit c ix exp) ∧ ends (.barFree c ix)) ∧
    ((entOf s c ix).mode ≠ 1 → ends (.barArrive c (.entry ix)) ∧ ends (.barWait c (.entry ix) g w) ∧
      ends (.barSync c (.entry ix)))

/-- Arrivals at a cluster barrier: one that leaves ARR below EXP is counted; the one that reaches EXP releases the generation
at once with OK, and GEN advances. -/
def Obligations.BarrierArrivals : Prop :=
  ∀ (s : State) (c : CoreRef) (ix : Byte), s.wf = true → twf BarEntry.init (s.csnAt c.cl.id).ents = true → PortFree s c →
    let e := entOf s c ix
    e.mode = 1 → e.arr.toNat < e.exp.toNat → (s.coreAt c.id).stOwn = 0 →
    (e.arr + 1 ≠ e.exp → Completes (.barArrive c (.entry ix)) s (fun t =>
      (entOf t c ix).arr = e.arr + 1 ∧ (entOf t c ix).gen = e.gen ∧ t.out = s.out ++ [.portGen c.id .ok e.gen])) ∧
    (e.arr + 1 = e.exp → e.early = 0 → e.waitm = 0 → Completes (.barArrive c (.entry ix)) s (fun t =>
      (entOf t c ix).gen = e.gen + 1 ∧ (entOf t c ix).rgen = e.gen ∧ (entOf t c ix).rstat = .ok ∧ (entOf t c ix).arr = 0 ∧
      t.out = s.out ++ [.portGen c.id .ok e.gen]))

/-- BAR_WAIT on a released generation gives its result at once; on the open one it waits, or with WAIT 0 ends TIMEOUT.
BAR_SYNC that does not complete the generation counts an arrival and waits. BAR_READ gives the entry's word. -/
def Obligations.BarrierWaits : Prop :=
  ∀ (s : State) (c : CoreRef) (ix g : Byte) (w : Bool), s.wf = true → twf BarEntry.init (s.csnAt c.cl.id).ents = true →
    PortFree s c →
    let e := entOf s c ix
    e.mode = 1 → e.exp ≠ 0 → (s.coreAt c.id).bwait = none →
    (g ≠ e.rgen + 1 → g ≠ e.rgen + 2 →
      exec (.barWait c (.entry ix) g w) s = .next (s.emit (.portBar c.id e.rstat e.rgen e.res))) ∧
    (exec (.barWait c (.entry ix) (e.rgen + 1) false) s = .next (s.emit (.portBar c.id .timeout e.rgen 0))) ∧
    Completes (.barWait c (.entry ix) (e.rgen + 1) true) s (fun t =>
      (t.coreAt c.id).bwait = some (ix.toNat, e.rgen + 1) ∧ bit (entOf t c ix).waitm.toNat c.ix.val = true ∧ t.out = s.out) ∧
    (e.arr.toNat + 1 < e.exp.toNat → e.gen = e.rgen + 1 → (s.coreAt c.id).stOwn = 0 → Completes (.barSync c (.entry ix)) s (fun t =>
      (entOf t c ix).arr = e.arr + 1 ∧ (t.coreAt c.id).bwait = some (ix.toNat, e.gen) ∧ t.out = s.out)) ∧
    exec (.barRead c (.entry ix)) s = .next (s.emit (.portEntry c.id (barEntryWord e)))

/-- What a core reads at its port changes nothing but the port's output: the tick word, the commit word, its barrier entry,
its entry of the distance table, or for a reserved number a free value (log entry 12). TICK_ARM arms it for the next edge. -/
def Sys2Proof.Machine.Says.PortReads : Prop :=
  ∀ (s : State) (c : CoreRef) (entry : BitVec 7), portOpen (s.coreAt c.id) = true →
    let x := s.csnAt c.cl.id
    exec (.tickArm c) s = .next ((s.updCore c.id (fun y => { y with armed := true })).emit (.portOk c.id)) ∧
    exec (.tickRead c) s = .next (s.emit (.portWord c.id (BitVec.ofNat 64
      (x.tick.toNat * 2 ^ 32 + x.phase.toNat * 2 ^ 29 + Nat.min ((s.now - x.edgeAt) / 3) 0x7FFFFFF)))) ∧
    exec (.cmtRead c) s = .next (s.emit (.portWord c.id (s.cmtWordOf c.cl.id))) ∧
    (entry.toNat ≤ 107 → exec (.coreDistRead c entry) s =
      .next (s.emit (.portWord c.id ((s.distEntry c.cl.id entry.toNat).zeroExtend 64)))) ∧
    (107 < entry.toNat → ∃ v, exec (.coreDistRead c entry) s = .next (s.drawn.emit (.portWord c.id v)))

/-- SYNC_FENCE with W 0 and I 0 completes OK at once; otherwise it is pending. FENCE_COMPLETE ends a pending fence OK once
the stores of its scope and the core's kennel requests are complete, and a SPAN fence SPAN_LOST where a declared link loss
cut its stores. A reserved scope ends with either status of R283 (log entry 12). -/
def Obligations.Fences : Prop :=
  ∀ (s : State) (c : CoreRef) (scope : BitVec 2) (w i : Bool) (f : Fence),
    (portOpen (s.coreAt c.id) = true → scope ≠ 3 →
      exec (.syncFence c scope false false) s = .next (s.emit (.fenceDone c.id .ok)) ∧
      exec (.syncFence c scope true false) s =
        .next (s.updCore c.id (fun x => { x with fence := some ⟨scope, true, false, false⟩ })) ∧
      exec (.syncFence c scope w true) s =
        .next ((s.updCore c.id (fun x => { x with fence := some ⟨scope, w, true, true⟩ })).emit (.cinvReq c.id))) ∧
    ((s.coreAt c.id).fence = some f → f.inv = false →
      (f.w = true → storesDone (s.coreAt c.id) f.scope.toNat = true ∧
        ∀ q ∈ (s.coreAt c.id).reqs, q.silent = true ∨ q.own = true) →
      exec (.fenceComplete c false) s =
        .next ((s.updCore c.id (fun x => { x with fence := none })).emit (.fenceDone c.id .ok))) ∧
    ((s.coreAt c.id).fence = some f → f.inv = false → f.w = true → f.scope = 2 → (s.coreAt c.id).spnCut = true →
      (s.coreAt c.id).stSpn ≠ 0 → exec (.fenceComplete c true) s =
        .next ((s.updCore c.id (fun x => { x with fence := none })).emit (.fenceDone c.id .spanLost))) ∧
    (portOpen (s.coreAt c.id) = true → scope = 3 → ∃ st, (st = .ok ∨ st = .spanLost) ∧
      exec (.syncFence c scope w i) s = .next (s.drawn.emit (.fenceDone c.id st)))

/-- Acknowledgements: CINV_ACK clears the invalidation that a core's fence waits for; INV_ACK lets a published request go to
its home hub; 50 microseconds without one end it TIMEOUT. -/
def Obligations.Invalidations : Prop :=
  ∀ (s : State) (c : CoreRef) (f : Fence) (r : Req) (since : Nat), s.wf = true →
    ((∀ n ∈ s.coresOf c.cl.id, (s.coreAt n).reqs = []) → (s.csnAt c.cl.id).phaseInv = [] → (s.csnAt c.cl.id).phaseTodo = [] →
      (s.coreAt c.id).fence = some f → Completes (.cinvAck c) s (fun t =>
        (t.coreAt c.id).fence = some { f with inv := false } ∧ t.out = s.out ∧ t.net = s.net)) ∧
    ((s.coreAt c.id).reqs = [r] → r.phase = .inv since → r.args.scope = 1 →
      Completes (.invAck (.core c r.tag)) s (fun t =>
        (t.coreAt c.id).reqs = [{ r with phase := .sent }] ∧
        t.net = s.net ++ [.kenReq (homeHub (kennelIndex r.args.cls.toNat r.args.index.toNat))
          (s.epTab c.cl.id (homeHub (kennelIndex r.args.cls.toNat r.args.index.toNat))) r.op
          ⟨r.args, s.coreMaster c.id, r.tag⟩])) ∧
    ((s.coreAt c.id).reqs = [r] → r.phase = .inv since → r.silent = false → since + 150000 ≤ s.now → Calm s c.cl.id →
      Completes (.invTimeout (.core c r.tag)) s (fun t =>
        (t.coreAt c.id).reqs = [] ∧ ∃ e : KRsp, t.out.getLast? = some (.portKen c.id e) ∧ e.op = r.op ∧ e.status = .timeout ∧
          e.flag = false ∧ e.tag = r.tag ∧ e.master = s.coreMaster c.id))

/-- A core's write of its whistle cause register: causes are cleared by 1, the enables are written, the rest stands. -/
def Sys2Proof.Machine.Says.WhistleCauseWrite : Prop :=
  ∀ (s : State) (c : CoreRef) (v : Reg), exec (.whistleCauseWrite c v) s = .next (s.updCore c.id (fun x => { x with
    wcr := (x.wcr &&& 0xFFFFF840#32) ||| (x.wcr &&& ~~~v &&& 0x0000003F#32) ||| (v &&& 0x00000780#32) }))

/-- The store counts that a core reports stand, and with no request and no held operation nothing else changes. -/
def Sys2Proof.Machine.Says.StoreCounts : Prop :=
  ∀ (s : State) (c : CoreRef) (a b d : Byte), (∀ n ∈ c.id :: s.coresOf c.cl.id, (s.coreAt n).stall = none) →
    s.wf = true → (s.coreAt c.id).reqs = [] →
    exec (.storeCountsZero c a b d) s = .next (s.updCore c.id (fun x =>
      { x with stOwn := a, stWaf := b, stSpn := d, spnCut := x.spnCut && d != 0 }))

/-- Broadcast reads merge: the first read of a line is sent to cluster memory, and its answer goes to every core that joined.
A write to the line closes the merge. -/
def Sys2Proof.Machine.Says.BroadcastReads : Prop :=
  ∀ (s : State) (c : CoreRef) (cl : Cluster) (addr : BitVec 22) (bytes : List Byte) (m : Merge),
    ((s.csnAt c.cl.id).merges = [] → exec (.broadcastRead c addr) s =
      .next ((s.updCsn c.cl.id (fun x => { x with merges := [⟨addr.toNat / 64, s.now, [c.id], true⟩] })).emit
        (.cmRead c.cl.id (addr.toNat / 64 * 64) 64))) ∧
    ((s.csnAt c.cl.id).merges = [m] → m.line = addr.toNat / 64 → m.since = s.now → m.opn = true → m.cores.length < 48 →
      exec (.broadcastRead c addr) s =
        .next (s.updCsn c.cl.id (fun x => { x with merges := [{ m with cores := m.cores ++ [c.id] }] }))) ∧
    (exec (.cmWriteSnoop cl addr) s = .next (s.updCsn cl.id (fun x => { x with
      merges := x.merges.map (fun m => if m.line == addr.toNat / 64 then { m with opn := false } else m) }))) ∧
    ((s.csnAt cl.id).reads = [] → (s.csnAt cl.id).merges = [m] → m.line = addr.toNat / 64 →
      exec (.cmRsp cl addr bytes false) s =
        .next ((s.updCsn cl.id (fun x => { x with merges := [] })).emit (.cmData cl.id m.cores m.line bytes)))

/-- Residual records and droop events at a CSN: an accepted record counts a tile and keeps the larger residual, a record not
accepted sets LOST; a droop event advances the saturating counter. -/
def Sys2Proof.Machine.Says.ResidualsAndDroop : Prop :=
  ∀ (s : State) (cl : Cluster) (c : CoreRef) (zr zc : BitVec 32), s.wf = true →
    exec (.abftRecord cl zr zc false) s = .next (s.updCsn cl.id (fun x => { x with lost := true })) ∧
    Completes (.abftRecord cl zr zc true) s (fun t =>
      (t.csnAt cl.id).ntile = satInc (s.csnAt cl.id).ntile ∧
      (f32Nan zr = false → f32Nan (s.csnAt cl.id).zrow = false → (t.csnAt cl.id).zrow = f32Max (s.csnAt cl.id).zrow zr) ∧
      (f32Nan zr = true → (t.csnAt cl.id).nanr = true)) ∧
    exec (.droopEvent c) s = .next (s.updCsn c.cl.id (fun x => { x with droop := satInc x.droop }))


/-! ### Barriers across the wafer -/

/-- A leg named by the handle of its barrier: an arrival below EXP is counted; the one that reaches EXP of a plain barrier
sends the leg's ARRIVE to its field's hub. A handle that the cluster holds no leg for ends with any status (log entry 12). -/
def Obligations.LegArrivals : Prop :=
  ∀ (s : State) (c : CoreRef) (b : BarIx),
    let x := s.csnAt c.cl.id
    (x.findEnt (.handle b) = none → PortFree s c →
      (∃ st, exec (.barArrive c (.handle b)) s = .next (s.drawn.emit (.portAny c.id st))) ∧
      (∃ st, exec (.barRead c (.handle b)) s = .next (s.drawn.emit (.portAny c.id st)))) ∧
    (∀ (ix : Nat) (e : BarEntry), x.findEnt (.handle b) = some ix → x.entAt ix = e → s.wf = true →
      twf BarEntry.init x.ents = true → e.mode = 2 → e.bar = b → e.proxy = none → e.arr.toNat < e.exp.toNat →
      PortFree s c → storesDone (s.coreAt c.id) (s.precAt b.toNat).scope.toNat = true → (s.precAt b.toNat).role ≠ 1 →
      pdLanes (s.precAt b.toNat).payload = 0 →
      (e.arr + 1 ≠ e.exp → Completes (.barArrive c (.handle b)) s (fun t =>
        ((t.csnAt c.cl.id).entAt ix).arr = e.arr + 1 ∧ t.out = s.out ++ [.portGen c.id .ok e.gen] ∧ t.net = s.net)) ∧
      (e.arr + 1 = e.exp → Completes (.barArrive c (.handle b)) s (fun t =>
        ((t.csnAt c.cl.id).entAt ix).arr = e.exp ∧ t.out = s.out ++ [.portGen c.id .ok e.gen] ∧
        t.net = s.net ++ [.arrive (fieldOf c.cl.id) (s.epTab c.cl.id (fieldOf c.cl.id))
          ⟨c.cl.id, none, b, e.gen, x.pepoch, e.psn, [], .none⟩])))

/-- What a field's hub gathers: an arrival is counted; with the last one, or at the timeout, the field's ARRIVE goes to
the root and the record is SENT; a payload waits for a mash unit, whose fold counts it. Late arrivals and folds follow
log entry 13. -/
def Obligations.FieldGathering : Prop :=
  ∀ (s : State) (hub : Field) (tep : Epoch) (a : CArrive),
    let h := hub.val
    let b := a.bar.toNat
    let r := s.frecOf h b
    let d := (s.precAt b).payload
    let m : Msg := .arrive h tep a
    s.wf = true → (s.hubAt h).muz = false → (r.st = .gather ∨ r.st = .armed) → a.gen = r.gen →
    (tep = (s.hubAt h).epoch → a.pepoch = s.barEpoch b → s.stopped m = false →
      (pdLanes d = 0 → r.arr + 1 < r.exp → Completes (.arrive ⟨hub, false⟩ tep a) s (fun t =>
        (t.frecOf h b).arr = r.arr + 1 ∧ (t.frecOf h b).psn = (r.psn || a.pois) ∧ (t.frecOf h b).st = r.st ∧
        t.prec = s.prec ∧ t.net = s.net.erase m)) ∧
      (pdLanes d = 0 → r.arr + 1 = r.exp → Completes (.arrive ⟨hub, false⟩ tep a) s (fun t =>
        (t.frecOf h b).st = .sent ∧ ∃ x : FArrive, t.net = s.net.erase m ++ [.fieldArrive h s.rootEpoch x] ∧
          x.bar = a.bar ∧ x.gen = r.gen ∧ x.ncl = r.arr + 1 ∧ x.nlost = r.lostGen ∧ x.pois = (r.psn || a.pois))) ∧
      (pdLanes d ≠ 0 → (s.hubAt h).folds.length < 64 → exec (.arrive ⟨hub, false⟩ tep a) s =
        .next ((s.taken m).updHub h (fun x => { x with folds := x.folds ++ [⟨s.foldClass a.bar, a⟩] })))) ∧
    (∀ k : Nat, (s.hubAt h).folds = [⟨k, a⟩] → r.arr + 1 < r.exp → Completes (.mashFold (some hub) false) s (fun t =>
      (t.hubAt h).folds = [] ∧ (t.frecOf h b).arr = r.arr + 1 ∧ (t.frecOf h b).psn = (r.psn || a.pois) ∧ t.net = s.net)) ∧
    (∀ (i : Nat) (x : Timer), r.st = .armed → r.arr < r.exp → r.timer = .comparator i → (s.hubAt h).cmpAt i = some x →
      x.use = .barrier b → passed s.units x.deadline = true → Completes (.barrierTimeout hub a.bar) s (fun t =>
        (t.frecOf h b).st = .sent ∧ ∃ y : FArrive, t.net = s.net ++ [.fieldArrive h s.rootEpoch y] ∧
          y.bar = a.bar ∧ y.gen = r.gen ∧ y.ncl = r.arr ∧ y.stat = .timeout))

/-- What the root gathers while a barrier is ARMED: a field's ARRIVE is counted; the last one takes it to DECIDING with the
worst status; a partial waits for a mash unit, whose fold counts it. A stale one is counted against its function. -/
def Sys2Proof.Machine.Says.RootGathering : Prop :=
  ∀ (s : State) (hub : Field) (a : FArrive),
    let h := hub.val
    let b := a.bar.toNat
    let r := s.precAt b
    let m : Msg := .fieldArrive h s.rootEpoch a
    let c : Instr := .fieldArrive hub s.rootEpoch a
    s.wf = true → r.st = .armed → r.scope ≠ 2 → r.early = false → a.stat ≠ .timeout → a.stat ≠ .fenced → s.stopped m = false →
    (a.gen = r.gen → a.pepoch = r.pepoch → bit r.arrived.toNat h = false → bit r.mfs.toNat h = true →
      (pdLanes r.payload = 0 → r.farr + 1 < r.fexp → Completes c s (fun t =>
        (t.precAt b).farr = r.farr + 1 ∧ (t.precAt b).ncl = r.ncl + a.ncl ∧ (t.precAt b).st = .armed ∧ t.net = s.net.erase m)) ∧
      (pdLanes r.payload = 0 → r.farr + 1 = r.fexp → (∀ q ∈ s.rfolds, q.ofField b = false) → Completes c s (fun t =>
        (t.precAt b).st = .deciding ∧ (t.precAt b).ncl = r.ncl + a.ncl ∧
        (t.precAt b).wstat = worseOf r.wstat (if a.pois then worseOf a.stat .poison else a.stat) ∧ t.net = s.net.erase m)) ∧
      (pdLanes r.payload ≠ 0 → s.rfolds.length < 128 → exec c s =
        .next { s.taken m with rfolds := s.rfolds ++ [⟨s.foldClass a.bar, .field h a⟩] })) ∧
    (∀ k : Nat, s.rfolds = [⟨k, .field h a⟩] → a.gen = r.gen → r.farr + 1 < r.fexp → Completes (.mashFold none false) s (fun t =>
      t.rfolds = [] ∧ (t.precAt b).farr = r.farr + 1 ∧ t.net = s.net)) ∧
    (noFnBar b = false → a.gen ≠ r.gen → exec c s =
      .next ((s.taken m).updFn r.func.val (fun x => { x with stale := satInc x.stale })))

/-- A decided wafer-scope barrier outside a running step is released: RELEASE goes to every member hub with its GEN, NLOST and
status, GEN advances, and the next generation is ARMED where the barrier is free-running. -/
def Sys2Proof.Machine.Says.RootReleases : Prop :=
  ∀ (s : State) (bar : BarIx),
    let b := bar.toNat
    let p := s.precAt b
    s.wf = true → p.scope ≠ 2 → p.st = .deciding → bar ≠ 65535 → s.runOf (s.walkerOf b) = none →
    p.held = false → (∃ h ∈ mfsFields p.mfs, (s.frecOf h b).mem ≠ 0) →
    Completes (.barrierResultReady bar) s (fun t =>
      (t.precAt b).gen = p.gen + 1 ∧ (t.precAt b).seq = s.srSeq b + 1 ∧ (t.precAt b).farr = 0 ∧
      (t.precAt b).st = (if p.auto then .armed else .gather) ∧
      ∃ r : Release, r.bar = bar ∧ r.gen = p.gen ∧ r.nlost = p.nlost ∧ r.pois = p.pois ∧
        (p.role ≠ 1 → r.stat = p.wstat) ∧ t.net = s.net ++ (mfsFields p.mfs).map (fun h => .release h p.pepoch r))

/-- A release at a hub: it joins the wave queue; when it begins, the hub's generation advances and its waves are formed under
the allowance in force; each wave is sent to its clusters. -/
def Sys2Proof.Machine.Says.HubReleaseWaves : Prop :=
  ∀ (s : State) (hub : Field) (r : Release),
    let h := hub.val
    let b := r.bar.toNat
    let x := s.hubAt h
    let f := s.frecOf h b
    s.wf = true →
    (∀ tep : Epoch, x.muz = false → tep = s.barEpoch b → x.waveQ.length < 256 → s.rootClaim h r = false →
      s.stopped (.release h tep r) = false → exec (.release ⟨hub, false⟩ tep r) s =
        .next ((s.taken (.release h tep r)).updHub h (fun x => { x with waveQ := x.waveQ ++ [r] }))) ∧
    (x.run = none → x.waveQ = [r] → f.st ≠ .idle → r.gen = f.gen → memLocals f.mem ≠ [] → s.phaseBegun r = none →
      Completes (.releaseBegin ⟨hub, false⟩) s (fun t =>
        (t.hubAt h).waveQ = [] ∧ (t.hubAt h).run = some ⟨r, wavesOf x.allow (memLocals f.mem), 0, spcOf x.allow, s.now⟩ ∧
        (t.frecOf h b).gen = f.gen + 1 ∧ (t.frecOf h b).arr = 0 ∧ t.net = s.net)) ∧
    (∀ (v : WaveRun) (w : List Nat) (ws : List (List Nat)), x.run = some v → v.rel = r → v.waves = w :: ws → v.nextAt ≤ s.now →
      Completes (.releaseWave hub) s (fun t =>
        t.net = s.net ++ (x.waveTargets h w).map (fun c => .releaseCsn c (s.precAt b).pepoch v.k r) ∧
        (t.hubAt h).run = some { v with waves := ws, k := v.k + 1, nextAt := if ws = [] then v.nextAt else v.nextAt + 3 * v.spc }))

/-- A release at a CSN that holds one leg of its barrier and generation: RGEN, RSTAT, GEN + 1, and EARLY becomes ARR, or after a
timeout the ARR that had not completed. One that names no leg is counted as stale; a CSN in reset discards it. -/
def Sys2Proof.Machine.Says.ReleaseAtCsn : Prop :=
  ∀ (s : State) (cl : Cluster) (tep : Epoch) (r : Release) (ix : Nat),
    let x := s.csnAt cl.id
    let e := x.entAt ix
    s.wf = true → twf BarEntry.init x.ents = true → s.net = [.releaseCsn cl.id tep 0 r] →
    s.stopped (.releaseCsn cl.id tep 0 r) = false →
    (x.rst = none → tep = x.pepoch → x.legsFor r.bar r.gen = [ix] → pdLanes (s.precAt r.bar.toNat).payload = 0 →
      x.phaseInv = [] → x.phaseTodo = [] → s.phaseBegun r = none → e.waitm = 0 → e.nextArr r.stat ≠ e.exp → x.edgeWait = false →
      Calm s cl.id →
      Completes (.releaseAtCsn cl tep r) s (fun t =>
        let u := (t.csnAt cl.id).entAt ix
        u.rgen = e.gen ∧ u.rstat = r.stat ∧ u.gen = e.gen + 1 ∧ u.arr = e.nextArr r.stat ∧ u.early = 0 ∧ t.out = s.out ∧ t.net = [])) ∧
    (∀ f : Nat, x.rst = none → noFnBar r.bar.toNat = false → x.legsFor r.bar r.gen = [] → s.fnOf cl.id = some f →
      exec (.releaseAtCsn cl tep r) s =
        .next ({ s with net := [] }.updFn f (fun y => { y with stale := satInc y.stale }))) ∧
    (x.rst ≠ none → exec (.releaseAtCsn cl tep r) s =
      .next ({ s with net := [] }.updCsn cl.id (fun y => { y with eject := y.eject + 1 })))

/-! ### The status path, the mesh, the edge -/

/-- The hub's orders to a CSN over the status path: a leg bound at the highest free entry, a leg freed with GEN + 1 and ABORTED,
the epochs of hubs and of the partition, a load opened, the droop counter read and cleared; and a spine input that failed. -/
def Obligations.StatusPath : Prop :=
  ∀ (s : State) (cl : Cluster) (bar : BarIx) (exp gen : Byte) (p : Option Cluster) (i : Nat) (u : Nat) (ep : Epoch),
    let x := s.csnAt cl.id
    let e := x.entAt i
    s.wf = true → twf BarEntry.init x.ents = true → twf (0 : Epoch) x.eptab = true → x.rst = none →
    (x.highFree = some i → exec (.legBind cl bar exp gen p) s =
      .next ((s.updCsn cl.id (fun y => y.setEnt i { BarEntry.init with
        mode := 2, bar := bar, exp := exp, gen := gen, rgen := gen - 1, proxy := p.map Cluster.id })).emit (.legIndex cl.id (some i)))) ∧
    (x.highFree = none → exec (.legBind cl bar exp gen p) s = .next (s.emit (.legIndex cl.id none))) ∧
    (x.legIx bar (p.map Cluster.id) = some i → e.waitm = 0 → Calm s cl.id → Completes (.legFree cl bar p) s (fun t =>
      let v := (t.csnAt cl.id).entAt i
      v.mode = 0 ∧ v.gen = e.gen + 1 ∧ v.rgen = e.gen ∧ v.rstat = .aborted ∧ t.out = s.out ++ [.statusAck cl.id])) ∧
    (Completes (.epochLoad cl [(u, ep)] none) s (fun t =>
      t.epTab cl.id u = ep ∧ (t.csnAt cl.id).pepoch = x.pepoch ∧ t.out = s.out ++ [.statusAck cl.id])) ∧
    (Completes (.epochLoad cl [] (some ep)) s (fun t =>
      (t.csnAt cl.id).pepoch = ep ∧ (t.csnAt cl.id).eptab = x.eptab ∧ t.out = s.out ++ [.statusAck cl.id])) ∧
    (Completes (.loadOpen cl) s (fun t =>
      (t.csnAt cl.id).loadOpen = true ∧ (t.csnAt cl.id).nrcv = 0 ∧ (t.csnAt cl.id).manifest = none ∧
      t.out = s.out ++ [.statusAck cl.id])) ∧
    (Completes (.rdDrp cl) s (fun t => (t.csnAt cl.id).droop = 0 ∧ t.out = s.out ++ [.rdDrp cl.id x.droop] ∧ t.net = s.net)) ∧
    (Completes (.csnSpineInputFail cl) s (fun t => (t.csnAt cl.id).spineFail = true ∧
      ∃ m : LogMsg, t.net = s.net ++ [.log m] ∧ m.cls = 0x11 ∧ m.uid = unitId .csn cl.id))

/-- Links and routes: retries of one flit, the fifth of which puts the link down with a LINK_NOTE from each of its
routers; a reload, after which the distance table has its next generation; a route table entry; a branch dropped; a
missing edge of the spine, 10 ns after the repeater predicted it. What a link keeps is the model's reading (log entry 68). -/
def Obligations.LinksAndRoutes : Prop :=
  ∀ (s : State) (link : BitVec 17) (n : BitVec 7) (router : Cluster) (site : Field × Option Loc) (d : Nat) (p q : BitVec 4) (pk : LoadPkt) (hub : Field)
    (ps : List PortEnt),
    let l := link.toNat
    let x := s.linkAt l
    s.wf = true → twf Link.init s.mesh.links = true → twf (0, 0) s.mesh.routes = true → twf 0 s.mesh.mcDrop = true → 2 < n.toNat →
    (Completes (.linkRetry link 0) s (fun t => (t.linkAt l).retries = 0 ∧ (t.linkAt l).corrected = x.corrected ∧ t.net = s.net)) ∧
    (x.retries < 4 → Completes (.linkRetry link n) s (fun t => (t.linkAt l).retries = x.retries + 1 ∧
      (t.linkAt l).down = x.down ∧ ∃ m : LogMsg, t.net = s.net ++ [.log m] ∧ m.cls = 0x02)) ∧
    (x.retries = 4 → x.down = false → l < 65536 → Completes (.linkRetry link n) s (fun t => (t.linkAt l).down = true ∧
      ∃ m m' : LogMsg, t.net = s.net ++ [.log m, .linkNote l, .linkNote l, .log m'] ∧ m.cls = 0x02 ∧ m'.cls = 0x03)) ∧
    (s.stopped (.linkNote l) = false → Completes (.linkNote link) s (fun t =>
      t.mesh = { s.mesh with reloading := true } ∧ t.net = s.net.erase (.linkNote l))) ∧
    (Completes (.routeReload ps) s (fun t => t.mesh.gen = s.mesh.gen + 1 ∧ t.mesh.reloading = false ∧ t.csn = s.csn ∧
      ∀ f < 64, (t.fnAt f).evq = joinRecs (s.fnAt f).evq (distGenRec (s.mesh.gen + 1)))) ∧
    (∀ e : PortEnt, twf (0 : BitVec 32) s.mesh.ports = true → Completes (.routeReload [e]) s (fun t =>
      tget 0 t.mesh.ports (e.cl.id * 32 + e.port.val) = e.word)) ∧
    (let u := site.1.val * 128 + (match site.2 with | some l => l.val | none => 0x7D);
      s.stopped (.routeLoad u [(d, p, q)]) = false → Completes (.routeLoad site [(d, p, q)]) s (fun t =>
        tget (0, 0) t.mesh.routes (u * 16384 + d) = (p, q) ∧
        t = { s.taken (.routeLoad u [(d, p, q)]) with mesh := { s.mesh with routes := t.mesh.routes } })) ∧
    (∀ since, s.net = [.loadMc [router.id] pk since] → since + 4096 ≤ s.now → Completes (.mcBranchDrop router) s (fun t =>
      t.net = [] ∧ tget 0 t.mesh.mcDrop router.id = tget 0 s.mesh.mcDrop router.id + 1)) ∧
    (∀ e : Nat, (s.hubAt hub.val).edgeAt = some e → e + 30 ≤ s.now →
      ((s.hubAt hub.val).spineMuz = true → exec (.spineEdgeMissing hub) s =
        .next ((s.updHub hub.val (fun x => { x with edgeAt := none })).emit (.csnEdge hub.val))) ∧
      ((s.hubAt hub.val).spineMuz = false → Completes (.spineEdgeMissing hub) s (fun t => (t.hubAt hub.val).spineMuz = true ∧
        t.out = s.out ++ [.csnEdge hub.val] ∧ ∃ m : LogMsg, t.net = s.net ++ [.log m] ∧ m.cls = 0x11)))

/-- An edge at a CSN outside a step: the tick the note gave, or the next number without a note; PHASE 0, residuals
cleared; an armed core gets its TICK cause and is disarmed; a CSN in reset only counts the tick. A TICK_NOTE passes from the hub to its CSNs in service,
which keep it. The order of an edge and a heel release is the model's reading (log entry 19). -/
def Obligations.EdgeAtCsn : Prop :=
  ∀ (s : State) (hub : Field) (l : Loc) (c : CoreRef) (n : TickNote),
    let h := hub.val
    let cl := c.cl
    let x := s.csnAt cl.id
    s.wf = true →
    ((s.hubAt h).muz = false → s.stopped (.tickNote h none n) = false → exec (.tickNote hub none n) s =
      .next ((s.taken (.tickNote h none n)).sendAll ((s.fieldLive h).map (fun c => .tickNote h (some c) n)))) ∧
    ((s.csnAt (Cluster.id ⟨hub, l⟩)).rst = none → s.stopped (.tickNote h (some (Cluster.id ⟨hub, l⟩)) n) = false →
      exec (.tickNote hub (some l) n) s =
      .next ((s.taken (.tickNote h (some (Cluster.id ⟨hub, l⟩)) n)).updCsn (Cluster.id ⟨hub, l⟩)
        (fun y => { y with note := some n.tick }))) ∧
    (x.rst = none → s.heelBehind cl.id = false → s.fnOf cl.id = none → x.phaseInv = [] → x.phaseTodo = [] →
      (s.coresOf cl.id).filter (fun i => (s.coreAt i).armed) = [c.id] →
      let after (t : State) : Prop :=
        (t.csnAt cl.id).tick = x.note.getD (x.tick + 1) ∧ (t.csnAt cl.id).note = none ∧ (t.csnAt cl.id).edgeAt = s.now ∧
        (t.csnAt cl.id).phase = 0 ∧ (t.csnAt cl.id).ntile = 0 ∧ (t.csnAt cl.id).lost = false ∧
        (t.coreAt c.id).armed = false ∧ (t.coreAt c.id).wcr = setCause (s.coreAt c.id).wcr .tick ∧ t.out = s.out
      Completes (.tickEdge cl) s (fun t => after t ∧ t.net = s.net) ∧
      (s.stopped (.edge cl.id) = false →
        Completes (.edge cl) s (fun t => after t ∧ t.net = s.net.erase (.edge cl.id)))) ∧
    (x.rst ≠ none → Completes (.tickEdge cl) s (fun t =>
      (t.csnAt cl.id).tick = x.note.getD (x.tick + 1) ∧ (t.csnAt cl.id).phase = x.phase ∧ t.out = s.out ∧ t.net = s.net))

/-! ### The tick, the operating point, the kiln -/

namespace Sys2Proof.Machine

/-- No partition stands, no step runs, nor any of the known-answer lists, no hub walks a step, no CSN needs an EDGE message, and
no formation is under way. -/
def Quiet (s : State) : Prop :=
  s.parts = [] ∧ s.heelsDone = true ∧ s.kat.cur = none ∧ s.kat.lists = [] ∧ (∀ p ∈ s.hub, p.2.walks = []) ∧
  (∀ p ∈ s.csn, p.2.spineFail = false) ∧ s.span.forming = none

/-- A quiet wafer in no span. -/
def Still (s : State) : Prop := Quiet s ∧ s.span.st = .none

/-- The edge that a still wafer issues: the next number, the latched period, the next prediction, and the number on the
spine. -/
def edgeIssued (s t : State) : Prop :=
  t.tick.num = s.tick.nextNum ∧ t.tick.any = true ∧ t.tick.per = s.tick.perNext ∧ t.tick.pred = s.now + 3 * s.tick.perNext ∧
  t.tick.st = .running ∧ t.tick.cutDone = false ∧ t.tick.noted = false ∧ t.out = s.out ++ [.spineEdge s.tick.nextNum] ∧
  t.net = s.net

end Sys2Proof.Machine

/-- RUN starts the generator with its first edge 4.000 microseconds away on the 1 ns grid, and stops it at the next cut; a read of TICK_LO
latches TICK_HI. -/
def Sys2Proof.Machine.Says.TickRun : Prop :=
  ∀ s : State, s.bru.step = 15 →
    (s.tick.st = .stopped → Completes (.runWrite true) s (fun t =>
      t.tick.st = .running ∧ t.tick.pred = (s.now + 2) / 3 * 3 + 12000 ∧ bit t.tick.ctrl.toNat 0 = true ∧ t.tick.num = s.tick.num ∧
      t.out = s.out ∧ t.net = s.net)) ∧
    (s.tick.st = .running → Completes (.runWrite false) s (fun t => t.tick.st = .running ∧ t.tick.stopReq = true)) ∧
    (s.tick.st = .running → s.tick.stopReq = true → s.tick.cutDone = false → s.tick.pred ≤ s.now + 6000 →
      Completes .dispatchCut s (fun t => t.tick.st = .stopped ∧ t.tick.num = s.tick.num ∧ t.out = s.out ∧ t.net = s.net)) ∧
    Completes .tickNowLatch s (fun t => t.tick.hiLatch = BitVec.ofNat 16 (s.tick.num.toNat / 2 ^ 32) ∧
      t.out = s.out ++ [.regData (BitVec.ofNat 32 s.tick.num.toNat)])

/-- One tick of a still wafer: the cut latches the period and the registers that take effect at it; the note goes to every
hub in service; at the hold point, with nothing unreleased, the edge is issued on the 1 ns grid; with a heel point unreleased it is held, with
its deadline; a held edge is issued 40 ns after the last release, and at the deadline. -/
def Sys2Proof.Machine.Says.TickCycle : Prop :=
  ∀ s : State, s.wf = true →
    let k := s.tick
    (Still s → s.pl = [] → s.slot = [] → k.st = .running → k.stopReq = false → k.cutDone = false → k.pred ≤ s.now + 6000 →
      Completes .dispatchCut s (fun t =>
        t.tick = { k with cutDone := true, perNext := s.setPer, lvl := false } ∧ t.kiln.limitF = s.kiln.limit ∧
        t.kiln.rcvF = s.kiln.rcv ∧ (∀ f, (t.fnAt f).capF = (s.fnAt f).cap ∧ (t.fnAt f).cmtTolF = (s.fnAt f).cmtTol) ∧
        t.out = s.out ∧ t.net = s.net)) ∧
    (s.span.st = .none → k.lead = none → k.cutDone = true → k.noted = false → k.st = .running → k.pred ≤ s.now + 4500 →
      Completes .tickNoteInject s (fun t => t.tick = { k with noted := true } ∧
        t.net = s.net ++ s.hubsUp.map (fun h => .tickNote h none ⟨BitVec.ofNat 32 k.nextNum.toNat,
          k.any && k.perNext != k.per, k.lvl, BitVec.ofNat 27 k.perNext⟩))) ∧
    (Still s → k.st = .running → k.noted = true → k.passed = false → k.pred ≤ s.now → s.now % 3 = 0 →
      Completes .holdPoint s (edgeIssued s)) ∧
    (s.heelsDone = false → s.span.st = .none → k.st = .running → k.noted = true → k.passed = false →
      k.pred ≤ s.now → exec .holdPoint s = .next { s with tick := { k with
        st := .held, passed := true, late := s.heelsOpen, dead := k.pred + 3 * s.stretchOf k.per } }) ∧
    (∀ l : Nat, Still s → k.st = .held → k.stopReq = false → k.etime = none → k.late = [] → k.lastHeel = some l →
      (l + 122) / 3 * 3 ≤ s.now → s.now % 3 = 0 → Completes .heldEdge s (edgeIssued s)) ∧
    (Still s → k.st = .held → k.stopReq = false → k.late = [] → k.etime = none → k.dead ≤ s.now → s.now % 3 = 0 →
      Completes .tickDeadline s (edgeIssued s))

/-- The operating point of a field: an alert forces OP7 and the alert allowance and is told to the root; a faster point
is applied when the regulator reports its voltage, and the voltage of a slower one is written after the clock's
acknowledgement; sensor and regulator readings are kept. The point without a phase is the model's reading (log entry
24). -/
def Sys2Proof.Machine.Says.OperatingPoint : Prop :=
  ∀ (s : State) (hub : Field) (p : BitVec 3) (cur : BitVec 16) (v a b c d : BitVec 12),
    let h := hub.val
    let x := s.hubAt h
    s.wf = true →
    (Completes (.regAlertAssert hub) s (fun t => (t.hubAt h).alert = true ∧ (t.hubAt h).alr = true ∧ (t.hubAt h).force = true ∧
      (t.hubAt h).allow = 0x0640 ∧ (x.walks = [] → (t.hubAt h).op = 7) ∧
      t.net = s.net ++ [.alertNote h ⟨true, 0, x.op, s.units⟩])) ∧
    (exec (.regAlertDeassert hub) s = .next ((s.updHub h (fun x => { x with alert := false })).send
      (.alertNote h ⟨false, 0, x.op, s.units⟩))) ∧
    (x.opNext = some p → Completes (.opChangeComplete hub) s (fun t => (t.hubAt h).op = p ∧ (t.hubAt h).opNext = none ∧
      (t.hubAt h).fclkWait = true ∧ t.out = s.out ++ [.fclkOp h p] ∧ t.net = s.net)) ∧
    (Completes (.fclkAck hub) s (fun t => (t.hubAt h).fclkWait = false ∧ (t.hubAt h).voltDue = false ∧
      t.out = s.out ++ (if x.voltDue then [.avsTarget h x.op] else []))) ∧
    (x.fclkWait = true → x.force = true → exec (.fclkOpRepeat hub) s = .next (s.emit (.fclkOp h x.op))) ∧
    (exec (.avsRead hub cur v) s = .next (s.updHub h (fun x => { x with avs := x.avs ++ [(cur, v)] }))) ∧
    (exec (.thermalRead hub a b c d) s = .next (s.updHub h (fun x => { x with temps := [a, b, c, d] }))) ∧
    (exec (.pmbusRead hub cur v a) s = .next (s.updHub h (fun x => { x with vin := cur, step := v, slew := a }))) ∧
    (∀ tep : Epoch, x.muz = false → tep = x.epoch → (∀ m, s.stopped (.mgmt h tep m) = false) →
      exec (.mgmt hub tep (.allowance cur)) s =
        .next ((s.taken (.mgmt h tep (.allowance cur))).updHub h (fun x => { x with allow := cur })) ∧
      Completes (.mgmt hub tep (.opForce true)) s (fun t => (t.hubAt h).force = true ∧ (x.walks = [] → (t.hubAt h).op = 7)))

/-- TELEM: the hub sends the interval's report once and clears what it counted; the root takes a newer report, and answers an
unforced field with the allowance word it computes; an interval that never came is charged and accounted for; four silent
intervals force the field. -/
def Obligations.Telemetry : Prop :=
  ∀ (s : State) (hub : Field) (m : Telem),
    let h := hub.val
    let k := s.kfAt h
    let p := s.kiln.pace m
    let n := s.intvNow
    s.wf = true → twf KField.init s.kiln.fields = true → s.span.st = .none → (s.hubAt h).muz = false →
    (n ≠ 0 → BitVec.ofNat 16 n ≠ (s.hubAt h).intv → (∀ l < 96, (s.csnAt (h * 128 + l)).rst = none) → Completes (.telemIntervalEnd hub) s (fun t =>
      (t.hubAt h).intv = BitVec.ofNat 16 n ∧ (t.hubAt h).avs = [] ∧ (t.hubAt h).alr = (s.hubAt h).alert ∧
      (∀ l < 96, (t.csnAt (h * 128 + l)).droop = 0) ∧ t.net = s.net ++ [.telem h (s.telemOf h (n - 1))])) ∧
    (s.stopped (.telem h m) = false → s.parts = [] → s.telemNew h m = true → k.hasAcct (s.intvOf m.seq) = true → k.alertForce = false → k.thermForce = false →
      k.lossForce = false → k.halve = 0 → m.drp.toNat ≤ bits s.kiln.didtF.toNat 16 16 → m.tmax.toNat < 8 * s.kiln.thot →
      Completes (.telem hub m) s (fun t =>
        (t.kfAt h).seq = some m.seq ∧ (t.kfAt h).tmax = m.tmax ∧ (t.kfAt h).opf = m.opf ∧ (t.kfAt h).overN = 0 ∧
        (t.kfAt h).word = paceWord p.1 p.2 ∧
        t.net = s.net.erase (.telem h m) ++ [.mgmt h (s.hubAt h).epoch (.allowance (paceWord p.1 p.2))])) ∧
    (s.parts = [] → k.ahead = [] → s.kiln.base + (k.acctTo + 2) * 150000 + 9000 ≤ s.now → Completes (.telemMissed hub) s (fun t =>
      (t.kfAt h).acctTo = k.acctTo + 1 ∧ t.fn = s.fn ∧ t.net = s.net)) ∧
    (k.lossForce = false → k.heard + 5 ≤ n → Completes (.telemLoss hub) s (fun t => (t.kfAt h).lossForce = true ∧
      ∃ g : LogMsg, g.cls = 0x0F ∧ t.net = s.net ++ [.mgmt h (s.hubAt h).epoch (.opForce true),
        .mgmt h (s.hubAt h).epoch (.allowance 0x0640), .log g]))

/-- Forces and limits of the kiln: an alert forces its field and restarts the quiet count; HOLD quiet intervals lift it, two
cool intervals lift a thermal force, and where no force is left the field gets its own word and leaves OP7; the speed limits
end with 20 intervals without droop and with 1,000 ms without an alert. A member's report goes to its lead. -/
def Sys2Proof.Machine.Says.KilnForces : Prop :=
  ∀ (s : State) (hub : Field) (t0 : BitVec 32) (w op : BitVec 3) (f : Nat),
    let h := hub.val
    let k := s.kfAt h
    s.wf = true → twf KField.init s.kiln.fields = true →
    ((s.hubAt h).muz = false → s.stopped (.alertNote h ⟨true, w, op, t0⟩) = false →
      Completes (.alertNote hub ⟨true, w, op, t0⟩) s (fun t => (t.kfAt h).alertForce = true ∧ (t.kfAt h).quiet = 0 ∧
      (t.kfAt h).alerts.head? = some s.now)) ∧
    (s.stopped (.alertNote h ⟨false, w, op, t0⟩) = false →
      exec (.alertNote hub ⟨false, w, op, t0⟩) s = .next (s.taken (.alertNote h ⟨false, w, op, t0⟩))) ∧
    (s.span.st = .none → k.lossForce = false →
      let back : List Msg := [.mgmt h (s.hubAt h).epoch (.allowance k.word), .mgmt h (s.hubAt h).epoch (.opForce false)]
      (k.alertForce = true → k.thermForce = false → s.kiln.hold ≤ k.quiet → Completes (.alertForceLift hub) s (fun t =>
        (t.kfAt h).alertForce = false ∧ t.net = s.net ++ back)) ∧
      (k.thermForce = true → k.alertForce = false → 2 ≤ k.cool → Completes (.thermalForceLift hub) s (fun t =>
        (t.kfAt h).thermForce = false ∧ t.net = s.net ++ back))) ∧
    (20 ≤ k.underN → Completes (.droopLimitExpiry hub) s (fun t =>
      (t.kfAt h).droopLim = none ∧ (t.kfAt h).ceilLim = k.ceilLim ∧ t.net = s.net)) ∧
    (∀ (a : Nat) (l : List Nat), k.alerts = a :: l → a + 3000000000 ≤ s.now → Completes (.alertCeilExpiry hub) s (fun t =>
      (t.kfAt h).ceilLim = none ∧ (t.kfAt h).droopLim = k.droopLim ∧ t.net = s.net)) ∧
    (s.span.st = .member → s.jobs = [f] → exec .kilnReportSend s =
      .next (s.send (.sb (some s.span.lead.toNat) (.kiln (s.kilnReport f)))))

/-! ### Steps and commits, loading -/

/-- The step's commands: a PITCH for the coming edge is held and one for the running tick starts its walk; a self-replay binds
the cluster to itself; an accepted proxy record is kept by the hub, one rejected, or at a muzzled hub, fails the step; a span job whose members
do not report ready fails; a due view is sent with the next VSEQ. -/
def Obligations.StepCommands : Prop :=
  ∀ (s : State) (hub : Field) (m : PitchMsg) (p : Proxy) (fn : Func) (plid : BitVec 11) (x : Nat),
    let h := hub.val
    let g := m.func.val
    let f := fn.val
    let y := s.fnAt f
    s.wf = true →
    ((s.hubAt h).muz = false → s.stopped (.pitch h (s.hubAt h).epoch m) = false → s.tick.any = false → m.plid.toNat < 2032 →
      exec (.pitch ⟨hub, false⟩ (s.hubAt h).epoch m) s = .next ((s.taken (.pitch h (s.hubAt h).epoch m)).updHub h (fun z =>
        { z with walks := tset none z.walks (g + 64) (some ⟨m, false, false, 0⟩) }))) ∧
    ((s.hubAt h).muz = false → s.stopped (.pitch h (s.hubAt h).epoch m) = false → s.tick.any = true → m.plid.toNat < 2032 →
      m.tick = BitVec.ofNat 32 s.tick.num.toNat → (s.fnAt g).run ≠ none → (s.fnAt g).edgeHeld = false → s.heelAtHub h g = false →
      Completes (.pitch ⟨hub, false⟩ (s.hubAt h).epoch m) s (fun t =>
        tget none (t.hubAt h).walks g = some ⟨m, true, true, s.firstPhase g⟩)) ∧
    (∀ q : Nat × Nat × PitchImage, (s.err.roleAt 0).isSome = true → y.cst = .suspect → y.run = none → y.ready = false → y.job = false → y.replayOf = some q → y.needSub = [x] →
      y.subs = [] → y.members = [x] → y.spares = [] → y.rpl = 0 → y.selfOk = true → y.lostNow = [] →
      (s.hubAt (fieldOf x)).muz = false → Completes (.substituteBind fn) s (fun t =>
        (t.fnAt f).subs = [⟨x, x⟩] ∧ (t.fnAt f).ready = true ∧ (t.fnAt f).needSub = [] ∧ t.net = s.net)) ∧
    (let e := (s.hubAt h).epoch;
      s.stopped (.proxy h e p) = false →
      ((s.hubAt h).muz = false → s.proxyOk h p = true → Completes (.proxyRecord ⟨hub, false⟩ (e, p)) s (fun t =>
        (t.hubAt h).proxies = (s.hubAt h).proxies ++ [p])) ∧
      (((s.hubAt h).muz = true ∨ s.proxyOk h p = false) → Completes (.proxyRecord ⟨hub, false⟩ (e, p)) s (fun t =>
        (t.fnAt p.func.val).cst = .failed))) ∧
    (y.cst = .suspect → y.job = true → s.span.st = .lead → s.allReady f = false → 4 ≤ y.readyWait →
      Completes (.replayReadyTimeout fn) s (fun t =>
        (t.fnAt f).cst = .failed ∧ (t.fnAt f).replayOf = none ∧ (t.fnAt f).cask = none)) ∧
    (∀ i : PitchImage, (s.plAt plid.toNat).viewApp = some i → Completes (.viewSend plid) s (fun t =>
      (t.plAt plid.toNat).vseq = (s.plAt plid.toNat).vseq + 1 ∧ (t.plAt plid.toNat).viewApp = none ∧
      (t.plAt plid.toNat).viewDue = (s.plAt plid.toNat).viewDue))

/-- Loaded packets at a CSN with its load open: a data packet is written and counted, by multicast or unicast; the check order
sends the CSN's arrival with its verdict; a donor sends its packets and manifest. -/
def Sys2Proof.Machine.Says.LoadPackets : Prop :=
  ∀ (s : State) (cl : Cluster) (p : LoadPkt) (bytes : List Byte) (ix : Nat) (x : Cluster) (tep : Epoch) (m : Manifest),
    let c := s.csnAt cl.id
    let e := c.entAt ix
    s.wf = true → twf BarEntry.init c.ents = true → c.rst = none → c.loadOpen = true →
    (let got (t : State) : Prop := (t.csnAt cl.id).nrcv = Nat.min (c.nrcv + 1) 16777215 ∧
        t.out = s.out ++ [.cmWrite cl.id p.addr.toNat p.data];
      p.seq ≠ 0xFFFFFFFF → p.func.val = (s.fnOf cl.id).getD 0 →
      (∀ since, s.net = [.loadMc [cl.id] p since] → s.reachable cl.id = true → s.outOfTurn (.loadMc [cl.id] p since) = false →
        Completes (.loadMc cl p) s (fun t => got t ∧ t.net = [])) ∧
      (s.stopped (.loadUc cl.id c.pepoch p) = false →
        Completes (.loadUc cl c.pepoch p) s (fun t => got t ∧ t.net = s.net.erase (.loadUc cl.id c.pepoch p)))) ∧
    (p.seq = 0xFFFFFFFF → c.manifest = none → s.stopped (.loadUc cl.id c.pepoch p) = false → Completes (.loadUc cl c.pepoch p) s (fun t =>
      (t.csnAt cl.id).manifest = some (manifestOf p.data) ∧ (t.csnAt cl.id).nrcv = c.nrcv ∧ t.out = s.out)) ∧
    (c.legIx 65535 none = some ix → e.arr ≠ e.exp → Completes (.loadCheck cl bytes) s (fun t =>
      ((t.csnAt cl.id).entAt ix).arr = e.exp ∧ ∃ (h : Nat) (ep : Epoch) (a : CArrive),
        t.net = s.net.erase (.status cl.id 1) ++ [.arrive h ep a] ∧ a.src = cl.id ∧ a.gen = e.gen ∧
        a.verd = .load ⟨crc32 bytes, BitVec.ofNat 24 c.nrcv,
          match c.manifest with | none => true | some m => c.nrcv != m.npkt.toNat || crc32 bytes != m.crc⟩)) ∧
    (c.manifest = some m → exec (.loadSend cl x tep bytes) s =
      .next (s.sendAll ((dataPkts (fnOfNat ((s.fnOf cl.id).getD 0)) m bytes ++
        [manifestPkt (fnOfNat ((s.fnOf cl.id).getD 0)) m]).map (fun q => .loadUc x.id tep q))))

/-- Repair orders and BOOT_LOAD: a target counts its packets from 0, a donor reads its loaded memory, the check is
ordered again after a repair round; BOOT_LOAD resets the partition first, and completes at once where there is none.
Donors and the boot manifest are the model's reading (log entry 49). -/
def Sys2Proof.Machine.Says.RepairAndBootLoad : Prop :=
  ∀ (s : State) (hub : Field) (d : Loc) (x : Nat) (ep : Epoch) (m : Manifest) (l : Load),
    let h := hub.val
    let r := s.precAt 65535
    let f := s.bru.func.val
    s.wf = true →
    ((∀ g, s.stopped (.mgmt h (s.hubAt h).epoch g) = false) → (s.hubAt h).muz = false →
      Completes (.mgmt hub (s.hubAt h).epoch (.repairTarget d)) s (fun t =>
      (t.csnAt (h * 128 + d.val)).nrcv = 0 ∧ t.out = s.out)) ∧
    ((∀ g, s.stopped (.mgmt h (s.hubAt h).epoch g) = false) → (s.hubAt h).muz = false →
      (s.csnAt (h * 128 + d.val)).manifest = some m →
      exec (.mgmt hub (s.hubAt h).epoch (.repairDonor d x ep)) s =
        .next ((s.taken (.mgmt h (s.hubAt h).epoch (.repairDonor d x ep))).emit
          (.cmRead (h * 128 + d.val) m.base.toNat m.lenb.toNat))) ∧
    (s.bru.load = some l → l.begun = true → l.checking = false → r.st = .gather → r.early = false →
      r.farr ≠ r.fexp → Completes .repairRoundDone s (fun t =>
        t.bru.load = some { l with checking := true, donors := [] } ∧ (t.precAt 65535).st = .armed ∧
        t.net = s.net ++ l.set.map (fun c => .status c 1))) ∧
    (s.bru.step = 15 → s.bru.go = true → s.bru.op = 7 → s.bru.load = none →
      ((s.fnAt f).members = [] → exec .bootLoad s = .next { s with bru := { s.bru with go := false, status := .ok, cerr := 0 } }) ∧
      ((s.fnAt f).members ≠ [] → Completes .bootLoad s (fun t => (t.fnAt f).rst ≠ none ∧ t.net = s.net ∧
        ∃ l : Load, t.bru.load = some l ∧ l.func = some f ∧ l.set = (s.fnAt f).members ∧ l.begun = false)))

/-! ### Aborts, resets, errors -/

/-- ABORT of the partition at a hub passes to its CSNs, and at a CSN ends an entry's generation with the status given;
REASON 1 puts the CSN in reset; REASON 4 to 7 are reserved, and end nothing (log entry 12). A RESET_NOTE that names a lock's owner frees the lock with
ABANDONED; the root spreads it to every hub; a containment note decides the reset its class asks for. The entries that
an ABORT ends are the model's reading (log entries 15, 27). -/
def Obligations.AbortsAndNotes : Prop :=
  ∀ (s : State) (hub : Field) (l : Loc) (m : AbortMsg) (n : ResetNote) (k ix : Nat) (e : KEntry) (b : BarEntry) (tep : Epoch),
    let h := hub.val
    let f := m.func.val
    let cl := h * 128 + l.val
    s.wf = true →
    (3 < m.reason.toNat →
      (s.stopped (.abort h none tep m) = false → exec (.abort hub none tep m) s = .next (s.taken (.abort h none tep m))) ∧
      (s.stopped (.abort h (some l.val) tep m) = false →
        exec (.abort hub (some l) tep m) s = .next (s.taken (.abort h (some l.val) tep m)))) ∧
    (m.reason = 0 → s.stopped (.abort h none (s.fnAt f).pepoch m) = false → (s.hubAt h).muz = false → s.ken = [] → s.barsOf f = [] → s.err.abort = false →
      exec (.abort hub none (s.fnAt f).pepoch m) s = .next ((s.taken (.abort h none (s.fnAt f).pepoch m)).sendAll
        ((s.clustersIn f h).map (fun c => .abort h (some (localOf c)) (s.fnAt f).pepoch m)))) ∧
    (m.reason = 0 → s.stopped (.abort h (some l.val) (s.csnAt cl).pepoch m) = false → (s.csnAt cl).rst = none → (s.csnAt cl).ents = [(ix, b)] → b.mode = 1 → b.waitm = 0 → Calm s cl →
      (∀ i ∈ s.coresOf cl, (s.coreAt i).reqs = []) → Completes (.abort hub (some l) (s.csnAt cl).pepoch m) s (fun t =>
        let u := (t.csnAt cl).entAt ix
        u.gen = b.gen + 1 ∧ u.rgen = b.gen ∧ u.rstat = m.stat ∧ u.arr = 0 ∧ u.early = 0 ∧ t.out = s.out)) ∧
    (m.reason = 1 → s.stopped (.abort h (some l.val) (s.csnAt cl).pepoch m) = false → (s.csnAt cl).rst = none → Completes (.abort hub (some l) (s.csnAt cl).pepoch m) s (fun t =>
      (t.csnAt cl).rst = some s.now ∧ (t.csnAt cl).ents = [] ∧ (t.csnAt cl).loadOpen = false)) ∧
    (s.stopped (.resetNote (some h) n) = false → (s.hubAt h).muz = false → s.ken = [(k, e)] → homeHub k = h → e.kind = .lock → e.st = .held → e.owner = n.master →
      e.queue = [] → e.leash = .none → n.kind = .core → Completes (.resetNote hub n) s (fun t =>
        (t.kenAt k).st = .free ∧ (t.kenAt k).abnd = true ∧ (t.kenAt k).kind = .lock)) ∧
    (n.kind ≠ .contain → s.stopped (.resetNote none n) = false → s.span.st = .none → exec (.resetNoteAtRoot n) s =
      .next ((s.taken (.resetNote none n)).sendAll (s.hubsUp.map (fun h => .resetNote (some h) n)))) ∧
    (n.kind = .contain → s.stopped (.resetNote none n) = false → (n.cls = 0x05 ∨ n.cls = 0x0B) → (s.fnAt n.func.val).rst = none → exec (.resetNoteContain n) s =
      .next ((s.taken (.resetNote none n)).updFn n.func.val (fun x =>
        { x with rst := some ⟨n.cls, false, s.now, false⟩ }))) ∧
    (n.kind = .contain → s.stopped (.resetNote none n) = false → (n.cls = 0x06 ∨ n.cls = 0x0A ∧ n.shared = true) → Completes (.resetNoteContain n) s (fun t =>
      t.err.resetDue = true ∧ t.err.byError = true ∧ t.fn = s.fn))

/-- A core's reset holds it, and its retirement, by its last reply or after 2.1 ms, gives it the next epoch with a note that
names the identity it held; a deferred advance does the same for a whole cluster. -/
def Sys2Proof.Machine.Says.CoreResets : Prop :=
  ∀ (s : State) (c : CoreRef) (cl : Cluster) (since : Nat),
    let x := s.coreAt c.id
    let y := s.csnAt cl.id
    s.wf = true →
    (x.rst = none → x.bwait = none → (∀ n ∈ c.id :: s.coresOf c.cl.id, (s.coreAt n).reqs = [] ∧ (s.coreAt n).stall = none) →
      (s.csnAt c.cl.id).phaseTodo = [] → Completes (.coreReset c) s (fun t =>
        (t.coreAt c.id).rst = some s.now ∧ (t.coreAt c.id).armed = false ∧ (t.coreAt c.id).epoch = x.epoch ∧
        t.out = s.out ++ [.coreRst c.id true] ∧ t.net = s.net)) ∧
    (x.rst = some since → (s.csnAt c.cl.id).rst = none → x.epochAt = none →
      let done (t : State) : Prop :=
        (t.coreAt c.id).rst = none ∧ (t.coreAt c.id).epoch = x.epoch + 1 ∧ (t.coreAt c.id).epochAt = some s.now ∧
        (t.coreAt c.id).reqs = [] ∧
        t.net = s.net ++ [.resetNote none ⟨.core, x.epoch + 1, 0, 0, false, s.coreMaster c.id⟩] ∧
        t.out = s.out ++ (if x.go then [.coreRst c.id false] else [])
      (x.reqs = [] → Completes (.coreRetireDone c) s done) ∧
      (since + 6300000 ≤ s.now → Completes (.coreRetireTimeout c) s done)) ∧
    (y.epochDue = true → y.epochAt = none → (∀ n ∈ s.coresOf cl.id, (s.coreAt n).epochAt = none) →
      Completes (.epochAdvance cl) s (fun t =>
        (t.csnAt cl.id).epoch = y.epoch + 1 ∧ (t.csnAt cl.id).epochDue = false ∧ (t.csnAt cl.id).ents = [] ∧
        (t.csnAt cl.id).pepoch = y.pepoch ∧ ∃ m : ResetNote, t.net = s.net ++ [.resetNote none m] ∧ m.kind = .cluster ∧
          m.newEp = y.epoch + 1))

/-- A partition reset: decided by a function-level reset, begun with ABORT of REASON 1 to every hub, complete once every
cluster is retired, with the epochs of function and partition advanced and the counts of VSF_ERR_FSTAT; after 10 ms it
becomes a Varvo reset. The commands that a partition reset takes are the model's reading (log entry 43). -/
def Sys2Proof.Machine.Says.PartitionResets : Prop :=
  ∀ (s : State) (fn : Func) (cls : Byte) (r : ResetRun),
    let f := fn.val
    let x := s.fnAt f
    s.wf = true →
    (x.rst = none → exec (.functionLevelReset fn) s =
      .next (s.updFn f (fun x => { x with rst := some ⟨0, true, s.now, false⟩ }))) ∧
    (x.rst = some r → exec (.functionLevelReset fn) s =
      .next (s.updFn f (fun x => { x with rst := some { r with regs := true } }))) ∧
    (x.rst = none → s.kat.cur = none → x.run = none → x.choice = none → x.job = false → x.rings = [] → s.barsOf f = [] → s.span.relays = [] →
      s.bru.load = none → Completes (.partitionReset fn cls) s (fun t =>
        (t.fnAt f).rst = some ⟨cls, false, s.now, true⟩ ∧ (t.fnAt f).cst = .idle ∧ (t.fnAt f).cask = none ∧
        t.out = s.out ++ [.dmaEnd fn] ∧
        t.net = s.net ++ s.hubsUp.map (fun h => .abort h none x.pepoch ⟨fn, 1, .aborted⟩))) ∧
    (x.rst = some r → r.begun = true → x.members.all s.clusterRetired = true → s.fnRetired f r.since = true → x.epochAt = none →
      s.barsOf f = [] → s.bru.load = none → Completes (.partitionResetComplete fn) s (fun t =>
        (t.fnAt f).rst = none ∧ (t.fnAt f).epoch = x.epoch + 1 ∧ (t.fnAt f).pepoch = x.pepoch + 1 ∧
        (t.fnAt f).nrst = satInc x.nrst ∧ (t.fnAt f).lcls = r.cls ∧ (t.fnAt f).cst = .idle ∧ (t.fnAt f).cep = x.ckpt ∧
        (t.fnAt f).run = none ∧ bit t.err.bits.toNat 1 = true)) ∧
    (x.rst = some r → r.since + 30000000 ≤ s.now → Completes (.resetEscalate fn) s (fun t =>
      t.err.resetDue = true ∧ t.err.byError = true ∧ t.fn = s.fn))

/-- The error registers' commands: VRST needs its key; REINIT decides a reset with registers; ABORT is sent to every hub; a
history record is marked for clearing; a pack processor halts and comes back; a queued CPER record is sent; a power-cycle
request is repeated. -/
def Sys2Proof.Machine.Says.ErrorCommands : Prop :=
  ∀ (s : State) (v : Reg) (p : Fin 2) (m : LogMsg) (ms : List LogMsg) (a : BitVec 7),
    let n := v.toNat
    let fn := fnOfNat (bits n 0 6)
    let f := fn.val
    let x := s.fnAt f
    s.wf = true →
    (s.bru.step = 15 → s.err.reinit = false → s.err.abort = false →
      (bit n 23 = true → bit n 22 = false → bit n 21 = false →
        (bits n 24 8 = 0x5A → Completes (.vrst v) s (fun t => t.err.resetDue = true ∧ t.err.vrst = true ∧ t.fn = s.fn)) ∧
        (bits n 24 8 ≠ 0x5A → Completes (.vrst v) s (fun t => t.err.resetDue = s.err.resetDue ∧ t.err.vrst = s.err.vrst))) ∧
      (bit n 22 = true → bit n 23 = false → bit n 21 = false → x.rst = none → Completes (.reinit v) s (fun t =>
        t.err.reinit = true ∧ t.err.func = fn ∧ t.err.vec = BitVec.ofNat 11 (n / 64) ∧
        (t.fnAt f).rst = some ⟨0, true, s.now, false⟩)) ∧
      (bit n 21 = true → bit n 22 = false → bit n 23 = false → s.kat.cur = none → x.run = none → x.choice = none → x.job = false →
        s.barsOf f = [] → s.span.relays = [] → Completes (.managerAbort v) s (fun t =>
          t.err.abort = true ∧ t.err.func = fn ∧ t.err.abortLeft = s.hubsUp ∧ (t.fnAt f).cst = .idle ∧
          t.net = s.net ++ s.hubsUp.map (fun h => .abort h none x.pepoch ⟨fn, 0, .aborted⟩)))) ∧
    (s.bru.step = 15 → bit n 31 = true → Completes (.historyClear v) s (fun t => t.err.hclr = true ∧
      t.err.unit = BitVec.ofNat 24 n ∧ (∀ r ∈ t.err.hist, unitCode r.uid = n % 2 ^ 24 → r.clear = true))) ∧
    (s.err.ppHalt = [false, false] → s.err.ppExp = [none, none] → Completes (.ppWatchdogExpiry p) s (fun t =>
      t.err.ppHalt[p.val]? = some true ∧ t.err.ppHalt[1 - p.val]? = some false ∧ t.err.resetDue = s.err.resetDue ∧
      ∃ g : LogMsg, t.net = s.net ++ [.log g] ∧ g.cls = 0x0E)) ∧
    (s.err.ppMuz = [false, false] → s.err.ppHalt.length = 2 → Completes (.ppSelfCheckPass p) s (fun t =>
      t.err.ppHalt[p.val]? = some false)) ∧
    (s.bru.i3c = some a → s.err.aon = [] → s.err.cper = m :: ms → Completes .cperPost s (fun t =>
      t.err.cper = ms ∧ t.cask.cperSeq = s.cask.cperSeq + 1 ∧ t.out = s.out ++ [.cper (s.cperBytes m), .ibi])) ∧
    (s.err.pwrcyc = true → s.bru.aonPg = true → s.err.pwrcycAt + 30000000000 ≤ s.now → s.err.aon.length < 16 →
      Completes .pwrcycRepeat s (fun t => t.err.pwrcycAt = s.now ∧ ∃ g : LogMsg, t.err.aon = s.err.aon ++ [g] ∧ g.sev = 3 ∧ g.act = 4))

/-- A hub whose two sequencers disagree suppresses the cycle's writes: its tables stay, and a containment of SEQ_DIVERGE, class
0x0A, goes to the root with its LOG, of the function whose command it was, or field-shared for the queue's order (R232, R233). -/
def Sys2Proof.Machine.Says.HubsThatDisagree : Prop :=
  ∀ (s : State) (hub : Field) (tep : Epoch) (a : CArrive) (r : Release) (m : PitchMsg) (p : Proxy) (x : Release) (q : List Release),
    let h := hub.val
    let told (net : List Msg) (shared : Bool) (t : State) : Prop := t.hub = s.hub ∧ t.frec = s.frec ∧ t.csn = s.csn ∧ t.fn = s.fn ∧
      ∃ (n : ResetNote) (l : LogMsg), t.net = net ++ [.resetNote none n, .log l] ∧ n.kind = .contain ∧ n.cls = 0x0A ∧
        n.shared = shared ∧ l.cls = 0x0A;
    (s.hubAt h).muz = false →
    (tep = (s.hubAt h).epoch →
      (s.stopped (.arrive h tep a) = false → a.bar.toNat < 65520 →
        Completes (.arrive ⟨hub, true⟩ tep a) s (told (s.net.erase (.arrive h tep a)) false)) ∧
      (s.stopped (.pitch h tep m) = false → m.plid.toNat < 2032 →
        Completes (.pitch ⟨hub, true⟩ tep m) s (told (s.net.erase (.pitch h tep m)) false)) ∧
      (s.stopped (.proxy h tep p) = false →
        Completes (.proxyRecord ⟨hub, true⟩ (tep, p)) s (told (s.net.erase (.proxy h tep p)) false))) ∧
    (s.stopped (.release h tep r) = false → r.bar.toNat < 65520 → tep = s.barEpoch r.bar.toNat →
      Completes (.release ⟨hub, true⟩ tep r) s (told (s.net.erase (.release h tep r)) false)) ∧
    ((s.hubAt h).mayBegin s.now = true → (s.hubAt h).waveQ = x :: q →
      Completes (.releaseBegin ⟨hub, true⟩) s (told s.net true))

/-- LOG and scrubbing: a CONTAINED event of a unit without a muzzle threshold sets EVT and the last class, and joins the
CPER queue; a permanent event muzzles a mash unit; one with a reserved code is taken with no effect (log entry 12). A scrubbed word with one or two bits in error is
logged as corrected, one with more is contained, in shared state by a Varvo reset. A watched unit goes back to service.
Classes that no row names are the model's reading (log entry 44). -/
def Sys2Proof.Machine.Says.LogsAndScrubbing : Prop :=
  ∀ (s : State) (m : LogMsg) (uid : UnitId) (word : BitVec 64) (n : BitVec 4) (c : Cluster) (f : Nat) (what : Struct) (r : HistRec),
    s.wf = true →
    ((4 < m.sev.toNat ∨ m.perm = 3 ∨ 9 < m.act.toNat) → s.stopped (.log m) = false → exec (.log m) s = .next (s.taken (.log m))) ∧
    (s.stopped (.log m) = false → m.sev = 2 → m.perm ≠ 3 → m.act.toNat ≤ 9 →
      (threshRow m.uid.kind = none → s.err.cper.length < 256 → Completes (.log m) s (fun t =>
        t.err.lcls = m.cls ∧ t.err.lfunc = m.func ∧ bit t.err.bits.toNat 0 = true ∧ t.err.cper = s.err.cper ++ [m] ∧
        t.net = s.net.erase (.log m))) ∧
      (m.uid.kind = .hubMash → m.perm = 1 → m.cls ≠ 0x14 → s.err.hist = [] → Completes (.log m) s (fun t =>
        bit (t.hubAt (m.uid.idx.toNat / 8)).mash.toNat (m.uid.idx.toNat % 8) = false ∧ bit t.err.bits.toNat 3 = true))) ∧
    (exec (.scrubPass uid what word 0) s =
      .next { s with err := { s.err with rebuilt := s.err.rebuilt.erase (uid, word) } }) ∧
    ((n = 1 ∨ n = 2) → s.err.corr = [] → s.err.ce = [] → Completes (.scrubPass uid what word n) s (fun t =>
      t.err.corr = [(uid, word, s.ms48)] ∧ ∃ g : LogMsg, t.net = s.net ++ [.log g] ∧ g.cls = 0x04 ∧ g.uid = uid)) ∧
    (2 < n.toNat → s.fnOf c.id = some f → Completes (.scrubPass uid (.csnArray c.id) word n) s (fun t =>
      ∃ (a : ResetNote) (g : LogMsg), t.net = s.net ++ [.resetNote none a, .log g] ∧ a.kind = .contain ∧ a.cls = 0x05 ∧
        a.func = fnOfNat f ∧ g.cls = 0x05)) ∧
    (2 < n.toNat → Completes (.scrubPass uid .shared word n) s (fun t =>
      ∃ (a : ResetNote) (g : LogMsg), t.net = s.net ++ [.resetNote none a, .log g] ∧ a.kind = .contain ∧ a.cls = 0x06 ∧
        g.cls = 0x06)) ∧
    (s.err.hist = [r] → r.uid = uid → r.st = .watch → r.events = [] → Completes (.watchWindowExpiry uid) s (fun t =>
      t.err.hist = [{ r with st := .service, events := [], tcnt := 0 }]))

/-! ### Rings -/

namespace Sys2Proof.Machine

/-- Command i of ring r has started, is of the family and operation named, and the ring is function f's. -/
def Started (s : State) (r : RingIx) (i : BitVec 16) (fam op : Nat) (c : Cmd) (f : Nat) : Prop :=
  (s.ringAt r.val).toRun i fam op = some c ∧ s.ringFn r.val = some f ∧ s.wf = true

/-- No descriptor that waits on the ring to start is a reserved encoding, which would end as it starts. -/
def FetchedOk (s : State) (r : Nat) : Prop := ∀ d ∈ (s.ringAt r).fetched, descOk d.bits = true

/-- A record has become ready behind some others of its ring; behind it only those of descriptors that ended as they started. -/
def Becomes (s t : State) (r : Nat) (x : Rec) (l : List Rec) : Prop :=
  ∃ more, (t.ringAt r).ready = l ++ x :: more ∧ (FetchedOk s r → more = [])

/-- Its COMMAND record has become ready on its ring, behind what was ready. -/
def Recorded (s t : State) (r : Nat) (c : Cmd) (st : Status) (flag : Bool) (res : Nat) : Prop :=
  Becomes s t r (cmdRec c.d st flag res) (s.ringAt r).ready

/-- An unpredictable command of a ring: it completes with a status that nothing fixes, and has no other effect (R9). -/
def EndsAny (c : Instr) (s : State) (r : RingIx) (i : BitVec 16) : Prop :=
  ∃ st, exec c s = .next (s.drawn.finish r.val i st)

end Sys2Proof.Machine

/-- Doorbells: the submission doorbell exposes descriptors and their read is issued; the completion doorbell acknowledges
records; one outside its bounds has no effect (R307 leaves its outcome open; log entry 12); one of a ring that the function
does not hold is denied and counted. -/
def Sys2Proof.Machine.Says.Doorbells : Prop :=
  ∀ (s : State) (f : Func) (r : RingIx) (p : BitVec 16) (n : Nat),
    let x := s.ringAt r.val
    s.wf = true → s.bru.step = 15 →
    (¬ r.val ∈ (s.fnAt f.val).rings →
      let deny : Out := .next (s.updFn f.val (fun y => { y with deny := satInc y.deny }))
      exec (.vsfHifDbSq f r p) s = deny ∧ exec (.vsfHifDbCq f r p) s = deny) ∧
    (r.val ∈ (s.fnAt f.val).rings →
      (x.badPi p.toNat = true → exec (.vsfHifDbSq f r p) s = .next s) ∧
      (x.badHead p.toNat = true → exec (.vsfHifDbCq f r p) s = .next s) ∧
      (x.badPi p.toNat = false → x.st = .run → s.ringFn r.val = some f.val → (s.fnAt f.val).hold = false →
        (s.fnAt f.val).rst = none → 0 < n → n ≤ 8 → x.asked + n = p.toNat → Completes (.vsfHifDbSq f r p) s (fun t =>
          (t.ringAt r.val).pi = p.toNat ∧ (t.ringAt r.val).asked = p.toNat ∧ t.out = s.out ++ [.sqRead r.val x.asked n])) ∧
      (x.badHead p.toNat = false → x.st ≠ .off → Completes (.vsfHifDbCq f r p) s (fun t =>
        (t.ringAt r.val).head = p.toNat ∧ (t.ringAt r.val).unack = x.unack - x.acks p.toNat ∧ t.out = s.out)))

/-- Fetched descriptors start in ring order; one of a reserved family or operation ends as it starts, with a status that
nothing fixes (R7, R9; log entry 12); records are posted in the order in which they became ready, those of one cycle COMMAND
first and by SQI, and the ring's interrupt goes at once, at its time, or when
the entry is unmasked. -/
def Obligations.FetchAndPost : Prop :=
  ∀ (s : State) (r : RingIx) (f : Nat) (d : BitVec 512) (c : Rec) (rest : List Rec) (since : Nat) (fn : Func) (v : BitVec 11),
    let x := s.ringAt r.val
    let e : Desc := ⟨BitVec.ofNat 16 (x.sqc % x.size), d⟩
    s.wf = true →
    (x.st = .run → (x.asked + x.size - x.sqc) % x.size ≠ 0 → s.ringFn r.val = some f →
      (s.fnAt f).rst = none → (s.fnAt f).hold = false → x.fetched = [] → s.mayStart r.val e = true →
      x.started.all (fun c => c.d.sqi != e.sqi) = true →
      Completes (.descFetchDone r [d]) s (fun t => (t.ringAt r.val).sqc = (x.sqc + 1) % x.size ∧ (t.ringAt r.val).fetched = [] ∧
        ∃ k : Cmd, (t.ringAt r.val).started = x.started ++ [k] ∧ k.d = e ∧
          (descOk d = true → k.begun = false ∧ k.done = false ∧ (t.ringAt r.val).ready = x.ready) ∧
          (descOk d = false → k.done = true ∧ ∃ st, (t.ringAt r.val).ready = x.ready ++ [cmdRec e st false 0]))) ∧
    (s.ringFn r.val = some f → x.canPost = true → (s.fnAt f).hold = false → (s.fnAt f).dlEn = false → x.ready = c :: rest →
      c.note = false →
      (x.old ≠ 0 ∨ ∀ d ∈ rest, c.rank ≤ d.rank) → Completes (.completionPost r) s (fun t =>
        (∃ more, (t.ringAt r.val).ready = rest ++ more ∧ (FetchedOk s r → more = [])) ∧
        (t.ringAt r.val).unack = x.unack + 1 ∧ (t.ringAt r.val).cqp = (if x.cqp + 1 = x.size then 0 else x.cqp + 1) ∧
        (t.ringAt r.val).phase = (if x.cqp + 1 = x.size then !x.phase else x.phase) ∧
        ∃ l : List Sig, t.out = s.out ++ .record r.val x.cqp (x.recBits c) :: l)) ∧
    (s.ringFn r.val = some f → x.canPost = true → (s.fnAt f).hold = false → (s.fnAt f).dlEn = false → x.old = 0 → c ∈ x.ready →
      c.note = false → (∀ d ∈ x.ready, d ≠ c → c.rank < d.rank) → Completes (.completionPost r) s (fun t =>
        (∃ l : List Sig, t.out = s.out ++ .record r.val x.cqp (x.recBits c) :: l))) ∧
    (s.ringFn r.val = some f → x.firstAt = some since → since + 750 * x.timOf ≤ s.now → (s.fnAt f).hold = false →
      (s.fnAt f).mskd = [] → exec (.msixTimeout r) s =
        .next ((s.updRing r.val (fun y => { y with cnt := 0, firstAt := none })).emit (.msix (fnOfNat f) x.vec))) ∧
    ((s.fnAt fn.val).pend = [v] → (s.fnAt fn.val).mskd = [v] →
      ((s.fnAt fn.val).hold = false → Completes (.msixUnmask fn v) s (fun t =>
        (t.fnAt fn.val).pend = [] ∧ (t.fnAt fn.val).mskd = [] ∧ t.out = s.out ++ [.msix fn v])) ∧
      ((s.fnAt fn.val).hold = true → Completes (.msixUnmask fn v) s (fun t =>
        (t.fnAt fn.val).pend = [v] ∧ (t.fnAt fn.val).mskd = [] ∧ t.out = s.out)))

/-- Ring control: enabling an OFF ring takes it to RUN with its indices 0; clearing EN or writing SPARGE in RUN begins a
sparge, which ends what was fetched and not started with ABORTED; the SPARGED note follows once nothing is started;
clearing EN in DRAINED gives OFF. What a sparge drops is the model's reading (log entry 52). -/
def Sys2Proof.Machine.Says.RingControl : Prop :=
  ∀ (s : State) (f : Func) (r : RingIx),
    let x := s.ringAt r.val
    s.wf = true → s.bru.step = 15 → r.val ∈ (s.fnAt f.val).rings →
    (x.st = .off → Completes (.ringEnable f r) s (fun t =>
      let y := t.ringAt r.val
      y.st = .run ∧ y.en = true ∧ y.sqc = 0 ∧ y.pi = 0 ∧ y.cqp = 0 ∧ y.head = 0 ∧ y.phase = true ∧ y.sqbLo = x.sqbLo ∧
      y.rcfg = x.rcfg ∧ t.out = s.out ∧ t.net = s.net)) ∧
    (x.st = .run → x.waits = [] → (s.fnAt f.val).cask = none →
      let ended (y : Ring) : Prop := y.st = .sparge ∧ y.fetched = [] ∧ y.pi = x.sqc ∧ y.started = x.started ∧
        y.ready = x.ready ++ x.fetched.map (fun d => cmdRec d .aborted false 0)
      Completes (.ringDisable f r) s (fun t => ended (t.ringAt r.val) ∧ (t.ringAt r.val).en = false ∧ t.net = s.net) ∧
      Completes (.ringSparge f r) s (fun t => ended (t.ringAt r.val) ∧ (t.ringAt r.val).en = x.en ∧ t.net = s.net)) ∧
    (x.st = .drained → Completes (.ringDisable f r) s (fun t => (t.ringAt r.val).st = .off ∧ (t.ringAt r.val).en = false)) ∧
    (x.st = .sparge → x.started = [] → x.ready = [] → Completes (.spargeDrained r) s (fun t =>
      (t.ringAt r.val).ready = [spargedRec r.val] ∧ (t.ringAt r.val).st = .sparge))

/-- DATA, INFO and NOP: a copy goes to the DMA queue and completes when it reports, FENCED or POISON where it fails; DIST_READ
writes the distance table image; a host error completes its command POISON. How many bytes a poisoned copy had moved is a free
value (log entry 97). -/
def Obligations.DataCommands : Prop :=
  ∀ (s : State) (r : RingIx) (i : BitVec 16) (c : Cmd) (f : Nat),
    let d := c.d.bits
    let len := Nat.min (dLen d) 3484048
    let dma (out : Bool) : Out := .next ((s.updRing r.val (fun x => x.updCmd i (fun c => { c with begun := true }))).emit
      (.dmaReq (fnOfNat f) r.val i out (BitVec.ofNat 64 (dAddr d)) (BitVec.ofNat 64 (dField d 128 64)) (BitVec.ofNat 32 (dLen d))))
    (Started s r i 0 0 c f → Completes (.nop r i) s (fun t => Recorded s t r c .ok false 0)) ∧
    (Started s r i 6 1 c f → (dLen d ≠ 0 → exec (.copyIn r i) s = dma false) ∧
      (dLen d = 0 → Completes (.copyIn r i) s (fun t => Recorded s t r c .ok false 0))) ∧
    (Started s r i 6 2 c f → (dLen d ≠ 0 → exec (.copyOut r i) s = dma true) ∧
      (dLen d = 0 → Completes (.copyOut r i) s (fun t => Recorded s t r c .ok false 0))) ∧
    (Started s r i 7 1 c f → (s.fnAt f).dlEn = false → 0 < len → Completes (.distRead r i) s (fun t =>
      Recorded s t r c .ok false (len + s.mesh.gen.toNat * 2 ^ 32) ∧
      t.out = s.out ++ [.hostImage (fnOfNat f) (BitVec.ofNat 64 (dAddr d)) (s.distImage.take len)])) ∧
    ((s.ringAt r.val).dataCmd i = some c → s.ringFn r.val = some f → s.wf = true →
      Completes (.dmaDone r i) s (fun t => Recorded s t r c .ok false (dLen d)) ∧
      Completes (.dmaErr r i true) s (fun t => Recorded s t r c .fenced false 0) ∧
      Completes (.dmaErr r i false) s (fun t => (∃ n, n ≤ dLen d ∧ Recorded s t r c .poison false n))) ∧
    ((s.ringAt r.val).cmdAt i = some c → c.done = false → usesHost c = true → s.wf = true →
      (dFam d ≠ 6 → Completes (.hostBusError r i) s (fun t => Recorded s t r c .poison false 0)) ∧
      (dFam d = 6 → Completes (.hostBusError r i) s (fun t => (∃ n, n ≤ dLen d ∧ Recorded s t r c .poison false n))))

/-- COMMIT and KENNEL descriptors: the spare set of the partition's own clusters, FENCED where one is not, or is in a muzzled
unit; a cask barrier at or below CKPT completes, a later one waits, a second one finds NO_RESOURCE; a kennel operation leaves
for its home hub under the function's identity, and a reserved encoding ends with a status that nothing fixes (log entry 12). -/
def Obligations.CommitAndKennelDescriptors : Prop :=
  ∀ (s : State) (r : RingIx) (i : BitVec 16) (c : Cmd) (f : Nat) (img : List Byte) (op : KOp),
    let d := c.d.bits
    let x := s.fnAt f
    let e := BitVec.ofNat 32 (dField d 352 32)
    let q := dKen d
    let h := homeHub (kennelIndex q.cls.toNat q.index.toNat)
    (Started s r i 3 1 c f → ((∀ m ∈ imgMembers img, m.1 ∈ x.members ∧ s.inService m.1 = true) → Completes (.cmtSet r i img) s (fun t =>
        (t.fnAt f).spares = (imgMembers img).map Prod.fst ∧ Recorded s t r c .ok false 0)) ∧
      ((∃ m ∈ imgMembers img, ¬ m.1 ∈ x.members ∨ s.inService m.1 = false) → Completes (.cmtSet r i img) s (fun t =>
        (t.fnAt f).spares = x.spares ∧ Recorded s t r c .fenced false 0))) ∧
    (Started s r i 3 2 c f → (e.toNat ≤ x.ckpt.toNat → Completes (.caskBar r i) s (fun t =>
        Recorded s t r c .ok false 0 ∧ (t.fnAt f).cask = x.cask)) ∧
      (x.ckpt.toNat < e.toNat → x.cask = none → Completes (.caskBar r i) s (fun t =>
        (t.fnAt f).cask = some ⟨r.val, i, e, BitVec.ofNat 64 (dField d 288 64)⟩ ∧
        (t.ringAt r.val).ready = (s.ringAt r.val).ready)) ∧
      (x.ckpt.toNat < e.toNat → x.cask ≠ none → Completes (.caskBar r i) s (fun t =>
        Recorded s t r c .noResource false 0 ∧ (t.fnAt f).cask = x.cask))) ∧
    ((s.ringAt r.val).kenToRun i = some c → s.wf = true →
      ((kopOf (dOp d) = none ∨ dScope d = 3 ∨ 2 < dField d 380 4) → EndsAny (.kennelDesc r i) s r i) ∧
      ((s.ringAt r.val).started.all (fun e => e.d.sqi == i || e.done || !e.begun || dFam e.d.bits != 1 || e.tag.isSome || e.inv.isSome) →
        (s.ringAt r.val).behind c = false → kopOf (dOp d) = some op → op ≠ .withdraw → s.ringFn r.val = some f → (dScope d = 0 ∨ dScope d = 1) → dField d 380 4 ≤ 1 →
        q.index.toNat < classRange q.cls.toNat → (s.hubAt h).muz = false → dPub d = false →
        Completes (.kennelDesc r i) s (fun t => ∃ tag : Tag,
          t.net = s.net ++ [.kenReq h (s.hubAt h).epoch op ⟨q, s.fnMaster f, tag⟩])))

/-- PACK_SET and PACK_CLEAR: a pack over one cluster binds a leg, the field's record and the root's record, and completes; on
a barrier in another state, with a payload descriptor outside its limits or with a reserved encoding it binds nothing and ends
with a status that nothing fixes (R9; log entry 12); a handle that the function does not hold is FENCED; clearing returns the
barrier to IDLE with GEN + 1. -/
def Obligations.Packs : Prop :=
  ∀ (s : State) (r : RingIx) (i : BitVec 16) (c : Cmd) (f : Nat) (img : List Byte) (b cl : Nat) (n : Byte),
    let d := c.d.bits
    let pay := BitVec.ofNat 32 (dField d 288 32)
    let p := s.precAt b
    (Started s r i 2 1 c f →
      ((dScope d = 0 ∨ dScope d = 3 ∨ 4 < dHandle d / 2 ^ 20 ∨ pdReserved pay = true) →
        EndsAny (.packSet r i img) s r i) ∧
      ((dScope d = 1 ∨ dScope d = 2) → dHandle d / 2 ^ 20 ≤ 4 → pdReserved pay = false →
        (s.heldBar f (dHandle d) = none → Completes (.packSet r i img) s (fun t => Recorded s t r c .fenced false 0)) ∧
        (s.heldBar f (dHandle d) = some b → ((p.st ≠ .idle ∨ p.join ≠ none ∨ pdOutside pay = true) →
            EndsAny (.packSet r i img) s r i) ∧
          (p.st = .idle → p.join = none → pdOutside pay = false → dScope d = 1 → imgMembers img = [(cl, n)] → fieldOf cl < 84 →
            s.packCheck f d b (imgMembers img) = none → Completes (.packSet r i img) s (fun t =>
              let u := t.precAt b
              u.st = (if bit d.toNat 359 then .armed else .gather) ∧ u.scope = 1 ∧ u.fexp = 1 ∧ u.farr = 0 ∧ u.gen = p.gen ∧
              u.pepoch = (s.fnAt f).pepoch ∧ u.payload = pay ∧ u.tmo = BitVec.ofNat 8 (dField d 344 8) ∧
              (t.frecOf (fieldOf cl) b).exp = 1 ∧ (t.frecOf (fieldOf cl) b).gen = p.gen ∧ Recorded s t r c .ok false 0))))) ∧
    (Started s r i 2 2 c f → 4 < dHandle d / 2 ^ 20 → EndsAny (.packClear r i) s r i) ∧
    (Started s r i 2 2 c f → dHandle d / 2 ^ 20 ≤ 4 →
      (s.heldBar f (dHandle d) = none → Completes (.packClear r i) s (fun t => Recorded s t r c .fenced false 0)) ∧
      (s.heldBar f (dHandle d) = some b → p.join = none → s.wavesLeft b = false →
        (p.st = .idle → Completes (.packClear r i) s (fun t => Recorded s t r c .ok false 0 ∧ t.prec = s.prec)) ∧
        ((p.st = .gather ∨ p.st = .armed) → p.scope ≠ 2 → s.legClusters b = [] → Completes (.packClear r i) s (fun t =>
          (t.precAt b).st = .idle ∧ (t.precAt b).gen = p.gen + 1 ∧ (t.precAt b).mfs = 0 ∧ Recorded s t r c .ok false 0))))

/-- PITCH_ADMIT and PITCH_RETIRE: a well-formed image that names only the function's own objects takes the lowest free
PLID; a LEN too short and a faulty image admit nothing and end with a status that nothing fixes (R9; log entry 12); a list
that does not run is retired at once, a running one at its heel release. Re-admission and retirement of a running list follow log entry 53. -/
def Obligations.PitchLists : Prop :=
  ∀ (s : State) (r : RingIx) (i : BitVec 16) (c : Cmd) (f p : Nat) (img : List Byte),
    let d := c.d.bits
    let m := pitchImage img
    let id := dId d
    (Started s r i 4 1 c f →
      (dLen d = 0 → Completes (.pitchAdmit r i img) s (fun t => Recorded s t r c .ok false 0xFFFF ∧ t.pl = s.pl)) ∧
      (dLen d ≠ 0 → (dLen d < 64 ∨ dLen d < pitchSize img) → EndsAny (.pitchAdmit r i img) s r i) ∧
      (64 ≤ dLen d → pitchSize img ≤ dLen d → id = 0xFFFF → s.pitchFenced f m = false →
        (s.pitchFaulty f id m = true → EndsAny (.pitchAdmit r i img) s r i) ∧
        (s.pitchFaulty f id m = false → s.freePlid f = some p → s.cmtRoom f (s.plAt p) m = true →
          Completes (.pitchAdmit r i img) s (fun t =>
            (t.plAt p).img = m ∧ (t.plAt p).st = (if m.vonly then .variant else .queued) ∧ (t.plAt p).steps = 0 ∧
            (t.plAt p).func = fnOfNat f ∧ Recorded s t r c .ok false p)))) ∧
    (Started s r i 4 2 c f →
      (s.ownsPl f id = false → Completes (.pitchRetire r i) s (fun t => Recorded s t r c .fenced false 0)) ∧
      (s.ownsPl f id = true → (s.plAt id).st = .running → (s.plAt id).retire = none → Completes (.pitchRetire r i) s (fun t =>
        (t.plAt id).retire = some (r.val, i) ∧ (t.plAt id).st = .running ∧ (t.ringAt r.val).ready = (s.ringAt r.val).ready)) ∧
      (s.ownsPl f id = true → (s.plAt id).st ≠ .running → Completes (.pitchRetire r i) s (fun t =>
        (t.plAt id).st = .free ∧ ¬ id ∈ (t.fnAt f).order ∧ cmdRec c.d .ok false 0 ∈ (t.ringAt r.val).ready)))

/-- Slots: an admitted slot with POS 0 is ACTIVE with its budget set; on a slot that is not FREE nothing is admitted and the
status is one that nothing fixes (R257; log entry 12); one outside the function's blocks is FENCED. SEQ_READ writes the slot record; PAUSE, RESUME, CANCEL and BUDGET act as R263 says. That
the engine's kennel operations act at once is the model's choice (log entry 14). -/
def Obligations.Slots : Prop :=
  ∀ (s : State) (r : RingIx) (i : BitVec 16) (c : Cmd) (f : Nat) (img : List Byte),
    let d := c.d.bits
    let k := dId d
    let x := s.slotAt k
    let y := slotOf f img
    let b := kennelIndex 2 k
    let act := dField d 364 4
    let ok (t : State) : Prop := Recorded s t r c .ok false 0
    (Started s r i 5 1 c f → (s.seqFenced f k y = true → Completes (.seqAdmit r i img) s (fun t =>
        Recorded s t r c .fenced false 0 ∧ t.slot = s.slot)) ∧
      (s.seqFenced f k y = false → x.st ≠ .free → EndsAny (.seqAdmit r i img) s r i) ∧
      (s.seqFenced f k y = false → x.st = .free → y.pos = 0 → (s.kenAt b).queue = [] → Completes (.seqAdmit r i img) s (fun t =>
        t.slotAt k = { y with st := .active, isNew := true } ∧ (t.kenAt b).kind = .tokenPool ∧
        (t.kenAt b).count = BitVec.ofNat 32 (dN d) ∧ (t.kenAt b).limit = 0xFFFFFFFF ∧ ok t))) ∧
    (Started s r i 5 2 c f → (s.ownsSlot f k = true → (s.fnAt f).dlEn = false → Completes (.seqRead r i) s (fun t => ok t ∧
        t.out = s.out ++ [.hostImage (fnOfNat f) (BitVec.ofNat 64 (dAddr d)) (leBytes 64 (slotWord x).toNat)])) ∧
      (s.ownsSlot f k = false → Completes (.seqRead r i) s (fun t => Recorded s t r c .fenced false 0))) ∧
    (Started s r i 5 3 c f → s.ownsSlot f k = true →
      (act = 0 → x.st = .active → x.dec = none → Completes (.seqCtlPause r i) s (fun t => (t.slotAt k).st = .paused ∧ ok t)) ∧
      (act = 0 → x.st = .active → x.dec ≠ none → Completes (.seqCtlPause r i) s (fun t =>
        (t.slotAt k).st = .active ∧ (t.slotAt k).pauseAfter = true ∧ ok t)) ∧
      (act = 1 → x.st = .paused → x.pos = 0 → Completes (.seqCtlResume r i) s (fun t => (t.slotAt k).st = .active ∧ ok t)) ∧
      (act = 2 → x.st = .active → x.dec = none → x.shv = false → Completes (.seqCtlCancel r i) s (fun t =>
        (t.slotAt k).st = .ending ∧ (t.slotAt k).why = some .cancel ∧ cmdRec c.d .ok false 0 ∈ (t.ringAt r.val).ready)) ∧
      (act = 3 → x.st = .active → s.poolOk x.func.val b = true → (s.kenAt b).queue = [] → Completes (.seqCtlBudget r i) s (fun t =>
        (t.kenAt b).count.toNat = Nat.min ((s.kenAt b).count.toNat + dN d) (s.kenAt b).limit.toNat ∧ ok t)) ∧
      (act = 3 → x.st = .free → Completes (.seqCtlBudget r i) s (fun t => t.ken = s.ken ∧ ok t)))

/-! ### The manager and the mailbox -/

namespace Sys2Proof.Machine

/-- The manager's command has ended with a status, nothing in flight and nothing on its wires. -/
def mgrEnd (s t : State) (st : Status) : Prop := t.mgr = { s.mgr with go := false, status := st } ∧ t.out = s.out ∧ t.net = s.net

end Sys2Proof.Machine

/-- The manager's commands on a function's share: quotas clipped to the pools; a grant of units nobody else holds; a revoke of
slot blocks, which frees their slots, and of barrier blocks, which waits while a barrier's clearing must wait (R108); a reserved
CLS changes nothing, with a status that nothing fixes (R7; log entry 12); a range too long is FENCED. -/
def Sys2Proof.Machine.Says.ManagerGrants : Prop :=
  ∀ (s : State) (b : BitVec 512) (n r : Nat) (us : List Nat),
    let f := s.mgr.func.val
    let x := s.fnAt f
    let c := mCls b
    s.wf = true → s.bru.step = 15 → s.mgr.go = true →
    (mOp b = 3 → Completes (.quotaSet b) s (fun t => mgrEnd s t .ok ∧
      (t.fnAt f).qwait = Nat.min (mField b 370 14) 8192 ∧ (t.fnAt f).qscan = Nat.min (mField b 359 11) 1984 ∧
      (t.fnAt f).qph = Nat.min (mField b 350 9) 256 ∧ (t.fnAt f).qpr = Nat.min (mField b 340 10) 512 ∧
      (t.fnAt f).qpl = Nat.min (mField b 328 12) 2032 ∧ (t.fnAt f).members = x.members)) ∧
    (unitCount c = none → (mOp b = 4 → ∃ st, exec (.grant b) s = .next (s.drawn.mgrDone st)) ∧
      (mOp b = 5 → ∃ st, exec (.revoke b) s = .next (s.drawn.mgrDone st))) ∧
    (unitCount c = some n → 0 < mCnt b → n < mFirst b + mCnt b →
      (mOp b = 4 → exec (.grant b) s = .next (s.mgrDone .fenced)) ∧ (mOp b = 5 → exec (.revoke b) s = .next (s.mgrDone .fenced))) ∧
    (unitCount c = some n → unitsNamed b n = some us →
      (mOp b = 4 → (∃ u ∈ us, s.heldElsewhere f c u = true) → exec (.grant b) s = .next (s.mgrDone .noResource)) ∧
      (mOp b = 4 → (∀ u ∈ us, s.heldElsewhere f c u = false) → c ≠ 9 → Completes (.grant b) s (fun t => mgrEnd s t .ok ∧
        ∀ u < 4096, u ∈ (t.fnAt f).units c ↔ (u ∈ x.units c ∨ u ∈ us))) ∧
      (mOp b = 4 → us = [r] → s.heldElsewhere f c r = false → c = 9 → x.rings = [] → Completes (.grant b) s (fun t => mgrEnd s t .ok ∧
        (t.fnAt f).rings = [r] ∧ t.ringAt r = s.freshRing f)) ∧
      (mOp b = 5 → c = 8 → Completes (.revoke b) s (fun t => mgrEnd s t .ok ∧
        (∀ u, u ∈ (t.fnAt f).slotBlk ↔ (u ∈ x.slotBlk ∧ ¬ u ∈ us)) ∧
        ∀ k, (k / 32 ∈ us ∧ k / 32 ∈ x.slotBlk → t.slotAt k = Slot.init) ∧
          (¬ (k / 32 ∈ us ∧ k / 32 ∈ x.slotBlk) → t.slotAt k = s.slotAt k))) ∧
      (mOp b = 5 → c = 3 → r / 16 ∈ us → r / 16 ∈ x.blk3 → (s.precAt r).st ≠ .free →
        (s.barBusy r = true → exec (.revoke b) s = .next s) ∧
        ((∀ k ∈ s.revokeBars f b us, s.barBusy k = false) → Completes (.revoke b) s (fun t =>
          t.precAt r = RootRec.init ∧ (∀ u, u ∈ (t.fnAt f).blk3 ↔ (u ∈ x.blk3 ∧ ¬ u ∈ us)) ∧
          t.mgr = { s.mgr with go := false, status := .ok }))))

/-- Partitions: PART_CREATE that keeps its records makes the named cluster a member under the next partition epoch, with
the cluster in reset; a cluster out of service is FENCED, one in use NO_RESOURCE; PART_DESTROY of a reset partition that
holds nothing clears it. When a command of the manager acts is the model's reading (log entry 23). -/
def Sys2Proof.Machine.Says.Partitions : Prop :=
  ∀ (s : State) (b : BitVec 512) (img : List Byte) (c : Nat) (n : Byte),
    let f := s.mgr.func.val
    let x := s.fnAt f
    s.wf = true → s.bru.step = 15 → s.mgr.go = true → s.mgr.erasing = false →
    (mOp b = 1 → s.mgr.destroying = false → imgMembers img = [(c, n)] →
      (s.inService c = false → exec (.partCreate b img) s = .next (s.mgrDone .fenced)) ∧
      (s.inService c = true → (x.members ≠ [] ∨ s.fnOf c ≠ none) → exec (.partCreate b img) s = .next (s.mgrDone .noResource)) ∧
      (s.inService c = true → x.members = [] → s.fnOf c = none → x.epochAt = none → bit b.toNat 503 = true →
        (∀ k ∈ s.kat.cur, k.owner ≠ none) →
        (s.csnAt c).epochAt = none → (∀ i ∈ s.coresOf c, (s.coreAt i).epochAt = none ∧ (s.coreAt i).rst ≠ none) →
        Completes (.partCreate b img) s (fun t =>
          (t.fnAt f).members = [c] ∧ (t.fnAt f).pepoch = x.pepoch + 1 ∧ (t.fnAt f).ckpt = s.ckptOf f ∧ (t.fnAt f).bal = Q.zero ∧
          (t.csnAt c).pepoch = x.pepoch + 1 ∧ (t.csnAt c).epoch = (s.csnAt c).epoch + 1 ∧ (t.csnAt c).ents = [] ∧
          t.mgr = { s.mgr with go := false, status := .ok }))) ∧
    (x.members = [] → s.mgr.destroying = false → exec .partDestroy s = .next (s.mgrDone .ok)) ∧
    (s.mgr.destroying = true → x.rst = none → x.blk0 = [] → x.blk1 = [] → x.blk3 = [] → x.slotBlk = [] → x.rings = [] →
      Completes .partDestroy s (fun t =>
        (t.fnAt f).members = [] ∧ (t.fnAt f).hold = false ∧ (t.fnAt f).qwait = 0 ∧ (t.fnAt f).mbxPage = x.mbxPage ∧
        t.mgr = { s.mgr with go := false, status := .ok, destroying := false } ∧ t.out = s.out ∧ t.net = s.net))

/-- The manager's other commands: the mailbox page, a reply to a forwarded request, a notice, the dirty-page log's buffers and
their swap, the host hold; HOST_HELD reads 1 once the held function's accesses have ended. -/
def Sys2Proof.Machine.Says.ManagerServices : Prop :=
  ∀ (s : State) (b : BitVec 512) (g : Func),
    let f := s.mgr.func.val
    let x := s.fnAt f
    s.wf = true → s.bru.step = 15 → s.mgr.go = true →
    (mOp b = 6 → f = 0 → exec (.mbxSet b) s = .next (s.mgrDone .fenced)) ∧
    (mOp b = 6 → f ≠ 0 → Completes (.mbxSet b) s (fun t => mgrEnd s t .ok ∧
      (t.fnAt f).mbxPage = some (mAddr0 b, BitVec.ofNat 2 (mField b 414 2)) ∧ (t.fnAt f).mbxSt = x.mbxSt)) ∧
    (f ≠ 0 → x.hold = false → x.mskd = [] →
      (x.mbxSt ≠ .forwarded → exec .mbxReply s = .next (s.mgrDone .aborted)) ∧
      (x.mbxSt = .forwarded → Completes .mbxReply s (fun t => (t.fnAt f).mbxSt = .done ∧ bit t.mgr.fwd.toNat f = false ∧
        t.mgr.go = false ∧ t.mgr.status = .ok ∧ t.out = s.out ++ [.msix (fnOfNat f) x.mbxVec] ∧ t.net = s.net)) ∧
      (x.npend = true → exec .note s = .next (s.mgrDone .noResource)) ∧
      (x.npend = false → Completes .note s (fun t => (t.fnAt f).npend = true ∧ t.mgr = { s.mgr with go := false, status := .ok } ∧
        t.out = s.out ++ [.msix (fnOfNat f) x.mbxVec]))) ∧
    (mOp b = 9 → Completes (.dlogSet b) s (fun t => mgrEnd s t .ok ∧ (t.fnAt f).dlBits = [] ∧ (t.fnAt f).dlEn = x.dlEn ∧
      (t.fnAt f).dlBuf = some (mAddr0 b, BitVec.ofNat 64 (mField b 192 64), BitVec.ofNat 64 (mField b 128 64 / 4096 * 4096),
        BitVec.ofNat 32 (mField b 96 32)))) ∧
    (∀ (a0 a1 w : BitVec 64) (k : BitVec 32), x.dlBuf = some (a0, a1, w, k) → Completes .dlogSwap s (fun t =>
      (t.fnAt f).dlAct = !x.dlAct ∧ (t.fnAt f).dlBits = [] ∧ t.mgr = { s.mgr with go := false, status := .ok } ∧
      t.out = s.out ++ List.replicate 4 (.hostRead 0 (if x.dlAct then a1 else a0) 8))) ∧
    (mOp b = 11 → bit b.toNat 502 = true → Completes (.hold b) s (fun t => mgrEnd s t .ok ∧ (t.fnAt f).hold = true)) ∧
    (mOp b = 11 → bit b.toNat 502 = false → x.mskd = [] → x.rings = [] → Completes (.hold b) s (fun t =>
      (t.fnAt f).hold = false ∧ (t.fnAt f).held = false ∧ (t.fnAt f).pend = [] ∧
      t.out = s.out ++ x.pend.map (fun v => .msix (fnOfNat f) v))) ∧
    ((s.fnAt g.val).hold = true →
      ((∀ r ∈ (s.fnAt g.val).rings, (s.ringAt r).asked = (s.ringAt r).sqc ∧ (s.ringAt r).started = []) →
        Completes (.hostHeld g) s (fun t => (t.fnAt g.val).held = true ∧ t.out = s.out)) ∧
      ((∃ r ∈ (s.fnAt g.val).rings, (s.ringAt r).asked ≠ (s.ringAt r).sqc) → exec (.hostHeld g) s = .next s))

/-- The mailbox: a posted request is served in its turn. OBJ_ALLOC gives the lowest free handle of the function's blocks
with the KIND's initial state, FENCED where its hint names no hub or a muzzled one; OBJ_FREE frees an object, a barrier once
R108 lets it be cleared; POOL_QUERY answers twelve words; a request of type 0x10 is forwarded to the manager. A request of a
reserved type, length or encoding has no effect and a status that nothing fixes (R343, R463; log entry 12). The header of a reply and the counts of
POOL_QUERY are the model's reading (log entry 55). -/
def Obligations.Mailbox : Prop :=
  ∀ (s : State) (f : Func) (hdr pay : BitVec 128) (h : BitVec 64) (a : BitVec 64) (l : BitVec 2) (i k : Nat) (rest : List Nat),
    let x := s.fnAt f.val
    let cls := bits pay.toNat 124 4
    let kind := bits pay.toNat 120 4
    let ends (c : Instr) : Prop := ∃ st, exec c s = .next (s.drawn.mbxAnswer f.val hdr st [])
    let served (t : State) (st : Status) (res : List Byte) : Prop :=
      (t.fnAt f.val).mbxSt = .done ∧ t.mgr.lastMbx = f.val ∧ t.out = s.out ++ [.hostImage 0 (a + 0x400)
        (leBytes 16 (hSeq hdr * 2 ^ 96 + hType hdr * 2 ^ 88 + (statusCode st).toNat * 2 ^ 80 + res.length * 2 ^ 64) ++ res),
        .msix (fnOfNat f.val) x.mbxVec];
    (s.bru.step = 15 → f.val ≠ 0 → x.frozen = false → (x.mbxSt = .idle ∨ x.mbxSt = .done) →
      exec (.mbxReq f) s = .next (s.updFn f.val (fun y => { y with mbxSt := .serving }))) ∧
    (s.wf = true → s.mbxTurn f.val = true →
      (mbxBad hdr = true → ends (.objAlloc f hdr pay) ∧ ends (.objFree f hdr h) ∧ ends (.poolQuery f hdr) ∧ ends (.ask f hdr)) ∧
      (mbxBad hdr = false → x.mbxPage = some (a, l) → x.dlEn = false → x.mskd = [] →
        (hType hdr = 1 → allocOk cls kind (bits pay.toNat 118 2) = false →
          ends (.objAlloc f hdr pay)) ∧
        (hType hdr = 1 → cls ≤ 1 → bits pay.toNat 118 2 ≠ 0 → allocOk cls kind (bits pay.toNat 118 2) = true →
          (83 < bits pay.toNat 104 7 ∨ (s.hubAt (bits pay.toNat 104 7)).muz = true) →
          Completes (.objAlloc f hdr pay) s (fun t => served t .fenced [] ∧ t.ken = s.ken)) ∧
        (hType hdr = 1 → cls ≤ 1 → bits pay.toNat 118 2 = 0 → allocOk cls kind 0 = true →
          (s.freeKens f.val cls = i :: rest → Completes (.objAlloc f hdr pay) s (fun t =>
            served t .ok (leBytes 8 (cls * 2 ^ 20 + i)) ∧ (t.kenAt (kennelIndex cls i)).func = fnOfNat f.val ∧
            (t.kenAt (kennelIndex cls i)).kind = (if kind = 1 then .semaphore else if kind = 2 then .tokenPool else
              if kind = 3 then .atomicWord else .lock) ∧
            (kind = 1 → (t.kenAt (kennelIndex cls i)).count.toNat = Nat.min (bits pay.toNat 0 32) (bits pay.toNat 32 32)) ∧
            (kind = 3 → (t.kenAt (kennelIndex cls i)).value = BitVec.ofNat 64 pay.toNat))) ∧
          (s.freeKens f.val cls = [] → Completes (.objAlloc f hdr pay) s (fun t => served t .noResource [] ∧ t.ken = s.ken))) ∧
        (hType hdr = 1 → cls = 3 → kind = 0 → s.freeBars f.val = i :: rest → Completes (.objAlloc f hdr pay) s (fun t =>
          served t .ok (leBytes 8 (3 * 2 ^ 20 + i)) ∧ (t.precAt i).st = .idle ∧ (t.precAt i).func = fnOfNat f.val)) ∧
        (hType hdr = 2 →
          (4 < bits h.toNat 0 24 / 2 ^ 20 → ends (.objFree f hdr h)) ∧
          (s.heldKen f.val (bits h.toNat 0 24) = some k → (s.kenAt k).queue = [] → (s.kenAt k).leash = .none →
            Completes (.objFree f hdr h) s (fun t => served t .ok [] ∧ t.kenAt k = KEntry.init)) ∧
          (s.heldBar f.val (bits h.toNat 0 24) = some k →
            (s.barBusy k = true → exec (.objFree f hdr h) s = .next s) ∧
            (s.barBusy k = false → Completes (.objFree f hdr h) s (fun t =>
              t.precAt k = RootRec.init ∧ (t.fnAt f.val).mbxSt = .done))) ∧
          (bits h.toNat 0 24 / 2 ^ 20 ≤ 4 → s.heldKen f.val (bits h.toNat 0 24) = none → s.heldBar f.val (bits h.toNat 0 24) = none →
            Completes (.objFree f hdr h) s (fun t => served t .fenced []))) ∧
        (hType hdr = 3 → Completes (.poolQuery f hdr) s (fun t => served t .ok ((s.poolWords f.val).flatMap (leBytes 8)) ∧
          t.ken = s.ken)) ∧
        (hType hdr = 0x10 → Completes (.ask f hdr) s (fun t => (t.fnAt f.val).mbxSt = .forwarded ∧
          bit t.mgr.fwd.toNat f.val = true ∧ t.mgr.lastMbx = f.val ∧ t.net = s.net))))

/-! ### Spans -/

/-- Ticks and holds between members: a frame of another formation is dropped; a member follows the lead's cut, announced
edge and pitch, and issues its edge at the announced time, or at the frame where that time is past; the lead keeps a hold until
its release, and a throttle of each field. The times between members are the model's reading (log entry 40). -/
def Obligations.SpanTicks : Prop :=
  ∀ (s : State) (g : BitVec 16) (src : Wafer) (tick : BitVec 48) (q a : Bool) (m : SbTick) (p : SbPitch) (fld : BitVec 7) (op : BitVec 3),
    let k := s.tick
    let follows (t : State) : Prop := t.tick.num = k.nextNum ∧ t.tick.any = true ∧ t.tick.per = k.perNext ∧ t.tick.st = .follow ∧
      t.tick.etime = none ∧ t.tick.lead = none ∧ t.out = s.out ++ [.spineEdge k.nextNum] ∧ t.net = s.net;
    s.wf = true → s.span.forming = none →
    (g ≠ s.span.sgen → exec (.sbTickCut g m) s = .next s ∧ exec (.sbTickEdge g m) s = .next s ∧ exec (.sbPitch g p) s = .next s ∧
      exec (.sbHold g src tick q) s = .next s ∧ exec (.sbThrot g src a fld op) s = .next s) ∧
    (g = s.span.sgen → s.span.st = .member → k.st = .follow →
      exec (.sbTickCut g m) s = .next { s with tick := { k with
        lead := some m, stbfLead := m.stbf, pred := s.localTime m.etime, perNext := clampPer m.per.toNat, lvl := m.lvl } } ∧
      (k.lead ≠ none → s.now ≤ s.localTime m.etime →
        exec (.sbTickEdge g m) s = .next { s with tick := { k with etime := some (s.localTime m.etime) } }) ∧
      (Quiet s → k.late = [] → s.span.leaving = false → s.now % 3 = 0 →
        (∀ e : Nat, k.etime = some e → e ≤ s.now → Completes .followEdge s follows) ∧
        (k.lead ≠ none → s.localTime m.etime < s.now → Completes (.sbTickEdge g m) s follows)) ∧
      (let f := p.func.val
       let c := s.followChoice p
       k.lead ≠ none → (s.fnAt f).job = true → (s.fnAt f).broken = false → (s.fnAt f).choice = none → c.replay = false →
         (s.plAt c.plid).st = .queued → Completes (.sbPitch g p) s (fun t =>
           (t.fnAt f).choice = some c ∧ (t.plAt c.plid).st = .running ∧
           t.net = s.net ++ ((s.fieldsOf f).filter (fun h => !(s.hubAt h).muz)).map (fun h =>
             .pitch h (s.hubAt h).epoch (t.pitchOf f c k.nextNum))))) ∧
    (g = s.span.sgen → s.span.st = .lead →
      (tick = k.nextNum → ¬ src.val ∈ s.span.holds → exec (.sbHold g src tick true) s =
        .next { s with span := { s.span with holds := s.span.holds ++ [src.val] } }) ∧
      (tick = k.nextNum → exec (.sbHold g src tick false) s =
        .next { s with span := { s.span with holds := s.span.holds.filter (fun w => w != src.val) },
                       tick := { k with lastHeel := some s.now } }) ∧
      Completes (.sbThrot g src true fld op) s (fun t =>
        t.span = { s.span with
          throt := s.span.throt.filter (fun t => !(t.1 == src.val && t.2.1 == fld)) ++ [(src.val, fld, op)] } ∧
        ∀ f ∈ s.jobs, (t.fnAt f).throt.noticed = true))

/-- Span barriers: a JOIN opens the lead's record, where its payload finds a buffer of the root, else NACK; a wafer's arrival
is counted, or joins the root's fold queue with its partial, and the last joined member's takes the record to DECIDING; a LEAVE
of the last member closes it; a member binds at the ACK and ends its PACK_SET at the NACK; SB_RELEASE releases a member's root.
The buffer of a span record, and the descriptor that a JOIN brings, are the model's reading (log entries 61, 85). -/
def Obligations.SpanBarriers : Prop :=
  ∀ (s : State) (g : BitVec 16) (a : SbArrive) (x : SbRelease) (src : Wafer) (f : Func) (bar : BarIx) (ep : Epoch) (gen : Byte)
    (pay : BitVec 32) (j : JoinWait) (c : Cmd) (cl : Nat) (n : Byte),
    let r := s.srecAt bar.toNat
    let b := bar.toNat
    s.wf = true → twf SpanRec.init s.span.recs = true → g = s.span.sgen →
    (s.span.st = .lead →
      (r.open_ = false → (pdLanes pay = 0 ∨ s.rootRoom f.val 1 = true) → Completes (.sbPackJoin g src f bar ⟨ep, pay⟩) s (fun t =>
        let u := t.srecAt b
        u.open_ = true ∧ u.wexp = 1 ∧ u.members = [(src.val, ep)] ∧ u.gen = r.gen ∧ u.pay = pay ∧
        t.net = s.net ++ [.sb (some src.val) (.packAck bar r.gen)])) ∧
      (r.open_ = false → pdLanes pay ≠ 0 → s.rootRoom f.val 1 = false → exec (.sbPackJoin g src f bar ⟨ep, pay⟩) s =
        .next (s.send (.sb (some src.val) (.packNack bar)))) ∧
      (r.members = [(src.val, ep)] → r.wexp = 1 → Completes (.sbPackLeave g src f bar) s (fun t =>
        (t.srecAt b).open_ = false ∧ (t.srecAt b).gen = r.gen ∧ t.net = s.net)) ∧
      (a.bar = bar → r.open_ = true → r.deciding = false → a.gen = r.gen → (a.src.val, a.pepoch) ∈ r.members →
        (∀ m ∈ r.members, m.1 = a.src.val → m.2 = a.pepoch) → ¬ a.src.val ∈ r.arrived → r.early = false →
        (pdLanes r.pay ≠ 0 → s.span.wid.toNat ≠ a.src.val → s.rfolds.length < 128 →
          exec (.sbArrive g a) s = .next { s with rfolds := s.rfolds ++ [⟨s.foldClass bar, .wafer a⟩] }) ∧
        (pdLanes r.pay = 0 → (∀ q ∈ s.rfolds, q.ofWafer b = false) → a.stat ≠ .timeout → a.stat ≠ .fenced →
        Completes (.sbArrive g a) s (fun t => (t.srecAt b).warr = r.warr + 1 ∧ (t.srecAt b).ncl = r.ncl + a.ncl ∧
          (t.srecAt b).arrived = r.arrived ++ [a.src.val] ∧ (t.srecAt b).deciding = decide (r.wexp = r.warr + 1) ∧
          (t.srecAt b).wstat = worseOf r.wstat (if a.pois then worseOf a.stat .poison else a.stat) ∧ t.net = s.net))) ∧
      (a.bar = bar → r.open_ = true → a.gen ≠ r.gen → (s.precAt b).st ≠ .free → b < 65520 →
        exec (.sbArrive g a) s = .next (s.updFn (s.precAt b).func.val (fun y => { y with stale := satInc y.stale })))) ∧
    (s.span.st = .member →
      (s.waitingJoin b = some (j, c) →
        Completes (.sbPackNack g bar) s (fun t => (t.precAt b).join = none ∧ (t.precAt b).st = (s.precAt b).st ∧
          Recorded s t j.ring c .noResource false 0) ∧
        (imgMembers j.img = [(cl, n)] → fieldOf cl < 84 → (s.updPrec b (fun r => { r with join := none })).packCheck (s.precAt b).func.val c.d.bits b [(cl, n)] = none →
          Completes (.sbPackAck g bar gen) s (fun t => (t.precAt b).gen = gen ∧ (t.precAt b).fexp = 1 ∧ (t.precAt b).join = none ∧
            (t.precAt b).scope = BitVec.ofNat 2 (dScope c.d.bits) ∧ (t.frecOf (fieldOf cl) b).gen = gen ∧
            Recorded s t j.ring c .ok false 0))) ∧
      (let p := s.precAt b
       x.rel.bar = bar → p.st ≠ .idle → p.st ≠ .free → p.gen = x.rel.gen → s.runOf (s.walkerOf b) = none → p.held = false →
         (∃ h ∈ mfsFields p.mfs, (s.frecOf h b).mem ≠ 0) → Completes (.sbRelease g x) s (fun t =>
           (t.precAt b).gen = p.gen + 1 ∧ (t.precAt b).st = (if p.auto then .armed else .gather) ∧
           t.net = s.net ++ (mfsFields p.mfs).map (fun h => .release h p.pepoch x.rel))))

/-- Other frames of a span: a broken job, a LEAVE, a reserved CODE, which has no effect (log entry 12); a retired master's note
to every hub; a relayed kennel request and its answer, and the notice of a leash that ran out; a member ready to replay; a
member's report. How a later end is told to the lead's root, and a leash's to its wafer, is the model's reading (log entries 8, 9). -/
def Obligations.SpanFrames : Prop :=
  ∀ (s : State) (g : BitVec 16) (src waf : Wafer) (f : Func) (code : BitVec 4) (m : Master) (rt : BitVec 12) (op : KOp) (q : KMsg)
    (r : KRsp) (y : Relay) (ep : BitVec 32) (n : BitVec 7) (k : SbKiln),
    let x := s.fnAt f.val
    s.wf = true → g = s.span.sgen →
    (2 < code.toNat → exec (.sbAbort g src f code waf) s = .next s) ∧
    (s.span.st = .member → Master.isFn r.master = false → ∀ d, exec (.sbKrsp g 0xFFF d r) s =
      .next (s.send (.whistle (Master.core r.master) (Master.epoch r.master) .leash r))) ∧
    (s.span.st = .member → x.job = true → x.broken = false → Completes (.sbAbort g src f 1 waf) s (fun t =>
      (t.fnAt f.val).broken = true ∧ bit t.span.evt.toNat 4 = true)) ∧
    (s.span.st = .member → s.span.relays = [y] → y.rtag = rt → rt ≠ 0xFFF →
      let e : KRsp := { r with master := y.master, tag := y.tag }
      (exec (.sbKrsp g rt false r) s = .next ({ s with span := { s.span with relays := [] } }.send (.kenRsp (Master.epoch y.master) e))) ∧
      (Master.isFn y.master = false → exec (.sbKrsp g rt true r) s = .next ({ s with span := { s.span with relays := [] } }.send
        (.whistle (Master.core y.master) (Master.epoch y.master) (causeOf y.op) { e with aux := 0 })))) ∧
    (s.span.st = .lead →
      (inMask s.span.reach src.val = true → exec (.sbAbort g src f 2 src) s =
        .next { s with span := { s.span with leavers := s.span.leavers ++ [src.val] } }) ∧
      (exec (.sbResetn g src m) s = .next (s.sendAll (s.hubsUp.map (fun h => .resetNote (some h)
        { kind := if Master.isFn m then .function else .core, newEp := Master.epoch m + 1, cls := 0, func := 0,
          shared := false, master := m })))) ∧
      (q.args.cls.toNat ≤ 1 → q.args.index.toNat < classRange q.args.cls.toNat → (s.kenAt (keyOf q)).kind ≠ .free →
        (s.kenAt (keyOf q)).func.val = f.val → (s.hubAt (homeHub (keyOf q))).muz = false →
        exec (.sbKreq g src f rt op q) s = .next
          ({ s with span := { s.span with relays := s.span.relays ++ [(⟨rt, q.master, q.tag, op, f⟩ : Relay)] } }.send
            (.kenReq (homeHub (keyOf q)) (s.hubAt (homeHub (keyOf q))).epoch op q))) ∧
      (x.job = true → x.cst = .suspect → ep = x.cep + 1 → ¬ src.val ∈ x.readyFrom → exec (.sbCmt g src f ep n) s =
        .next (s.updFn f.val (fun x => { x with readyFrom := x.readyFrom ++ [src.val] }))) ∧
      (exec (.sbKiln g k) s = .next { s with kiln := { s.kiln with
        reports := s.kiln.reports.filter (fun r => !(r.1.src == k.src && r.1.func == k.func)) ++ [(k, s.now)] } }))

/-- Formation: FORM turned away by its checks, or begun with a JOIN to every wafer; JOINs are kept; a formation whose
JOINs do not come in 10 ms ends SPAN_LOST; a SWITCH waits for its tick; CARRY sets the new lead's period and histories;
LEAVE tells the lead. What a formation needs of other wafers is the model's reading (log entry 62). -/
def Obligations.Formation : Prop :=
  ∀ (s : State) (img : List Byte) (links : List UpLink) (a b d : Bool) (src : Wafer) (g : BitVec 16) (m : FormSwitch) (c : FormCarry)
    (x : Forming),
    s.wf = true →
    (s.bru.step = 15 → s.span.go = true → s.span.op = 1 → s.span.forming = none →
      (∀ st, s.formCheck img links a b = some st → exec (.form img links a b d) s = .next (s.spanDone st)) ∧
      (s.formCheck img links a b = none → s.span.joins = [] → Completes (.form img links a b d) s (fun t =>
        t.net = s.net ++ [.sb none (.formJoin s.span.sgen)] ∧ t.span.go = true ∧ t.span.st = s.span.st ∧
        ∃ y : Forming, t.span.forming = some y ∧ y.self = formSelf img ∧ y.lead = formLead img ∧ y.mask = formMask img ∧
          y.joined = [formSelf img] ∧ y.sgenMax = s.span.sgen ∧ y.since = s.now ∧ y.switch = none))) ∧
    (s.span.forming = none → exec (.sbFormJoin src g) s = .next { s with span := { s.span with
      joins := s.span.joins.filter (fun j => j.1 != src.val) ++ [(src.val, g)] } }) ∧
    (s.span.forming = some x → ¬ src.val ∈ x.joined → exec (.sbFormJoin src g) s = .next { s with span := { s.span with
      forming := some { x with joined := x.joined ++ [src.val], sgenMax := if x.sgenMax.toNat < g.toNat then g else x.sgenMax } } }) ∧
    (s.span.forming = some x → x.allJoined = false → x.switch = none → x.since + 30000000 ≤ s.now →
      exec .formJoinTimeout s = .next { s with span := { s.span with forming := none, go := false, status := .spanLost } }) ∧
    (s.span.forming = some x → exec (.sbFormSwitch m) s =
      .next { s with span := { s.span with forming := some { x with switch := some m } } }) ∧
    (∀ e, s.span.st ≠ .none → c.entries = [e] → c.recs = [] → c.hist = [] → Completes (.sbFormCarry c) s (fun t =>
      t.tick = { s.tick with period := setBits s.tick.period 0 27 c.per.toNat, ctrl := setBits s.tick.ctrl 8 8 c.stbf.toNat } ∧
      t.span = { s.span with carryWait := false } ∧ t.kiln = s.kiln ∧ t.kenAt e.k = kentryOf e.word)) ∧
    (s.bru.step = 15 → s.span.go = true → s.span.op = 2 → s.span.leaving = false →
      (s.span.st = .none → exec .leave s = .next (s.spanDone .ok)) ∧
      (s.span.st = .lead → exec .leave s = .next { s with span := { s.span with leaving := true } }) ∧
      (s.span.st = .member → exec .leave s = .next ({ s with span := { s.span with leaving := true } }.send
        (.sb (some s.span.lead.toNat) (.abort 0 2 s.span.wid)))))

/-- Sideband links: NEL_UP starts HELLO; a link is up after 100 microseconds of both; a NAK counts a retry, and the
fifth of one frame, 8 microseconds of silence or NEL_UP's end puts the link down, with its event; LIVE after 1
microsecond without a frame; time stamps give the offset. The offset and what a port keeps are the model's reading (log
entries 40, 64). -/
def Sys2Proof.Machine.Says.SpanLinks : Prop :=
  ∀ (s : State) (port : PortIx) (ls : List UpLink) (id : BitVec 64) (w : Wafer) (g : BitVec 16) (l : BitVec 12) (t1 t2 t3 t4 : BitVec 64),
    let p := port.val
    let x := s.portAt p
    let down (t : State) : Prop := (t.portAt p).up = false ∧ (t.portAt p).downs = satInc x.downs ∧ t.span.links = ls ∧
      bit t.span.evt.toNat 1 = true ∧ ∃ m : LogMsg, t.net = s.net ++ [.log m] ∧ m.cls = 0x03;
    s.wf = true → twf Port.init s.span.ports = true →
    (x.nelUp = false → Completes (.nelUpAssert port) s (fun t => (t.portAt p).nelUp = true ∧ (t.portAt p).upAt = s.now ∧
      (t.portAt p).up = x.up ∧ t.net = s.net ++ [.sb none (.hello p s.span.ident s.span.wid s.span.sgen)])) ∧
    (Completes (.sbHello port id w g) s (fun t => (t.portAt p).peerId = id ∧ (t.portAt p).peer.toNat = w.val ∧
      (t.portAt p).peerSgen = g ∧ (t.portAt p).recvAt = s.now ∧ (x.helloAt = none → (t.portAt p).helloAt = some s.now) ∧ t.net = s.net)) ∧
    (∀ h : Nat, s.span.st = .none → x.nelUp = true → x.up = false → x.muz = false → x.helloAt = some h → h + 300000 ≤ s.now →
      x.upAt + 300000 ≤ s.now → Completes (.nelLinkUp port ls) s (fun t =>
        (t.portAt p).up = true ∧ (t.portAt p).fails = 0 ∧ t.span.links = ls ∧ t.net = s.net)) ∧
    (s.span.st = .none → x.up = true →
      Completes (.nelUpDeassert port ls) s (fun t => down t ∧ (t.portAt p).nelUp = false) ∧
      (x.recvAt + 24000 ≤ s.now → Completes (.sbLinkSilent port ls) s down) ∧
      (x.nakSeq = l → 4 ≤ x.fails → Completes (.sbNak port l ls) s down)) ∧
    (x.nakSeq = l → x.fails < 4 → exec (.sbNak port l ls) s = .next (s.updPort p (fun y =>
      { y with retry := satInc y.retry, nakSeq := l, fails := x.fails + 1, recvAt := s.now }))) ∧
    (exec (.sbFrameError port l true) s = .next (s.updPort p (fun y => { y with retry := satInc y.retry }))) ∧
    (Completes (.sbFrameError port l false) s (fun t => (t.portAt p).retry = satInc x.retry ∧
      ∃ m : LogMsg, t.net = s.net ++ [.sb none (.nak p (l + 1)), .log m] ∧ m.cls = 0x02)) ∧
    (exec (.sbLive port) s = .next (s.updPort p (fun y => { y with recvAt := s.now }))) ∧
    (x.up = true → x.sentAt + 3000 ≤ s.now → exec (.sbLiveSend port) s =
      .next ((s.updPort p (fun y => { y with sentAt := s.now })).send (.sb none (.live p)))) ∧
    (Completes .tsyncInterval s (fun t => t.net = s.net ++ ((List.range 16).filter (fun i => (s.portAt i).up)).map (fun i => .sb none (.tsync i)))) ∧
    (exec (.sbTsync port t1 t2 t3 t4) s = .next (s.updPort p (fun y => { y with
      off := (((t2.toNat : Int) - t1.toNat) + ((t3.toNat : Int) - t4.toNat)) / 2, recvAt := s.now })))

/-- Elections: an electing wafer floods its mask; a mask of the same formation adds to it and restarts the 10
microseconds; then a strict majority elects its lowest wafer, which leads with RUN set, under the next SGEN; a minority
leaves the span. The mask that is flooded is the model's reading (log entry 63). -/
def Sys2Proof.Machine.Says.Elections : Prop :=
  ∀ (s : State) (src : Wafer) (r fo : BitVec 32),
    let x := s.span
    let w := ((maskWs x.reach).head?).getD 0
    s.wf = true → x.st = .electing →
    (exec .electFlood s = .next (s.send (.sb none (.elect x.reach x.formed)))) ∧
    (fo ≠ x.formed → exec (.sbElect src r fo) s = .next s) ∧
    (fo = x.formed →
      let m := setBits ((x.reach ||| r) &&& x.formed) x.lead.toNat 1 0
      m ≠ x.reach → exec (.sbElect src r fo) s = .next { s with span := { x with reach := m, reachAt := s.now } }) ∧
    (s.now < x.reachAt + 30000 → exec .electStable s = .next s) ∧
    (x.reachAt + 30000 ≤ s.now → maskCount x.formed < 2 * maskCount x.reach → w = x.wid.toNat →
      maskOf ((spanTree x.reach w x.links).map Prod.fst) = x.reach →
      Completes .electStable s (fun t => t.span.st = .lead ∧ t.span.lead.toNat = w ∧ t.span.formed = x.reach ∧
        t.span.sgen = x.sgen + 1 ∧ t.tick.st = .running ∧ bit t.tick.ctrl.toNat 0 = true ∧ bit t.tick.ctrl.toNat 1 = false ∧ bit t.span.evt.toNat 3 = true)) ∧
    (x.reachAt + 30000 ≤ s.now → 2 * maskCount x.reach ≤ maskCount x.formed → Completes .electStable s (fun t =>
      t.span.st = .none ∧ t.span.wid = 0 ∧ t.tick.st = .stopped ∧ bit t.span.evt.toNat 2 = true))

/-! ### Bring-up, the cask store, firmware, registers -/

/-- What resets leave: a Varvo reset with no valid image stops in the mask-ROM loader and advances every litter epoch by
one, power good the same without an advance; both keep the cask records; the loss of always-on power leaves the cask
store alone; a power-good without a loss is holdup_ok; a Varvo reset that is not due does nothing. That a second
POWER_GOOD is holdup_ok, and one command a whole bring-up, is the model's reading (log entry 51). -/
def Sys2Proof.Machine.Says.ResetsAndBringUp : Prop :=
  ∀ (s : State) (b : BringUp),
    let after (t : State) (n : Epoch) : Prop := t.bru.step = 14 ∧ t.bru.fwver = 0 ∧ t.cask.recs = s.cask.recs ∧ t.net = [] ∧ t.ken = [] ∧
      t.pl = [] ∧ t.slot = [] ∧ t.ring = [] ∧ t.tick.st = .stopped ∧ t.pending = s.pending ∧
      (∀ h < 84, (t.hubAt h).epoch = (s.hubAt h).epoch + n) ∧ (∀ f < 64, (t.fnAt f).pepoch = (s.fnAt f).pepoch + n) ∧
      (∀ c : Cluster, (t.csnAt c.id).epoch = (s.csnAt c.id).epoch + n) ∧
      (∀ c : CoreRef, (t.coreAt c.id).epoch = (s.coreAt c.id).epoch + n);
    (s.err.resetDue = false → exec (.varvoReset b) s = .next s) ∧
    (s.err.resetDue = true → s.bru.step ≠ 14 → b.firmwareValid = false → Completes (.varvoReset b) s (fun t => after t 1)) ∧
    (s.bru.aonPg = true → exec (.powerGood b) s = .next { s with bru := { s.bru with holdup := true } }) ∧
    (s.bru.aonPg = false → b.firmwareValid = false → Completes (.powerGood b) s (fun t => after t 0)) ∧
    Completes .aonPgDeassert s (fun t => t.cask.recs = s.cask.recs ∧ t.cask.image = s.cask.image ∧ t.bru = Bru.init ∧ t.net = [] ∧
      t.csn = [] ∧ t.hub = [] ∧ t.fn = [] ∧ t.out = s.out ++ [.pwrcycReq false])

/-- The memory test: a result is noted; a failure puts the cluster into the defect map, with the next generation of the
distance table; the end of the test, or 657 s, fails the clusters without a result and loads the boot section. MAP_READ writes
the map. -/
def Sys2Proof.Machine.Says.MemoryTestAndMap : Prop :=
  ∀ (s : State) (c : Cluster), s.wf = true → s.bru.mtest = true →
    (¬ c.id ∈ s.bru.mtestSeen →
      exec (.mtestRes c true) s = .next { s with bru := { s.bru with mtestSeen := s.bru.mtestSeen ++ [c.id] } } ∧
      (twf (0 : BitVec 6) s.mesh.why = true → bit (tget (0 : BitVec 6) s.mesh.why c.id).toNat 5 = false →
        Completes (.mtestRes c false) s (fun t => t.mesh.gen = s.mesh.gen + 1 ∧ t.absent c.id = true))) ∧
    (Completes .mtestDone s (fun t => t.bru.mtest = false ∧ (∃ l, t.bru.load = some l ∧ l.func = none ∧ l.checking = true) ∧
      (twf (0 : BitVec 6) s.mesh.why = true → ∀ d : Cluster, s.inService d.id = true → ¬ d.id ∈ s.bru.mtestSeen →
        t.absent d.id = true))) ∧
    (s.bru.mtestAt + 1971000000000 ≤ s.now → Completes .mtestTimeout s (fun t => t.bru.mtest = false ∧
      ∀ d : Cluster, s.inService d.id = true → ¬ d.id ∈ s.bru.mtestSeen → twf (0 : BitVec 6) s.mesh.why = true → t.absent d.id = true)) ∧
    (s.bruRuns 6 = true → exec .mapRead s = .next ((s.emit (.hostImage 0 s.bru.addr s.mapImage)).bruDone .ok) ∧
      s.mapImage.length = 64576)

/-- Recipe commands: a valid image joins the writes that wait for the cask store, with the next SEQ, for the slot with the
lower SEQ; an invalid one is FENCED with its CERR; a clear joins them too; a read writes the slot in force. -/
def Obligations.RecipeCommands : Prop :=
  ∀ (s : State) (img : List Byte),
    (s.bruRuns 1 = true → s.bru.caskQ = [] →
      (recipeErr img ≠ 0 → exec (.recipeWrite img) s = .next (s.bruDone .fenced (recipeErr img))) ∧
      (recipeErr img = 0 → Completes (.recipeWrite img) s (fun t => t.bru.go = true ∧ ∃ (w : Bool) (r : RecipeSlot) (n : Nat),
        t.bru.caskQ = [.recipe w r n] ∧ r.seq = BitVec.ofNat 32 (Nat.max (slotSeq s.cask.rcp0) (slotSeq s.cask.rcp1) + 1) ∧
        w = decide (slotSeq s.cask.rcp1 < slotSeq s.cask.rcp0) ∧ (crc32 (r.img.drop 4)).toNat = rcpCrc r.img ∧
        r.img.length = img.length))) ∧
    (s.bruRuns 3 = true → s.bru.caskQ = [] → Completes .recipeClear s (fun t => t.bru.caskQ = [.recipeErase] ∧ t.cask = s.cask)) ∧
    (s.bruRuns 2 = true → ∀ r : RecipeSlot, s.bru.rcp = 1 → s.cask.rcp0 = some r →
      exec .recipeRead s = .next ((s.emit (.hostImage 0 s.bru.addr r.img)).bruDone .ok))

/-- Firmware: FW_STAGE holds a valid image, or is FENCED with its CERR; FW_COMMIT queues its units and the pointer; an
update by PLDM passes its states in order, asks for the next chunk, queues the commit at the last one, and ends with a
Varvo reset. The codes of PLDM are the model's (log entry 46). -/
def Obligations.FirmwareUpdate : Prop :=
  ∀ (s : State) (img : List Byte) (ok : Bool) (len : BitVec 32) (c : FwChunk),
    let x := s.bru
    let ans (n : Nat) : List Sig := [.pldm n, .ibi]
    (s.bruRuns 4 = true → x.stg = false → x.sess = .idle →
      exec (.fwStage img) s = .next (if fwErr img s.cask.ptr.minsvn = 0
        then { s with bru := { x with stage := img, stg := true, go := false, status := .ok, cerr := 0 } }
        else s.bruDone .fenced (fwErr img s.cask.ptr.minsvn))) ∧
    (s.bruRuns 5 = true → x.caskQ = [] →
      (x.stg = false → exec (.fwCommit ok) s = .next (s.bruDone .fenced 6)) ∧
      (x.stg = true → Completes (.fwCommit ok) s (fun t => t.bru.go = true ∧
        t.bru.caskQ = [.firmware (unitsOf x.stage.length + 1) ok] ∧ t.cask = s.cask))) ∧
    (x.sess = .idle → x.stg = false → Completes .requestUpdate s (fun t => t.bru.sess = .requested ∧ t.out = s.out ++ ans 0)) ∧
    (x.sess = .requested → Completes .passComponentTable s (fun t => t.bru.sess = .offered ∧ t.out = s.out ++ ans 0)) ∧
    (x.sess = .offered → Completes (.updateComponent len) s (fun t => t.bru.sess = .transfer ∧ t.bru.sessLen = len ∧
      t.bru.stage = [] ∧ t.out = s.out ++ ans 0 ++ ans (256 * pldmRequestData))) ∧
    (x.sess = .transfer → x.stg = false → c.offset.toNat = x.stage.length → c.data.length ≤ 1024 →
      (x.stage.length + c.data.length < x.sessLen.toNat → Completes (.firmwareData c) s (fun t =>
        t.bru.stage = x.stage ++ c.data ∧ t.bru.sess = .transfer ∧ t.out = s.out ++ ans (256 * pldmRequestData))) ∧
      (x.stage.length + c.data.length = x.sessLen.toNat → x.caskQ = [] →
        let e := fwErr (x.stage ++ c.data) s.cask.ptr.minsvn
        Completes (.firmwareData c) s (fun t => t.out = s.out ++ ans (256 * pldmTransferComplete) ++ ans (256 * pldmVerifyComplete + e) ∧
          (e = 0 → t.bru.stage = x.stage ++ c.data ∧ t.bru.stg = true ∧
            t.bru.caskQ = [.firmware (unitsOf (x.stage.length + c.data.length) + 1) true]) ∧
          (e ≠ 0 → t.bru.sess = .offered ∧ t.bru.stage = [] ∧ t.bru.caskQ = [])))) ∧
    (x.sess = .applied → Completes .activateFirmware s (fun t => t.bru.sess = .idle ∧ t.err.resetDue = true ∧ t.out = s.out ++ ans 0)) ∧
    (x.sess ≠ .idle → Completes .cancelUpdate s (fun t => t.bru.sess = .idle ∧ t.bru.stage = [] ∧ t.bru.stg = false ∧
      t.cask = s.cask ∧ t.out = s.out ++ ans 0))

/-- The cask store: a cask barrier whose epoch is committed queues its record; with hold-up energy the unit at the head
is written, and a record's barrier completes with CKPT its epoch; without, it is deferred, and after 100 ms its barrier
ends TIMEOUT; HOLDUP_LOSS ends the energy; ENTDAA gives the bus address. The units of a write are the model's choice
(log entry 47). -/
def Obligations.CaskStore : Prop :=
  ∀ (s : State) (f : Func) (k : CaskReq) (r : CaskRec) (c : Cmd) (q : List CaskJob) (a : BitVec 7),
    let x := s.fnAt f.val
    let done (t : State) (st : Status) : Prop :=
      Recorded s t k.ring c st false 0 ∧ (t.fnAt f.val).cask = none;
    s.wf = true → twf none s.cask.recs = true →
    (x.cask = some k → k.epoch.toNat ≤ x.cep.toNat → s.bru.caskQ = [] → Completes (.caskRecordWrite f) s (fun t =>
      ∃ u : CaskRec, t.bru.caskQ = [.record f u] ∧ u.cep = k.epoch ∧ u.job = k.job ∧ u.func = f ∧ t.cask = s.cask)) ∧
    (x.cask = some k → x.cep.toNat < k.epoch.toNat → exec (.caskRecordWrite f) s = .next s) ∧
    (s.bru.caskQ = .record f r :: q → x.cask = some k → k.epoch = r.cep → (s.ringAt k.ring).cmdAt k.sqi = some c → c.done = false →
      (s.holdupGood = true → Completes .caskUnitWrite s (fun t => done t .ok ∧ (t.fnAt f.val).ckpt = r.cep ∧ t.bru.caskQ = q ∧
        (∃ w : Bool, t.caskAt f.val w = some r) ∧ t.out = s.out ++ [.caskUnit (.record f r)])) ∧
      (100 ≤ s.bru.deferred → Completes .caskDefer s (fun t => done t .timeout ∧ (t.fnAt f.val).ckpt = x.ckpt ∧ t.bru.caskQ = q ∧
        t.cask = s.cask))) ∧
    (s.bru.caskQ ≠ [] → s.holdupGood = false →
      exec .caskUnitWrite s = .next { s with bru := { s.bru with deferred := s.bru.deferred + 1 } }) ∧
    (exec .holdupLoss s = .next { s with bru := { s.bru with holdup := false } }) ∧
    (Completes .holdupLoss s (fun t => t.holdupGood = false)) ∧
    (exec (.entdaa a) s = .next { s with bru := { s.bru with i3c := some a } })

/-- Register writes: narrow or misaligned ones are ignored, as are those of a VF to the wafer block, to another
function's set or to fields it may not write; a written field reads back; a command register is ignored while its GO
reads 1; event bits are cleared by 1; a ring's base is written in OFF alone, and counted against a function that does
not hold the ring. That a command register stands while GO reads 1 is the model's reading (log entry 21). -/
def Sys2Proof.Machine.Says.RegisterWrites : Prop :=
  ∀ (s : State) (f g : Func) (off : BitVec 20) (be : BitVec 4) (v : Reg) (r : RingIx), s.wf = true →
    let n := off.toNat
    let x := s.fnAt g.val
    ((be ≠ 0xF ∨ n % 4 ≠ 0) → exec (.regWrite f off be v) s = .next s) ∧
    (s.bru.step ≠ 15 → s.bru.step ≠ 14 → 0x40C ≤ n → exec (.regWrite f off be v) s = .next s) ∧
    (s.bru.step = 15 → be = 0xF →
      (f.val ≠ 0 → (n < 0x1000 ∨ (0x2000 ≤ n ∧ n < 0x6000) ∨ n = 0x1010 ∨ n = 0x1020) → exec (.regWrite f off be v) s = .next s) ∧
      (f.val = 0 →
        (n = 0x2000 + 0x100 * g.val + 0x10 → exec (.regWrite f off be v) s =
          .next (s.updFn g.val (fun x => { x with thr := (x.thr &&& ~~~0x00000FF3#32) ||| (v &&& 0x00000FF3#32) }))) ∧
        (n = 0x2000 + 0x100 * g.val + 0x34 → Completes (.regWrite f off be v) s (fun t => (t.fnAt g.val).cmtTol = v ∧
          (t.fnAt g.val).cmtTolF = x.cmtTolF)) ∧
        (n = 0x000 → exec (.regWrite f off be v) s = .next { s with tick := { s.tick with
          period := (s.tick.period &&& ~~~0x07FFFFFF#32) ||| (v &&& 0x07FFFFFF#32) } }) ∧
        (n = 0x108 → s.mgr.go = true → exec (.regWrite f off be v) s = .next s) ∧
        (n = 0x108 → s.mgr.go = false → Completes (.regWrite f off be v) s (fun t =>
          t.mgr.func.val = bits v.toNat 0 6 ∧ t.mgr.go = bit v.toNat 31 ∧ t.mgr.status = s.mgr.status)) ∧
        (n = 0x304 → exec (.regWrite f off be v) s =
          .next { s with err := { s.err with bits := s.err.bits &&& ~~~(BitVec.ofNat 6 v.toNat) } })) ∧
      (f.val ≠ 0 → n = 0x1034 → (s.fnAt f.val).frozen = false → Completes (.regWrite f off be v) s (fun t =>
        (t.fnAt f.val).cmtTol = v)) ∧
      (n = 0x10000 + 64 * r.val →
        (¬ r.val ∈ (s.fnAt f.val).rings → exec (.regWrite f off be v) s =
          .next (s.updFn f.val (fun x => { x with deny := satInc x.deny }))) ∧
        (r.val ∈ (s.fnAt f.val).rings → (s.ringAt r.val).st = .off → Completes (.regWrite f off be v) s (fun t =>
          (t.ringAt r.val).sqbLo = ((s.ringAt r.val).sqbLo &&& ~~~0xFFFFF000#32) ||| (v &&& 0xFFFFF000#32))) ∧
        (r.val ∈ (s.fnAt f.val).rings → (s.ringAt r.val).st ≠ .off → Completes (.regWrite f off be v) s (fun t =>
          t.ringAt r.val = s.ringAt r.val))))

/-- Register reads: a virtual function reads 0 in the wafer block and in the sets that PF0 sees; what a function writes into its
tolerances reads back; the two halves of the tick number read as one after the latch; VSF_MSH_STAT counts the mash units in
service (R440); a ring block that the function does not hold, and the doorbells, read 0. -/
def Sys2Proof.Machine.Says.RegisterReads : Prop :=
  ∀ (s : State) (f : Func) (v : Reg) (off : Nat) (r : RingIx), s.wf = true → s.bru.step = 15 →
    (f.val ≠ 0 → (off < 0x1000 ∨ (0x2000 ≤ off ∧ off < 0x6000)) → s.readWord f.val off = 0) ∧
    (f.val ≠ 0 → (s.fnAt f.val).frozen = false → Completes (.regWrite f 0x1034 0xF v) s (fun t =>
      t.readWord f.val 0x1034 = v.toNat)) ∧
    Completes .tickNowLatch s (fun t => ∃ d : Reg, t.out = s.out ++ [.regData d] ∧
      t.readWord 0 0x00C * 2 ^ 32 + d.toNat = s.tick.num.toNat) ∧
    (let m := s.readWord 0 0x0A0
     bits m 0 8 = popCount s.err.rootMash.toNat 32 ∧ (∀ h ∈ s.hubsUp, bits m 8 8 ≤ popCount (s.hubAt h).mash.toNat 8) ∧
     bits m 16 8 = (s.hubsUp.filter (fun h => decide (popCount (s.hubAt h).mash.toNat 8 < 8))).length) ∧
    (¬ r.val ∈ (s.fnAt f.val).rings → s.readWord f.val (0x10000 + 64 * r.val) = 0) ∧
    s.doorRead f.val (0x1000 * r.val) = 0

/-- The last check of a load with no cluster BAD ends it; the boot load of bring-up then takes STEP to 0xF, and a RUN of 1 from
the recipe starts the tick (R445); a BOOT_LOAD completes OK. -/
def Sys2Proof.Machine.Says.LoadEnds : Prop :=
  ∀ (s : State) (l : Load) (f : Nat), let p := s.precAt 65535
    s.wf = true → p.st = .deciding → p.scope ≠ 2 → p.wstat ≠ .fenced → p.masks = [] →
    (∀ h, (s.frecOf h 65535).mem = 0) → s.bru.load = some l →
    (l.func = none → s.bru.step = 8 → Completes (.barrierResultReady 65535) s (fun t => t.bru.step = 15 ∧ t.bru.load = none ∧
      (bit s.tick.ctrl.toNat 0 = true → t.tick.st = .running ∧ t.tick.pred = (s.now + 2) / 3 * 3 + 12000) ∧
      (bit s.tick.ctrl.toNat 0 = false → t.tick = s.tick))) ∧
    (l.func = some f → Completes (.barrierResultReady 65535) s (fun t => t.bru.go = false ∧ t.bru.status = .ok ∧
      t.bru.load = none ∧ t.tick = s.tick))

/-! ### Status codes, verdicts, the mash units -/

/-- R18 and R19: no status has a code above 0x0C; the code reported of two is one of them, and no other stands before it. -/
def Obligations.StatusCodes : Prop :=
  (∀ st : Status, (statusCode st).toNat ≤ 0x0C) ∧
  (∀ a b : Status, (worseOf a b = a ∨ worseOf a b = b) ∧ statusRank (worseOf a b) ≤ statusRank a ∧
    statusRank (worseOf a b) ≤ statusRank b ∧ worseOf a b = worseOf b a)

/-- R212: a cluster's verdict is SUSPECT exactly when NBAD is not 0, NANR is set, LOST is set or NTILE is below TMIN. -/
def Obligations.ClusterVerdict : Prop :=
  ∀ (s : State) (cl : Nat), let c := s.csnAt cl
    (s.verdictOf cl).sus = true ↔ (c.nbad ≠ 0 ∨ c.nanr = true ∨ c.lost = true ∨ c.ntile.toNat < s.tminOf cl)

namespace Sys2Proof.Machine

/-- A partial that a tree of folds makes of some contributed payloads, in whatever order and grouping. -/
inductive Folds (d : BitVec 32) : List (List Byte) → Partial → Prop
  | leaf (p : List Byte) : Folds d [p] (leafPartial d p false)
  | node (ps qs : List (List Byte)) (a b : Partial) : Folds d ps a → Folds d qs b → Folds d (ps ++ qs) (foldPartial d a b)

end Sys2Proof.Machine

/-- The result bytes and the lane flags depend on the descriptor, the key and the multiset of payloads alone: not on the order
of the folds, nor on which unit folded what. -/
def Obligations.MashOrderIndependence : Prop :=
  ∀ (d : BitVec 32) (key : BitVec 64) (ps qs : List (List Byte)) (a b : Partial),
    0 < pdLanes d → pdReserved d = false → pdOutside d = false → ps.Perm qs → Folds d ps a → Folds d qs b →
    resultOf d key a ps.length false = resultOf d key b qs.length false

/-- R154: an I32 SUM is exact and then clamped to its range, a U64 SUM to 2^64 - 1; a clamped lane sets OVF, and no lane of
either sets another flag. No integer result, of whatever operation, sets INX or UNF. -/
def Obligations.IntegerSums : Prop :=
  (∀ (d : BitVec 32) (key : BitVec 64) (ps : List (List Byte)) (a : Partial) (i : Nat) (l : Lane),
    Folds d ps a → pdOp d = 0 → a.lanes[i]? = some l →
    (pdFmt d = 9 →
      let v : Int := (ps.map (fun p => (BitVec.ofNat 32 (elemAt 9 p i)).toInt)).sum
      l.acc = v ∧ laneRes d key i l = ⟨(BitVec.ofInt 32 (max (-2 ^ 31) (min (2 ^ 31 - 1) v))).toNat,
        if v < -2 ^ 31 ∨ 2 ^ 31 - 1 < v then fOVF else 0⟩) ∧
    (pdFmt d = 10 →
      let v : Nat := (ps.map (fun p => elemAt 10 p i)).sum
      l.acc = (v : Int) ∧ laneRes d key i l = ⟨min v (2 ^ 64 - 1), if 2 ^ 64 - 1 < v then fOVF else 0⟩)) ∧
  (∀ (d : BitVec 32) (key : BitVec 64) (i : Nat) (l : Lane), (pdFmt d = 9 ∨ pdFmt d = 10 ∨ pdOp d = 7) →
    bit (laneRes d key i l).flags 0 = false ∧ bit (laneRes d key i l).flags 2 = false)

/-! ### Statements in several parts -/

/-- Writes of registers, and what reads of them return. -/
def Obligations.RegisterAccess : Prop := Says.RegisterWrites ∧ Says.RegisterReads

/-- Semaphores and token pools: takes, gives, sets, reads, and the wait that a signal ends. -/
def Obligations.SemaphoresAndPools : Prop := Says.TakeWhenEnough ∧ Says.TakeWithoutWaiting ∧ Says.GiveSetAndRead ∧ Says.SignalServesHeadWaiter

/-- A free lock acquired, and the owner's operations on it. -/
def Obligations.LocksHeld : Prop := Says.LockAcquireFree ∧ Says.LockOwnerOperations

/-- How queued requests and leashes end: by a withdrawal, by a deadline. -/
def Obligations.KennelWaitsEnd : Prop := Says.WithdrawEndsQueuedRequest ∧ Says.KennelExpiries

/-- A kennel request from its port, and at the root for SPAN scope. -/
def Obligations.KennelRequests : Prop := Says.KennelIssueSendsRequest ∧ Says.ReservedKennelEncodingEnds ∧ Says.SpanRequestAtRoot

/-- The end of a kennel request at its core; a stale one is counted. -/
def Obligations.KennelReplies : Prop := Says.KennelResultReachesCore ∧ Says.StaleReplyIsCounted

/-- A barrier entry begins and ends; naming the wrong entry ends with any status. -/
def Obligations.BarrierEntries : Prop := Says.BarrierInitAndFree ∧ Says.BarrierMisnamedEnds

/-- What a core reads and writes at its port. -/
def Obligations.CorePortRegisters : Prop := Says.PortReads ∧ Says.WhistleCauseWrite ∧ Says.StoreCounts

/-- Merged reads, residual records, droop events at a CSN. -/
def Obligations.ClusterMemoryTraffic : Prop := Says.BroadcastReads ∧ Says.ResidualsAndDroop

/-- The tick generator of a wafer in no span. -/
def Obligations.TickGenerator : Prop := Says.TickRun ∧ Says.TickCycle

/-- A barrier at the root. -/
def Obligations.RootBarriers : Prop := Says.RootGathering ∧ Says.RootReleases

/-- A release at its hubs and at its CSNs. -/
def Obligations.ReleaseWaves : Prop := Says.HubReleaseWaves ∧ Says.ReleaseAtCsn

/-- A ring's doorbells and its control. -/
def Obligations.RingsAndDoorbells : Prop := Says.Doorbells ∧ Says.RingControl

/-- Broadcast loading and its repair. -/
def Obligations.BroadcastLoading : Prop := Says.LoadPackets ∧ Says.RepairAndBootLoad ∧ Says.LoadEnds

/-- Resets, bring-up, the memory test and the defect map. -/
def Obligations.BringUpSteps : Prop := Says.ResetsAndBringUp ∧ Says.MemoryTestAndMap

/-- Resets of cores and partitions. -/
def Obligations.Resets : Prop := Says.CoreResets ∧ Says.PartitionResets

/-- The error registers, disagreeing sequencers, reports, scrubbing. -/
def Obligations.ErrorHandling : Prop := Says.ErrorCommands ∧ Says.HubsThatDisagree ∧ Says.LogsAndScrubbing

/-- The commands of VSF_VFN_CMD. -/
def Obligations.ManagerCommands : Prop := Says.ManagerGrants ∧ Says.Partitions ∧ Says.ManagerServices

/-- The links between members, and elections. -/
def Obligations.SpanLinksAndElections : Prop := Says.SpanLinks ∧ Says.Elections

/-- The operating point of a field, and the kiln's forces on it. -/
def Obligations.FieldPower : Prop := Says.OperatingPoint ∧ Says.KilnForces
end

