-- ==== Sys2Proof/Laws/Tables.lean ====
section
/-! SUPPORT. The sparse tables: reading after writing, and that every table operation keeps the canonical form. -/

namespace Sys2Proof.Machine

open Sys2Proof

variable {α : Type}

/-! ### Keys and the canonical form -/

/-- Every key of the table is greater than k. -/
def Above (k : Nat) (t : Tbl α) : Prop := ∀ p ∈ t, k < p.1

theorem Above.nil {k : Nat} : Above k ([] : Tbl α) := by intro p h; cases h

theorem Above.mono {k l : Nat} {t : Tbl α} (h : Above l t) (hk : k ≤ l) : Above k t :=
  fun p hp => Nat.lt_of_le_of_lt hk (h p hp)

theorem Above.cons {k l : Nat} {v : α} {t : Tbl α} (h : k < l) (ht : Above k t) : Above k ((l, v) :: t) := by
  intro p hp
  rcases List.mem_cons.1 hp with rfl | hp
  · exact h
  · exact ht p hp

variable [DecidableEq α] {d : α}

theorem twf_cons_iff {k : Nat} {v : α} {t : Tbl α} :
    twf d ((k, v) :: t) = true ↔ v ≠ d ∧ Above k t ∧ twf d t = true := by
  induction t generalizing k v with
  | nil => simp [twf, Above]
  | cons p t ih =>
    obtain ⟨l, w⟩ := p
    simp only [twf, Bool.and_eq_true, bne_iff_ne, ne_eq, decide_eq_true_eq]
    constructor
    · rintro ⟨⟨hv, hk⟩, h⟩
      obtain ⟨-, ha, -⟩ := ih.1 h
      exact ⟨hv, Above.cons hk (ha.mono hk.le), h⟩
    · rintro ⟨hv, ha, h⟩
      exact ⟨⟨hv, ha (l, w) (List.mem_cons_self)⟩, h⟩

theorem tdel_above {k l : Nat} {t : Tbl α} (h : Above l t) : Above l (tdel t k) := by
  induction t with
  | nil => exact h
  | cons p t ih =>
    obtain ⟨m, w⟩ := p
    have ht : Above l t := fun q hq => h q (List.mem_cons_of_mem _ hq)
    simp only [tdel]
    split
    · exact ht
    · exact Above.cons (h (m, w) List.mem_cons_self) (ih ht)

theorem tins_above {k l : Nat} {v : α} {t : Tbl α} (h : Above l t) (hk : l < k) : Above l (tins t k v) := by
  induction t with
  | nil => exact Above.cons hk Above.nil
  | cons p t ih =>
    obtain ⟨m, w⟩ := p
    have ht : Above l t := fun q hq => h q (List.mem_cons_of_mem _ hq)
    have hm : l < m := h (m, w) List.mem_cons_self
    simp only [tins]
    split
    · exact Above.cons hk (Above.cons hm ht)
    · split
      · exact Above.cons hk ht
      · exact Above.cons hm (ih ht)

theorem tdel_wf {k : Nat} {t : Tbl α} (h : twf d t = true) : twf d (tdel t k) = true := by
  induction t with
  | nil => exact h
  | cons p t ih =>
    obtain ⟨m, w⟩ := p
    obtain ⟨hw, ha, ht⟩ := twf_cons_iff.1 h
    simp only [tdel]
    split
    · exact ht
    · exact twf_cons_iff.2 ⟨hw, tdel_above ha, ih ht⟩

theorem tins_wf {k : Nat} {v : α} {t : Tbl α} (hv : v ≠ d) (h : twf d t = true) : twf d (tins t k v) = true := by
  induction t with
  | nil => simp [tins, twf, hv]
  | cons p t ih =>
    obtain ⟨m, w⟩ := p
    obtain ⟨hw, ha, ht⟩ := twf_cons_iff.1 h
    simp only [tins]
    split
    next hk => exact twf_cons_iff.2 ⟨hv, Above.cons hk (ha.mono hk.le), h⟩
    next hk =>
      split
      next hm => subst hm; exact twf_cons_iff.2 ⟨hv, ha, ht⟩
      next hm => exact twf_cons_iff.2 ⟨hw, tins_above ha (by omega), ih ht⟩

/-- Writing a table keeps its canonical form. -/
theorem tset_wf {k : Nat} {v : α} {t : Tbl α} (h : twf d t = true) : twf d (tset d t k v) = true := by
  unfold tset
  split
  · exact tdel_wf h
  · next hv => exact tins_wf hv h

theorem tupd_wf {k : Nat} {g : α → α} {t : Tbl α} (h : twf d t = true) : twf d (tupd d t k g) = true := tset_wf h

theorem tmapv_above {l : Nat} {g : Nat → α → α} {t : Tbl α} (h : Above l t) : Above l (tmapv d g t) := by
  intro p hp
  obtain ⟨q, hq, he⟩ := List.mem_filterMap.1 hp
  dsimp only at he
  split at he
  · cases he
  · cases he; exact h q hq

/-- Rewriting every entry keeps the canonical form. -/
theorem tmapv_wf {g : Nat → α → α} {t : Tbl α} (h : twf d t = true) : twf d (tmapv d g t) = true := by
  induction t with
  | nil => rfl
  | cons p t ih =>
    obtain ⟨m, w⟩ := p
    obtain ⟨-, ha, ht⟩ := twf_cons_iff.1 h
    by_cases hg : g m w = d
    · have he : tmapv d g ((m, w) :: t) = tmapv d g t := by simp [tmapv, hg]
      rw [he]; exact ih ht
    · have he : tmapv d g ((m, w) :: t) = (m, g m w) :: tmapv d g t := by simp [tmapv, hg]
      rw [he]; exact twf_cons_iff.2 ⟨hg, tmapv_above ha, ih ht⟩

theorem fill_wf {g : Nat → α} (l : List Nat) (hl : l.Pairwise (· < ·)) :
    twf d (l.filterMap (fun (i : Nat) => if g i = d then none else some (i, g i))) = true := by
  induction l with
  | nil => rfl
  | cons i l ih =>
    obtain ⟨ha, hl⟩ := List.pairwise_cons.1 hl
    by_cases hg : g i = d
    · simpa [List.filterMap_cons, hg] using ih hl
    · simp only [List.filterMap_cons, hg, if_false]
      refine twf_cons_iff.2 ⟨hg, ?_, ih hl⟩
      intro p hp
      obtain ⟨j, hj, he⟩ := List.mem_filterMap.1 hp
      split at he
      · cases he
      · cases he; exact ha j hj

/-- A table filled from a function is canonical. -/
theorem tabulate_wf {n : Nat} {g : Nat → α} : twf d (tabulate d n g) = true := fill_wf _ List.pairwise_lt_range

/-! ### Reading after writing -/

theorem tget_above {k : Nat} {t : Tbl α} (h : Above k t) : tget d t k = d := by
  induction t with
  | nil => rfl
  | cons p t ih =>
    obtain ⟨m, w⟩ := p
    have hm : k < m := h (m, w) List.mem_cons_self
    simp only [tget, if_neg (Nat.ne_of_gt hm)]
    exact ih (fun q hq => h q (List.mem_cons_of_mem _ hq))

theorem tget_tins_same {k : Nat} {v : α} {t : Tbl α} : tget d (tins t k v) k = v := by
  induction t with
  | nil => simp [tins, tget]
  | cons p t ih =>
    obtain ⟨m, w⟩ := p
    simp only [tins]
    split
    · simp [tget]
    · split
      · simp [tget]
      · next hm => simp [tget, hm, ih]

theorem tget_tins_other {k l : Nat} {v : α} {t : Tbl α} (h : l ≠ k) : tget d (tins t k v) l = tget d t l := by
  induction t with
  | nil => simp [tins, tget, Ne.symm h]
  | cons p t ih =>
    obtain ⟨m, w⟩ := p
    simp only [tins]
    split
    · simp [tget, Ne.symm h]
    · split
      · next hm => subst hm; simp [tget, Ne.symm h]
      · simp [tget, ih]

theorem tget_tdel_same {k : Nat} {t : Tbl α} (h : twf d t = true) : tget d (tdel t k) k = d := by
  induction t with
  | nil => rfl
  | cons p t ih =>
    obtain ⟨m, w⟩ := p
    obtain ⟨-, ha, ht⟩ := twf_cons_iff.1 h
    simp only [tdel]
    split
    · next hm => subst hm; exact tget_above ha
    · next hm => simp [tget, hm, ih ht]

theorem tget_tdel_other {k l : Nat} {t : Tbl α} (h : l ≠ k) : tget d (tdel t k) l = tget d t l := by
  induction t with
  | nil => rfl
  | cons p t ih =>
    obtain ⟨m, w⟩ := p
    simp only [tdel]
    split
    · next hm => subst hm; simp [tget, Ne.symm h]
    · simp [tget, ih]

/-- A read after a write of the same key of a canonical table gives the value written. -/
theorem tget_tset_same {k : Nat} {v : α} {t : Tbl α} (h : twf d t = true) : tget d (tset d t k v) k = v := by
  unfold tset
  split
  · next hv => rw [hv]; exact tget_tdel_same h
  · exact tget_tins_same

/-- A write leaves every other key alone. -/
@[simp] theorem tget_tset_other {k l : Nat} {v : α} {t : Tbl α} (h : l ≠ k) : tget d (tset d t k v) l = tget d t l := by
  unfold tset
  split
  · exact tget_tdel_other h
  · exact tget_tins_other h

/-- Writing a value other than the default is read back from any table. -/
theorem tget_tset_ne {k : Nat} {v : α} {t : Tbl α} (h : v ≠ d) : tget d (tset d t k v) k = v := by
  unfold tset
  rw [if_neg h]
  exact tget_tins_same

end Sys2Proof.Machine
end

