-- ==== Sys2Proof/Laws/Keeps.lean ====
section
/-! SUPPORT. What every operation of the model keeps: `Keeps s t` says that t has the queue of waiting commands that s has,
and that t's unit tables are canonical wherever s's are. Here the relation, its rules of combination and the primitive
updates; the operations of each unit follow in the files Keeps*. -/

namespace Sys2Proof.Machine

open Sys2Proof

/-- t keeps the queue of s, and the canonical form of the unit tables. -/
structure Keeps (s t : State) : Prop where
  queue : t.pending = s.pending
  canon : s.wf = true → t.wf = true

/-- The same of the next state of an outcome, if there is one. -/
structure KeepsOut (s : State) (o : Out) : Prop where
  next : ∀ t, o = .next t → Keeps s t

/-- The same of a state that may be absent. -/
structure KeepsOpt (s : State) (o : Option State) : Prop where
  some : ∀ t, o = .some t → Keeps s t

/-- The same of a state beside a value. -/
structure KeepsFst {α : Type} (s : State) (p : State × α) : Prop where
  fst : Keeps s p.1

/-! ### Rules of combination -/

theorem Keeps.refl (s : State) : Keeps s s := ⟨rfl, id⟩

theorem Keeps.trans {s t u : State} (h : Keeps s t) (k : Keeps t u) : Keeps s u :=
  ⟨k.queue.trans h.queue, k.canon ∘ h.canon⟩

theorem KeepsOut.of_next {s t : State} (h : Keeps s t) : KeepsOut s (.next t) := ⟨fun _ e => by cases e; exact h⟩
theorem KeepsOpt.of_some {s t : State} (h : Keeps s t) : KeepsOpt s (.some t) := ⟨fun _ e => by cases e; exact h⟩
theorem KeepsOpt.of_none {s : State} : KeepsOpt s .none := ⟨fun _ e => by cases e⟩
theorem KeepsOpt.of_eq {s t : State} {o : Option State} (h : KeepsOpt s o) (e : o = .some t) : Keeps s t := h.some t e

section Pairs
variable {α : Type} {s t : State} {p q : State × α} {a : α}

theorem KeepsFst.of_eq (h : KeepsFst s p) (e : p = (t, a)) : Keeps s t := by subst e; exact h.fst
theorem KeepsFst.mk_iff : KeepsFst s (t, a) ↔ Keeps s t := ⟨fun h => h.fst, fun h => ⟨h⟩⟩
theorem KeepsFst.fst_iff : Keeps s p.1 ↔ KeepsFst s p := ⟨fun h => ⟨h⟩, fun h => h.fst⟩
theorem KeepsFst.ite {c : Prop} [Decidable c] (h : KeepsFst s p) (k : KeepsFst s q) :
    KeepsFst s (if c then p else q) := by split <;> assumption
theorem KeepsFst.cut {x : State × α} {P : Prop} (h : KeepsFst s x) (k : KeepsFst s x → P) : P := k h

end Pairs

theorem Keeps.ite {s t u : State} {c : Prop} [Decidable c] (h : Keeps s t) (k : Keeps s u) :
    Keeps s (if c then t else u) := by split <;> assumption

/-- A named intermediate state is kept first, what follows after. -/
theorem Keeps.cut {s x : State} {P : Prop} (h : Keeps s x) (k : Keeps s x → P) : P := k h

/-- An update of fields that are neither the queue nor a unit table. -/
theorem Keeps.leaf {s t : State} {a1 a2 a4 a5 a12 a13 a14 a16 a20 a21 a22 a23 a24 a25} :
    Keeps s (State.mk a1 a2 t.pending a4 a5 t.csn t.core t.hub t.ken t.frec t.prec a12 a13 a14 t.fn a16 t.pl t.slot t.ring
      a20 a21 a22 a23 a24 a25) ↔ Keeps s t := by
  constructor <;> exact fun h => ⟨h.queue, h.canon⟩

theorem forAll_keeps {α : Type} {s₀ s : State} {l : List α} {g : State → α → State} (h : Keeps s₀ s)
    (hg : ∀ t x, Keeps s₀ t → Keeps s₀ (g t x)) : Keeps s₀ (forAll l g s) := by
  unfold forAll
  induction l generalizing s with
  | nil => exact h
  | cons x l ih => exact ih (hg s x h)

/-! ### The unit tables -/

/-- The ten tables of the canonical form. -/
theorem State.wf_iff {s : State} : s.wf = true ↔
    twf Csn.init s.csn = true ∧ twf Core.init s.core = true ∧ twf Hub.init s.hub = true ∧ twf KEntry.init s.ken = true ∧
    twf FieldRec.init s.frec = true ∧ twf RootRec.init s.prec = true ∧ twf Fn.init s.fn = true ∧
    twf PitchList.init s.pl = true ∧ twf Slot.init s.slot = true ∧ twf Ring.init s.ring = true := by
  simp only [State.wf, Bool.and_eq_true, and_assoc]

section Units
variable {s₀ s : State} {k : Nat}

theorem State.setCsn_keeps {v} (h : Keeps s₀ s) : Keeps s₀ (s.setCsn k v) :=
  h.trans ⟨rfl, fun w => by
    obtain ⟨h0, h1, h2, h3, h4, h5, h6, h7, h8, h9⟩ := State.wf_iff.1 w
    exact State.wf_iff.2 ⟨tset_wf h0, h1, h2, h3, h4, h5, h6, h7, h8, h9⟩⟩
theorem State.updCsn_keeps {g} (h : Keeps s₀ s) : Keeps s₀ (s.updCsn k g) := State.setCsn_keeps h

theorem State.setCore_keeps {v} (h : Keeps s₀ s) : Keeps s₀ (s.setCore k v) :=
  h.trans ⟨rfl, fun w => by
    obtain ⟨h0, h1, h2, h3, h4, h5, h6, h7, h8, h9⟩ := State.wf_iff.1 w
    exact State.wf_iff.2 ⟨h0, tset_wf h1, h2, h3, h4, h5, h6, h7, h8, h9⟩⟩
theorem State.updCore_keeps {g} (h : Keeps s₀ s) : Keeps s₀ (s.updCore k g) := State.setCore_keeps h

theorem State.setHub_keeps {v} (h : Keeps s₀ s) : Keeps s₀ (s.setHub k v) :=
  h.trans ⟨rfl, fun w => by
    obtain ⟨h0, h1, h2, h3, h4, h5, h6, h7, h8, h9⟩ := State.wf_iff.1 w
    exact State.wf_iff.2 ⟨h0, h1, tset_wf h2, h3, h4, h5, h6, h7, h8, h9⟩⟩
theorem State.updHub_keeps {g} (h : Keeps s₀ s) : Keeps s₀ (s.updHub k g) := State.setHub_keeps h

theorem State.setKen_keeps {v} (h : Keeps s₀ s) : Keeps s₀ (s.setKen k v) :=
  h.trans ⟨rfl, fun w => by
    obtain ⟨h0, h1, h2, h3, h4, h5, h6, h7, h8, h9⟩ := State.wf_iff.1 w
    exact State.wf_iff.2 ⟨h0, h1, h2, tset_wf h3, h4, h5, h6, h7, h8, h9⟩⟩
theorem State.updKen_keeps {g} (h : Keeps s₀ s) : Keeps s₀ (s.updKen k g) := State.setKen_keeps h

theorem State.setFrec_keeps {v} (h : Keeps s₀ s) : Keeps s₀ (s.setFrec k v) :=
  h.trans ⟨rfl, fun w => by
    obtain ⟨h0, h1, h2, h3, h4, h5, h6, h7, h8, h9⟩ := State.wf_iff.1 w
    exact State.wf_iff.2 ⟨h0, h1, h2, h3, tset_wf h4, h5, h6, h7, h8, h9⟩⟩
theorem State.updFrec_keeps {g} (h : Keeps s₀ s) : Keeps s₀ (s.updFrec k g) := State.setFrec_keeps h

theorem State.setPrec_keeps {v} (h : Keeps s₀ s) : Keeps s₀ (s.setPrec k v) :=
  h.trans ⟨rfl, fun w => by
    obtain ⟨h0, h1, h2, h3, h4, h5, h6, h7, h8, h9⟩ := State.wf_iff.1 w
    exact State.wf_iff.2 ⟨h0, h1, h2, h3, h4, tset_wf h5, h6, h7, h8, h9⟩⟩
theorem State.updPrec_keeps {g} (h : Keeps s₀ s) : Keeps s₀ (s.updPrec k g) := State.setPrec_keeps h

theorem State.setFn_keeps {v} (h : Keeps s₀ s) : Keeps s₀ (s.setFn k v) :=
  h.trans ⟨rfl, fun w => by
    obtain ⟨h0, h1, h2, h3, h4, h5, h6, h7, h8, h9⟩ := State.wf_iff.1 w
    exact State.wf_iff.2 ⟨h0, h1, h2, h3, h4, h5, tset_wf h6, h7, h8, h9⟩⟩
theorem State.updFn_keeps {g} (h : Keeps s₀ s) : Keeps s₀ (s.updFn k g) := State.setFn_keeps h

theorem State.setPl_keeps {v} (h : Keeps s₀ s) : Keeps s₀ (s.setPl k v) :=
  h.trans ⟨rfl, fun w => by
    obtain ⟨h0, h1, h2, h3, h4, h5, h6, h7, h8, h9⟩ := State.wf_iff.1 w
    exact State.wf_iff.2 ⟨h0, h1, h2, h3, h4, h5, h6, tset_wf h7, h8, h9⟩⟩
theorem State.updPl_keeps {g} (h : Keeps s₀ s) : Keeps s₀ (s.updPl k g) := State.setPl_keeps h

theorem State.setSlot_keeps {v} (h : Keeps s₀ s) : Keeps s₀ (s.setSlot k v) :=
  h.trans ⟨rfl, fun w => by
    obtain ⟨h0, h1, h2, h3, h4, h5, h6, h7, h8, h9⟩ := State.wf_iff.1 w
    exact State.wf_iff.2 ⟨h0, h1, h2, h3, h4, h5, h6, h7, tset_wf h8, h9⟩⟩
theorem State.updSlot_keeps {g} (h : Keeps s₀ s) : Keeps s₀ (s.updSlot k g) := State.setSlot_keeps h

theorem State.setRing_keeps {v} (h : Keeps s₀ s) : Keeps s₀ (s.setRing k v) :=
  h.trans ⟨rfl, fun w => by
    obtain ⟨h0, h1, h2, h3, h4, h5, h6, h7, h8, h9⟩ := State.wf_iff.1 w
    exact State.wf_iff.2 ⟨h0, h1, h2, h3, h4, h5, h6, h7, h8, tset_wf h9⟩⟩
theorem State.updRing_keeps {g} (h : Keeps s₀ s) : Keeps s₀ (s.updRing k g) := State.setRing_keeps h

/-- A table written whole. -/
theorem Keeps.csn {l} (h : twf Csn.init s.csn = true → twf Csn.init l = true) : Keeps s { s with csn := l } :=
  ⟨rfl, fun w => by obtain ⟨h0, hr⟩ := State.wf_iff.1 w; exact State.wf_iff.2 ⟨h h0, hr⟩⟩
theorem Keeps.core {l} (h : twf Core.init s.core = true → twf Core.init l = true) : Keeps s { s with core := l } :=
  ⟨rfl, fun w => by obtain ⟨h0, h1, hr⟩ := State.wf_iff.1 w; exact State.wf_iff.2 ⟨h0, h h1, hr⟩⟩
theorem Keeps.hub {l} (h : twf Hub.init s.hub = true → twf Hub.init l = true) : Keeps s { s with hub := l } :=
  ⟨rfl, fun w => by obtain ⟨h0, h1, h2, hr⟩ := State.wf_iff.1 w; exact State.wf_iff.2 ⟨h0, h1, h h2, hr⟩⟩
theorem Keeps.ken {l} (h : twf KEntry.init s.ken = true → twf KEntry.init l = true) : Keeps s { s with ken := l } :=
  ⟨rfl, fun w => by obtain ⟨h0, h1, h2, h3, hr⟩ := State.wf_iff.1 w; exact State.wf_iff.2 ⟨h0, h1, h2, h h3, hr⟩⟩
theorem Keeps.frec {l} (h : twf FieldRec.init s.frec = true → twf FieldRec.init l = true) : Keeps s { s with frec := l } :=
  ⟨rfl, fun w => by obtain ⟨h0, h1, h2, h3, h4, hr⟩ := State.wf_iff.1 w; exact State.wf_iff.2 ⟨h0, h1, h2, h3, h h4, hr⟩⟩
theorem Keeps.fn {l} (h : twf Fn.init s.fn = true → twf Fn.init l = true) : Keeps s { s with fn := l } :=
  ⟨rfl, fun w => by
    obtain ⟨h0, h1, h2, h3, h4, h5, h6, hr⟩ := State.wf_iff.1 w
    exact State.wf_iff.2 ⟨h0, h1, h2, h3, h4, h5, h h6, hr⟩⟩
theorem Keeps.ring {l} (h : twf Ring.init s.ring = true → twf Ring.init l = true) : Keeps s { s with ring := l } :=
  ⟨rfl, fun w => by
    obtain ⟨h0, h1, h2, h3, h4, h5, h6, h7, h8, h9⟩ := State.wf_iff.1 w
    exact State.wf_iff.2 ⟨h0, h1, h2, h3, h4, h5, h6, h7, h8, h h9⟩⟩

theorem State.mapCore_keeps {g} (h : Keeps s₀ s) : Keeps s₀ (s.mapCore g) := h.trans (Keeps.core tmapv_wf)
theorem State.mapFrec_keeps {g} (h : Keeps s₀ s) : Keeps s₀ (s.mapFrec g) := h.trans (Keeps.frec tmapv_wf)
theorem State.mapHub_keeps {g} (h : Keeps s₀ s) : Keeps s₀ (s.mapHub g) := h.trans (Keeps.hub tmapv_wf)
theorem State.mapKen_keeps {g} (h : Keeps s₀ s) : Keeps s₀ (s.mapKen g) := h.trans (Keeps.ken tmapv_wf)
theorem State.mapRing_keeps {g} (h : Keeps s₀ s) : Keeps s₀ (s.mapRing g) := h.trans (Keeps.ring tmapv_wf)
theorem State.mapFn_keeps {g} (h : Keeps s₀ s) : Keeps s₀ (s.mapFn g) := h.trans (Keeps.fn tmapv_wf)
theorem State.tabHub_keeps {n g} (h : Keeps s₀ s) : Keeps s₀ (s.tabHub n g) := by
  unfold State.tabHub; exact h.trans (Keeps.hub fun _ => tabulate_wf)
theorem State.tabCsn_keeps {n g} (h : Keeps s₀ s) : Keeps s₀ (s.tabCsn n g) := by
  unfold State.tabCsn; exact h.trans (Keeps.csn fun _ => tabulate_wf)

/-- A restart of the Varvo: the tables it fills are canonical, the others empty. -/
theorem State.restart_wf {a b} : (s.restart a b).wf = true := by
  unfold State.restart
  simp only [State.wf_iff, tabulate_wf, true_and]
  exact ⟨rfl, rfl, rfl, rfl, rfl, rfl⟩
theorem State.restart_keeps {a b} (h : Keeps s₀ s) : Keeps s₀ (s.restart a b) := h.trans ⟨rfl, fun _ => State.restart_wf⟩
theorem State.aonLost_keeps (h : Keeps s₀ s) : Keeps s₀ s.aonLost :=
  h.trans ⟨rfl, fun _ => State.wf_iff.2 ⟨rfl, rfl, rfl, rfl, rfl, rfl, rfl, rfl, rfl, rfl⟩⟩

end Units

end Sys2Proof.Machine
end

