-- ==== Sys2Proof/Laws/KeepsKennel.lean ====
section
/-! SUPPORT. What every operation keeps (`Keeps`): the shared operations, the kennel, the CSNs and the mesh. -/

namespace Sys2Proof.Machine

open Sys2Proof

theorem State.updKf_keeps {s₀ s : State} {a1 a2} (h : Keeps s₀ s) : Keeps s₀ (State.updKf s a1 a2) := by
  unfold State.updKf
  repeat' first
    | with_reducible assumption
    | intro _
    | with_reducible apply h2
    | with_reducible apply Keeps.ite
    | simp -zeta only [Keeps.leaf]

theorem State.updPort_keeps {s₀ s : State} {a1 a2} (h : Keeps s₀ s) : Keeps s₀ (State.updPort s a1 a2) := by
  unfold State.updPort
  repeat' first
    | with_reducible assumption
    | intro _
    | with_reducible apply h2
    | with_reducible apply Keeps.ite
    | simp -zeta only [Keeps.leaf]

theorem State.updSrec_keeps {s₀ s : State} {a1 a2} (h : Keeps s₀ s) : Keeps s₀ (State.updSrec s a1 a2) := by
  unfold State.updSrec
  repeat' first
    | with_reducible assumption
    | intro _
    | with_reducible apply h2
    | with_reducible apply Keeps.ite
    | simp -zeta only [Keeps.leaf]

theorem State.updLink_keeps {s₀ s : State} {a1 a2} (h : Keeps s₀ s) : Keeps s₀ (State.updLink s a1 a2) := by
  unfold State.updLink
  repeat' first
    | with_reducible assumption
    | intro _
    | with_reducible apply h2
    | with_reducible apply Keeps.ite
    | simp -zeta only [Keeps.leaf]

theorem State.drawn_keeps {s₀ s : State} (h : Keeps s₀ s) : Keeps s₀ (State.drawn s) := by
  unfold State.drawn
  repeat' first
    | with_reducible assumption
    | intro _
    | with_reducible apply Keeps.ite
    | simp -zeta only [Keeps.leaf]

theorem State.send_keeps {s₀ s : State} {a1} (h : Keeps s₀ s) : Keeps s₀ (State.send s a1) := by
  unfold State.send
  repeat' first
    | with_reducible assumption
    | intro _
    | with_reducible apply Keeps.ite
    | simp -zeta only [Keeps.leaf]

theorem State.sendAll_keeps {s₀ s : State} {a1} (h : Keeps s₀ s) : Keeps s₀ (State.sendAll s a1) := by
  unfold State.sendAll
  repeat' first
    | with_reducible assumption
    | intro _
    | with_reducible apply Keeps.ite
    | simp -zeta only [Keeps.leaf]

theorem State.taken_keeps {s₀ s : State} {a1} (h : Keeps s₀ s) : Keeps s₀ (State.taken s a1) := by
  unfold State.taken
  repeat' first
    | with_reducible assumption
    | intro _
    | with_reducible apply Keeps.ite
    | simp -zeta only [Keeps.leaf]

theorem State.emit_keeps {s₀ s : State} {a1} (h : Keeps s₀ s) : Keeps s₀ (State.emit s a1) := by
  unfold State.emit
  repeat' first
    | with_reducible assumption
    | intro _
    | with_reducible apply Keeps.ite
    | simp -zeta only [Keeps.leaf]

theorem State.emitAll_keeps {s₀ s : State} {a1} (h : Keeps s₀ s) : Keeps s₀ (State.emitAll s a1) := by
  unfold State.emitAll
  repeat' first
    | with_reducible assumption
    | intro _
    | with_reducible apply Keeps.ite
    | simp -zeta only [Keeps.leaf]

theorem State.report_keeps {s₀ s : State} {a1 a2 a3 a4 a5 a6 a7} (h : Keeps s₀ s) : Keeps s₀ (State.report s a1 a2 a3 a4 a5 a6 a7) := by
  unfold State.report
  repeat' first
    | with_reducible assumption
    | intro _
    | with_reducible apply State.send_keeps
    | with_reducible apply State.drawn_keeps

theorem State.stopMsg_keeps {s₀ s : State} {a1} (h : Keeps s₀ s) : Keeps s₀ (State.stopMsg s a1) := by
  unfold State.stopMsg
  repeat' first
    | with_reducible assumption
    | intro _
    | with_reducible apply State.updLink_keeps
    | with_reducible apply State.taken_keeps
    | with_reducible apply Keeps.ite
    | simp -zeta only [Keeps.leaf]
    | split

theorem State.armKen_keeps {s₀ s : State} {a1 a2} (h : Keeps s₀ s) : KeepsFst s₀ (State.armKen s a1 a2) := by
  unfold State.armKen
  repeat' first
    | with_reducible assumption
    | intro _
    | with_reducible apply State.updHub_keeps
    | with_reducible apply KeepsFst.ite
    | with_reducible apply KeepsFst.mk
    | with_reducible apply Keeps.ite
    | simp -zeta only [Keeps.leaf]
    | split

theorem State.disarm_keeps {s₀ s : State} {a1 a2 a3} (h : Keeps s₀ s) : Keeps s₀ (State.disarm s a1 a2 a3) := by
  unfold State.disarm
  repeat' first
    | with_reducible assumption
    | intro _
    | with_reducible apply State.updHub_keeps
    | with_reducible apply Keeps.ite
    | simp -zeta only [Keeps.leaf]
    | split

theorem State.refuseKen_keeps {s₀ s : State} {a1 a2 a3 a4} (h : Keeps s₀ s) : Keeps s₀ (State.refuseKen s a1 a2 a3 a4) := by
  unfold State.refuseKen
  repeat' first
    | with_reducible assumption
    | intro _
    | with_reducible apply State.send_keeps

theorem State.kenAnswer_keeps {s₀ s : State} {a1 a2 a3 a4 a5 a6 a7} (h : Keeps s₀ s) : Keeps s₀ (State.kenAnswer s a1 a2 a3 a4 a5 a6 a7) := by
  unfold State.kenAnswer
  repeat' first
    | with_reducible assumption
    | intro _
    | with_reducible apply State.send_keeps

theorem State.anyAnswer_keeps {s₀ s : State} {a1 a2} (h : Keeps s₀ s) : Keeps s₀ (State.anyAnswer s a1 a2) := by
  unfold State.anyAnswer
  repeat' first
    | with_reducible assumption
    | intro _
    | with_reducible apply State.kenAnswer_keeps
    | with_reducible apply State.drawn_keeps

theorem State.sendEnd_keeps {s₀ s : State} {a1 a2 a3 a4 a5} (h : Keeps s₀ s) : Keeps s₀ (State.sendEnd s a1 a2 a3 a4 a5) := by
  unfold State.sendEnd
  repeat' first
    | with_reducible assumption
    | intro _
    | with_reducible apply State.send_keeps
    | with_reducible apply Keeps.ite

theorem State.dropWaiter_keeps {s₀ s : State} {a1 a2} (h : Keeps s₀ s) : Keeps s₀ (State.dropWaiter s a1 a2) := by
  unfold State.dropWaiter
  repeat' first
    | with_reducible assumption
    | intro _
    | with_reducible apply State.updKen_keeps
    | with_reducible apply State.disarm_keeps

theorem State.endWaiter_keeps {s₀ s : State} {a1 a2 a3 a4} (h : Keeps s₀ s) : Keeps s₀ (State.endWaiter s a1 a2 a3 a4) := by
  unfold State.endWaiter
  repeat' first
    | with_reducible assumption
    | intro _
    | with_reducible apply State.dropWaiter_keeps
    | with_reducible apply State.sendEnd_keeps

theorem State.queueKen_keeps {s₀ s : State} {a1 a2 a3} (h : Keeps s₀ s) : Keeps s₀ (State.queueKen s a1 a2 a3) := by
  unfold State.queueKen
  repeat' first
    | with_reducible assumption
    | intro _
    | with_reducible apply State.kenAnswer_keeps
    | with_reducible apply State.armKen_keeps
    | with_reducible apply State.updKen_keeps
    | simp -zeta only [KeepsFst.fst_iff]
    | (refine KeepsFst.of_eq ?_ (by assumption))
    | with_reducible apply KeepsFst.ite
    | with_reducible apply Keeps.ite
    | simp -zeta only [Keeps.leaf]
    | split
    | simp -zeta only [KeepsFst.mk_iff]

theorem serveUnits_keeps {s₀ s : State} {a0 a1} (h : Keeps s₀ s) : Keeps s₀ (serveUnits a0 a1 s) := by
  induction a1 generalizing s with
  | zero =>
    unfold serveUnits
    repeat' first
      | with_reducible assumption
  | succ n ih =>
    unfold serveUnits
    repeat' first
      | with_reducible apply ih
      | with_reducible assumption
      | intro _
      | with_reducible apply State.endWaiter_keeps
      | with_reducible apply State.updKen_keeps
      | with_reducible apply Keeps.ite
      | simp -zeta only [Keeps.leaf]
      | (extract_lets +onlyGivenNames x; clear_value x)
      | split

theorem State.serve_keeps {s₀ s : State} {a1} (h : Keeps s₀ s) : Keeps s₀ (State.serve s a1) := by
  unfold State.serve
  repeat' first
    | with_reducible assumption
    | intro _
    | with_reducible apply serveUnits_keeps

theorem State.armLeash_keeps {s₀ s : State} {a1 a2} (h : Keeps s₀ s) : Keeps s₀ (State.armLeash s a1 a2) := by
  unfold State.armLeash
  repeat' first
    | with_reducible assumption
    | intro _
    | with_reducible apply State.updKen_keeps
    | with_reducible apply State.armKen_keeps
    | simp -zeta only [KeepsFst.fst_iff]
    | (refine KeepsFst.of_eq ?_ (by assumption))
    | with_reducible apply KeepsFst.ite
    | with_reducible apply Keeps.ite

theorem State.grantLock_keeps {s₀ s : State} {a1 a2 a3 a4} (h : Keeps s₀ s) : Keeps s₀ (State.grantLock s a1 a2 a3 a4) := by
  unfold State.grantLock
  repeat' first
    | with_reducible assumption
    | intro _
    | with_reducible apply State.armLeash_keeps
    | with_reducible apply State.updKen_keeps

theorem serveLock_keeps {s₀ s : State} {a0 a1} (h : Keeps s₀ s) : Keeps s₀ (serveLock a0 a1 s) := by
  induction a1 generalizing s with
  | zero =>
    unfold serveLock
    repeat' first
      | with_reducible assumption
  | succ n ih =>
    unfold serveLock
    repeat' first
      | with_reducible apply ih
      | with_reducible assumption
      | intro _
      | with_reducible apply State.endWaiter_keeps
      | with_reducible apply State.disarm_keeps
      | with_reducible apply State.grantLock_keeps
      | with_reducible apply State.dropWaiter_keeps
      | with_reducible apply State.sendEnd_keeps
      | with_reducible apply Keeps.ite
      | simp -zeta only [Keeps.leaf]
      | (extract_lets +onlyGivenNames x; clear_value x)
      | split

theorem State.releaseLock_keeps {s₀ s : State} {a1} (h : Keeps s₀ s) : Keeps s₀ (State.releaseLock s a1) := by
  unfold State.releaseLock
  repeat' first
    | with_reducible assumption
    | intro _
    | with_reducible apply State.disarm_keeps
    | with_reducible apply State.updKen_keeps
    | with_reducible apply serveLock_keeps

theorem State.abandonLock_keeps {s₀ s : State} {a1} (h : Keeps s₀ s) : Keeps s₀ (State.abandonLock s a1) := by
  unfold State.abandonLock
  repeat' first
    | with_reducible assumption
    | intro _
    | with_reducible apply State.releaseLock_keeps
    | with_reducible apply State.updKen_keeps

theorem State.homeDo_keeps {s₀ s : State} {a1 a2 a3 a4 a5} (h : Keeps s₀ s) (h5 : ∀ x0 x1 x2 x3, Keeps s₀ x1 → Keeps s₀ (a5 x0 x1 x2 x3)) : Keeps s₀ (State.homeDo s a1 a2 a3 a4 a5) := by
  unfold State.homeDo
  repeat' first
    | with_reducible assumption
    | intro _
    | with_reducible apply State.refuseKen_keeps
    | with_reducible apply h5
    | with_reducible apply Keeps.ite
    | simp -zeta only [Keeps.leaf]
    | (extract_lets +onlyGivenNames x; clear_value x)
    | split

theorem atHome_keeps {s₀ s : State} {a1 a2 a3 a4 a5 a6} (h : Keeps s₀ s) (h6 : ∀ x0 x1 x2 x3, Keeps s₀ x1 → Keeps s₀ (a6 x0 x1 x2 x3)) : KeepsOut s₀ (atHome s a1 a2 a3 a4 a5 a6) := by
  unfold atHome
  repeat' first
    | with_reducible assumption
    | intro _
    | with_reducible apply State.stopMsg_keeps
    | with_reducible apply State.homeDo_keeps
    | with_reducible apply State.taken_keeps
    | with_reducible apply State.anyAnswer_keeps
    | with_reducible apply h6
    | with_reducible apply KeepsOut.of_next
    | with_reducible apply Keeps.ite

theorem atomicAct_keeps {s₀ s : State} {a0 a1 a2 a3 a4 a6 a7} (h : Keeps s₀ s) : Keeps s₀ (atomicAct a0 a1 a2 a3 a4 s a6 a7) := by
  unfold atomicAct
  repeat' first
    | with_reducible assumption
    | intro _
    | with_reducible apply State.kenAnswer_keeps
    | with_reducible apply State.updKen_keeps

theorem execLoad_keeps {s₀ s : State} {a0 a1 a2} (h : Keeps s₀ s) : KeepsOut s₀ (execLoad a0 a1 a2 s) := by
  unfold execLoad
  repeat' first
    | with_reducible assumption
    | intro _
    | with_reducible apply atHome_keeps
    | with_reducible apply atomicAct_keeps

theorem execStore_keeps {s₀ s : State} {a0 a1 a2} (h : Keeps s₀ s) : KeepsOut s₀ (execStore a0 a1 a2 s) := by
  unfold execStore
  repeat' first
    | with_reducible assumption
    | intro _
    | with_reducible apply atHome_keeps
    | with_reducible apply atomicAct_keeps

theorem execSwap_keeps {s₀ s : State} {a0 a1 a2} (h : Keeps s₀ s) : KeepsOut s₀ (execSwap a0 a1 a2 s) := by
  unfold execSwap
  repeat' first
    | with_reducible assumption
    | intro _
    | with_reducible apply atHome_keeps
    | with_reducible apply atomicAct_keeps

theorem execCas_keeps {s₀ s : State} {a0 a1 a2} (h : Keeps s₀ s) : KeepsOut s₀ (execCas a0 a1 a2 s) := by
  unfold execCas
  repeat' first
    | with_reducible assumption
    | intro _
    | with_reducible apply atHome_keeps
    | with_reducible apply atomicAct_keeps

theorem execAdd_keeps {s₀ s : State} {a0 a1 a2} (h : Keeps s₀ s) : KeepsOut s₀ (execAdd a0 a1 a2 s) := by
  unfold execAdd
  repeat' first
    | with_reducible assumption
    | intro _
    | with_reducible apply atHome_keeps
    | with_reducible apply atomicAct_keeps

theorem execAnd_keeps {s₀ s : State} {a0 a1 a2} (h : Keeps s₀ s) : KeepsOut s₀ (execAnd a0 a1 a2 s) := by
  unfold execAnd
  repeat' first
    | with_reducible assumption
    | intro _
    | with_reducible apply atHome_keeps
    | with_reducible apply atomicAct_keeps

theorem execOr_keeps {s₀ s : State} {a0 a1 a2} (h : Keeps s₀ s) : KeepsOut s₀ (execOr a0 a1 a2 s) := by
  unfold execOr
  repeat' first
    | with_reducible assumption
    | intro _
    | with_reducible apply atHome_keeps
    | with_reducible apply atomicAct_keeps

theorem execXor_keeps {s₀ s : State} {a0 a1 a2} (h : Keeps s₀ s) : KeepsOut s₀ (execXor a0 a1 a2 s) := by
  unfold execXor
  repeat' first
    | with_reducible assumption
    | intro _
    | with_reducible apply atHome_keeps
    | with_reducible apply atomicAct_keeps

theorem execUmax_keeps {s₀ s : State} {a0 a1 a2} (h : Keeps s₀ s) : KeepsOut s₀ (execUmax a0 a1 a2 s) := by
  unfold execUmax
  repeat' first
    | with_reducible assumption
    | intro _
    | with_reducible apply atHome_keeps
    | with_reducible apply atomicAct_keeps

theorem execUmin_keeps {s₀ s : State} {a0 a1 a2} (h : Keeps s₀ s) : KeepsOut s₀ (execUmin a0 a1 a2 s) := by
  unfold execUmin
  repeat' first
    | with_reducible assumption
    | intro _
    | with_reducible apply atHome_keeps
    | with_reducible apply atomicAct_keeps

theorem execSmax_keeps {s₀ s : State} {a0 a1 a2} (h : Keeps s₀ s) : KeepsOut s₀ (execSmax a0 a1 a2 s) := by
  unfold execSmax
  repeat' first
    | with_reducible assumption
    | intro _
    | with_reducible apply atHome_keeps
    | with_reducible apply atomicAct_keeps

theorem execSmin_keeps {s₀ s : State} {a0 a1 a2} (h : Keeps s₀ s) : KeepsOut s₀ (execSmin a0 a1 a2 s) := by
  unfold execSmin
  repeat' first
    | with_reducible assumption
    | intro _
    | with_reducible apply atHome_keeps
    | with_reducible apply atomicAct_keeps

theorem takeAct_keeps {s₀ s : State} {a0 a1 a2 a4 a5} (h : Keeps s₀ s) : Keeps s₀ (takeAct a0 a1 a2 s a4 a5) := by
  unfold takeAct
  repeat' first
    | with_reducible assumption
    | intro _
    | with_reducible apply State.kenAnswer_keeps
    | with_reducible apply State.updKen_keeps
    | with_reducible apply State.queueKen_keeps
    | with_reducible apply Keeps.ite

theorem giveAct_keeps {s₀ s : State} {a0 a1 a3 a4} (h : Keeps s₀ s) : Keeps s₀ (giveAct a0 a1 s a3 a4) := by
  unfold giveAct
  repeat' first
    | with_reducible assumption
    | intro _
    | with_reducible apply State.serve_keeps
    | with_reducible apply State.updKen_keeps
    | with_reducible apply State.kenAnswer_keeps

theorem setAct_keeps {s₀ s : State} {a0 a1 a3 a4} (h : Keeps s₀ s) : Keeps s₀ (setAct a0 a1 s a3 a4) := by
  unfold setAct
  repeat' first
    | with_reducible assumption
    | intro _
    | with_reducible apply State.serve_keeps
    | with_reducible apply State.updKen_keeps
    | with_reducible apply State.kenAnswer_keeps

theorem readAct_keeps {s₀ s : State} {a0 a1 a3 a4} (h : Keeps s₀ s) : Keeps s₀ (readAct a0 a1 s a3 a4) := by
  unfold readAct
  repeat' first
    | with_reducible assumption
    | intro _
    | with_reducible apply State.kenAnswer_keeps

theorem execSemWait_keeps {s₀ s : State} {a0 a1 a2} (h : Keeps s₀ s) : KeepsOut s₀ (execSemWait a0 a1 a2 s) := by
  unfold execSemWait
  repeat' first
    | with_reducible assumption
    | intro _
    | with_reducible apply atHome_keeps
    | with_reducible apply takeAct_keeps

theorem execSemSignal_keeps {s₀ s : State} {a0 a1 a2} (h : Keeps s₀ s) : KeepsOut s₀ (execSemSignal a0 a1 a2 s) := by
  unfold execSemSignal
  repeat' first
    | with_reducible assumption
    | intro _
    | with_reducible apply atHome_keeps
    | with_reducible apply giveAct_keeps

theorem execSemSet_keeps {s₀ s : State} {a0 a1 a2} (h : Keeps s₀ s) : KeepsOut s₀ (execSemSet a0 a1 a2 s) := by
  unfold execSemSet
  repeat' first
    | with_reducible assumption
    | intro _
    | with_reducible apply atHome_keeps
    | with_reducible apply setAct_keeps

theorem execSemRead_keeps {s₀ s : State} {a0 a1 a2} (h : Keeps s₀ s) : KeepsOut s₀ (execSemRead a0 a1 a2 s) := by
  unfold execSemRead
  repeat' first
    | with_reducible assumption
    | intro _
    | with_reducible apply atHome_keeps
    | with_reducible apply readAct_keeps

theorem execTokTake_keeps {s₀ s : State} {a0 a1 a2} (h : Keeps s₀ s) : KeepsOut s₀ (execTokTake a0 a1 a2 s) := by
  unfold execTokTake
  repeat' first
    | with_reducible assumption
    | intro _
    | with_reducible apply atHome_keeps
    | with_reducible apply State.anyAnswer_keeps
    | with_reducible apply takeAct_keeps
    | with_reducible apply KeepsOut.of_next
    | with_reducible apply Keeps.ite

theorem execTokReturn_keeps {s₀ s : State} {a0 a1 a2} (h : Keeps s₀ s) : KeepsOut s₀ (execTokReturn a0 a1 a2 s) := by
  unfold execTokReturn
  repeat' first
    | with_reducible assumption
    | intro _
    | with_reducible apply atHome_keeps
    | with_reducible apply giveAct_keeps

theorem execTokSet_keeps {s₀ s : State} {a0 a1 a2} (h : Keeps s₀ s) : KeepsOut s₀ (execTokSet a0 a1 a2 s) := by
  unfold execTokSet
  repeat' first
    | with_reducible assumption
    | intro _
    | with_reducible apply atHome_keeps
    | with_reducible apply setAct_keeps

theorem execTokRead_keeps {s₀ s : State} {a0 a1 a2} (h : Keeps s₀ s) : KeepsOut s₀ (execTokRead a0 a1 a2 s) := by
  unfold execTokRead
  repeat' first
    | with_reducible assumption
    | intro _
    | with_reducible apply atHome_keeps
    | with_reducible apply readAct_keeps

theorem State.countNown_keeps {s₀ s : State} {a1 a2} (h : Keeps s₀ s) : Keeps s₀ (State.countNown s a1 a2) := by
  unfold State.countNown
  repeat' first
    | with_reducible assumption
    | intro _
    | with_reducible apply State.updFn_keeps
    | with_reducible apply Keeps.ite

theorem acqAct_keeps {s₀ s : State} {a0 a2 a3} (h : Keeps s₀ s) : Keeps s₀ (acqAct a0 s a2 a3) := by
  unfold acqAct
  repeat' first
    | with_reducible assumption
    | intro _
    | with_reducible apply State.kenAnswer_keeps
    | with_reducible apply State.grantLock_keeps
    | with_reducible apply State.queueKen_keeps
    | with_reducible apply Keeps.ite

theorem State.lockAnswer_keeps {s₀ s : State} {a1 a2 a3 a4} (h : Keeps s₀ s) : Keeps s₀ (State.lockAnswer s a1 a2 a3 a4) := by
  unfold State.lockAnswer
  repeat' first
    | with_reducible assumption
    | intro _
    | with_reducible apply State.kenAnswer_keeps

theorem relAct_keeps {s₀ s : State} {a0 a2 a3} (h : Keeps s₀ s) : Keeps s₀ (relAct a0 s a2 a3) := by
  unfold relAct
  repeat' first
    | with_reducible assumption
    | intro _
    | with_reducible apply State.updKen_keeps
    | with_reducible apply State.lockAnswer_keeps
    | with_reducible apply State.releaseLock_keeps
    | with_reducible apply State.countNown_keeps
    | with_reducible apply Keeps.ite

theorem confirmAct_keeps {s₀ s : State} {a0 a2 a3} (h : Keeps s₀ s) : Keeps s₀ (confirmAct a0 s a2 a3) := by
  unfold confirmAct
  repeat' first
    | with_reducible assumption
    | intro _
    | with_reducible apply State.lockAnswer_keeps
    | with_reducible apply State.updKen_keeps
    | with_reducible apply Keeps.ite

theorem cancelAct_keeps {s₀ s : State} {a0 a2 a3} (h : Keeps s₀ s) : Keeps s₀ (cancelAct a0 s a2 a3) := by
  unfold cancelAct
  repeat' first
    | with_reducible assumption
    | intro _
    | with_reducible apply State.lockAnswer_keeps
    | with_reducible apply State.releaseLock_keeps
    | with_reducible apply State.updKen_keeps
    | with_reducible apply State.countNown_keeps
    | with_reducible apply Keeps.ite

theorem renewAct_keeps {s₀ s : State} {a0 a2 a3} (h : Keeps s₀ s) : Keeps s₀ (renewAct a0 s a2 a3) := by
  unfold renewAct
  repeat' first
    | with_reducible assumption
    | intro _
    | with_reducible apply State.disarm_keeps
    | with_reducible apply State.lockAnswer_keeps
    | with_reducible apply State.armLeash_keeps
    | with_reducible apply Keeps.ite

theorem execLockAcq_keeps {s₀ s : State} {a0 a1 a2} (h : Keeps s₀ s) : KeepsOut s₀ (execLockAcq a0 a1 a2 s) := by
  unfold execLockAcq
  repeat' first
    | with_reducible assumption
    | intro _
    | with_reducible apply atHome_keeps
    | with_reducible apply acqAct_keeps

theorem execLockRel_keeps {s₀ s : State} {a0 a1 a2} (h : Keeps s₀ s) : KeepsOut s₀ (execLockRel a0 a1 a2 s) := by
  unfold execLockRel
  repeat' first
    | with_reducible assumption
    | intro _
    | with_reducible apply atHome_keeps
    | with_reducible apply relAct_keeps

theorem execLockConfirm_keeps {s₀ s : State} {a0 a1 a2} (h : Keeps s₀ s) : KeepsOut s₀ (execLockConfirm a0 a1 a2 s) := by
  unfold execLockConfirm
  repeat' first
    | with_reducible assumption
    | intro _
    | with_reducible apply atHome_keeps
    | with_reducible apply confirmAct_keeps

theorem execLockCancel_keeps {s₀ s : State} {a0 a1 a2} (h : Keeps s₀ s) : KeepsOut s₀ (execLockCancel a0 a1 a2 s) := by
  unfold execLockCancel
  repeat' first
    | with_reducible assumption
    | intro _
    | with_reducible apply atHome_keeps
    | with_reducible apply cancelAct_keeps

theorem execLockRenew_keeps {s₀ s : State} {a0 a1 a2} (h : Keeps s₀ s) : KeepsOut s₀ (execLockRenew a0 a1 a2 s) := by
  unfold execLockRenew
  repeat' first
    | with_reducible assumption
    | intro _
    | with_reducible apply atHome_keeps
    | with_reducible apply renewAct_keeps

theorem execLockRead_keeps {s₀ s : State} {a0 a1 a2} (h : Keeps s₀ s) : KeepsOut s₀ (execLockRead a0 a1 a2 s) := by
  unfold execLockRead
  repeat' first
    | with_reducible assumption
    | intro _
    | with_reducible apply atHome_keeps
    | with_reducible apply State.kenAnswer_keeps

theorem State.reserve_keeps {s₀ s : State} {a1} (h : Keeps s₀ s) : Keeps s₀ (State.reserve s a1) := by
  unfold State.reserve
  repeat' first
    | with_reducible assumption
    | intro _
    | with_reducible apply State.serve_keeps
    | with_reducible apply Keeps.ite
    | simp -zeta only [Keeps.leaf]
    | split

theorem withdrawAct_keeps {s₀ s : State} {a0 a2 a3} (h : Keeps s₀ s) : Keeps s₀ (withdrawAct a0 s a2 a3) := by
  unfold withdrawAct
  repeat' first
    | with_reducible assumption
    | intro _
    | with_reducible apply State.kenAnswer_keeps
    | with_reducible apply State.reserve_keeps
    | with_reducible apply State.endWaiter_keeps
    | with_reducible apply Keeps.ite
    | simp -zeta only [Keeps.leaf]
    | split

theorem execWithdraw_keeps {s₀ s : State} {a0 a1 a2} (h : Keeps s₀ s) : KeepsOut s₀ (execWithdraw a0 a1 a2 s) := by
  unfold execWithdraw
  repeat' first
    | with_reducible assumption
    | intro _
    | with_reducible apply State.stopMsg_keeps
    | with_reducible apply State.homeDo_keeps
    | with_reducible apply State.taken_keeps
    | with_reducible apply withdrawAct_keeps
    | with_reducible apply KeepsOut.of_next
    | with_reducible apply Keeps.ite

theorem State.expireLeash_keeps {s₀ s : State} {a1} (h : Keeps s₀ s) : Keeps s₀ (State.expireLeash s a1) := by
  unfold State.expireLeash
  repeat' first
    | with_reducible assumption
    | intro _
    | with_reducible apply State.send_keeps
    | with_reducible apply State.abandonLock_keeps
    | with_reducible apply Keeps.ite

theorem execLeashExpiry_keeps {s₀ s : State} {a0} (h : Keeps s₀ s) : KeepsOut s₀ (execLeashExpiry a0 s) := by
  unfold execLeashExpiry
  repeat' first
    | with_reducible assumption
    | intro _
    | with_reducible apply State.expireLeash_keeps
    | with_reducible apply KeepsOut.of_next

theorem State.expireWait_keeps {s₀ s : State} {a1 a2 a3} (h : Keeps s₀ s) : Keeps s₀ (State.expireWait s a1 a2 a3) := by
  unfold State.expireWait
  repeat' first
    | with_reducible assumption
    | intro _
    | with_reducible apply State.reserve_keeps
    | with_reducible apply State.endWaiter_keeps
    | with_reducible apply Keeps.ite
    | simp -zeta only [Keeps.leaf]
    | split

theorem execWaitTimeout_keeps {s₀ s : State} {a0 a1 a2} (h : Keeps s₀ s) : KeepsOut s₀ (execWaitTimeout a0 a1 a2 s) := by
  unfold execWaitTimeout
  repeat' first
    | with_reducible assumption
    | intro _
    | with_reducible apply State.expireWait_keeps
    | with_reducible apply KeepsOut.of_next

theorem State.dropWaiters_keeps {s₀ s : State} {a1 a2} (h : Keeps s₀ s) : Keeps s₀ (State.dropWaiters s a1 a2) := by
  unfold State.dropWaiters
  repeat' first
    | with_reducible assumption
    | intro _
    | with_reducible apply forAll_keeps
    | with_reducible apply State.dropWaiter_keeps

theorem State.noteAtHub_keeps {s₀ s : State} {a1 a2} (h : Keeps s₀ s) : Keeps s₀ (State.noteAtHub s a1 a2) := by
  unfold State.noteAtHub
  repeat' first
    | with_reducible assumption
    | intro _
    | with_reducible apply forAll_keeps
    | with_reducible apply State.dropWaiters_keeps
    | with_reducible apply State.abandonLock_keeps
    | with_reducible apply State.reserve_keeps
    | with_reducible apply Keeps.ite

theorem execResetNote_keeps {s₀ s : State} {a0 a1} (h : Keeps s₀ s) : KeepsOut s₀ (execResetNote a0 a1 s) := by
  unfold execResetNote
  repeat' first
    | with_reducible assumption
    | intro _
    | with_reducible apply State.stopMsg_keeps
    | with_reducible apply State.taken_keeps
    | with_reducible apply State.noteAtHub_keeps
    | with_reducible apply KeepsOut.of_next
    | with_reducible apply Keeps.ite

theorem State.abortWaiters_keeps {s₀ s : State} {a1 a2 a3} (h : Keeps s₀ s) : Keeps s₀ (State.abortWaiters s a1 a2 a3) := by
  unfold State.abortWaiters
  repeat' first
    | with_reducible assumption
    | intro _
    | with_reducible apply forAll_keeps
    | with_reducible apply State.dropWaiter_keeps
    | with_reducible apply State.sendEnd_keeps

theorem State.raise_keeps {s₀ s : State} {a1 a2} (h : Keeps s₀ s) : Keeps s₀ (State.raise s a1 a2) := by
  unfold State.raise
  repeat' first
    | with_reducible assumption
    | intro _
    | with_reducible apply State.updCore_keeps

theorem State.sendKen_keeps {s₀ s : State} {a1 a2 a3 a4} (h : Keeps s₀ s) : Keeps s₀ (State.sendKen s a1 a2 a3 a4) := by
  unfold State.sendKen
  repeat' first
    | with_reducible assumption
    | intro _
    | with_reducible apply State.send_keeps
    | with_reducible apply Keeps.ite

theorem State.launch_keeps {s₀ s : State} {a1 a2} (h : Keeps s₀ s) : Keeps s₀ (State.launch s a1 a2) := by
  unfold State.launch
  repeat' first
    | with_reducible assumption
    | intro _
    | with_reducible apply State.updCore_keeps
    | with_reducible apply State.sendKen_keeps

theorem State.pushReq_keeps {s₀ s : State} {a1 a2} (h : Keeps s₀ s) : Keeps s₀ (State.pushReq s a1 a2) := by
  unfold State.pushReq
  repeat' first
    | with_reducible assumption
    | intro _
    | with_reducible apply State.launch_keeps
    | with_reducible apply State.emitAll_keeps
    | with_reducible apply State.updCore_keeps
    | with_reducible apply State.emit_keeps
    | with_reducible apply Keeps.ite
    | simp -zeta only [Keeps.leaf]
    | (extract_lets +onlyGivenNames x; clear_value x)
    | split

theorem State.pushReqs_keeps {s₀ s : State} {a1} (h : Keeps s₀ s) : Keeps s₀ (State.pushReqs s a1) := by
  unfold State.pushReqs
  repeat' first
    | with_reducible assumption
    | intro _
    | with_reducible apply forAll_keeps
    | with_reducible apply State.pushReq_keeps

theorem State.issueKen_keeps {s₀ s : State} {a1 a2 a3} (h : Keeps s₀ s) : Keeps s₀ (State.issueKen s a1 a2 a3) := by
  unfold State.issueKen
  repeat' first
    | with_reducible assumption
    | intro _
    | with_reducible apply State.emit_keeps
    | with_reducible apply State.drawn_keeps
    | with_reducible apply State.updCore_keeps
    | with_reducible apply State.pushReqs_keeps
    | with_reducible apply Keeps.ite

theorem State.issueOwn_keeps {s₀ s : State} {a1 a2 a3} (h : Keeps s₀ s) : Keeps s₀ (State.issueOwn s a1 a2 a3) := by
  unfold State.issueOwn
  repeat' first
    | with_reducible assumption
    | intro _
    | with_reducible apply State.sendKen_keeps
    | with_reducible apply State.updCore_keeps
    | with_reducible apply State.drawn_keeps

theorem State.withdrawReq_keeps {s₀ s : State} {a1 a2} (h : Keeps s₀ s) : Keeps s₀ (State.withdrawReq s a1 a2) := by
  unfold State.withdrawReq
  repeat' first
    | with_reducible assumption
    | intro _
    | with_reducible apply State.issueOwn_keeps

theorem State.returnGrant_keeps {s₀ s : State} {a1 a2 a3} (h : Keeps s₀ s) : Keeps s₀ (State.returnGrant s a1 a2 a3) := by
  unfold State.returnGrant
  repeat' first
    | with_reducible assumption
    | intro _
    | with_reducible apply State.issueOwn_keeps
    | with_reducible apply Keeps.ite
    | simp -zeta only [Keeps.leaf]
    | (extract_lets +onlyGivenNames x; clear_value x)
    | split

theorem State.endWaits_keeps {s₀ s : State} {a1 a2 a3 a4 a5 a6} (h : Keeps s₀ s) : Keeps s₀ (State.endWaits s a1 a2 a3 a4 a5 a6) := by
  unfold State.endWaits
  repeat' first
    | with_reducible assumption
    | intro _
    | with_reducible apply State.emitAll_keeps
    | with_reducible apply forAll_keeps
    | with_reducible apply State.updCore_keeps
    | with_reducible apply State.raise_keeps
    | with_reducible apply State.updCsn_keeps
    | with_reducible apply Keeps.ite
    | simp -zeta only [Keeps.leaf]
    | (extract_lets +onlyGivenNames x; refine Keeps.cut (s := s₀) (x := x) ?_ (fun hx => ?_) <;> [subst x; clear_value x])
    | split

theorem State.endGen_keeps {s₀ s : State} {a1 a2 a3 a4} (h : Keeps s₀ s) : Keeps s₀ (State.endGen s a1 a2 a3 a4) := by
  unfold State.endGen
  repeat' first
    | with_reducible assumption
    | intro _
    | with_reducible apply State.updCsn_keeps
    | with_reducible apply State.endWaits_keeps

theorem State.sendArrive_keeps {s₀ s : State} {a1 a2 a3 a4 a5 a6} (h : Keeps s₀ s) : Keeps s₀ (State.sendArrive s a1 a2 a3 a4 a5 a6) := by
  unfold State.sendArrive
  repeat' first
    | with_reducible assumption
    | intro _
    | with_reducible apply State.send_keeps

theorem State.legDone_keeps {s₀ s : State} {a1 a2} (h : Keeps s₀ s) : Keeps s₀ (State.legDone s a1 a2) := by
  unfold State.legDone
  repeat' first
    | with_reducible assumption
    | intro _
    | with_reducible apply State.updCsn_keeps
    | with_reducible apply State.sendArrive_keeps
    | with_reducible apply State.emitAll_keeps
    | with_reducible apply Keeps.ite

theorem State.relEnt_keeps {s₀ s : State} {a1 a2 a3 a4} (h : Keeps s₀ s) : Keeps s₀ (State.relEnt s a1 a2 a3 a4) := by
  unfold State.relEnt
  repeat' first
    | with_reducible assumption
    | intro _
    | with_reducible apply State.updCsn_keeps
    | with_reducible apply State.endWaits_keeps
    | with_reducible apply State.legDone_keeps
    | with_reducible apply Keeps.ite

theorem State.relLocal_keeps {s₀ s : State} {a1 a2} (h : Keeps s₀ s) : Keeps s₀ (State.relLocal s a1 a2) := by
  unfold State.relLocal
  repeat' first
    | with_reducible assumption
    | intro _
    | with_reducible apply State.relEnt_keeps
    | with_reducible apply Keeps.ite

theorem State.arriveAt_keeps {s₀ s : State} {a1 a2} (h : Keeps s₀ s) : KeepsFst s₀ (State.arriveAt s a1 a2) := by
  unfold State.arriveAt
  repeat' first
    | with_reducible assumption
    | intro _
    | with_reducible apply State.updCsn_keeps
    | with_reducible apply State.relLocal_keeps
    | with_reducible apply State.legDone_keeps
    | with_reducible apply KeepsFst.ite
    | with_reducible apply KeepsFst.mk
    | with_reducible apply Keeps.ite

theorem State.waitAt_keeps {s₀ s : State} {a1 a2 a3 a4} (h : Keeps s₀ s) : Keeps s₀ (State.waitAt s a1 a2 a3 a4) := by
  unfold State.waitAt
  repeat' first
    | with_reducible assumption
    | intro _
    | with_reducible apply State.emit_keeps
    | with_reducible apply State.updCore_keeps
    | with_reducible apply State.updCsn_keeps
    | with_reducible apply Keeps.ite

theorem State.anyEnd_keeps {s₀ s : State} {a1} (h : Keeps s₀ s) : Keeps s₀ (State.anyEnd s a1) := by
  unfold State.anyEnd
  repeat' first
    | with_reducible assumption
    | intro _
    | with_reducible apply State.emit_keeps
    | with_reducible apply State.drawn_keeps

theorem State.doOp_keeps {s₀ s : State} {a1 a2} (h : Keeps s₀ s) : Keeps s₀ (State.doOp s a1 a2) := by
  unfold State.doOp
  repeat' first
    | with_reducible assumption
    | intro _
    | with_reducible apply State.issueKen_keeps
    | with_reducible apply State.arriveAt_keeps
    | with_reducible apply State.emit_keeps
    | with_reducible apply State.anyEnd_keeps
    | with_reducible apply State.waitAt_keeps
    | with_reducible apply State.updCore_keeps
    | simp -zeta only [KeepsFst.fst_iff]
    | (refine KeepsFst.of_eq ?_ (by assumption))
    | with_reducible apply KeepsFst.ite
    | with_reducible apply Keeps.ite
    | simp -zeta only [Keeps.leaf]
    | (extract_lets +onlyGivenNames x; clear_value x)
    | split

theorem settleGo_keeps {s₀ s : State} {a0 a1} (h : Keeps s₀ s) : Keeps s₀ (settleGo a0 a1 s) := by
  induction a1 generalizing s with
  | zero =>
    unfold settleGo
    repeat' first
      | with_reducible assumption
  | succ n ih =>
    unfold settleGo
    repeat' first
      | with_reducible apply ih
      | with_reducible assumption
      | intro _
      | with_reducible apply State.doOp_keeps
      | with_reducible apply State.updCore_keeps
      | with_reducible apply Keeps.ite
      | simp -zeta only [Keeps.leaf]
      | split

theorem State.settle_keeps {s₀ s : State} {a1} (h : Keeps s₀ s) : Keeps s₀ (State.settle s a1) := by
  unfold State.settle
  repeat' first
    | with_reducible assumption
    | intro _
    | with_reducible apply settleGo_keeps

theorem State.atPort_keeps {s₀ s : State} {a1 a2} (h : Keeps s₀ s) : Keeps s₀ (State.atPort s a1 a2) := by
  unfold State.atPort
  repeat' first
    | with_reducible assumption
    | intro _
    | with_reducible apply State.settle_keeps
    | with_reducible apply State.doOp_keeps
    | with_reducible apply State.updCore_keeps
    | with_reducible apply Keeps.ite

theorem execKenIssue_keeps {s₀ s : State} {a0 a1 a2} (h : Keeps s₀ s) : KeepsOut s₀ (execKenIssue a0 a1 a2 s) := by
  unfold execKenIssue
  repeat' first
    | with_reducible assumption
    | intro _
    | with_reducible apply State.anyEnd_keeps
    | with_reducible apply State.atPort_keeps
    | with_reducible apply KeepsOut.of_next
    | with_reducible apply Keeps.ite
    | simp -zeta only [Keeps.leaf]
    | split

theorem State.barInit_keeps {s₀ s : State} {a1 a2 a3} (h : Keeps s₀ s) : Keeps s₀ (State.barInit s a1 a2 a3) := by
  unfold State.barInit
  repeat' first
    | with_reducible assumption
    | intro _
    | with_reducible apply State.endGen_keeps
    | with_reducible apply State.updCsn_keeps
    | with_reducible apply State.settle_keeps
    | with_reducible apply State.emit_keeps

theorem execBarInit_keeps {s₀ s : State} {a0 a1 a2} (h : Keeps s₀ s) : KeepsOut s₀ (execBarInit a0 a1 a2 s) := by
  unfold execBarInit
  repeat' first
    | with_reducible assumption
    | intro _
    | with_reducible apply State.anyEnd_keeps
    | with_reducible apply State.barInit_keeps
    | with_reducible apply KeepsOut.of_next
    | with_reducible apply Keeps.ite

theorem State.barFree_keeps {s₀ s : State} {a1 a2} (h : Keeps s₀ s) : Keeps s₀ (State.barFree s a1 a2) := by
  unfold State.barFree
  repeat' first
    | with_reducible assumption
    | intro _
    | with_reducible apply State.endGen_keeps
    | with_reducible apply State.settle_keeps
    | with_reducible apply State.emit_keeps
    | with_reducible apply State.updCsn_keeps

theorem execBarFree_keeps {s₀ s : State} {a0 a1} (h : Keeps s₀ s) : KeepsOut s₀ (execBarFree a0 a1 s) := by
  unfold execBarFree
  repeat' first
    | with_reducible assumption
    | intro _
    | with_reducible apply State.anyEnd_keeps
    | with_reducible apply State.barFree_keeps
    | with_reducible apply KeepsOut.of_next
    | with_reducible apply Keeps.ite

theorem execBarArrive_keeps {s₀ s : State} {a0 a1} (h : Keeps s₀ s) : KeepsOut s₀ (execBarArrive a0 a1 s) := by
  unfold execBarArrive
  repeat' first
    | with_reducible assumption
    | intro _
    | with_reducible apply State.atPort_keeps
    | with_reducible apply KeepsOut.of_next

theorem execBarWait_keeps {s₀ s : State} {a0 a1 a2 a3} (h : Keeps s₀ s) : KeepsOut s₀ (execBarWait a0 a1 a2 a3 s) := by
  unfold execBarWait
  repeat' first
    | with_reducible assumption
    | intro _
    | with_reducible apply State.atPort_keeps
    | with_reducible apply KeepsOut.of_next

theorem execBarSync_keeps {s₀ s : State} {a0 a1} (h : Keeps s₀ s) : KeepsOut s₀ (execBarSync a0 a1 s) := by
  unfold execBarSync
  repeat' first
    | with_reducible assumption
    | intro _
    | with_reducible apply State.atPort_keeps
    | with_reducible apply KeepsOut.of_next

theorem execBarRead_keeps {s₀ s : State} {a0 a1} (h : Keeps s₀ s) : KeepsOut s₀ (execBarRead a0 a1 s) := by
  unfold execBarRead
  repeat' first
    | with_reducible assumption
    | intro _
    | with_reducible apply State.anyEnd_keeps
    | with_reducible apply State.emit_keeps
    | with_reducible apply KeepsOut.of_next
    | with_reducible apply Keeps.ite
    | simp -zeta only [Keeps.leaf]
    | split

theorem execTickArm_keeps {s₀ s : State} {a0} (h : Keeps s₀ s) : KeepsOut s₀ (execTickArm a0 s) := by
  unfold execTickArm
  repeat' first
    | with_reducible assumption
    | intro _
    | with_reducible apply State.emit_keeps
    | with_reducible apply State.updCore_keeps
    | with_reducible apply KeepsOut.of_next
    | with_reducible apply Keeps.ite

theorem execTickRead_keeps {s₀ s : State} {a0} (h : Keeps s₀ s) : KeepsOut s₀ (execTickRead a0 s) := by
  unfold execTickRead
  repeat' first
    | with_reducible assumption
    | intro _
    | with_reducible apply State.emit_keeps
    | with_reducible apply KeepsOut.of_next
    | with_reducible apply Keeps.ite

theorem execCmtRead_keeps {s₀ s : State} {a0} (h : Keeps s₀ s) : KeepsOut s₀ (execCmtRead a0 s) := by
  unfold execCmtRead
  repeat' first
    | with_reducible assumption
    | intro _
    | with_reducible apply State.emit_keeps
    | with_reducible apply KeepsOut.of_next
    | with_reducible apply Keeps.ite

theorem execWhistleCauseWrite_keeps {s₀ s : State} {a0 a1} (h : Keeps s₀ s) : KeepsOut s₀ (execWhistleCauseWrite a0 a1 s) := by
  unfold execWhistleCauseWrite
  repeat' first
    | with_reducible assumption
    | intro _
    | with_reducible apply State.updCore_keeps
    | with_reducible apply KeepsOut.of_next

theorem execSyncFence_keeps {s₀ s : State} {a0 a1 a2 a3} (h : Keeps s₀ s) : KeepsOut s₀ (execSyncFence a0 a1 a2 a3 s) := by
  unfold execSyncFence
  repeat' first
    | with_reducible assumption
    | intro _
    | with_reducible apply State.emit_keeps
    | with_reducible apply State.drawn_keeps
    | with_reducible apply State.updCore_keeps
    | with_reducible apply KeepsOut.of_next
    | with_reducible apply Keeps.ite

theorem execFenceComplete_keeps {s₀ s : State} {a0 a1} (h : Keeps s₀ s) : KeepsOut s₀ (execFenceComplete a0 a1 s) := by
  unfold execFenceComplete
  repeat' first
    | with_reducible assumption
    | intro _
    | with_reducible apply State.emit_keeps
    | with_reducible apply State.updCore_keeps
    | with_reducible apply KeepsOut.of_next
    | with_reducible apply Keeps.ite
    | simp -zeta only [Keeps.leaf]
    | (extract_lets +onlyGivenNames x; clear_value x)
    | split

theorem State.cutStores_keeps {s₀ s : State} (h : Keeps s₀ s) : Keeps s₀ (State.cutStores s) := by
  unfold State.cutStores
  repeat' first
    | with_reducible assumption
    | intro _
    | with_reducible apply State.mapCore_keeps

theorem execStoreCountsZero_keeps {s₀ s : State} {a0 a1 a2 a3} (h : Keeps s₀ s) : KeepsOut s₀ (execStoreCountsZero a0 a1 a2 a3 s) := by
  unfold execStoreCountsZero
  repeat' first
    | with_reducible assumption
    | intro _
    | with_reducible apply State.updCore_keeps
    | with_reducible apply State.settle_keeps
    | with_reducible apply State.pushReqs_keeps
    | with_reducible apply KeepsOut.of_next

theorem State.takeEnd_keeps {s₀ s : State} {a1 a2 a3} (h : Keeps s₀ s) : Keeps s₀ (State.takeEnd s a1 a2 a3) := by
  unfold State.takeEnd
  repeat' first
    | with_reducible assumption
    | intro _
    | with_reducible apply State.updCore_keeps
    | with_reducible apply State.returnGrant_keeps
    | with_reducible apply State.emit_keeps
    | with_reducible apply State.settle_keeps
    | with_reducible apply State.pushReqs_keeps
    | with_reducible apply Keeps.ite
    | simp -zeta only [Keeps.leaf]
    | (extract_lets +onlyGivenNames x; refine Keeps.cut (s := s₀) (x := x) ?_ (fun hx => ?_) <;> [subst x; clear_value x])
    | split

theorem State.endAtCsn_keeps {s₀ s : State} {a1 a2 a3 a4} (h : Keeps s₀ s) : Keeps s₀ (State.endAtCsn s a1 a2 a3 a4) := by
  unfold State.endAtCsn
  repeat' first
    | with_reducible assumption
    | intro _
    | with_reducible apply State.updCsn_keeps
    | with_reducible apply State.raise_keeps
    | with_reducible apply State.takeEnd_keeps
    | with_reducible apply Keeps.ite
    | simp -zeta only [Keeps.leaf]
    | split

theorem execWhistle_keeps {s₀ s : State} {a0 a1 a2 a3} (h : Keeps s₀ s) : KeepsOut s₀ (execWhistle a0 a1 a2 a3 s) := by
  unfold execWhistle
  repeat' first
    | with_reducible assumption
    | intro _
    | with_reducible apply State.stopMsg_keeps
    | with_reducible apply State.endAtCsn_keeps
    | with_reducible apply State.taken_keeps
    | with_reducible apply KeepsOut.of_next
    | with_reducible apply Keeps.ite

theorem execBroadcastRead_keeps {s₀ s : State} {a0 a1} (h : Keeps s₀ s) : KeepsOut s₀ (execBroadcastRead a0 a1 s) := by
  unfold execBroadcastRead
  repeat' first
    | with_reducible assumption
    | intro _
    | with_reducible apply State.updCsn_keeps
    | with_reducible apply State.emit_keeps
    | with_reducible apply KeepsOut.of_next
    | with_reducible apply Keeps.ite

theorem execCmWriteSnoop_keeps {s₀ s : State} {a0 a1} (h : Keeps s₀ s) : KeepsOut s₀ (execCmWriteSnoop a0 a1 s) := by
  unfold execCmWriteSnoop
  repeat' first
    | with_reducible assumption
    | intro _
    | with_reducible apply State.updCsn_keeps
    | with_reducible apply KeepsOut.of_next

theorem State.cmRsp_keeps {s₀ s : State} {a1 a2 a3 a4} (h : Keeps s₀ s) : Keeps s₀ (State.cmRsp s a1 a2 a3 a4) := by
  unfold State.cmRsp
  repeat' first
    | with_reducible assumption
    | intro _
    | with_reducible apply State.updCsn_keeps
    | with_reducible apply State.sendArrive_keeps
    | with_reducible apply State.emit_keeps
    | with_reducible apply Keeps.ite
    | simp -zeta only [Keeps.leaf]
    | (extract_lets +onlyGivenNames x; clear_value x)
    | split

theorem execCmRsp_keeps {s₀ s : State} {a0 a1 a2 a3} (h : Keeps s₀ s) : KeepsOut s₀ (execCmRsp a0 a1 a2 a3 s) := by
  unfold execCmRsp
  repeat' first
    | with_reducible assumption
    | intro _
    | with_reducible apply State.cmRsp_keeps
    | with_reducible apply KeepsOut.of_next

theorem execAbftRecord_keeps {s₀ s : State} {a0 a1 a2 a3} (h : Keeps s₀ s) : KeepsOut s₀ (execAbftRecord a0 a1 a2 a3 s) := by
  unfold execAbftRecord
  repeat' first
    | with_reducible assumption
    | intro _
    | with_reducible apply State.drawn_keeps
    | with_reducible apply State.updCsn_keeps
    | with_reducible apply KeepsOut.of_next
    | with_reducible apply Keeps.ite

theorem execDroopEvent_keeps {s₀ s : State} {a0} (h : Keeps s₀ s) : KeepsOut s₀ (execDroopEvent a0 s) := by
  unfold execDroopEvent
  repeat' first
    | with_reducible assumption
    | intro _
    | with_reducible apply State.updCsn_keeps
    | with_reducible apply KeepsOut.of_next

theorem State.publish_keeps {s₀ s : State} (h : Keeps s₀ s) : Keeps s₀ (State.publish s) := by
  unfold State.publish
  repeat' first
    | with_reducible assumption
    | intro _
    | with_reducible apply Keeps.ite
    | simp -zeta only [Keeps.leaf]

theorem execCoreDistRead_keeps {s₀ s : State} {a0 a1} (h : Keeps s₀ s) : KeepsOut s₀ (execCoreDistRead a0 a1 s) := by
  unfold execCoreDistRead
  repeat' first
    | with_reducible assumption
    | intro _
    | with_reducible apply State.emit_keeps
    | with_reducible apply State.drawn_keeps
    | with_reducible apply KeepsOut.of_next
    | with_reducible apply Keeps.ite

theorem State.downLink_keeps {s₀ s : State} {a1} (h : Keeps s₀ s) : Keeps s₀ (State.downLink s a1) := by
  unfold State.downLink
  repeat' first
    | with_reducible assumption
    | intro _
    | with_reducible apply State.updLink_keeps
    | with_reducible apply State.report_keeps
    | with_reducible apply State.sendAll_keeps
    | with_reducible apply Keeps.ite

theorem execLinkRetry_keeps {s₀ s : State} {a0 a1} (h : Keeps s₀ s) : KeepsOut s₀ (execLinkRetry a0 a1 s) := by
  unfold execLinkRetry
  repeat' first
    | with_reducible assumption
    | intro _
    | with_reducible apply State.updLink_keeps
    | with_reducible apply State.report_keeps
    | with_reducible apply State.downLink_keeps
    | with_reducible apply KeepsOut.of_next
    | with_reducible apply Keeps.ite

theorem execLinkNote_keeps {s₀ s : State} {a0} (h : Keeps s₀ s) : KeepsOut s₀ (execLinkNote a0 s) := by
  unfold execLinkNote
  repeat' first
    | with_reducible assumption
    | intro _
    | with_reducible apply State.stopMsg_keeps
    | with_reducible apply State.taken_keeps
    | with_reducible apply KeepsOut.of_next
    | with_reducible apply Keeps.ite
    | simp -zeta only [Keeps.leaf]
    | (extract_lets +onlyGivenNames x; refine Keeps.cut (s := s₀) (x := x) ?_ (fun hx => ?_) <;> [subst x; clear_value x])

theorem execRouteLoad_keeps {s₀ s : State} {a0 a1} (h : Keeps s₀ s) : KeepsOut s₀ (execRouteLoad a0 a1 s) := by
  unfold execRouteLoad
  repeat' first
    | with_reducible assumption
    | intro _
    | with_reducible apply State.stopMsg_keeps
    | with_reducible apply State.taken_keeps
    | with_reducible apply KeepsOut.of_next
    | with_reducible apply Keeps.ite
    | simp -zeta only [Keeps.leaf]
    | (extract_lets +onlyGivenNames x; refine Keeps.cut (s := s₀) (x := x) ?_ (fun hx => ?_) <;> [subst x; clear_value x])

theorem State.reloadRoutes_keeps {s₀ s : State} (h : Keeps s₀ s) : Keeps s₀ (State.reloadRoutes s) := by
  unfold State.reloadRoutes
  repeat' first
    | with_reducible assumption
    | intro _
    | with_reducible apply State.publish_keeps
    | with_reducible apply Keeps.ite
    | simp -zeta only [Keeps.leaf]

theorem execMcBranchDrop_keeps {s₀ s : State} {a0} (h : Keeps s₀ s) : KeepsOut s₀ (execMcBranchDrop a0 s) := by
  unfold execMcBranchDrop
  repeat' first
    | with_reducible assumption
    | intro _
    | with_reducible apply KeepsOut.of_next
    | with_reducible apply Keeps.ite
    | simp -zeta only [Keeps.leaf]
    | (extract_lets +onlyGivenNames x; refine Keeps.cut (s := s₀) (x := x) ?_ (fun hx => ?_) <;> [subst x; clear_value x])
    | (extract_lets +onlyGivenNames x; clear_value x)
    | split

theorem execCsnSpineInputFail_keeps {s₀ s : State} {a0} (h : Keeps s₀ s) : KeepsOut s₀ (execCsnSpineInputFail a0 s) := by
  unfold execCsnSpineInputFail
  repeat' first
    | with_reducible assumption
    | intro _
    | with_reducible apply State.report_keeps
    | with_reducible apply State.updCsn_keeps
    | with_reducible apply KeepsOut.of_next

theorem State.disturb_keeps {s₀ s : State} {a1 a2} (h : Keeps s₀ s) : Keeps s₀ (State.disturb s a1 a2) := by
  unfold State.disturb
  repeat' first
    | with_reducible assumption
    | intro _
    | with_reducible apply forAll_keeps
    | with_reducible apply State.updFn_keeps

theorem State.setPoint_keeps {s₀ s : State} {a1 a2} (h : Keeps s₀ s) : Keeps s₀ (State.setPoint s a1 a2) := by
  unfold State.setPoint
  repeat' first
    | with_reducible assumption
    | intro _
    | with_reducible apply State.updHub_keeps
    | with_reducible apply State.disturb_keeps
    | with_reducible apply State.emit_keeps
    | with_reducible apply Keeps.ite

theorem State.opChanged_keeps {s₀ s : State} {a1} (h : Keeps s₀ s) : Keeps s₀ (State.opChanged s a1) := by
  unfold State.opChanged
  repeat' first
    | with_reducible assumption
    | intro _
    | with_reducible apply State.disturb_keeps
    | with_reducible apply State.emit_keeps
    | with_reducible apply State.updHub_keeps
    | with_reducible apply Keeps.ite
    | simp -zeta only [Keeps.leaf]
    | split

theorem execOpChangeComplete_keeps {s₀ s : State} {a0} (h : Keeps s₀ s) : KeepsOut s₀ (execOpChangeComplete a0 s) := by
  unfold execOpChangeComplete
  repeat' first
    | with_reducible assumption
    | intro _
    | with_reducible apply State.opChanged_keeps
    | with_reducible apply KeepsOut.of_next

theorem State.fclkAcked_keeps {s₀ s : State} {a1} (h : Keeps s₀ s) : Keeps s₀ (State.fclkAcked s a1) := by
  unfold State.fclkAcked
  repeat' first
    | with_reducible assumption
    | intro _
    | with_reducible apply State.updHub_keeps
    | with_reducible apply State.emit_keeps
    | with_reducible apply Keeps.ite

theorem execFclkAck_keeps {s₀ s : State} {a0} (h : Keeps s₀ s) : KeepsOut s₀ (execFclkAck a0 s) := by
  unfold execFclkAck
  repeat' first
    | with_reducible assumption
    | intro _
    | with_reducible apply State.fclkAcked_keeps
    | with_reducible apply KeepsOut.of_next

theorem execFclkOpRepeat_keeps {s₀ s : State} {a0} (h : Keeps s₀ s) : KeepsOut s₀ (execFclkOpRepeat a0 s) := by
  unfold execFclkOpRepeat
  repeat' first
    | with_reducible assumption
    | intro _
    | with_reducible apply State.emit_keeps
    | with_reducible apply KeepsOut.of_next
    | with_reducible apply Keeps.ite

theorem execAvsRead_keeps {s₀ s : State} {a0 a1 a2} (h : Keeps s₀ s) : KeepsOut s₀ (execAvsRead a0 a1 a2 s) := by
  unfold execAvsRead
  repeat' first
    | with_reducible assumption
    | intro _
    | with_reducible apply State.updHub_keeps
    | with_reducible apply KeepsOut.of_next

theorem execThermalRead_keeps {s₀ s : State} {a0 a1 a2 a3 a4} (h : Keeps s₀ s) : KeepsOut s₀ (execThermalRead a0 a1 a2 a3 a4 s) := by
  unfold execThermalRead
  repeat' first
    | with_reducible assumption
    | intro _
    | with_reducible apply State.updHub_keeps
    | with_reducible apply KeepsOut.of_next

theorem execPmbusRead_keeps {s₀ s : State} {a0 a1 a2 a3} (h : Keeps s₀ s) : KeepsOut s₀ (execPmbusRead a0 a1 a2 a3 s) := by
  unfold execPmbusRead
  repeat' first
    | with_reducible assumption
    | intro _
    | with_reducible apply State.updHub_keeps
    | with_reducible apply KeepsOut.of_next

theorem State.alertOn_keeps {s₀ s : State} {a1} (h : Keeps s₀ s) : Keeps s₀ (State.alertOn s a1) := by
  unfold State.alertOn
  repeat' first
    | with_reducible assumption
    | intro _
    | with_reducible apply State.updHub_keeps
    | with_reducible apply State.send_keeps
    | with_reducible apply State.setPoint_keeps

theorem execRegAlertAssert_keeps {s₀ s : State} {a0} (h : Keeps s₀ s) : KeepsOut s₀ (execRegAlertAssert a0 s) := by
  unfold execRegAlertAssert
  repeat' first
    | with_reducible assumption
    | intro _
    | with_reducible apply State.alertOn_keeps
    | with_reducible apply KeepsOut.of_next

theorem State.alertOff_keeps {s₀ s : State} {a1} (h : Keeps s₀ s) : Keeps s₀ (State.alertOff s a1) := by
  unfold State.alertOff
  repeat' first
    | with_reducible assumption
    | intro _
    | with_reducible apply State.send_keeps
    | with_reducible apply State.updHub_keeps

theorem execRegAlertDeassert_keeps {s₀ s : State} {a0} (h : Keeps s₀ s) : KeepsOut s₀ (execRegAlertDeassert a0 s) := by
  unfold execRegAlertDeassert
  repeat' first
    | with_reducible assumption
    | intro _
    | with_reducible apply State.alertOff_keeps
    | with_reducible apply KeepsOut.of_next

end Sys2Proof.Machine
end

