-- ==== Sys2Proof/Laws/KeepsBarrier.lean ====
section
/-! SUPPORT. What every operation keeps (`Keeps`): the barriers, the records, the slots, the commit engine and the sequencers. -/

namespace Sys2Proof.Machine

open Sys2Proof

theorem State.updFr_keeps {s₀ s : State} {a1 a2 a3} (h : Keeps s₀ s) : Keeps s₀ (State.updFr s a1 a2 a3) := by
  unfold State.updFr
  repeat' first
    | with_reducible assumption
    | intro _
    | with_reducible apply State.updFrec_keeps

theorem State.countStale_keeps {s₀ s : State} {a1} (h : Keeps s₀ s) : Keeps s₀ (State.countStale s a1) := by
  unfold State.countStale
  repeat' first
    | with_reducible assumption
    | intro _
    | with_reducible apply State.updFn_keeps

theorem State.countStaleBar_keeps {s₀ s : State} {a1} (h : Keeps s₀ s) : Keeps s₀ (State.countStaleBar s a1) := by
  unfold State.countStaleBar
  repeat' first
    | with_reducible assumption
    | intro _
    | with_reducible apply State.countStale_keeps
    | with_reducible apply Keeps.ite

theorem State.relocate_keeps {s₀ s : State} {a1} (h : Keeps s₀ s) : Keeps s₀ (State.relocate s a1) := by
  unfold State.relocate
  repeat' first
    | with_reducible assumption
    | intro _
    | with_reducible apply State.updKen_keeps
    | with_reducible apply Keeps.ite
    | simp -zeta only [Keeps.leaf]
    | split

theorem State.armBarrier_keeps {s₀ s : State} {a1 a2} (h : Keeps s₀ s) : Keeps s₀ (State.armBarrier s a1 a2) := by
  unfold State.armBarrier
  repeat' first
    | with_reducible assumption
    | intro _
    | with_reducible apply State.updFr_keeps
    | with_reducible apply State.updHub_keeps
    | with_reducible apply State.relocate_keeps
    | with_reducible apply State.updFn_keeps
    | with_reducible apply Keeps.ite
    | simp -zeta only [Keeps.leaf]
    | (extract_lets +onlyGivenNames x; clear_value x)
    | split

theorem State.stopBarrier_keeps {s₀ s : State} {a1 a2} (h : Keeps s₀ s) : Keeps s₀ (State.stopBarrier s a1 a2) := by
  unfold State.stopBarrier
  repeat' first
    | with_reducible assumption
    | intro _
    | with_reducible apply State.updFr_keeps
    | with_reducible apply State.disarm_keeps

theorem State.sendField_keeps {s₀ s : State} {a1 a2 a3} (h : Keeps s₀ s) : Keeps s₀ (State.sendField s a1 a2 a3) := by
  unfold State.sendField
  repeat' first
    | with_reducible assumption
    | intro _
    | with_reducible apply State.stopBarrier_keeps
    | with_reducible apply State.updHub_keeps
    | with_reducible apply State.updFr_keeps
    | with_reducible apply State.send_keeps

theorem State.hubCount_keeps {s₀ s : State} {a1 a2} (h : Keeps s₀ s) : Keeps s₀ (State.hubCount s a1 a2) := by
  unfold State.hubCount
  repeat' first
    | with_reducible assumption
    | intro _
    | with_reducible apply State.drawn_keeps
    | with_reducible apply State.updFr_keeps
    | with_reducible apply State.sendField_keeps
    | with_reducible apply Keeps.ite

theorem State.contain_keeps {s₀ s : State} {a1 a2 a3 a4 a5} (h : Keeps s₀ s) : Keeps s₀ (State.contain s a1 a2 a3 a4 a5) := by
  unfold State.contain
  repeat' first
    | with_reducible assumption
    | intro _
    | with_reducible apply State.report_keeps
    | with_reducible apply State.send_keeps

theorem State.diverge_keeps {s₀ s : State} {a1 a2} (h : Keeps s₀ s) : Keeps s₀ (State.diverge s a1 a2) := by
  unfold State.diverge
  repeat' first
    | with_reducible assumption
    | intro _
    | with_reducible apply State.contain_keeps

theorem State.arriveHub_keeps {s₀ s : State} {a1 a2 a3 a4} (h : Keeps s₀ s) : Keeps s₀ (State.arriveHub s a1 a2 a3 a4) := by
  unfold State.arriveHub
  repeat' first
    | with_reducible assumption
    | intro _
    | with_reducible apply State.taken_keeps
    | with_reducible apply State.diverge_keeps
    | with_reducible apply State.countStaleBar_keeps
    | with_reducible apply State.hubCount_keeps
    | with_reducible apply State.updHub_keeps
    | with_reducible apply Keeps.ite

theorem execArrive_keeps {s₀ s : State} {a0 a1 a2} (h : Keeps s₀ s) : KeepsOut s₀ (execArrive a0 a1 a2 s) := by
  unfold execArrive
  repeat' first
    | with_reducible assumption
    | intro _
    | with_reducible apply State.stopMsg_keeps
    | with_reducible apply State.arriveHub_keeps
    | with_reducible apply KeepsOut.of_next
    | with_reducible apply Keeps.ite

theorem State.rootAdd_keeps {s₀ s : State} {a1 a2} (h : Keeps s₀ s) : Keeps s₀ (State.rootAdd s a1 a2) := by
  unfold State.rootAdd
  repeat' first
    | with_reducible assumption
    | intro _
    | with_reducible apply State.drawn_keeps
    | with_reducible apply State.updPrec_keeps

theorem State.foldOne_keeps {s₀ s : State} {a1 a2} (h : Keeps s₀ s) : Keeps s₀ (State.foldOne s a1 a2) := by
  unfold State.foldOne
  repeat' first
    | with_reducible assumption
    | intro _
    | with_reducible apply State.rootAdd_keeps
    | with_reducible apply State.updSrec_keeps
    | with_reducible apply Keeps.ite
    | simp -zeta only [Keeps.leaf]
    | split

theorem State.flushFolds_keeps {s₀ s : State} {a1} (h : Keeps s₀ s) : Keeps s₀ (State.flushFolds s a1) := by
  unfold State.flushFolds
  repeat' first
    | with_reducible assumption
    | intro _
    | with_reducible apply forAll_keeps
    | with_reducible apply State.foldOne_keeps
    | with_reducible apply h1
    | with_reducible apply Keeps.ite
    | simp -zeta only [Keeps.leaf]

theorem State.spanSettle_keeps {s₀ s : State} {a1} (h : Keeps s₀ s) : Keeps s₀ (State.spanSettle s a1) := by
  unfold State.spanSettle
  repeat' first
    | with_reducible assumption
    | intro _
    | with_reducible apply State.updSrec_keeps
    | with_reducible apply State.flushFolds_keeps
    | with_reducible apply Keeps.ite

theorem State.spanArrive_keeps {s₀ s : State} {a1} (h : Keeps s₀ s) : Keeps s₀ (State.spanArrive s a1) := by
  unfold State.spanArrive
  repeat' first
    | with_reducible assumption
    | intro _
    | with_reducible apply State.countStaleBar_keeps
    | with_reducible apply State.spanSettle_keeps
    | with_reducible apply State.updSrec_keeps
    | with_reducible apply Keeps.ite
    | simp -zeta only [Keeps.leaf]

theorem State.toDeciding_keeps {s₀ s : State} {a1} (h : Keeps s₀ s) : Keeps s₀ (State.toDeciding s a1) := by
  unfold State.toDeciding
  repeat' first
    | with_reducible assumption
    | intro _
    | with_reducible apply State.updPrec_keeps
    | with_reducible apply State.flushFolds_keeps
    | with_reducible apply State.updFn_keeps
    | with_reducible apply State.spanArrive_keeps
    | with_reducible apply State.send_keeps
    | with_reducible apply Keeps.ite

theorem State.armHub_keeps {s₀ s : State} {a1 a2 a3} (h : Keeps s₀ s) : Keeps s₀ (State.armHub s a1 a2 a3) := by
  unfold State.armHub
  repeat' first
    | with_reducible assumption
    | intro _
    | with_reducible apply State.armBarrier_keeps
    | with_reducible apply State.updFr_keeps
    | with_reducible apply Keeps.ite

theorem State.openNow_keeps {s₀ s : State} {a1} (h : Keeps s₀ s) : Keeps s₀ (State.openNow s a1) := by
  unfold State.openNow
  repeat' first
    | with_reducible assumption
    | intro _
    | with_reducible apply State.updPrec_keeps
    | with_reducible apply forAll_keeps
    | with_reducible apply State.armHub_keeps
    | with_reducible apply State.toDeciding_keeps
    | with_reducible apply Keeps.ite

theorem State.openGen_keeps {s₀ s : State} {a1} (h : Keeps s₀ s) : Keeps s₀ (State.openGen s a1) := by
  unfold State.openGen
  repeat' first
    | with_reducible assumption
    | intro _
    | with_reducible apply State.openNow_keeps
    | with_reducible apply State.updPrec_keeps
    | with_reducible apply Keeps.ite
    | simp -zeta only [Keeps.leaf]
    | (extract_lets +onlyGivenNames x; clear_value x)
    | split

theorem State.rootSettle_keeps {s₀ s : State} {a1} (h : Keeps s₀ s) : Keeps s₀ (State.rootSettle s a1) := by
  unfold State.rootSettle
  repeat' first
    | with_reducible assumption
    | intro _
    | with_reducible apply State.toDeciding_keeps
    | with_reducible apply Keeps.ite

theorem State.arriveRoot_keeps {s₀ s : State} {a1 a2 a3} (h : Keeps s₀ s) : Keeps s₀ (State.arriveRoot s a1 a2 a3) := by
  unfold State.arriveRoot
  repeat' first
    | with_reducible assumption
    | intro _
    | with_reducible apply State.taken_keeps
    | with_reducible apply State.countStaleBar_keeps
    | with_reducible apply State.rootSettle_keeps
    | with_reducible apply State.rootAdd_keeps
    | with_reducible apply Keeps.ite
    | simp -zeta only [Keeps.leaf]

theorem execFieldArrive_keeps {s₀ s : State} {a0 a1 a2} (h : Keeps s₀ s) : KeepsOut s₀ (execFieldArrive a0 a1 a2 s) := by
  unfold execFieldArrive
  repeat' first
    | with_reducible assumption
    | intro _
    | with_reducible apply State.stopMsg_keeps
    | with_reducible apply State.arriveRoot_keeps
    | with_reducible apply KeepsOut.of_next
    | with_reducible apply Keeps.ite

theorem State.foldHub_keeps {s₀ s : State} {a1 a2} (h : Keeps s₀ s) : Keeps s₀ (State.foldHub s a1 a2) := by
  unfold State.foldHub
  repeat' first
    | with_reducible assumption
    | intro _
    | with_reducible apply State.updHub_keeps
    | with_reducible apply State.hubCount_keeps
    | with_reducible apply Keeps.ite
    | simp -zeta only [Keeps.leaf]
    | split

theorem State.foldRoot_keeps {s₀ s : State} {a1} (h : Keeps s₀ s) : Keeps s₀ (State.foldRoot s a1) := by
  unfold State.foldRoot
  repeat' first
    | with_reducible assumption
    | intro _
    | with_reducible apply State.rootSettle_keeps
    | with_reducible apply State.foldOne_keeps
    | with_reducible apply State.spanSettle_keeps
    | with_reducible apply Keeps.ite
    | simp -zeta only [Keeps.leaf]
    | split

theorem execMashFold_keeps {s₀ s : State} {a0 a1} (h : Keeps s₀ s) : KeepsOut s₀ (execMashFold a0 a1 s) := by
  unfold execMashFold
  repeat' first
    | with_reducible assumption
    | intro _
    | with_reducible apply State.foldHub_keeps
    | with_reducible apply State.report_keeps
    | with_reducible apply State.drawn_keeps
    | with_reducible apply State.foldRoot_keeps
    | with_reducible apply KeepsOut.of_next
    | with_reducible apply Keeps.ite
    | simp -zeta only [Keeps.leaf]
    | (extract_lets +onlyGivenNames x; refine Keeps.cut (s := s₀) (x := x) ?_ (fun hx => ?_) <;> [subst x; clear_value x])
    | (extract_lets +onlyGivenNames x; clear_value x)
    | split

theorem State.expireBarrier_keeps {s₀ s : State} {a1 a2} (h : Keeps s₀ s) : Keeps s₀ (State.expireBarrier s a1 a2) := by
  unfold State.expireBarrier
  repeat' first
    | with_reducible assumption
    | intro _
    | with_reducible apply State.sendField_keeps
    | with_reducible apply Keeps.ite

theorem execBarrierTimeout_keeps {s₀ s : State} {a0 a1} (h : Keeps s₀ s) : KeepsOut s₀ (execBarrierTimeout a0 a1 s) := by
  unfold execBarrierTimeout
  repeat' first
    | with_reducible assumption
    | intro _
    | with_reducible apply State.expireBarrier_keeps
    | with_reducible apply KeepsOut.of_next

theorem State.idleHub_keeps {s₀ s : State} {a1 a2 a3} (h : Keeps s₀ s) : Keeps s₀ (State.idleHub s a1 a2 a3) := by
  unfold State.idleHub
  repeat' first
    | with_reducible assumption
    | intro _
    | with_reducible apply State.updFr_keeps
    | with_reducible apply State.stopBarrier_keeps

theorem State.nextGen_keeps {s₀ s : State} {a1} (h : Keeps s₀ s) : Keeps s₀ (State.nextGen s a1) := by
  unfold State.nextGen
  repeat' first
    | with_reducible assumption
    | intro _
    | with_reducible apply State.updPrec_keeps
    | with_reducible apply State.openNow_keeps
    | with_reducible apply Keeps.ite

theorem State.releaseRoot_keeps {s₀ s : State} {a1 a2} (h : Keeps s₀ s) : Keeps s₀ (State.releaseRoot s a1 a2) := by
  unfold State.releaseRoot
  repeat' first
    | with_reducible assumption
    | intro _
    | with_reducible apply State.sendAll_keeps
    | with_reducible apply State.nextGen_keeps

theorem State.releaseHub_keeps {s₀ s : State} {a1 a2 a3 a4} (h : Keeps s₀ s) : Keeps s₀ (State.releaseHub s a1 a2 a3 a4) := by
  unfold State.releaseHub
  repeat' first
    | with_reducible assumption
    | intro _
    | with_reducible apply State.taken_keeps
    | with_reducible apply State.diverge_keeps
    | with_reducible apply State.contain_keeps
    | with_reducible apply State.updHub_keeps
    | with_reducible apply Keeps.ite

theorem execRelease_keeps {s₀ s : State} {a0 a1 a2} (h : Keeps s₀ s) : KeepsOut s₀ (execRelease a0 a1 a2 s) := by
  unfold execRelease
  repeat' first
    | with_reducible assumption
    | intro _
    | with_reducible apply State.stopMsg_keeps
    | with_reducible apply State.releaseHub_keeps
    | with_reducible apply KeepsOut.of_next
    | with_reducible apply Keeps.ite

theorem State.hubNextGen_keeps {s₀ s : State} {a1 a2} (h : Keeps s₀ s) : Keeps s₀ (State.hubNextGen s a1 a2) := by
  unfold State.hubNextGen
  repeat' first
    | with_reducible assumption
    | intro _
    | with_reducible apply State.stopBarrier_keeps
    | with_reducible apply State.updFr_keeps
    | with_reducible apply State.armBarrier_keeps
    | with_reducible apply Keeps.ite

theorem State.hubPhase_keeps {s₀ s : State} {a1 a2 a3 a4} (h : Keeps s₀ s) : Keeps s₀ (State.hubPhase s a1 a2 a3 a4) := by
  unfold State.hubPhase
  repeat' first
    | with_reducible assumption
    | intro _
    | with_reducible apply State.setPoint_keeps
    | with_reducible apply State.updHub_keeps
    | with_reducible apply forAll_keeps
    | with_reducible apply State.updCsn_keeps
    | with_reducible apply Keeps.ite
    | simp -zeta only [Keeps.leaf]
    | split

theorem State.beginRelease_keeps {s₀ s : State} {a1 a2} (h : Keeps s₀ s) : Keeps s₀ (State.beginRelease s a1 a2) := by
  unfold State.beginRelease
  repeat' first
    | with_reducible assumption
    | intro _
    | with_reducible apply State.diverge_keeps
    | with_reducible apply State.updHub_keeps
    | with_reducible apply State.hubPhase_keeps
    | with_reducible apply State.hubNextGen_keeps
    | with_reducible apply Keeps.ite
    | simp -zeta only [Keeps.leaf]
    | split

theorem execReleaseBegin_keeps {s₀ s : State} {a0} (h : Keeps s₀ s) : KeepsOut s₀ (execReleaseBegin a0 s) := by
  unfold execReleaseBegin
  repeat' first
    | with_reducible assumption
    | intro _
    | with_reducible apply State.beginRelease_keeps
    | with_reducible apply KeepsOut.of_next

theorem State.hubStart_keeps {s₀ s : State} {a1} (h : Keeps s₀ s) : Keeps s₀ (State.hubStart s a1) := by
  unfold State.hubStart
  repeat' first
    | with_reducible assumption
    | intro _
    | with_reducible apply State.setPoint_keeps
    | with_reducible apply State.updHub_keeps
    | with_reducible apply Keeps.ite

theorem State.releaseWave_keeps {s₀ s : State} {a1} (h : Keeps s₀ s) : Keeps s₀ (State.releaseWave s a1) := by
  unfold State.releaseWave
  repeat' first
    | with_reducible assumption
    | intro _
    | with_reducible apply State.sendAll_keeps
    | with_reducible apply State.hubStart_keeps
    | with_reducible apply State.updHub_keeps
    | with_reducible apply Keeps.ite
    | simp -zeta only [Keeps.leaf]
    | split

theorem execReleaseWave_keeps {s₀ s : State} {a0} (h : Keeps s₀ s) : KeepsOut s₀ (execReleaseWave a0 s) := by
  unfold execReleaseWave
  repeat' first
    | with_reducible assumption
    | intro _
    | with_reducible apply State.releaseWave_keeps
    | with_reducible apply KeepsOut.of_next

theorem State.tickCauses_keeps {s₀ s : State} {a1} (h : Keeps s₀ s) : Keeps s₀ (State.tickCauses s a1) := by
  unfold State.tickCauses
  repeat' first
    | with_reducible assumption
    | intro _
    | with_reducible apply forAll_keeps
    | with_reducible apply State.raise_keeps
    | with_reducible apply State.updCore_keeps

theorem State.phaseDo_keeps {s₀ s : State} {a1 a2 a3} (h : Keeps s₀ s) (h3 : ∀ x0 x1, Keeps s₀ x1 → Keeps s₀ (a3 x0 x1)) : Keeps s₀ (State.phaseDo s a1 a2 a3) := by
  unfold State.phaseDo
  repeat' first
    | with_reducible assumption
    | intro _
    | with_reducible apply State.tickCauses_keeps
    | with_reducible apply h3
    | with_reducible apply Keeps.ite
    | simp -zeta only [Keeps.leaf]
    | split

theorem phaseGo_keeps {s₀ s : State} {a0 a1 a2} (h : Keeps s₀ s) (h1 : ∀ x0 x1, Keeps s₀ x1 → Keeps s₀ (a1 x0 x1)) : Keeps s₀ (phaseGo a0 a1 a2 s) := by
  induction a2 generalizing s with
  | zero =>
    unfold phaseGo
    repeat' first
      | with_reducible assumption
  | succ n ih =>
    unfold phaseGo
    repeat' first
      | with_reducible apply ih
      | with_reducible assumption
      | intro _
      | with_reducible apply State.phaseDo_keeps
      | with_reducible apply State.updCsn_keeps
      | with_reducible apply State.emitAll_keeps
      | with_reducible apply h1
      | with_reducible apply Keeps.ite
      | simp -zeta only [Keeps.leaf]
      | split

theorem State.phasePut_keeps {s₀ s : State} {a1 a2 a3} (h : Keeps s₀ s) (h3 : ∀ x0 x1, Keeps s₀ x1 → Keeps s₀ (a3 x0 x1)) : Keeps s₀ (State.phasePut s a1 a2 a3) := by
  unfold State.phasePut
  repeat' first
    | with_reducible assumption
    | intro _
    | with_reducible apply State.updCsn_keeps
    | with_reducible apply phaseGo_keeps
    | with_reducible apply h3
    | with_reducible apply Keeps.ite

theorem State.legsRelease_keeps {s₀ s : State} {a1 a2} (h : Keeps s₀ s) : Keeps s₀ (State.legsRelease s a1 a2) := by
  unfold State.legsRelease
  repeat' first
    | with_reducible assumption
    | intro _
    | with_reducible apply State.emitAll_keeps
    | with_reducible apply State.settle_keeps
    | with_reducible apply forAll_keeps
    | with_reducible apply State.relEnt_keeps
    | with_reducible apply Keeps.ite

theorem State.edgeEffect_keeps {s₀ s : State} {a1} (h : Keeps s₀ s) : Keeps s₀ (State.edgeEffect s a1) := by
  unfold State.edgeEffect
  repeat' first
    | with_reducible assumption
    | intro _
    | with_reducible apply State.updCsn_keeps
    | with_reducible apply State.phasePut_keeps
    | with_reducible apply State.legsRelease_keeps

theorem State.edgeDue_keeps {s₀ s : State} {a1} (h : Keeps s₀ s) : Keeps s₀ (State.edgeDue s a1) := by
  unfold State.edgeDue
  repeat' first
    | with_reducible assumption
    | intro _
    | with_reducible apply State.edgeEffect_keeps
    | with_reducible apply Keeps.ite

theorem State.edgeAtCsn_keeps {s₀ s : State} {a1} (h : Keeps s₀ s) : Keeps s₀ (State.edgeAtCsn s a1) := by
  unfold State.edgeAtCsn
  repeat' first
    | with_reducible assumption
    | intro _
    | with_reducible apply State.updCsn_keeps
    | with_reducible apply State.edgeDue_keeps
    | with_reducible apply Keeps.ite

theorem execTickEdge_keeps {s₀ s : State} {a0} (h : Keeps s₀ s) : KeepsOut s₀ (execTickEdge a0 s) := by
  unfold execTickEdge
  repeat' first
    | with_reducible assumption
    | intro _
    | with_reducible apply State.edgeAtCsn_keeps
    | with_reducible apply KeepsOut.of_next

theorem execEdge_keeps {s₀ s : State} {a0} (h : Keeps s₀ s) : KeepsOut s₀ (execEdge a0 s) := by
  unfold execEdge
  repeat' first
    | with_reducible assumption
    | intro _
    | with_reducible apply State.stopMsg_keeps
    | with_reducible apply State.taken_keeps
    | with_reducible apply State.updCsn_keeps
    | with_reducible apply State.edgeAtCsn_keeps
    | with_reducible apply KeepsOut.of_next
    | with_reducible apply Keeps.ite

theorem State.applyRelease_keeps {s₀ s : State} {a1 a2} (h : Keeps s₀ s) : Keeps s₀ (State.applyRelease s a1 a2) := by
  unfold State.applyRelease
  repeat' first
    | with_reducible assumption
    | intro _
    | with_reducible apply State.edgeDue_keeps
    | with_reducible apply State.legsRelease_keeps

theorem State.startRelease_keeps {s₀ s : State} {a1 a2} (h : Keeps s₀ s) : Keeps s₀ (State.startRelease s a1 a2) := by
  unfold State.startRelease
  repeat' first
    | with_reducible assumption
    | intro _
    | with_reducible apply State.phasePut_keeps
    | with_reducible apply State.applyRelease_keeps

theorem State.phaseAcked_keeps {s₀ s : State} {a1} (h : Keeps s₀ s) : Keeps s₀ (State.phaseAcked s a1) := by
  unfold State.phaseAcked
  repeat' first
    | with_reducible assumption
    | intro _
    | with_reducible apply phaseGo_keeps
    | with_reducible apply State.applyRelease_keeps
    | with_reducible apply State.phaseDo_keeps
    | with_reducible apply State.updCsn_keeps
    | with_reducible apply Keeps.ite
    | simp -zeta only [Keeps.leaf]
    | split

theorem State.cinvAck_keeps {s₀ s : State} {a1} (h : Keeps s₀ s) : Keeps s₀ (State.cinvAck s a1) := by
  unfold State.cinvAck
  repeat' first
    | with_reducible assumption
    | intro _
    | with_reducible apply forAll_keeps
    | with_reducible apply State.pushReqs_keeps
    | with_reducible apply State.updCore_keeps
    | with_reducible apply State.updCsn_keeps
    | with_reducible apply State.phaseAcked_keeps
    | with_reducible apply Keeps.ite

theorem execCinvAck_keeps {s₀ s : State} {a0} (h : Keeps s₀ s) : KeepsOut s₀ (execCinvAck a0 s) := by
  unfold execCinvAck
  repeat' first
    | with_reducible assumption
    | intro _
    | with_reducible apply State.cinvAck_keeps
    | with_reducible apply KeepsOut.of_next

theorem State.releaseCsn_keeps {s₀ s : State} {a1 a2 a3} (h : Keeps s₀ s) : Keeps s₀ (State.releaseCsn s a1 a2 a3) := by
  unfold State.releaseCsn
  repeat' first
    | with_reducible assumption
    | intro _
    | with_reducible apply State.updCsn_keeps
    | with_reducible apply State.countStale_keeps
    | with_reducible apply State.startRelease_keeps
    | with_reducible apply Keeps.ite
    | simp -zeta only [Keeps.leaf]
    | split

theorem execReleaseAtCsn_keeps {s₀ s : State} {a0 a1 a2} (h : Keeps s₀ s) : KeepsOut s₀ (execReleaseAtCsn a0 a1 a2 s) := by
  unfold execReleaseAtCsn
  repeat' first
    | with_reducible assumption
    | intro _
    | with_reducible apply State.stopMsg_keeps
    | with_reducible apply State.releaseCsn_keeps
    | with_reducible apply State.taken_keeps
    | with_reducible apply KeepsOut.of_next
    | with_reducible apply Keeps.ite

theorem State.bindLeg_keeps {s₀ s : State} {a1 a2 a3 a4 a5} (h : Keeps s₀ s) : Keeps s₀ (State.bindLeg s a1 a2 a3 a4 a5) := by
  unfold State.bindLeg
  repeat' first
    | with_reducible assumption
    | intro _
    | with_reducible apply State.emit_keeps
    | with_reducible apply State.updCsn_keeps
    | with_reducible apply Keeps.ite
    | simp -zeta only [Keeps.leaf]
    | (extract_lets +onlyGivenNames x; clear_value x)
    | split

theorem State.freeLeg_keeps {s₀ s : State} {a1 a2 a3} (h : Keeps s₀ s) : Keeps s₀ (State.freeLeg s a1 a2 a3) := by
  unfold State.freeLeg
  repeat' first
    | with_reducible assumption
    | intro _
    | with_reducible apply State.emit_keeps
    | with_reducible apply State.endGen_keeps
    | with_reducible apply State.settle_keeps
    | with_reducible apply State.updCsn_keeps
    | with_reducible apply Keeps.ite
    | simp -zeta only [Keeps.leaf]
    | (extract_lets +onlyGivenNames x; clear_value x)
    | split

theorem State.freeLegs_keeps {s₀ s : State} {a1 a2} (h : Keeps s₀ s) : Keeps s₀ (State.freeLegs s a1 a2) := by
  unfold State.freeLegs
  repeat' first
    | with_reducible assumption
    | intro _
    | with_reducible apply forAll_keeps
    | with_reducible apply State.freeLeg_keeps

theorem State.spanLeave_keeps {s₀ s : State} {a1 a2} (h : Keeps s₀ s) : Keeps s₀ (State.spanLeave s a1 a2) := by
  unfold State.spanLeave
  repeat' first
    | with_reducible assumption
    | intro _
    | with_reducible apply State.updSrec_keeps
    | with_reducible apply State.flushFolds_keeps
    | with_reducible apply Keeps.ite

theorem State.packLeave_keeps {s₀ s : State} {a1} (h : Keeps s₀ s) : Keeps s₀ (State.packLeave s a1) := by
  unfold State.packLeave
  repeat' first
    | with_reducible assumption
    | intro _
    | with_reducible apply State.spanLeave_keeps
    | with_reducible apply State.send_keeps
    | with_reducible apply Keeps.ite

theorem State.idleRoot_keeps {s₀ s : State} {a1} (h : Keeps s₀ s) : Keeps s₀ (State.idleRoot s a1) := by
  unfold State.idleRoot
  repeat' first
    | with_reducible assumption
    | intro _
    | with_reducible apply State.updPrec_keeps
    | with_reducible apply State.packLeave_keeps
    | with_reducible apply Keeps.ite
    | simp -zeta only [Keeps.leaf]
    | (extract_lets +onlyGivenNames x; refine Keeps.cut (s := s₀) (x := x) ?_ (fun hx => ?_) <;> [subst x; clear_value x])

theorem State.idleBarrier_keeps {s₀ s : State} {a1 a2} (h : Keeps s₀ s) : Keeps s₀ (State.idleBarrier s a1 a2) := by
  unfold State.idleBarrier
  repeat' first
    | with_reducible assumption
    | intro _
    | with_reducible apply forAll_keeps
    | with_reducible apply State.freeLegs_keeps
    | with_reducible apply State.idleHub_keeps
    | with_reducible apply State.idleRoot_keeps
    | with_reducible apply Keeps.ite

theorem State.abortHub_keeps {s₀ s : State} {a1 a2 a3} (h : Keeps s₀ s) : Keeps s₀ (State.abortHub s a1 a2 a3) := by
  unfold State.abortHub
  repeat' first
    | with_reducible assumption
    | intro _
    | with_reducible apply State.idleHub_keeps
    | with_reducible apply State.hubNextGen_keeps
    | with_reducible apply Keeps.ite

theorem State.abortRoot_keeps {s₀ s : State} {a1 a2} (h : Keeps s₀ s) : Keeps s₀ (State.abortRoot s a1 a2) := by
  unfold State.abortRoot
  repeat' first
    | with_reducible assumption
    | intro _
    | with_reducible apply State.idleRoot_keeps
    | with_reducible apply State.nextGen_keeps
    | with_reducible apply State.updPrec_keeps
    | with_reducible apply Keeps.ite
    | simp -zeta only [Keeps.leaf]
    | split

theorem State.abortEnt_keeps {s₀ s : State} {a1 a2 a3} (h : Keeps s₀ s) : Keeps s₀ (State.abortEnt s a1 a2 a3) := by
  unfold State.abortEnt
  repeat' first
    | with_reducible assumption
    | intro _
    | with_reducible apply State.endGen_keeps
    | with_reducible apply State.updCsn_keeps

theorem State.dropField_keeps {s₀ s : State} {a1 a2} (h : Keeps s₀ s) : Keeps s₀ (State.dropField s a1 a2) := by
  unfold State.dropField
  repeat' first
    | with_reducible assumption
    | intro _
    | with_reducible apply State.updPrec_keeps
    | with_reducible apply State.rootSettle_keeps

theorem State.loseMember_keeps {s₀ s : State} {a1 a2} (h : Keeps s₀ s) : Keeps s₀ (State.loseMember s a1 a2) := by
  unfold State.loseMember
  repeat' first
    | with_reducible assumption
    | intro _
    | with_reducible apply State.updFr_keeps
    | with_reducible apply State.updPrec_keeps
    | with_reducible apply State.sendField_keeps
    | with_reducible apply State.dropField_keeps
    | with_reducible apply Keeps.ite

theorem State.loseHub_keeps {s₀ s : State} {a1 a2} (h : Keeps s₀ s) : Keeps s₀ (State.loseHub s a1 a2) := by
  unfold State.loseHub
  repeat' first
    | with_reducible assumption
    | intro _
    | with_reducible apply State.updFr_keeps
    | with_reducible apply State.stopBarrier_keeps
    | with_reducible apply State.flushFolds_keeps
    | with_reducible apply State.dropField_keeps
    | with_reducible apply State.updPrec_keeps
    | with_reducible apply Keeps.ite

theorem State.loseCluster_keeps {s₀ s : State} {a1} (h : Keeps s₀ s) : Keeps s₀ (State.loseCluster s a1) := by
  unfold State.loseCluster
  repeat' first
    | with_reducible assumption
    | intro _
    | with_reducible apply forAll_keeps
    | with_reducible apply State.loseMember_keeps

theorem State.loadCheck_keeps {s₀ s : State} {a1 a2} (h : Keeps s₀ s) : Keeps s₀ (State.loadCheck s a1 a2) := by
  unfold State.loadCheck
  repeat' first
    | with_reducible assumption
    | intro _
    | with_reducible apply State.sendArrive_keeps
    | with_reducible apply State.updCsn_keeps
    | with_reducible apply Keeps.ite
    | simp -zeta only [Keeps.leaf]
    | (extract_lets +onlyGivenNames x; clear_value x)
    | split

theorem State.loadSend_keeps {s₀ s : State} {a1 a2 a3 a4} (h : Keeps s₀ s) : Keeps s₀ (State.loadSend s a1 a2 a3 a4) := by
  unfold State.loadSend
  repeat' first
    | with_reducible assumption
    | intro _
    | with_reducible apply State.sendAll_keeps
    | with_reducible apply Keeps.ite
    | simp -zeta only [Keeps.leaf]
    | (extract_lets +onlyGivenNames x; clear_value x)
    | split

theorem State.readDroop_keeps {s₀ s : State} {a1} (h : Keeps s₀ s) : Keeps s₀ (State.readDroop s a1) := by
  unfold State.readDroop
  repeat' first
    | with_reducible assumption
    | intro _
    | with_reducible apply State.updHub_keeps
    | with_reducible apply State.updCsn_keeps
    | with_reducible apply State.emit_keeps

theorem State.statusDo_keeps {s₀ s : State} {a1 a2} (h : Keeps s₀ s) : Keeps s₀ (State.statusDo s a1 a2) := by
  unfold State.statusDo
  repeat' first
    | with_reducible assumption
    | intro _
    | with_reducible apply State.readDroop_keeps
    | with_reducible apply State.emit_keeps
    | with_reducible apply State.updCsn_keeps
    | with_reducible apply State.loadCheck_keeps
    | with_reducible apply State.loadSend_keeps
    | with_reducible apply State.bindLeg_keeps
    | with_reducible apply State.freeLeg_keeps
    | with_reducible apply Keeps.ite
    | simp -zeta only [Keeps.leaf]
    | split

theorem State.onStatus_keeps {s₀ s : State} {a1 a2} (h : Keeps s₀ s) : Keeps s₀ (State.onStatus s a1 a2) := by
  unfold State.onStatus
  repeat' first
    | with_reducible assumption
    | intro _
    | with_reducible apply State.updCsn_keeps
    | with_reducible apply State.statusDo_keeps
    | with_reducible apply Keeps.ite

theorem State.runHeld_keeps {s₀ s : State} {a1} (h : Keeps s₀ s) : Keeps s₀ (State.runHeld s a1) := by
  unfold State.runHeld
  repeat' first
    | with_reducible assumption
    | intro _
    | with_reducible apply forAll_keeps
    | with_reducible apply State.statusDo_keeps
    | with_reducible apply State.updCsn_keeps

theorem execRdDrp_keeps {s₀ s : State} {a0} (h : Keeps s₀ s) : KeepsOut s₀ (execRdDrp a0 s) := by
  unfold execRdDrp
  repeat' first
    | with_reducible assumption
    | intro _
    | with_reducible apply State.onStatus_keeps
    | with_reducible apply KeepsOut.of_next

theorem execLoadOpen_keeps {s₀ s : State} {a0} (h : Keeps s₀ s) : KeepsOut s₀ (execLoadOpen a0 s) := by
  unfold execLoadOpen
  repeat' first
    | with_reducible assumption
    | intro _
    | with_reducible apply State.onStatus_keeps
    | with_reducible apply State.taken_keeps
    | with_reducible apply KeepsOut.of_next

theorem execLoadCheck_keeps {s₀ s : State} {a0 a1} (h : Keeps s₀ s) : KeepsOut s₀ (execLoadCheck a0 a1 s) := by
  unfold execLoadCheck
  repeat' first
    | with_reducible assumption
    | intro _
    | with_reducible apply State.onStatus_keeps
    | with_reducible apply State.taken_keeps
    | with_reducible apply KeepsOut.of_next

theorem execLoadSend_keeps {s₀ s : State} {a0 a1 a2 a3} (h : Keeps s₀ s) : KeepsOut s₀ (execLoadSend a0 a1 a2 a3 s) := by
  unfold execLoadSend
  repeat' first
    | with_reducible assumption
    | intro _
    | with_reducible apply State.onStatus_keeps
    | with_reducible apply KeepsOut.of_next

theorem execLegBind_keeps {s₀ s : State} {a0 a1 a2 a3 a4} (h : Keeps s₀ s) : KeepsOut s₀ (execLegBind a0 a1 a2 a3 a4 s) := by
  unfold execLegBind
  repeat' first
    | with_reducible assumption
    | intro _
    | with_reducible apply State.onStatus_keeps
    | with_reducible apply KeepsOut.of_next

theorem execLegFree_keeps {s₀ s : State} {a0 a1 a2} (h : Keeps s₀ s) : KeepsOut s₀ (execLegFree a0 a1 a2 s) := by
  unfold execLegFree
  repeat' first
    | with_reducible assumption
    | intro _
    | with_reducible apply State.onStatus_keeps
    | with_reducible apply KeepsOut.of_next

theorem execEpochLoad_keeps {s₀ s : State} {a0 a1 a2} (h : Keeps s₀ s) : KeepsOut s₀ (execEpochLoad a0 a1 a2 s) := by
  unfold execEpochLoad
  repeat' first
    | with_reducible assumption
    | intro _
    | with_reducible apply State.onStatus_keeps
    | with_reducible apply KeepsOut.of_next

theorem State.postTo_keeps {s₀ s : State} {a1 a2 a3} (h : Keeps s₀ s) : Keeps s₀ (State.postTo s a1 a2 a3) := by
  unfold State.postTo
  repeat' first
    | with_reducible assumption
    | intro _
    | with_reducible apply State.updRing_keeps
    | with_reducible apply State.updFn_keeps
    | with_reducible apply Keeps.ite

theorem State.notice_keeps {s₀ s : State} {a1 a2} (h : Keeps s₀ s) : Keeps s₀ (State.notice s a1 a2) := by
  unfold State.notice
  repeat' first
    | with_reducible assumption
    | intro _
    | with_reducible apply State.updFn_keeps

theorem State.announce_keeps {s₀ s : State} (h : Keeps s₀ s) : Keeps s₀ (State.announce s) := by
  unfold State.announce
  repeat' first
    | with_reducible assumption
    | intro _
    | with_reducible apply forAll_keeps
    | with_reducible apply State.notice_keeps

theorem execRouteReload_keeps {s₀ s : State} {a0} (h : Keeps s₀ s) : KeepsOut s₀ (execRouteReload a0 s) := by
  unfold execRouteReload
  repeat' first
    | with_reducible assumption
    | intro _
    | with_reducible apply State.announce_keeps
    | with_reducible apply State.reloadRoutes_keeps
    | with_reducible apply KeepsOut.of_next
    | with_reducible apply Keeps.ite
    | simp -zeta only [Keeps.leaf]

theorem State.startCmd_keeps {s₀ s : State} {a1 a2 a3} (h : Keeps s₀ s) : Keeps s₀ (State.startCmd s a1 a2 a3) := by
  unfold State.startCmd
  repeat' first
    | with_reducible assumption
    | intro _
    | with_reducible apply State.updRing_keeps
    | with_reducible apply State.updFn_keeps
    | with_reducible apply State.drawn_keeps
    | with_reducible apply Keeps.ite
    | simp -zeta only [Keeps.leaf]
    | split

theorem startGo_keeps {s₀ s : State} {a0 a1} (h : Keeps s₀ s) : Keeps s₀ (startGo a0 a1 s) := by
  induction a1 generalizing s with
  | zero =>
    unfold startGo
    repeat' first
      | with_reducible assumption
  | succ n ih =>
    unfold startGo
    repeat' first
      | with_reducible apply ih
      | with_reducible assumption
      | intro _
      | with_reducible apply State.startCmd_keeps
      | with_reducible apply Keeps.ite
      | simp -zeta only [Keeps.leaf]
      | split

theorem State.startRing_keeps {s₀ s : State} {a1} (h : Keeps s₀ s) : Keeps s₀ (State.startRing s a1) := by
  unfold State.startRing
  repeat' first
    | with_reducible assumption
    | intro _
    | with_reducible apply startGo_keeps
    | with_reducible apply Keeps.ite
    | simp -zeta only [Keeps.leaf]
    | split

theorem turnGo_keeps {s₀ s : State} {a0 a1} (h : Keeps s₀ s) : Keeps s₀ (turnGo a0 a1 s) := by
  induction a1 generalizing s with
  | zero =>
    unfold turnGo
    repeat' first
      | with_reducible assumption
  | succ n ih =>
    unfold turnGo
    repeat' first
      | with_reducible apply ih
      | with_reducible assumption
      | intro _
      | with_reducible apply State.startCmd_keeps
      | with_reducible apply Keeps.ite
      | simp -zeta only [Keeps.leaf]
      | split

theorem State.startRings_keeps {s₀ s : State} {a1} (h : Keeps s₀ s) : Keeps s₀ (State.startRings s a1) := by
  unfold State.startRings
  repeat' first
    | with_reducible assumption
    | intro _
    | with_reducible apply turnGo_keeps
    | with_reducible apply Keeps.ite

theorem State.begin__keeps {s₀ s : State} {a1 a2} (h : Keeps s₀ s) : Keeps s₀ (State.begin_ s a1 a2) := by
  unfold State.begin_
  repeat' first
    | with_reducible assumption
    | intro _
    | with_reducible apply State.updRing_keeps

theorem State.finish_keeps {s₀ s : State} {a1 a2 a3 a4 a5} (h : Keeps s₀ s) : Keeps s₀ (State.finish s a1 a2 a3 a4 a5) := by
  unfold State.finish
  repeat' first
    | with_reducible assumption
    | intro _
    | with_reducible apply State.updRing_keeps
    | with_reducible apply State.startRings_keeps
    | with_reducible apply Keeps.ite
    | simp -zeta only [Keeps.leaf]
    | (extract_lets +onlyGivenNames x; refine Keeps.cut (s := s₀) (x := x) ?_ (fun hx => ?_) <;> [subst x; clear_value x])
    | split

theorem State.logPage_keeps {s₀ s : State} {a1 a2 a3} (h : Keeps s₀ s) : Keeps s₀ (State.logPage s a1 a2 a3) := by
  unfold State.logPage
  repeat' first
    | with_reducible assumption
    | intro _
    | with_reducible apply State.updFn_keeps
    | with_reducible apply State.emit_keeps
    | with_reducible apply Keeps.ite
    | simp -zeta only [Keeps.leaf]
    | split

theorem State.logWrite_keeps {s₀ s : State} {a1 a2 a3 a4} (h : Keeps s₀ s) : Keeps s₀ (State.logWrite s a1 a2 a3 a4) := by
  unfold State.logWrite
  repeat' first
    | with_reducible assumption
    | intro _
    | with_reducible apply forAll_keeps
    | with_reducible apply State.logPage_keeps
    | with_reducible apply Keeps.ite

theorem State.msix_keeps {s₀ s : State} {a1 a2} (h : Keeps s₀ s) : Keeps s₀ (State.msix s a1 a2) := by
  unfold State.msix
  repeat' first
    | with_reducible assumption
    | intro _
    | with_reducible apply State.updFn_keeps
    | with_reducible apply State.emit_keeps
    | with_reducible apply Keeps.ite

theorem State.ringMsix_keeps {s₀ s : State} {a1 a2} (h : Keeps s₀ s) : Keeps s₀ (State.ringMsix s a1 a2) := by
  unfold State.ringMsix
  repeat' first
    | with_reducible assumption
    | intro _
    | with_reducible apply State.msix_keeps
    | with_reducible apply State.updRing_keeps

theorem State.posted_keeps {s₀ s : State} {a1 a2} (h : Keeps s₀ s) : Keeps s₀ (State.posted s a1 a2) := by
  unfold State.posted
  repeat' first
    | with_reducible assumption
    | intro _
    | with_reducible apply State.updRing_keeps
    | with_reducible apply State.setSlot_keeps
    | with_reducible apply State.updPl_keeps
    | with_reducible apply Keeps.ite
    | simp -zeta only [Keeps.leaf]
    | split

theorem State.writeRec_keeps {s₀ s : State} {a1 a2 a3} (h : Keeps s₀ s) : Keeps s₀ (State.writeRec s a1 a2 a3) := by
  unfold State.writeRec
  repeat' first
    | with_reducible assumption
    | intro _
    | with_reducible apply State.emit_keeps
    | with_reducible apply State.logWrite_keeps
    | with_reducible apply State.updRing_keeps
    | with_reducible apply State.posted_keeps
    | with_reducible apply State.ringMsix_keeps
    | with_reducible apply Keeps.ite

theorem State.post_keeps {s₀ s : State} {a1} (h : Keeps s₀ s) : Keeps s₀ (State.post s a1) := by
  unfold State.post
  repeat' first
    | with_reducible assumption
    | intro _
    | with_reducible apply State.startRings_keeps
    | with_reducible apply State.writeRec_keeps
    | with_reducible apply State.updRing_keeps
    | with_reducible apply State.updFn_keeps
    | with_reducible apply Keeps.ite
    | simp -zeta only [Keeps.leaf]
    | split

theorem execCompletionPost_keeps {s₀ s : State} {a0} (h : Keeps s₀ s) : KeepsOut s₀ (execCompletionPost a0 s) := by
  unfold execCompletionPost
  repeat' first
    | with_reducible assumption
    | intro _
    | with_reducible apply State.post_keeps
    | with_reducible apply KeepsOut.of_next

theorem execMsixTimeout_keeps {s₀ s : State} {a0} (h : Keeps s₀ s) : KeepsOut s₀ (execMsixTimeout a0 s) := by
  unfold execMsixTimeout
  repeat' first
    | with_reducible assumption
    | intro _
    | with_reducible apply State.ringMsix_keeps
    | with_reducible apply KeepsOut.of_next
    | with_reducible apply Keeps.ite
    | simp -zeta only [Keeps.leaf]
    | split

theorem State.unmask_keeps {s₀ s : State} {a1 a2} (h : Keeps s₀ s) : Keeps s₀ (State.unmask s a1 a2) := by
  unfold State.unmask
  repeat' first
    | with_reducible assumption
    | intro _
    | with_reducible apply State.updFn_keeps
    | with_reducible apply State.emit_keeps
    | with_reducible apply Keeps.ite

theorem execMsixUnmask_keeps {s₀ s : State} {a0 a1} (h : Keeps s₀ s) : KeepsOut s₀ (execMsixUnmask a0 a1 s) := by
  unfold execMsixUnmask
  repeat' first
    | with_reducible assumption
    | intro _
    | with_reducible apply State.unmask_keeps
    | with_reducible apply KeepsOut.of_next

theorem State.takeOne_keeps {s₀ s : State} {a1 a2} (h : Keeps s₀ s) : KeepsOpt s₀ (State.takeOne s a1 a2) := by
  unfold State.takeOne
  repeat' first
    | with_reducible assumption
    | intro _
    | with_reducible apply State.updKen_keeps
    | (refine KeepsOpt.of_eq ?_ (by assumption))
    | with_reducible apply KeepsOpt.of_some
    | exact KeepsOpt.of_none
    | with_reducible apply Keeps.ite
    | simp -zeta only [Keeps.leaf]
    | (extract_lets +onlyGivenNames x; clear_value x)
    | split

theorem State.giveBack_keeps {s₀ s : State} {a1 a2 a3} (h : Keeps s₀ s) : Keeps s₀ (State.giveBack s a1 a2 a3) := by
  unfold State.giveBack
  repeat' first
    | with_reducible assumption
    | intro _
    | with_reducible apply State.serve_keeps
    | with_reducible apply State.updKen_keeps
    | with_reducible apply Keeps.ite

theorem State.setBudget_keeps {s₀ s : State} {a1 a2 a3} (h : Keeps s₀ s) : Keeps s₀ (State.setBudget s a1 a2 a3) := by
  unfold State.setBudget
  repeat' first
    | with_reducible assumption
    | intro _
    | with_reducible apply State.serve_keeps
    | with_reducible apply State.updKen_keeps

theorem State.gotPage_keeps {s₀ s : State} {a1} (h : Keeps s₀ s) : Keeps s₀ (State.gotPage s a1) := by
  unfold State.gotPage
  repeat' first
    | with_reducible assumption
    | intro _
    | with_reducible apply State.updSlot_keeps

theorem State.takePage_keeps {s₀ s : State} {a1} (h : Keeps s₀ s) : KeepsOpt s₀ (State.takePage s a1) := by
  unfold State.takePage
  repeat' first
    | with_reducible assumption
    | intro _
    | with_reducible apply State.takeOne_keeps
    | with_reducible apply State.gotPage_keeps
    | (refine KeepsOpt.of_eq ?_ (by assumption))
    | with_reducible apply KeepsOpt.of_some
    | exact KeepsOpt.of_none
    | with_reducible apply Keeps.ite
    | simp -zeta only [Keeps.leaf]
    | (extract_lets +onlyGivenNames x; clear_value x)
    | split

theorem takeGo_keeps {s₀ s : State} {i n} (h : Keeps s₀ s) : KeepsFst s₀ (takeGo i n s) := by
  induction n generalizing s with
  | zero => exact ⟨h⟩
  | succ n ih =>
    unfold takeGo
    split
    · split
      next t e => exact ih ((State.takePage_keeps h).of_eq e)
      next => exact ⟨h⟩
    · exact ⟨h⟩

theorem State.takePages_keeps {s₀ s : State} {a1} (h : Keeps s₀ s) : KeepsFst s₀ (State.takePages s a1) := by
  unfold State.takePages
  repeat' first
    | with_reducible assumption
    | intro _
    | with_reducible apply takeGo_keeps

theorem State.pageSlot_keeps {s₀ s : State} {a1} (h : Keeps s₀ s) : Keeps s₀ (State.pageSlot s a1) := by
  unfold State.pageSlot
  repeat' first
    | with_reducible assumption
    | intro _
    | with_reducible apply State.takePages_keeps
    | with_reducible apply State.updSlot_keeps
    | simp -zeta only [KeepsFst.fst_iff]
    | (refine KeepsFst.of_eq ?_ (by assumption))
    | with_reducible apply KeepsFst.ite
    | with_reducible apply Keeps.ite

theorem State.endSlot_keeps {s₀ s : State} {a1 a2} (h : Keeps s₀ s) : Keeps s₀ (State.endSlot s a1 a2) := by
  unfold State.endSlot
  repeat' first
    | with_reducible assumption
    | intro _
    | with_reducible apply State.giveBack_keeps
    | with_reducible apply State.updSlot_keeps
    | with_reducible apply State.updFn_keeps
    | with_reducible apply State.postTo_keeps
    | with_reducible apply Keeps.ite
    | simp -zeta only [Keeps.leaf]
    | split

theorem State.markView_keeps {s₀ s : State} {a1} (h : Keeps s₀ s) : Keeps s₀ (State.markView s a1) := by
  unfold State.markView
  repeat' first
    | with_reducible assumption
    | intro _
    | with_reducible apply State.updPl_keeps
    | with_reducible apply Keeps.ite

theorem State.nextCut_keeps {s₀ s : State} {a1} (h : Keeps s₀ s) : Keeps s₀ (State.nextCut s a1) := by
  unfold State.nextCut
  repeat' first
    | with_reducible assumption
    | intro _
    | with_reducible apply State.updFn_keeps

theorem State.latchLane_keeps {s₀ s : State} {a1 a2 a3 a4} (h : Keeps s₀ s) : Keeps s₀ (State.latchLane s a1 a2 a3 a4) := by
  unfold State.latchLane
  repeat' first
    | with_reducible assumption
    | intro _
    | with_reducible apply State.updSlot_keeps
    | with_reducible apply State.updFn_keeps
    | with_reducible apply Keeps.ite

theorem State.latchLanes_keeps {s₀ s : State} {a1 a2 a3 a4} (h : Keeps s₀ s) : Keeps s₀ (State.latchLanes s a1 a2 a3 a4) := by
  unfold State.latchLanes
  repeat' first
    | with_reducible assumption
    | intro _
    | with_reducible apply forAll_keeps
    | with_reducible apply State.latchLane_keeps

theorem State.afterDecision_keeps {s₀ s : State} {a1} (h : Keeps s₀ s) : Keeps s₀ (State.afterDecision s a1) := by
  unfold State.afterDecision
  repeat' first
    | with_reducible assumption
    | intro _
    | with_reducible apply State.endSlot_keeps
    | with_reducible apply State.updSlot_keeps
    | with_reducible apply Keeps.ite
    | simp -zeta only [Keeps.leaf]
    | (extract_lets +onlyGivenNames x; clear_value x)
    | split

theorem State.applyDecision_keeps {s₀ s : State} {a1} (h : Keeps s₀ s) : Keeps s₀ (State.applyDecision s a1) := by
  unfold State.applyDecision
  repeat' first
    | with_reducible assumption
    | intro _
    | with_reducible apply State.updSlot_keeps
    | with_reducible apply State.endSlot_keeps
    | with_reducible apply State.afterDecision_keeps
    | with_reducible apply State.pageSlot_keeps
    | with_reducible apply Keeps.ite
    | simp -zeta only [Keeps.leaf]
    | (extract_lets +onlyGivenNames x; refine Keeps.cut (s := s₀) (x := x) ?_ (fun hx => ?_) <;> [subst x; clear_value x])
    | split

theorem State.applyDecisions_keeps {s₀ s : State} {a1 a2} (h : Keeps s₀ s) : Keeps s₀ (State.applyDecisions s a1 a2) := by
  unfold State.applyDecisions
  repeat' first
    | with_reducible assumption
    | intro _
    | with_reducible apply forAll_keeps
    | with_reducible apply State.applyDecision_keeps
    | with_reducible apply State.updPl_keeps
    | with_reducible apply Keeps.ite

theorem State.dropDecisions_keeps {s₀ s : State} {a1} (h : Keeps s₀ s) : Keeps s₀ (State.dropDecisions s a1) := by
  unfold State.dropDecisions
  repeat' first
    | with_reducible assumption
    | intro _
    | with_reducible apply forAll_keeps
    | with_reducible apply State.afterDecision_keeps
    | with_reducible apply State.updSlot_keeps
    | with_reducible apply State.markView_keeps
    | with_reducible apply Keeps.ite

theorem State.retrySlot_keeps {s₀ s : State} {a1} (h : Keeps s₀ s) : Keeps s₀ (State.retrySlot s a1) := by
  unfold State.retrySlot
  repeat' first
    | with_reducible assumption
    | intro _
    | with_reducible apply State.takePages_keeps
    | with_reducible apply State.markView_keeps
    | with_reducible apply State.updSlot_keeps
    | with_reducible apply State.endSlot_keeps
    | simp -zeta only [KeepsFst.fst_iff]
    | (refine KeepsFst.of_eq ?_ (by assumption))
    | with_reducible apply KeepsFst.ite
    | with_reducible apply Keeps.ite

theorem State.retrySlots_keeps {s₀ s : State} (h : Keeps s₀ s) : Keeps s₀ (State.retrySlots s) := by
  unfold State.retrySlots
  repeat' first
    | with_reducible assumption
    | intro _
    | with_reducible apply forAll_keeps
    | with_reducible apply State.retrySlot_keeps

theorem State.pauseSlot_keeps {s₀ s : State} {a1} (h : Keeps s₀ s) : Keeps s₀ (State.pauseSlot s a1) := by
  unfold State.pauseSlot
  repeat' first
    | with_reducible assumption
    | intro _
    | with_reducible apply State.updSlot_keeps
    | with_reducible apply State.markView_keeps
    | with_reducible apply Keeps.ite

theorem State.resumeSlot_keeps {s₀ s : State} {a1} (h : Keeps s₀ s) : Keeps s₀ (State.resumeSlot s a1) := by
  unfold State.resumeSlot
  repeat' first
    | with_reducible assumption
    | intro _
    | with_reducible apply State.markView_keeps
    | with_reducible apply State.nextCut_keeps
    | with_reducible apply State.pageSlot_keeps
    | with_reducible apply State.updSlot_keeps
    | with_reducible apply Keeps.ite

theorem State.cancelSlot_keeps {s₀ s : State} {a1} (h : Keeps s₀ s) : Keeps s₀ (State.cancelSlot s a1) := by
  unfold State.cancelSlot
  repeat' first
    | with_reducible assumption
    | intro _
    | with_reducible apply State.updSlot_keeps
    | with_reducible apply State.markView_keeps
    | with_reducible apply State.endSlot_keeps
    | with_reducible apply Keeps.ite

theorem State.retireSlots_keeps {s₀ s : State} {a1} (h : Keeps s₀ s) : Keeps s₀ (State.retireSlots s a1) := by
  unfold State.retireSlots
  repeat' first
    | with_reducible assumption
    | intro _
    | with_reducible apply forAll_keeps
    | with_reducible apply State.endSlot_keeps

theorem State.sendView_keeps {s₀ s : State} {a1 a2} (h : Keeps s₀ s) : Keeps s₀ (State.sendView s a1 a2) := by
  unfold State.sendView
  repeat' first
    | with_reducible assumption
    | intro _
    | with_reducible apply State.sendAll_keeps
    | with_reducible apply Keeps.ite

theorem State.nextView_keeps {s₀ s : State} {a1 a2} (h : Keeps s₀ s) : Keeps s₀ (State.nextView s a1 a2) := by
  unfold State.nextView
  repeat' first
    | with_reducible assumption
    | intro _
    | with_reducible apply State.sendView_keeps
    | with_reducible apply forAll_keeps
    | with_reducible apply State.updSlot_keeps
    | with_reducible apply State.updPl_keeps

theorem State.sameView_keeps {s₀ s : State} {a1} (h : Keeps s₀ s) : Keeps s₀ (State.sameView s a1) := by
  unfold State.sameView
  repeat' first
    | with_reducible assumption
    | intro _
    | with_reducible apply State.sendView_keeps

theorem execViewSend_keeps {s₀ s : State} {a0} (h : Keeps s₀ s) : KeepsOut s₀ (execViewSend a0 s) := by
  unfold execViewSend
  repeat' first
    | with_reducible assumption
    | intro _
    | with_reducible apply State.updPl_keeps
    | with_reducible apply State.nextView_keeps
    | with_reducible apply KeepsOut.of_next
    | with_reducible apply Keeps.ite
    | simp -zeta only [Keeps.leaf]
    | split

theorem State.cutViews_keeps {s₀ s : State} (h : Keeps s₀ s) : Keeps s₀ (State.cutViews s) := by
  unfold State.cutViews
  repeat' first
    | with_reducible assumption
    | intro _
    | with_reducible apply forAll_keeps
    | with_reducible apply State.updPl_keeps
    | with_reducible apply State.nextView_keeps

theorem State.endCask_keeps {s₀ s : State} {a1 a2} (h : Keeps s₀ s) : Keeps s₀ (State.endCask s a1 a2) := by
  unfold State.endCask
  repeat' first
    | with_reducible assumption
    | intro _
    | with_reducible apply State.finish_keeps
    | with_reducible apply State.updFn_keeps
    | with_reducible apply Keeps.ite
    | simp -zeta only [Keeps.leaf]
    | split

theorem State.holdList_keeps {s₀ s : State} {a1 a2 a3} (h : Keeps s₀ s) : Keeps s₀ (State.holdList s a1 a2 a3) := by
  unfold State.holdList
  repeat' first
    | with_reducible assumption
    | intro _
    | with_reducible apply State.updPl_keeps
    | with_reducible apply State.postTo_keeps

theorem State.failStep_keeps {s₀ s : State} {a1 a2} (h : Keeps s₀ s) : Keeps s₀ (State.failStep s a1 a2) := by
  unfold State.failStep
  repeat' first
    | with_reducible assumption
    | intro _
    | with_reducible apply State.holdList_keeps
    | with_reducible apply State.updFn_keeps
    | with_reducible apply State.endCask_keeps
    | with_reducible apply Keeps.ite
    | simp -zeta only [Keeps.leaf]
    | (extract_lets +onlyGivenNames x; refine Keeps.cut (s := s₀) (x := x) ?_ (fun hx => ?_) <;> [subst x; clear_value x])
    | split

theorem State.setReady_keeps {s₀ s : State} {a1} (h : Keeps s₀ s) : Keeps s₀ (State.setReady s a1) := by
  unfold State.setReady
  repeat' first
    | with_reducible assumption
    | intro _
    | with_reducible apply State.updFn_keeps
    | with_reducible apply State.send_keeps
    | with_reducible apply Keeps.ite

theorem State.suspectStep_keeps {s₀ s : State} {a1 a2} (h : Keeps s₀ s) : Keeps s₀ (State.suspectStep s a1 a2) := by
  unfold State.suspectStep
  repeat' first
    | with_reducible assumption
    | intro _
    | with_reducible apply State.updFn_keeps
    | with_reducible apply State.failStep_keeps
    | with_reducible apply Keeps.ite

theorem State.overrunStep_keeps {s₀ s : State} {a1} (h : Keeps s₀ s) : Keeps s₀ (State.overrunStep s a1) := by
  unfold State.overrunStep
  repeat' first
    | with_reducible assumption
    | intro _
    | with_reducible apply State.suspectStep_keeps
    | with_reducible apply State.setReady_keeps
    | with_reducible apply Keeps.ite

theorem State.logSuspects_keeps {s₀ s : State} {a1 a2} (h : Keeps s₀ s) : Keeps s₀ (State.logSuspects s a1 a2) := by
  unfold State.logSuspects
  repeat' first
    | with_reducible assumption
    | intro _
    | with_reducible apply forAll_keeps
    | with_reducible apply State.report_keeps

theorem State.logCleared_keeps {s₀ s : State} {a1 a2} (h : Keeps s₀ s) : Keeps s₀ (State.logCleared s a1 a2) := by
  unfold State.logCleared
  repeat' first
    | with_reducible assumption
    | intro _
    | with_reducible apply State.updFn_keeps
    | with_reducible apply forAll_keeps
    | with_reducible apply State.report_keeps

theorem State.commitEpoch_keeps {s₀ s : State} {a1 a2} (h : Keeps s₀ s) : Keeps s₀ (State.commitEpoch s a1 a2) := by
  unfold State.commitEpoch
  repeat' first
    | with_reducible assumption
    | intro _
    | with_reducible apply State.updFn_keeps

theorem State.decideStep_keeps {s₀ s : State} {a1 a2 a3 a4 a5} (h : Keeps s₀ s) : Keeps s₀ (State.decideStep s a1 a2 a3 a4 a5) := by
  unfold State.decideStep
  repeat' first
    | with_reducible assumption
    | intro _
    | with_reducible apply State.updFn_keeps
    | with_reducible apply State.logCleared_keeps
    | with_reducible apply State.commitEpoch_keeps
    | with_reducible apply State.failStep_keeps
    | with_reducible apply State.logSuspects_keeps
    | with_reducible apply State.suspectStep_keeps
    | with_reducible apply Keeps.ite
    | simp -zeta only [Keeps.leaf]
    | (extract_lets +onlyGivenNames x; refine Keeps.cut (s := s₀) (x := x) ?_ (fun hx => ?_) <;> [subst x; clear_value x])
    | (extract_lets +onlyGivenNames x; clear_value x)
    | split

theorem State.beginStep_keeps {s₀ s : State} {a1 a2 a3 a4} (h : Keeps s₀ s) : Keeps s₀ (State.beginStep s a1 a2 a3 a4) := by
  unfold State.beginStep
  repeat' first
    | with_reducible assumption
    | intro _
    | with_reducible apply State.updFn_keeps
    | with_reducible apply Keeps.ite

theorem State.freeSub_keeps {s₀ s : State} {a1 a2} (h : Keeps s₀ s) : Keeps s₀ (State.freeSub s a1 a2) := by
  unfold State.freeSub
  repeat' first
    | with_reducible assumption
    | intro _
    | with_reducible apply forAll_keeps
    | with_reducible apply State.onStatus_keeps
    | with_reducible apply State.updHub_keeps
    | with_reducible apply State.updFn_keeps

theorem State.freeSubs_keeps {s₀ s : State} {a1} (h : Keeps s₀ s) : Keeps s₀ (State.freeSubs s a1) := by
  unfold State.freeSubs
  repeat' first
    | with_reducible assumption
    | intro _
    | with_reducible apply forAll_keeps
    | with_reducible apply State.freeSub_keeps
    | with_reducible apply State.updFr_keeps
    | with_reducible apply Keeps.ite

theorem chooseGo_keeps {s₀ s : State} {a0 a1 a2} (h : Keeps s₀ s) : KeepsOpt s₀ (chooseGo a0 a1 a2 s) := by
  induction a2 generalizing s with
  | nil =>
    unfold chooseGo
    repeat' first
      | with_reducible assumption
      | intro _
      | with_reducible apply forAll_keeps
      | with_reducible apply State.freeSub_keeps
      | with_reducible apply State.updFn_keeps
      | (refine KeepsOpt.of_eq ?_ (by assumption))
      | with_reducible apply KeepsOpt.of_some
  | cons x l ih =>
    unfold chooseGo
    repeat' first
      | with_reducible apply ih
      | with_reducible assumption
      | intro _
      | with_reducible apply forAll_keeps
      | with_reducible apply State.freeSub_keeps
      | with_reducible apply State.updFn_keeps
      | (refine KeepsOpt.of_eq ?_ (by assumption))
      | with_reducible apply KeepsOpt.of_some
      | exact KeepsOpt.of_none
      | with_reducible apply Keeps.ite
      | simp -zeta only [Keeps.leaf]
      | (extract_lets +onlyGivenNames x; refine Keeps.cut (s := s₀) (x := x) ?_ (fun hx => ?_) <;> [subst x; clear_value x])
      | (extract_lets +onlyGivenNames x; clear_value x)
      | split

theorem State.bindSubs_keeps {s₀ s : State} {a1} (h : Keeps s₀ s) : Keeps s₀ (State.bindSubs s a1) := by
  unfold State.bindSubs
  repeat' first
    | with_reducible assumption
    | intro _
    | with_reducible apply State.setReady_keeps
    | with_reducible apply chooseGo_keeps
    | with_reducible apply State.failStep_keeps
    | with_reducible apply State.sendAll_keeps
    | with_reducible apply State.updFn_keeps
    | (refine KeepsOpt.of_eq ?_ (by assumption))
    | with_reducible apply Keeps.ite
    | simp -zeta only [Keeps.leaf]
    | split

theorem execSubstituteBind_keeps {s₀ s : State} {a0} (h : Keeps s₀ s) : KeepsOut s₀ (execSubstituteBind a0 s) := by
  unfold execSubstituteBind
  repeat' first
    | with_reducible assumption
    | intro _
    | with_reducible apply State.bindSubs_keeps
    | with_reducible apply KeepsOut.of_next

theorem State.rejoin_keeps {s₀ s : State} {a1 a2} (h : Keeps s₀ s) : Keeps s₀ (State.rejoin s a1 a2) := by
  unfold State.rejoin
  repeat' first
    | with_reducible assumption
    | intro _
    | with_reducible apply State.updFr_keeps
    | with_reducible apply State.updPrec_keeps
    | with_reducible apply Keeps.ite

theorem State.bindProxy_keeps {s₀ s : State} {a1} (h : Keeps s₀ s) : Keeps s₀ (State.bindProxy s a1) := by
  unfold State.bindProxy
  repeat' first
    | with_reducible assumption
    | intro _
    | with_reducible apply forAll_keeps
    | with_reducible apply State.onStatus_keeps
    | with_reducible apply State.rejoin_keeps
    | with_reducible apply Keeps.ite
    | simp -zeta only [Keeps.leaf]
    | split

theorem State.takeProxy_keeps {s₀ s : State} {a1 a2 a3 a4} (h : Keeps s₀ s) : Keeps s₀ (State.takeProxy s a1 a2 a3 a4) := by
  unfold State.takeProxy
  repeat' first
    | with_reducible assumption
    | intro _
    | with_reducible apply State.taken_keeps
    | with_reducible apply State.failStep_keeps
    | with_reducible apply State.diverge_keeps
    | with_reducible apply State.bindProxy_keeps
    | with_reducible apply State.updHub_keeps
    | with_reducible apply State.setReady_keeps
    | with_reducible apply State.report_keeps
    | with_reducible apply Keeps.ite

theorem execProxyRecord_keeps {s₀ s : State} {a0 a1} (h : Keeps s₀ s) : KeepsOut s₀ (execProxyRecord a0 a1 s) := by
  unfold execProxyRecord
  repeat' first
    | with_reducible assumption
    | intro _
    | with_reducible apply State.stopMsg_keeps
    | with_reducible apply State.takeProxy_keeps
    | with_reducible apply KeepsOut.of_next
    | with_reducible apply Keeps.ite

theorem execReplayReadyTimeout_keeps {s₀ s : State} {a0} (h : Keeps s₀ s) : KeepsOut s₀ (execReplayReadyTimeout a0 s) := by
  unfold execReplayReadyTimeout
  repeat' first
    | with_reducible assumption
    | intro _
    | with_reducible apply State.failStep_keeps
    | with_reducible apply KeepsOut.of_next
    | with_reducible apply Keeps.ite

theorem State.putCask_keeps {s₀ s : State} {a1 a2} (h : Keeps s₀ s) : Keeps s₀ (State.putCask s a1 a2) := by
  unfold State.putCask
  repeat' first
    | with_reducible assumption
    | intro _
    | with_reducible apply Keeps.ite
    | simp -zeta only [Keeps.leaf]
    | (extract_lets +onlyGivenNames x; clear_value x)

theorem State.caskAdd_keeps {s₀ s : State} {a1} (h : Keeps s₀ s) : Keeps s₀ (State.caskAdd s a1) := by
  unfold State.caskAdd
  repeat' first
    | with_reducible assumption
    | intro _
    | with_reducible apply Keeps.ite
    | simp -zeta only [Keeps.leaf]
    | (extract_lets +onlyGivenNames x; clear_value x)

theorem State.caskWrite_keeps {s₀ s : State} {a1} (h : Keeps s₀ s) : Keeps s₀ (State.caskWrite s a1) := by
  unfold State.caskWrite
  repeat' first
    | with_reducible assumption
    | intro _
    | with_reducible apply State.caskAdd_keeps
    | with_reducible apply State.drawn_keeps
    | with_reducible apply Keeps.ite
    | simp -zeta only [Keeps.leaf]
    | (extract_lets +onlyGivenNames x; clear_value x)
    | split

theorem execCaskRecordWrite_keeps {s₀ s : State} {a0} (h : Keeps s₀ s) : KeepsOut s₀ (execCaskRecordWrite a0 s) := by
  unfold execCaskRecordWrite
  repeat' first
    | with_reducible assumption
    | intro _
    | with_reducible apply State.caskWrite_keeps
    | with_reducible apply KeepsOut.of_next

theorem State.updRun_keeps {s₀ s : State} {a1 a2} (h : Keeps s₀ s) : Keeps s₀ (State.updRun s a1 a2) := by
  unfold State.updRun
  repeat' first
    | with_reducible assumption
    | intro _
    | with_reducible apply State.updFn_keeps
    | with_reducible apply h2
    | with_reducible apply Keeps.ite
    | simp -zeta only [Keeps.leaf]

theorem State.enterPhase_keeps {s₀ s : State} {a1 a2 a3} (h : Keeps s₀ s) : Keeps s₀ (State.enterPhase s a1 a2 a3) := by
  unfold State.enterPhase
  repeat' first
    | with_reducible assumption
    | intro _
    | with_reducible apply forAll_keeps
    | with_reducible apply State.openGen_keeps
    | with_reducible apply State.updRun_keeps

theorem State.walkPhase_keeps {s₀ s : State} {a1} (h : Keeps s₀ s) : KeepsOpt s₀ (State.walkPhase s a1) := by
  unfold State.walkPhase
  repeat' first
    | with_reducible assumption
    | intro _
    | with_reducible apply State.updRun_keeps
    | with_reducible apply State.openGen_keeps
    | with_reducible apply State.enterPhase_keeps
    | (refine KeepsOpt.of_eq ?_ (by assumption))
    | with_reducible apply KeepsOpt.of_some
    | exact KeepsOpt.of_none
    | with_reducible apply Keeps.ite
    | simp -zeta only [Keeps.leaf]
    | split

theorem walkPhases_keeps {s₀ s : State} {a0 a1} (h : Keeps s₀ s) : Keeps s₀ (walkPhases a0 a1 s) := by
  induction a1 generalizing s with
  | zero =>
    unfold walkPhases
    repeat' first
      | with_reducible assumption
  | succ n ih =>
    unfold walkPhases
    repeat' first
      | with_reducible apply ih
      | with_reducible assumption
      | intro _
      | with_reducible apply State.walkPhase_keeps
      | (refine KeepsOpt.of_eq ?_ (by assumption))
      | with_reducible apply Keeps.ite
      | simp -zeta only [Keeps.leaf]
      | split

theorem State.setRoles_keeps {s₀ s : State} {a1 a2} (h : Keeps s₀ s) : Keeps s₀ (State.setRoles s a1 a2) := by
  unfold State.setRoles
  repeat' first
    | with_reducible assumption
    | intro _
    | with_reducible apply forAll_keeps
    | with_reducible apply State.updPrec_keeps
    | with_reducible apply Keeps.ite

theorem State.freeList_keeps {s₀ s : State} {a1 a2} (h : Keeps s₀ s) : Keeps s₀ (State.freeList s a1 a2) := by
  unfold State.freeList
  repeat' first
    | with_reducible assumption
    | intro _
    | with_reducible apply State.updFn_keeps
    | with_reducible apply State.setPl_keeps
    | with_reducible apply forAll_keeps
    | with_reducible apply State.setRoles_keeps

theorem State.leaveHeld_keeps {s₀ s : State} {a1 a2} (h : Keeps s₀ s) : Keeps s₀ (State.leaveHeld s a1 a2) := by
  unfold State.leaveHeld
  repeat' first
    | with_reducible assumption
    | intro _
    | with_reducible apply State.updFn_keeps
    | with_reducible apply Keeps.ite

theorem State.retireNow_keeps {s₀ s : State} {a1 a2 a3 a4} (h : Keeps s₀ s) : Keeps s₀ (State.retireNow s a1 a2 a3 a4) := by
  unfold State.retireNow
  repeat' first
    | with_reducible assumption
    | intro _
    | with_reducible apply State.leaveHeld_keeps
    | with_reducible apply State.finish_keeps
    | with_reducible apply State.freeList_keeps
    | with_reducible apply State.postTo_keeps
    | with_reducible apply State.retireSlots_keeps
    | with_reducible apply Keeps.ite
    | simp -zeta only [Keeps.leaf]
    | split

theorem State.countStep_keeps {s₀ s : State} {a1 a2} (h : Keeps s₀ s) : Keeps s₀ (State.countStep s a1 a2) := by
  unfold State.countStep
  repeat' first
    | with_reducible assumption
    | intro _
    | with_reducible apply State.updRun_keeps
    | with_reducible apply State.applyDecisions_keeps
    | with_reducible apply State.updPl_keeps

theorem State.putImage_keeps {s₀ s : State} {a1 a2 a3} (h : Keeps s₀ s) : Keeps s₀ (State.putImage s a1 a2 a3) := by
  unfold State.putImage
  repeat' first
    | with_reducible assumption
    | intro _
    | with_reducible apply State.updPl_keeps
    | with_reducible apply State.updFn_keeps
    | with_reducible apply forAll_keeps
    | with_reducible apply State.setRoles_keeps

theorem State.afterHeel_keeps {s₀ s : State} {a1 a2 a3 a4} (h : Keeps s₀ s) : Keeps s₀ (State.afterHeel s a1 a2 a3 a4) := by
  unfold State.afterHeel
  repeat' first
    | with_reducible assumption
    | intro _
    | with_reducible apply State.retireNow_keeps
    | with_reducible apply State.postTo_keeps
    | with_reducible apply State.freeList_keeps
    | with_reducible apply State.updPl_keeps
    | with_reducible apply State.putImage_keeps
    | with_reducible apply State.setRoles_keeps
    | with_reducible apply Keeps.ite
    | simp -zeta only [Keeps.leaf]
    | (extract_lets +onlyGivenNames x; refine Keeps.cut (s := s₀) (x := x) ?_ (fun hx => ?_) <;> [subst x; clear_value x])
    | (extract_lets +onlyGivenNames x; clear_value x)
    | split

theorem State.voidChoice_keeps {s₀ s : State} {a1} (h : Keeps s₀ s) : Keeps s₀ (State.voidChoice s a1) := by
  unfold State.voidChoice
  repeat' first
    | with_reducible assumption
    | intro _
    | with_reducible apply State.updFn_keeps
    | with_reducible apply State.afterHeel_keeps
    | with_reducible apply Keeps.ite
    | simp -zeta only [Keeps.leaf]
    | (extract_lets +onlyGivenNames x; refine Keeps.cut (s := s₀) (x := x) ?_ (fun hx => ?_) <;> [subst x; clear_value x])
    | split

theorem State.dropWalks_keeps {s₀ s : State} {a1} (h : Keeps s₀ s) : Keeps s₀ (State.dropWalks s a1) := by
  unfold State.dropWalks
  repeat' first
    | with_reducible assumption
    | intro _
    | with_reducible apply State.mapHub_keeps

theorem State.closeStep_keeps {s₀ s : State} {a1 a2} (h : Keeps s₀ s) : Keeps s₀ (State.closeStep s a1 a2) := by
  unfold State.closeStep
  repeat' first
    | with_reducible assumption
    | intro _
    | with_reducible apply State.updFn_keeps
    | with_reducible apply State.dropWalks_keeps
    | with_reducible apply State.afterHeel_keeps
    | with_reducible apply Keeps.ite
    | simp -zeta only [Keeps.leaf]
    | (extract_lets +onlyGivenNames x; refine Keeps.cut (s := s₀) (x := x) ?_ (fun hx => ?_) <;> [subst x; clear_value x])
    | split

theorem State.holdNotice_keeps {s₀ s : State} (h : Keeps s₀ s) : Keeps s₀ (State.holdNotice s) := by
  unfold State.holdNotice
  repeat' first
    | with_reducible assumption
    | intro _
    | with_reducible apply State.send_keeps
    | with_reducible apply Keeps.ite
    | simp -zeta only [Keeps.leaf]

theorem State.takeSkew_keeps {s₀ s : State} {a1 a2 a3} (h : Keeps s₀ s) : Keeps s₀ (State.takeSkew s a1 a2 a3) := by
  unfold State.takeSkew
  repeat' first
    | with_reducible assumption
    | intro _
    | with_reducible apply State.updFn_keeps

theorem State.noticeField_keeps {s₀ s : State} {a1 a2 a3} (h : Keeps s₀ s) : Keeps s₀ (State.noticeField s a1 a2 a3) := by
  unfold State.noticeField
  repeat' first
    | with_reducible assumption
    | intro _
    | with_reducible apply forAll_keeps
    | with_reducible apply State.updFn_keeps
    | with_reducible apply State.send_keeps
    | with_reducible apply Keeps.ite

theorem State.clearThrots_keeps {s₀ s : State} (h : Keeps s₀ s) : Keeps s₀ (State.clearThrots s) := by
  unfold State.clearThrots
  repeat' first
    | with_reducible assumption
    | intro _
    | with_reducible apply forAll_keeps
    | with_reducible apply State.updFn_keeps

theorem State.clearField_keeps {s₀ s : State} {a1} (h : Keeps s₀ s) : Keeps s₀ (State.clearField s a1) := by
  unfold State.clearField
  repeat' first
    | with_reducible assumption
    | intro _
    | with_reducible apply State.send_keeps
    | with_reducible apply State.clearThrots_keeps
    | with_reducible apply Keeps.ite

theorem State.katStop_keeps {s₀ s : State} (h : Keeps s₀ s) : Keeps s₀ (State.katStop s) := by
  unfold State.katStop
  repeat' first
    | with_reducible assumption
    | intro _
    | with_reducible apply forAll_keeps
    | with_reducible apply State.idleBarrier_keeps
    | with_reducible apply State.mapHub_keeps
    | with_reducible apply Keeps.ite
    | simp -zeta only [Keeps.leaf]
    | (extract_lets +onlyGivenNames x; refine Keeps.cut (s := s₀) (x := x) ?_ (fun hx => ?_) <;> [subst x; clear_value x])
    | split

theorem State.katJudge_keeps {s₀ s : State} {a1 a2} (h : Keeps s₀ s) : Keeps s₀ (State.katJudge s a1 a2) := by
  unfold State.katJudge
  repeat' first
    | with_reducible assumption
    | intro _
    | with_reducible apply forAll_keeps
    | with_reducible apply State.report_keeps
    | with_reducible apply Keeps.ite
    | simp -zeta only [Keeps.leaf]
    | (extract_lets +onlyGivenNames x; refine Keeps.cut (s := s₀) (x := x) ?_ (fun hx => ?_) <;> [subst x; clear_value x])
    | (extract_lets +onlyGivenNames x; clear_value x)
    | split

theorem State.katDrop_keeps {s₀ s : State} {a1} (h : Keeps s₀ s) : Keeps s₀ (State.katDrop s a1) := by
  unfold State.katDrop
  repeat' first
    | with_reducible assumption
    | intro _
    | with_reducible apply State.katStop_keeps
    | with_reducible apply Keeps.ite
    | simp -zeta only [Keeps.leaf]
    | split

theorem State.heelReleased_keeps {s₀ s : State} {a1} (h : Keeps s₀ s) : Keeps s₀ (State.heelReleased s a1) := by
  unfold State.heelReleased
  repeat' first
    | with_reducible assumption
    | intro _
    | with_reducible apply State.countStep_keeps
    | with_reducible apply State.updFn_keeps
    | with_reducible apply State.clearThrots_keeps
    | with_reducible apply State.holdNotice_keeps
    | with_reducible apply State.closeStep_keeps
    | with_reducible apply Keeps.ite
    | simp -zeta only [Keeps.leaf]
    | split

theorem State.stepHeel_keeps {s₀ s : State} {a1} (h : Keeps s₀ s) : Keeps s₀ (State.stepHeel s a1) := by
  unfold State.stepHeel
  repeat' first
    | with_reducible assumption
    | intro _
    | with_reducible apply State.holdNotice_keeps
    | with_reducible apply State.katStop_keeps
    | with_reducible apply State.heelReleased_keeps
    | with_reducible apply Keeps.ite

theorem State.commitEmpty_keeps {s₀ s : State} {a1 a2} (h : Keeps s₀ s) : Keeps s₀ (State.commitEmpty s a1 a2) := by
  unfold State.commitEmpty
  repeat' first
    | with_reducible assumption
    | intro _
    | with_reducible apply State.updRun_keeps
    | with_reducible apply State.decideStep_keeps
    | with_reducible apply State.countStep_keeps
    | with_reducible apply Keeps.ite

theorem walkEnd_keeps {s₀ s : State} {a0 a1} (h : Keeps s₀ s) : Keeps s₀ (walkEnd a0 a1 s) := by
  induction a1 generalizing s with
  | zero =>
    unfold walkEnd
    repeat' first
      | with_reducible assumption
  | succ n ih =>
    unfold walkEnd
    repeat' first
      | with_reducible apply ih
      | with_reducible assumption
      | intro _
      | with_reducible apply State.commitEmpty_keeps
      | with_reducible apply State.openGen_keeps
      | with_reducible apply State.updRun_keeps
      | with_reducible apply State.stepHeel_keeps
      | with_reducible apply Keeps.ite
      | simp -zeta only [Keeps.leaf]
      | split

theorem State.walkGo_keeps {s₀ s : State} {a1} (h : Keeps s₀ s) : Keeps s₀ (State.walkGo s a1) := by
  unfold State.walkGo
  repeat' first
    | with_reducible assumption
    | intro _
    | with_reducible apply walkEnd_keeps
    | with_reducible apply walkPhases_keeps

theorem State.commitReleased_keeps {s₀ s : State} {a1 a2 a3 a4} (h : Keeps s₀ s) : Keeps s₀ (State.commitReleased s a1 a2 a3 a4) := by
  unfold State.commitReleased
  repeat' first
    | with_reducible assumption
    | intro _
    | with_reducible apply State.updRun_keeps
    | with_reducible apply State.katJudge_keeps
    | with_reducible apply State.decideStep_keeps
    | with_reducible apply State.countStep_keeps
    | with_reducible apply State.dropDecisions_keeps
    | with_reducible apply Keeps.ite

theorem State.walkRelease_keeps {s₀ s : State} {a1 a2 a3 a4} (h : Keeps s₀ s) : Keeps s₀ (State.walkRelease s a1 a2 a3 a4) := by
  unfold State.walkRelease
  repeat' first
    | with_reducible assumption
    | intro _
    | with_reducible apply State.walkGo_keeps
    | with_reducible apply State.commitReleased_keeps
    | with_reducible apply State.stepHeel_keeps
    | with_reducible apply State.updRun_keeps
    | with_reducible apply Keeps.ite
    | simp -zeta only [Keeps.leaf]
    | (extract_lets +onlyGivenNames x; refine Keeps.cut (s := s₀) (x := x) ?_ (fun hx => ?_) <;> [subst x; clear_value x])
    | (extract_lets +onlyGivenNames x; clear_value x)
    | split

theorem State.abortSpan_keeps {s₀ s : State} {a1} (h : Keeps s₀ s) : Keeps s₀ (State.abortSpan s a1) := by
  unfold State.abortSpan
  repeat' first
    | with_reducible assumption
    | intro _
    | with_reducible apply State.updSrec_keeps
    | with_reducible apply Keeps.ite
    | simp -zeta only [Keeps.leaf]

theorem State.overrunFn_keeps {s₀ s : State} {a1} (h : Keeps s₀ s) : Keeps s₀ (State.overrunFn s a1) := by
  unfold State.overrunFn
  repeat' first
    | with_reducible assumption
    | intro _
    | with_reducible apply forAll_keeps
    | with_reducible apply State.abortSpan_keeps
    | with_reducible apply State.abortRoot_keeps
    | with_reducible apply State.sendAll_keeps
    | with_reducible apply State.dropDecisions_keeps
    | with_reducible apply State.overrunStep_keeps
    | with_reducible apply State.countStep_keeps
    | with_reducible apply State.updFn_keeps
    | with_reducible apply State.voidChoice_keeps
    | with_reducible apply State.closeStep_keeps
    | with_reducible apply Keeps.ite
    | simp -zeta only [Keeps.leaf]
    | split

theorem State.abortStep_keeps {s₀ s : State} {a1} (h : Keeps s₀ s) : Keeps s₀ (State.abortStep s a1) := by
  unfold State.abortStep
  repeat' first
    | with_reducible assumption
    | intro _
    | with_reducible apply State.closeStep_keeps
    | with_reducible apply State.dropDecisions_keeps
    | with_reducible apply State.updFn_keeps
    | with_reducible apply State.voidChoice_keeps
    | with_reducible apply State.holdNotice_keeps
    | with_reducible apply State.katDrop_keeps
    | with_reducible apply Keeps.ite
    | simp -zeta only [Keeps.leaf]
    | split

end Sys2Proof.Machine
end

