-- ==== Sys2Proof/Laws/KeepsSpan.lean ====
section
/-! SUPPORT. What every operation keeps (`Keeps`): the ring-issued requests, aborts and resets, and the span. -/

namespace Sys2Proof.Machine

open Sys2Proof

theorem State.toWafer_keeps {s₀ s : State} {a1 a2} (h : Keeps s₀ s) : Keeps s₀ (State.toWafer s a1 a2) := by
  unfold State.toWafer
  repeat' first
    | with_reducible assumption
    | intro _
    | with_reducible apply State.send_keeps

theorem State.toAll_keeps {s₀ s : State} {a1} (h : Keeps s₀ s) : Keeps s₀ (State.toAll s a1) := by
  unfold State.toAll
  repeat' first
    | with_reducible assumption
    | intro _
    | with_reducible apply State.send_keeps

theorem State.leadInject_keeps {s₀ s : State} {a1 a2 a3} (h : Keeps s₀ s) : Keeps s₀ (State.leadInject s a1 a2 a3) := by
  unfold State.leadInject
  repeat' first
    | with_reducible assumption
    | intro _
    | with_reducible apply State.refuseKen_keeps
    | with_reducible apply State.send_keeps
    | with_reducible apply Keeps.ite

theorem State.spanReq_keeps {s₀ s : State} {a1 a2 a3} (h : Keeps s₀ s) : Keeps s₀ (State.spanReq s a1 a2 a3) := by
  unfold State.spanReq
  repeat' first
    | with_reducible assumption
    | intro _
    | with_reducible apply State.leadInject_keeps
    | with_reducible apply State.drawn_keeps
    | with_reducible apply State.toWafer_keeps
    | with_reducible apply State.refuseKen_keeps
    | with_reducible apply Keeps.ite
    | simp -zeta only [Keeps.leaf]
    | (extract_lets +onlyGivenNames x; refine Keeps.cut (s := s₀) (x := x) ?_ (fun hx => ?_) <;> [subst x; clear_value x])
    | (extract_lets +onlyGivenNames x; clear_value x)
    | split

theorem execKenReqSpan_keeps {s₀ s : State} {a0 a1 a2 a3} (h : Keeps s₀ s) : KeepsOut s₀ (execKenReqSpan a0 a1 a2 a3 s) := by
  unfold execKenReqSpan
  repeat' first
    | with_reducible assumption
    | intro _
    | with_reducible apply State.stopMsg_keeps
    | with_reducible apply State.taken_keeps
    | with_reducible apply State.refuseKen_keeps
    | with_reducible apply State.spanReq_keeps
    | with_reducible apply KeepsOut.of_next
    | with_reducible apply Keeps.ite
    | simp -zeta only [Keeps.leaf]
    | (extract_lets +onlyGivenNames x; refine Keeps.cut (s := s₀) (x := x) ?_ (fun hx => ?_) <;> [subst x; clear_value x])
    | split

theorem State.fnSend_keeps {s₀ s : State} {a1 a2 a3 a4} (h : Keeps s₀ s) : Keeps s₀ (State.fnSend s a1 a2 a3 a4) := by
  unfold State.fnSend
  repeat' first
    | with_reducible assumption
    | intro _
    | with_reducible apply State.spanReq_keeps
    | with_reducible apply State.send_keeps
    | with_reducible apply Keeps.ite

theorem State.ringSend_keeps {s₀ s : State} {a1 a2 a3 a4 a5} (h : Keeps s₀ s) : Keeps s₀ (State.ringSend s a1 a2 a3 a4 a5) := by
  unfold State.ringSend
  repeat' first
    | with_reducible assumption
    | intro _
    | with_reducible apply State.updRing_keeps
    | with_reducible apply State.drawn_keeps
    | with_reducible apply State.fnSend_keeps

theorem State.kenGo_keeps {s₀ s : State} {a1 a2 a3 a4 a5} (h : Keeps s₀ s) : Keeps s₀ (State.kenGo s a1 a2 a3 a4 a5) := by
  unfold State.kenGo
  repeat' first
    | with_reducible assumption
    | intro _
    | with_reducible apply State.finish_keeps
    | with_reducible apply State.ringSend_keeps
    | with_reducible apply State.emit_keeps
    | with_reducible apply State.updRing_keeps
    | with_reducible apply Keeps.ite
    | simp -zeta only [Keeps.leaf]
    | split

theorem State.pushRing_keeps {s₀ s : State} {a1 a2} (h : Keeps s₀ s) : Keeps s₀ (State.pushRing s a1 a2) := by
  unfold State.pushRing
  repeat' first
    | with_reducible assumption
    | intro _
    | with_reducible apply forAll_keeps
    | with_reducible apply State.kenGo_keeps
    | with_reducible apply Keeps.ite
    | simp -zeta only [Keeps.leaf]
    | split

theorem State.kennelDesc_keeps {s₀ s : State} {a1 a2 a3} (h : Keeps s₀ s) : Keeps s₀ (State.kennelDesc s a1 a2 a3) := by
  unfold State.kennelDesc
  repeat' first
    | with_reducible assumption
    | intro _
    | with_reducible apply State.pushRing_keeps
    | with_reducible apply State.updRing_keeps
    | with_reducible apply Keeps.ite
    | simp -zeta only [Keeps.leaf]
    | split

theorem execKennelDesc_keeps {s₀ s : State} {a0 a1} (h : Keeps s₀ s) : KeepsOut s₀ (execKennelDesc a0 a1 s) := by
  unfold execKennelDesc
  repeat' first
    | with_reducible assumption
    | intro _
    | with_reducible apply State.finish_keeps
    | with_reducible apply State.drawn_keeps
    | with_reducible apply State.kennelDesc_keeps
    | with_reducible apply KeepsOut.of_next
    | with_reducible apply Keeps.ite
    | simp -zeta only [Keeps.leaf]
    | split

theorem State.endAtRing_keeps {s₀ s : State} {a1 a2 a3} (h : Keeps s₀ s) : Keeps s₀ (State.endAtRing s a1 a2 a3) := by
  unfold State.endAtRing
  repeat' first
    | with_reducible assumption
    | intro _
    | with_reducible apply State.updFn_keeps
    | with_reducible apply State.updRing_keeps
    | with_reducible apply State.finish_keeps
    | with_reducible apply Keeps.ite
    | simp -zeta only [Keeps.leaf]
    | split

theorem State.endAtLead_keeps {s₀ s : State} {a1} (h : Keeps s₀ s) : Keeps s₀ (State.endAtLead s a1) := by
  unfold State.endAtLead
  repeat' first
    | with_reducible assumption
    | intro _
    | with_reducible apply State.toWafer_keeps
    | with_reducible apply Keeps.ite
    | simp -zeta only [Keeps.leaf]
    | (extract_lets +onlyGivenNames x; clear_value x)
    | split

theorem State.kenRsp_keeps {s₀ s : State} {a1 a2} (h : Keeps s₀ s) : Keeps s₀ (State.kenRsp s a1 a2) := by
  unfold State.kenRsp
  repeat' first
    | with_reducible assumption
    | intro _
    | with_reducible apply State.taken_keeps
    | with_reducible apply State.endAtLead_keeps
    | with_reducible apply State.endAtRing_keeps
    | with_reducible apply State.endAtCsn_keeps
    | with_reducible apply Keeps.ite

theorem execKenRsp_keeps {s₀ s : State} {a0 a1} (h : Keeps s₀ s) : KeepsOut s₀ (execKenRsp a0 a1 s) := by
  unfold execKenRsp
  repeat' first
    | with_reducible assumption
    | intro _
    | with_reducible apply State.stopMsg_keeps
    | with_reducible apply State.kenRsp_keeps
    | with_reducible apply KeepsOut.of_next
    | with_reducible apply Keeps.ite

theorem State.invAck_keeps {s₀ s : State} {a1} (h : Keeps s₀ s) : Keeps s₀ (State.invAck s a1) := by
  unfold State.invAck
  repeat' first
    | with_reducible assumption
    | intro _
    | with_reducible apply State.pushReqs_keeps
    | with_reducible apply State.launch_keeps
    | with_reducible apply State.pushRing_keeps
    | with_reducible apply State.ringSend_keeps
    | with_reducible apply Keeps.ite
    | simp -zeta only [Keeps.leaf]
    | split

theorem execInvAck_keeps {s₀ s : State} {a0} (h : Keeps s₀ s) : KeepsOut s₀ (execInvAck a0 s) := by
  unfold execInvAck
  repeat' first
    | with_reducible assumption
    | intro _
    | with_reducible apply State.invAck_keeps
    | with_reducible apply KeepsOut.of_next

theorem State.invTimeout_keeps {s₀ s : State} {a1} (h : Keeps s₀ s) : Keeps s₀ (State.invTimeout s a1) := by
  unfold State.invTimeout
  repeat' first
    | with_reducible assumption
    | intro _
    | with_reducible apply State.report_keeps
    | with_reducible apply State.updCore_keeps
    | with_reducible apply State.emit_keeps
    | with_reducible apply State.settle_keeps
    | with_reducible apply State.pushReqs_keeps
    | with_reducible apply State.finish_keeps
    | with_reducible apply State.updRing_keeps
    | with_reducible apply State.pushRing_keeps
    | with_reducible apply Keeps.ite
    | simp -zeta only [Keeps.leaf]
    | (extract_lets +onlyGivenNames x; refine Keeps.cut (s := s₀) (x := x) ?_ (fun hx => ?_) <;> [subst x; clear_value x])
    | split

theorem execInvTimeout_keeps {s₀ s : State} {a0} (h : Keeps s₀ s) : KeepsOut s₀ (execInvTimeout a0 s) := by
  unfold execInvTimeout
  repeat' first
    | with_reducible assumption
    | intro _
    | with_reducible apply State.invTimeout_keeps
    | with_reducible apply KeepsOut.of_next

theorem State.ringWithdraw_keeps {s₀ s : State} {a1 a2} (h : Keeps s₀ s) : Keeps s₀ (State.ringWithdraw s a1 a2) := by
  unfold State.ringWithdraw
  repeat' first
    | with_reducible assumption
    | intro _
    | with_reducible apply State.updFn_keeps
    | with_reducible apply State.drawn_keeps
    | with_reducible apply State.fnSend_keeps
    | with_reducible apply Keeps.ite
    | simp -zeta only [Keeps.leaf]
    | (extract_lets +onlyGivenNames x; refine Keeps.cut (s := s₀) (x := x) ?_ (fun hx => ?_) <;> [subst x; clear_value x])
    | (extract_lets +onlyGivenNames x; clear_value x)
    | split

theorem State.withdrawRing_keeps {s₀ s : State} {a1 a2} (h : Keeps s₀ s) : Keeps s₀ (State.withdrawRing s a1 a2) := by
  unfold State.withdrawRing
  repeat' first
    | with_reducible assumption
    | intro _
    | with_reducible apply forAll_keeps
    | with_reducible apply State.ringWithdraw_keeps

theorem State.endRelays_keeps {s₀ s : State} {a1 a2} (h : Keeps s₀ s) : Keeps s₀ (State.endRelays s a1 a2) := by
  unfold State.endRelays
  repeat' first
    | with_reducible assumption
    | intro _
    | with_reducible apply forAll_keeps
    | with_reducible apply State.send_keeps
    | with_reducible apply h1
    | with_reducible apply Keeps.ite
    | simp -zeta only [Keeps.leaf]

theorem State.resetFnRegs_keeps {s₀ s : State} {a1} (h : Keeps s₀ s) : Keeps s₀ (State.resetFnRegs s a1) := by
  unfold State.resetFnRegs
  repeat' first
    | with_reducible assumption
    | intro _
    | with_reducible apply State.updFn_keeps

theorem State.resetAllRegs_keeps {s₀ s : State} (h : Keeps s₀ s) : Keeps s₀ (State.resetAllRegs s) := by
  unfold State.resetAllRegs
  repeat' first
    | with_reducible assumption
    | intro _
    | with_reducible apply forAll_keeps
    | with_reducible apply State.updFn_keeps
    | with_reducible apply State.resetFnRegs_keeps
    | with_reducible apply Keeps.ite
    | simp -zeta only [Keeps.leaf]

theorem State.errBit_keeps {s₀ s : State} {a1} (h : Keeps s₀ s) : Keeps s₀ (State.errBit s a1) := by
  unfold State.errBit
  repeat' first
    | with_reducible assumption
    | intro _
    | with_reducible apply State.msix_keeps
    | with_reducible apply Keeps.ite
    | simp -zeta only [Keeps.leaf]

theorem State.spanEvt_keeps {s₀ s : State} {a1} (h : Keeps s₀ s) : Keeps s₀ (State.spanEvt s a1) := by
  unfold State.spanEvt
  repeat' first
    | with_reducible assumption
    | intro _
    | with_reducible apply State.msix_keeps
    | with_reducible apply Keeps.ite
    | simp -zeta only [Keeps.leaf]

theorem State.abortFn_keeps {s₀ s : State} {a1 a2 a3} (h : Keeps s₀ s) : Keeps s₀ (State.abortFn s a1 a2 a3) := by
  unfold State.abortFn
  repeat' first
    | with_reducible assumption
    | intro _
    | with_reducible apply State.abortStep_keeps
    | with_reducible apply forAll_keeps
    | with_reducible apply State.abortSpan_keeps
    | with_reducible apply State.abortRoot_keeps
    | with_reducible apply State.endRelays_keeps
    | with_reducible apply State.sendAll_keeps

theorem State.breakJob_keeps {s₀ s : State} {a1 a2} (h : Keeps s₀ s) : Keeps s₀ (State.breakJob s a1 a2) := by
  unfold State.breakJob
  repeat' first
    | with_reducible assumption
    | intro _
    | with_reducible apply State.endCask_keeps
    | with_reducible apply State.abortFn_keeps
    | with_reducible apply forAll_keeps
    | with_reducible apply State.updPl_keeps
    | with_reducible apply State.spanEvt_keeps
    | with_reducible apply State.updFn_keeps
    | with_reducible apply Keeps.ite

theorem State.abortApplied_keeps {s₀ s : State} {a1 a2} (h : Keeps s₀ s) : Keeps s₀ (State.abortApplied s a1 a2) := by
  unfold State.abortApplied
  repeat' first
    | with_reducible assumption
    | intro _
    | with_reducible apply Keeps.ite
    | simp -zeta only [Keeps.leaf]
    | (extract_lets +onlyGivenNames x; clear_value x)

theorem State.abortAtHub_keeps {s₀ s : State} {a1 a2 a3} (h : Keeps s₀ s) : Keeps s₀ (State.abortAtHub s a1 a2 a3) := by
  unfold State.abortAtHub
  repeat' first
    | with_reducible assumption
    | intro _
    | with_reducible apply State.abortApplied_keeps
    | with_reducible apply State.abortWaiters_keeps
    | with_reducible apply forAll_keeps
    | with_reducible apply State.abortHub_keeps
    | with_reducible apply State.sendAll_keeps
    | with_reducible apply Keeps.ite

theorem State.abortReq_keeps {s₀ s : State} {a1 a2 a3} (h : Keeps s₀ s) : Keeps s₀ (State.abortReq s a1 a2 a3) := by
  unfold State.abortReq
  repeat' first
    | with_reducible assumption
    | intro _
    | with_reducible apply State.emit_keeps
    | with_reducible apply State.withdrawReq_keeps
    | with_reducible apply State.updCore_keeps
    | with_reducible apply Keeps.ite

theorem State.holdCore_keeps {s₀ s : State} {a1} (h : Keeps s₀ s) : Keeps s₀ (State.holdCore s a1) := by
  unfold State.holdCore
  repeat' first
    | with_reducible assumption
    | intro _
    | with_reducible apply State.updCore_keeps
    | with_reducible apply State.updCsn_keeps
    | with_reducible apply forAll_keeps
    | with_reducible apply State.withdrawReq_keeps
    | with_reducible apply State.cinvAck_keeps
    | with_reducible apply State.emit_keeps
    | with_reducible apply Keeps.ite
    | simp -zeta only [Keeps.leaf]
    | split

theorem State.holdCsn_keeps {s₀ s : State} {a1} (h : Keeps s₀ s) : Keeps s₀ (State.holdCsn s a1) := by
  unfold State.holdCsn
  repeat' first
    | with_reducible assumption
    | intro _
    | with_reducible apply forAll_keeps
    | with_reducible apply State.holdCore_keeps
    | with_reducible apply State.updCsn_keeps
    | with_reducible apply Keeps.ite

theorem State.abortAtCsn_keeps {s₀ s : State} {a1 a2 a3 a4} (h : Keeps s₀ s) : Keeps s₀ (State.abortAtCsn s a1 a2 a3 a4) := by
  unfold State.abortAtCsn
  repeat' first
    | with_reducible assumption
    | intro _
    | with_reducible apply State.updCsn_keeps
    | with_reducible apply forAll_keeps
    | with_reducible apply State.abortEnt_keeps
    | with_reducible apply State.raise_keeps
    | with_reducible apply State.abortReq_keeps
    | with_reducible apply State.holdCsn_keeps
    | with_reducible apply State.settle_keeps
    | with_reducible apply Keeps.ite

theorem execAbort_keeps {s₀ s : State} {a0 a1 a2 a3} (h : Keeps s₀ s) : KeepsOut s₀ (execAbort a0 a1 a2 a3 s) := by
  unfold execAbort
  repeat' first
    | with_reducible assumption
    | intro _
    | with_reducible apply State.stopMsg_keeps
    | with_reducible apply State.taken_keeps
    | with_reducible apply State.abortAtHub_keeps
    | with_reducible apply State.abortAtCsn_keeps
    | with_reducible apply KeepsOut.of_next
    | with_reducible apply Keeps.ite
    | simp -zeta only [Keeps.leaf]
    | split

theorem State.noteAtRoot_keeps {s₀ s : State} {a1} (h : Keeps s₀ s) : Keeps s₀ (State.noteAtRoot s a1) := by
  unfold State.noteAtRoot
  repeat' first
    | with_reducible assumption
    | intro _
    | with_reducible apply State.sendAll_keeps
    | with_reducible apply Keeps.ite

theorem execResetNoteAtRoot_keeps {s₀ s : State} {a0} (h : Keeps s₀ s) : KeepsOut s₀ (execResetNoteAtRoot a0 s) := by
  unfold execResetNoteAtRoot
  repeat' first
    | with_reducible assumption
    | intro _
    | with_reducible apply State.stopMsg_keeps
    | with_reducible apply State.noteAtRoot_keeps
    | with_reducible apply State.taken_keeps
    | with_reducible apply KeepsOut.of_next
    | with_reducible apply Keeps.ite

theorem State.needVarvo_keeps {s₀ s : State} {a1} (h : Keeps s₀ s) : Keeps s₀ (State.needVarvo s a1) := by
  unfold State.needVarvo
  repeat' first
    | with_reducible assumption
    | intro _
    | with_reducible apply Keeps.ite
    | simp -zeta only [Keeps.leaf]

theorem State.decideReset_keeps {s₀ s : State} {a1 a2 a3} (h : Keeps s₀ s) : Keeps s₀ (State.decideReset s a1 a2 a3) := by
  unfold State.decideReset
  repeat' first
    | with_reducible assumption
    | intro _
    | with_reducible apply State.updFn_keeps

theorem State.containAtRoot_keeps {s₀ s : State} {a1} (h : Keeps s₀ s) : Keeps s₀ (State.containAtRoot s a1) := by
  unfold State.containAtRoot
  repeat' first
    | with_reducible assumption
    | intro _
    | with_reducible apply State.needVarvo_keeps
    | with_reducible apply State.decideReset_keeps
    | with_reducible apply Keeps.ite

theorem execResetNoteContain_keeps {s₀ s : State} {a0} (h : Keeps s₀ s) : KeepsOut s₀ (execResetNoteContain a0 s) := by
  unfold execResetNoteContain
  repeat' first
    | with_reducible assumption
    | intro _
    | with_reducible apply State.stopMsg_keeps
    | with_reducible apply State.containAtRoot_keeps
    | with_reducible apply State.taken_keeps
    | with_reducible apply KeepsOut.of_next
    | with_reducible apply Keeps.ite

theorem State.clearMailbox_keeps {s₀ s : State} {a1} (h : Keeps s₀ s) : Keeps s₀ (State.clearMailbox s a1) := by
  unfold State.clearMailbox
  repeat' first
    | with_reducible assumption
    | intro _
    | with_reducible apply State.updFn_keeps
    | with_reducible apply Keeps.ite
    | simp -zeta only [Keeps.leaf]
    | (extract_lets +onlyGivenNames x; refine Keeps.cut (s := s₀) (x := x) ?_ (fun hx => ?_) <;> [subst x; clear_value x])

theorem State.breakByReset_keeps {s₀ s : State} {a1} (h : Keeps s₀ s) : Keeps s₀ (State.breakByReset s a1) := by
  unfold State.breakByReset
  repeat' first
    | with_reducible assumption
    | intro _
    | with_reducible apply State.toAll_keeps
    | with_reducible apply State.toWafer_keeps
    | with_reducible apply State.spanEvt_keeps
    | with_reducible apply State.updFn_keeps
    | with_reducible apply Keeps.ite
    | simp -zeta only [Keeps.leaf]
    | split

theorem State.retireFnKen_keeps {s₀ s : State} {a1} (h : Keeps s₀ s) : Keeps s₀ (State.retireFnKen s a1) := by
  unfold State.retireFnKen
  repeat' first
    | with_reducible assumption
    | intro _
    | with_reducible apply forAll_keeps
    | with_reducible apply State.withdrawRing_keeps
    | with_reducible apply State.updRing_keeps

theorem State.beginReset_keeps {s₀ s : State} {a1 a2} (h : Keeps s₀ s) : Keeps s₀ (State.beginReset s a1 a2) := by
  unfold State.beginReset
  repeat' first
    | with_reducible assumption
    | intro _
    | with_reducible apply State.updFn_keeps
    | with_reducible apply State.breakByReset_keeps
    | with_reducible apply State.abortFn_keeps
    | with_reducible apply State.clearMailbox_keeps
    | with_reducible apply State.emit_keeps
    | with_reducible apply State.retireFnKen_keeps
    | with_reducible apply Keeps.ite

theorem State.freshCore_keeps {s₀ s : State} {a1} (h : Keeps s₀ s) : Keeps s₀ (State.freshCore s a1) := by
  unfold State.freshCore
  repeat' first
    | with_reducible assumption
    | intro _
    | with_reducible apply State.updCore_keeps
    | with_reducible apply State.emit_keeps
    | with_reducible apply Keeps.ite

theorem State.freshCluster_keeps {s₀ s : State} {a1 a2} (h : Keeps s₀ s) : Keeps s₀ (State.freshCluster s a1 a2) := by
  unfold State.freshCluster
  repeat' first
    | with_reducible assumption
    | intro _
    | with_reducible apply State.updCsn_keeps
    | with_reducible apply forAll_keeps
    | with_reducible apply State.freshCore_keeps
    | with_reducible apply State.runHeld_keeps
    | with_reducible apply State.send_keeps

theorem State.freshFn_keeps {s₀ s : State} {a1} (h : Keeps s₀ s) : Keeps s₀ (State.freshFn s a1) := by
  unfold State.freshFn
  repeat' first
    | with_reducible assumption
    | intro _
    | with_reducible apply State.updFn_keeps
    | with_reducible apply State.send_keeps

theorem State.clearPartition_keeps {s₀ s : State} {a1} (h : Keeps s₀ s) : Keeps s₀ (State.clearPartition s a1) := by
  unfold State.clearPartition
  repeat' first
    | with_reducible assumption
    | intro _
    | with_reducible apply forAll_keeps
    | with_reducible apply State.updPrec_keeps
    | with_reducible apply State.idleBarrier_keeps
    | with_reducible apply State.setPl_keeps
    | with_reducible apply State.setSlot_keeps
    | with_reducible apply State.mapHub_keeps
    | with_reducible apply State.setRing_keeps
    | with_reducible apply State.updFn_keeps
    | with_reducible apply Keeps.ite
    | simp -zeta only [Keeps.leaf]
    | (extract_lets +onlyGivenNames x; refine Keeps.cut (s := s₀) (x := x) ?_ (fun hx => ?_) <;> [subst x; clear_value x])

theorem State.retestFn_keeps {s₀ s : State} {a1} (h : Keeps s₀ s) : Keeps s₀ (State.retestFn s a1) := by
  unfold State.retestFn
  repeat' first
    | with_reducible assumption
    | intro _
    | with_reducible apply forAll_keeps
    | with_reducible apply State.report_keeps
    | with_reducible apply State.drawn_keeps
    | with_reducible apply Keeps.ite
    | simp -zeta only [Keeps.leaf]

theorem State.endReset_keeps {s₀ s : State} {a1 a2} (h : Keeps s₀ s) : Keeps s₀ (State.endReset s a1 a2) := by
  unfold State.endReset
  repeat' first
    | with_reducible assumption
    | intro _
    | with_reducible apply State.updFn_keeps
    | with_reducible apply State.resetFnRegs_keeps
    | with_reducible apply State.errBit_keeps
    | with_reducible apply State.msix_keeps
    | with_reducible apply Keeps.ite
    | simp -zeta only [Keeps.leaf]

theorem State.completeReset_keeps {s₀ s : State} {a1} (h : Keeps s₀ s) : Keeps s₀ (State.completeReset s a1) := by
  unfold State.completeReset
  repeat' first
    | with_reducible assumption
    | intro _
    | with_reducible apply forAll_keeps
    | with_reducible apply State.freshCluster_keeps
    | with_reducible apply State.endReset_keeps
    | with_reducible apply State.retestFn_keeps
    | with_reducible apply State.clearPartition_keeps
    | with_reducible apply State.freshFn_keeps
    | with_reducible apply Keeps.ite
    | simp -zeta only [Keeps.leaf]
    | (extract_lets +onlyGivenNames x; refine Keeps.cut (s := s₀) (x := x) ?_ (fun hx => ?_) <;> [subst x; clear_value x])
    | (extract_lets +onlyGivenNames x; clear_value x)
    | split

theorem execResetEscalate_keeps {s₀ s : State} {a0} (h : Keeps s₀ s) : KeepsOut s₀ (execResetEscalate a0 s) := by
  unfold execResetEscalate
  repeat' first
    | with_reducible assumption
    | intro _
    | with_reducible apply State.report_keeps
    | with_reducible apply State.needVarvo_keeps
    | with_reducible apply KeepsOut.of_next
    | with_reducible apply Keeps.ite
    | simp -zeta only [Keeps.leaf]
    | split

theorem execFunctionLevelReset_keeps {s₀ s : State} {a0} (h : Keeps s₀ s) : KeepsOut s₀ (execFunctionLevelReset a0 s) := by
  unfold execFunctionLevelReset
  repeat' first
    | with_reducible assumption
    | intro _
    | with_reducible apply State.decideReset_keeps
    | with_reducible apply KeepsOut.of_next

theorem execCoreReset_keeps {s₀ s : State} {a0} (h : Keeps s₀ s) : KeepsOut s₀ (execCoreReset a0 s) := by
  unfold execCoreReset
  repeat' first
    | with_reducible assumption
    | intro _
    | with_reducible apply State.settle_keeps
    | with_reducible apply State.holdCore_keeps
    | with_reducible apply KeepsOut.of_next
    | with_reducible apply Keeps.ite

theorem State.retireCore_keeps {s₀ s : State} {a1} (h : Keeps s₀ s) : Keeps s₀ (State.retireCore s a1) := by
  unfold State.retireCore
  repeat' first
    | with_reducible assumption
    | intro _
    | with_reducible apply State.freshCore_keeps
    | with_reducible apply State.send_keeps

theorem execCoreRetireDone_keeps {s₀ s : State} {a0} (h : Keeps s₀ s) : KeepsOut s₀ (execCoreRetireDone a0 s) := by
  unfold execCoreRetireDone
  repeat' first
    | with_reducible assumption
    | intro _
    | with_reducible apply State.retireCore_keeps
    | with_reducible apply KeepsOut.of_next
    | with_reducible apply Keeps.ite

theorem execCoreRetireTimeout_keeps {s₀ s : State} {a0} (h : Keeps s₀ s) : KeepsOut s₀ (execCoreRetireTimeout a0 s) := by
  unfold execCoreRetireTimeout
  repeat' first
    | with_reducible assumption
    | intro _
    | with_reducible apply State.retireCore_keeps
    | with_reducible apply KeepsOut.of_next
    | with_reducible apply Keeps.ite
    | simp -zeta only [Keeps.leaf]
    | split

theorem State.resetAlone_keeps {s₀ s : State} {a1 a2} (h : Keeps s₀ s) : Keeps s₀ (State.resetAlone s a1 a2) := by
  unfold State.resetAlone
  repeat' first
    | with_reducible assumption
    | intro _
    | with_reducible apply State.updCsn_keeps
    | with_reducible apply State.holdCsn_keeps
    | with_reducible apply State.freshCluster_keeps
    | with_reducible apply Keeps.ite

theorem execEpochAdvance_keeps {s₀ s : State} {a0} (h : Keeps s₀ s) : KeepsOut s₀ (execEpochAdvance a0 s) := by
  unfold execEpochAdvance
  repeat' first
    | with_reducible assumption
    | intro _
    | with_reducible apply State.freshCluster_keeps
    | with_reducible apply KeepsOut.of_next
    | with_reducible apply Keeps.ite

theorem State.changeId_keeps {s₀ s : State} {a1} (h : Keeps s₀ s) : Keeps s₀ (State.changeId s a1) := by
  unfold State.changeId
  repeat' first
    | with_reducible assumption
    | intro _
    | with_reducible apply State.mapKen_keeps
    | with_reducible apply State.mapHub_keeps
    | with_reducible apply Keeps.ite
    | simp -zeta only [Keeps.leaf]
    | (extract_lets +onlyGivenNames x; refine Keeps.cut (s := s₀) (x := x) ?_ (fun hx => ?_) <;> [subst x; clear_value x])

theorem State.failForm_keeps {s₀ s : State} (h : Keeps s₀ s) : Keeps s₀ (State.failForm s) := by
  unfold State.failForm
  repeat' first
    | with_reducible assumption
    | intro _
    | with_reducible apply Keeps.ite
    | simp -zeta only [Keeps.leaf]
    | (extract_lets +onlyGivenNames x; clear_value x)
    | split

theorem State.leaveSpan_keeps {s₀ s : State} (h : Keeps s₀ s) : Keeps s₀ (State.leaveSpan s) := by
  unfold State.leaveSpan
  repeat' first
    | with_reducible assumption
    | intro _
    | with_reducible apply forAll_keeps
    | with_reducible apply State.breakJob_keeps
    | with_reducible apply State.failForm_keeps
    | with_reducible apply State.endRelays_keeps
    | with_reducible apply State.spanEvt_keeps
    | with_reducible apply State.changeId_keeps
    | with_reducible apply Keeps.ite
    | simp -zeta only [Keeps.leaf]

theorem State.wafNote_keeps {s₀ s : State} {a1} (h : Keeps s₀ s) : Keeps s₀ (State.wafNote s a1) := by
  unfold State.wafNote
  repeat' first
    | with_reducible assumption
    | intro _
    | with_reducible apply forAll_keeps
    | with_reducible apply State.dropWaiters_keeps
    | with_reducible apply State.abandonLock_keeps
    | with_reducible apply State.reserve_keeps
    | with_reducible apply Keeps.ite

theorem State.loseWafers_keeps {s₀ s : State} {a1} (h : Keeps s₀ s) : Keeps s₀ (State.loseWafers s a1) := by
  unfold State.loseWafers
  repeat' first
    | with_reducible assumption
    | intro _
    | with_reducible apply forAll_keeps
    | with_reducible apply State.breakJob_keeps
    | with_reducible apply State.report_keeps
    | with_reducible apply State.toAll_keeps
    | with_reducible apply State.wafNote_keeps
    | with_reducible apply State.clearThrots_keeps
    | with_reducible apply State.spanEvt_keeps
    | with_reducible apply State.failForm_keeps
    | with_reducible apply Keeps.ite
    | simp -zeta only [Keeps.leaf]

theorem State.startElect_keeps {s₀ s : State} (h : Keeps s₀ s) : Keeps s₀ (State.startElect s) := by
  unfold State.startElect
  repeat' first
    | with_reducible assumption
    | intro _
    | with_reducible apply forAll_keeps
    | with_reducible apply State.breakJob_keeps
    | with_reducible apply State.failForm_keeps
    | with_reducible apply State.endRelays_keeps
    | with_reducible apply State.spanEvt_keeps
    | with_reducible apply State.report_keeps
    | with_reducible apply Keeps.ite
    | simp -zeta only [Keeps.leaf]

theorem State.relink_keeps {s₀ s : State} (h : Keeps s₀ s) : Keeps s₀ (State.relink s) := by
  unfold State.relink
  repeat' first
    | with_reducible assumption
    | intro _
    | with_reducible apply State.loseWafers_keeps
    | with_reducible apply State.leaveSpan_keeps
    | with_reducible apply State.startElect_keeps
    | with_reducible apply Keeps.ite
    | simp -zeta only [Keeps.leaf]
    | (extract_lets +onlyGivenNames x; refine Keeps.cut (s := s₀) (x := x) ?_ (fun hx => ?_) <;> [subst x; clear_value x])
    | (extract_lets +onlyGivenNames x; clear_value x)
    | split

theorem State.applyLinks_keeps {s₀ s : State} {a1} (h : Keeps s₀ s) : Keeps s₀ (State.applyLinks s a1) := by
  unfold State.applyLinks
  repeat' first
    | with_reducible assumption
    | intro _
    | with_reducible apply State.relink_keeps
    | with_reducible apply Keeps.ite
    | simp -zeta only [Keeps.leaf]

theorem State.portDown_keeps {s₀ s : State} {a1 a2} (h : Keeps s₀ s) : Keeps s₀ (State.portDown s a1 a2) := by
  unfold State.portDown
  repeat' first
    | with_reducible assumption
    | intro _
    | with_reducible apply State.updPort_keeps
    | with_reducible apply State.cutStores_keeps
    | with_reducible apply State.applyLinks_keeps
    | with_reducible apply State.report_keeps
    | with_reducible apply State.spanEvt_keeps
    | with_reducible apply Keeps.ite

theorem execNelUpDeassert_keeps {s₀ s : State} {a0 a1} (h : Keeps s₀ s) : KeepsOut s₀ (execNelUpDeassert a0 a1 s) := by
  unfold execNelUpDeassert
  repeat' first
    | with_reducible assumption
    | intro _
    | with_reducible apply State.portDown_keeps
    | with_reducible apply State.updPort_keeps
    | with_reducible apply KeepsOut.of_next

theorem execNelUpAssert_keeps {s₀ s : State} {a0} (h : Keeps s₀ s) : KeepsOut s₀ (execNelUpAssert a0 s) := by
  unfold execNelUpAssert
  repeat' first
    | with_reducible assumption
    | intro _
    | with_reducible apply State.toAll_keeps
    | with_reducible apply State.updPort_keeps
    | with_reducible apply KeepsOut.of_next
    | with_reducible apply Keeps.ite

theorem execSbHello_keeps {s₀ s : State} {a0 a1 a2 a3} (h : Keeps s₀ s) : KeepsOut s₀ (execSbHello a0 a1 a2 a3 s) := by
  unfold execSbHello
  repeat' first
    | with_reducible assumption
    | intro _
    | with_reducible apply State.updPort_keeps
    | with_reducible apply KeepsOut.of_next

theorem execNelLinkUp_keeps {s₀ s : State} {a0 a1} (h : Keeps s₀ s) : KeepsOut s₀ (execNelLinkUp a0 a1 s) := by
  unfold execNelLinkUp
  repeat' first
    | with_reducible assumption
    | intro _
    | with_reducible apply State.applyLinks_keeps
    | with_reducible apply State.updPort_keeps
    | with_reducible apply KeepsOut.of_next
    | with_reducible apply Keeps.ite

theorem execSbLive_keeps {s₀ s : State} {a0} (h : Keeps s₀ s) : KeepsOut s₀ (execSbLive a0 s) := by
  unfold execSbLive
  repeat' first
    | with_reducible assumption
    | intro _
    | with_reducible apply State.updPort_keeps
    | with_reducible apply KeepsOut.of_next

theorem execSbLiveSend_keeps {s₀ s : State} {a0} (h : Keeps s₀ s) : KeepsOut s₀ (execSbLiveSend a0 s) := by
  unfold execSbLiveSend
  repeat' first
    | with_reducible assumption
    | intro _
    | with_reducible apply State.toAll_keeps
    | with_reducible apply State.updPort_keeps
    | with_reducible apply KeepsOut.of_next
    | with_reducible apply Keeps.ite

theorem execSbNak_keeps {s₀ s : State} {a0 a1 a2} (h : Keeps s₀ s) : KeepsOut s₀ (execSbNak a0 a1 a2 s) := by
  unfold execSbNak
  repeat' first
    | with_reducible assumption
    | intro _
    | with_reducible apply State.updPort_keeps
    | with_reducible apply State.portDown_keeps
    | with_reducible apply KeepsOut.of_next
    | with_reducible apply Keeps.ite

theorem execSbFrameError_keeps {s₀ s : State} {a0 a1 a2} (h : Keeps s₀ s) : KeepsOut s₀ (execSbFrameError a0 a1 a2 s) := by
  unfold execSbFrameError
  repeat' first
    | with_reducible assumption
    | intro _
    | with_reducible apply State.updPort_keeps
    | with_reducible apply State.report_keeps
    | with_reducible apply State.toAll_keeps
    | with_reducible apply KeepsOut.of_next
    | with_reducible apply Keeps.ite

theorem execSbLinkSilent_keeps {s₀ s : State} {a0 a1} (h : Keeps s₀ s) : KeepsOut s₀ (execSbLinkSilent a0 a1 s) := by
  unfold execSbLinkSilent
  repeat' first
    | with_reducible assumption
    | intro _
    | with_reducible apply State.portDown_keeps
    | with_reducible apply KeepsOut.of_next
    | with_reducible apply Keeps.ite

theorem execTsyncInterval_keeps {s₀ s : State} (h : Keeps s₀ s) : KeepsOut s₀ (execTsyncInterval s) := by
  unfold execTsyncInterval
  repeat' first
    | with_reducible assumption
    | intro _
    | with_reducible apply forAll_keeps
    | with_reducible apply State.toAll_keeps
    | with_reducible apply State.updPort_keeps
    | with_reducible apply KeepsOut.of_next

theorem execSbTsync_keeps {s₀ s : State} {a0 a1 a2 a3 a4} (h : Keeps s₀ s) : KeepsOut s₀ (execSbTsync a0 a1 a2 a3 a4 s) := by
  unfold execSbTsync
  repeat' first
    | with_reducible assumption
    | intro _
    | with_reducible apply State.updPort_keeps
    | with_reducible apply KeepsOut.of_next

theorem execElectFlood_keeps {s₀ s : State} (h : Keeps s₀ s) : KeepsOut s₀ (execElectFlood s) := by
  unfold execElectFlood
  repeat' first
    | with_reducible assumption
    | intro _
    | with_reducible apply State.toAll_keeps
    | with_reducible apply KeepsOut.of_next
    | with_reducible apply Keeps.ite

theorem State.takeElect_keeps {s₀ s : State} {a1 a2} (h : Keeps s₀ s) : Keeps s₀ (State.takeElect s a1 a2) := by
  unfold State.takeElect
  repeat' first
    | with_reducible assumption
    | intro _
    | with_reducible apply State.startElect_keeps
    | with_reducible apply Keeps.ite
    | simp -zeta only [Keeps.leaf]

theorem execSbElect_keeps {s₀ s : State} {a0 a1 a2} (h : Keeps s₀ s) : KeepsOut s₀ (execSbElect a0 a1 a2 s) := by
  unfold execSbElect
  repeat' first
    | with_reducible assumption
    | intro _
    | with_reducible apply State.takeElect_keeps
    | with_reducible apply KeepsOut.of_next

theorem State.becomeLead_keeps {s₀ s : State} (h : Keeps s₀ s) : Keeps s₀ (State.becomeLead s) := by
  unfold State.becomeLead
  repeat' first
    | with_reducible assumption
    | intro _
    | with_reducible apply Keeps.ite
    | simp -zeta only [Keeps.leaf]
    | (extract_lets +onlyGivenNames x; clear_value x)

theorem State.elect_keeps {s₀ s : State} (h : Keeps s₀ s) : Keeps s₀ (State.elect s) := by
  unfold State.elect
  repeat' first
    | with_reducible assumption
    | intro _
    | with_reducible apply State.leaveSpan_keeps
    | with_reducible apply State.becomeLead_keeps
    | with_reducible apply State.relink_keeps
    | with_reducible apply State.spanEvt_keeps
    | with_reducible apply Keeps.ite
    | simp -zeta only [Keeps.leaf]
    | (extract_lets +onlyGivenNames x; refine Keeps.cut (s := s₀) (x := x) ?_ (fun hx => ?_) <;> [subst x; clear_value x])
    | (extract_lets +onlyGivenNames x; clear_value x)

theorem execElectStable_keeps {s₀ s : State} (h : Keeps s₀ s) : KeepsOut s₀ (execElectStable s) := by
  unfold execElectStable
  repeat' first
    | with_reducible assumption
    | intro _
    | with_reducible apply State.elect_keeps
    | with_reducible apply KeepsOut.of_next

theorem State.takeAbort_keeps {s₀ s : State} {a1 a2 a3 a4} (h : Keeps s₀ s) : Keeps s₀ (State.takeAbort s a1 a2 a3 a4) := by
  unfold State.takeAbort
  repeat' first
    | with_reducible assumption
    | intro _
    | with_reducible apply State.toAll_keeps
    | with_reducible apply State.abortFn_keeps
    | with_reducible apply State.breakJob_keeps
    | with_reducible apply State.leaveSpan_keeps
    | with_reducible apply State.spanEvt_keeps
    | with_reducible apply State.failForm_keeps
    | with_reducible apply forAll_keeps
    | with_reducible apply Keeps.ite
    | simp -zeta only [Keeps.leaf]

theorem execSbAbort_keeps {s₀ s : State} {a0 a1 a2 a3 a4} (h : Keeps s₀ s) : KeepsOut s₀ (execSbAbort a0 a1 a2 a3 a4 s) := by
  unfold execSbAbort
  repeat' first
    | with_reducible assumption
    | intro _
    | with_reducible apply State.takeAbort_keeps
    | with_reducible apply KeepsOut.of_next
    | with_reducible apply Keeps.ite
    | simp -zeta only [Keeps.leaf]
    | split

theorem execSbResetn_keeps {s₀ s : State} {a0 a1 a2} (h : Keeps s₀ s) : KeepsOut s₀ (execSbResetn a0 a1 a2 s) := by
  unfold execSbResetn
  repeat' first
    | with_reducible assumption
    | intro _
    | with_reducible apply State.sendAll_keeps
    | with_reducible apply KeepsOut.of_next
    | with_reducible apply Keeps.ite

theorem execSbCmt_keeps {s₀ s : State} {a0 a1 a2 a3 a4} (h : Keeps s₀ s) : KeepsOut s₀ (execSbCmt a0 a1 a2 a3 a4 s) := by
  unfold execSbCmt
  repeat' first
    | with_reducible assumption
    | intro _
    | with_reducible apply State.updFn_keeps
    | with_reducible apply KeepsOut.of_next
    | with_reducible apply Keeps.ite

theorem execSbKreq_keeps {s₀ s : State} {a0 a1 a2 a3 a4 a5} (h : Keeps s₀ s) : KeepsOut s₀ (execSbKreq a0 a1 a2 a3 a4 a5 s) := by
  unfold execSbKreq
  repeat' first
    | with_reducible assumption
    | intro _
    | with_reducible apply State.leadInject_keeps
    | with_reducible apply KeepsOut.of_next
    | with_reducible apply Keeps.ite
    | simp -zeta only [Keeps.leaf]

theorem execSbKrsp_keeps {s₀ s : State} {a0 a1 a2 a3} (h : Keeps s₀ s) : KeepsOut s₀ (execSbKrsp a0 a1 a2 a3 s) := by
  unfold execSbKrsp
  repeat' first
    | with_reducible assumption
    | intro _
    | with_reducible apply State.send_keeps
    | with_reducible apply KeepsOut.of_next
    | with_reducible apply Keeps.ite
    | simp -zeta only [Keeps.leaf]
    | (extract_lets +onlyGivenNames x; clear_value x)
    | split

theorem execSbHold_keeps {s₀ s : State} {a0 a1 a2 a3} (h : Keeps s₀ s) : KeepsOut s₀ (execSbHold a0 a1 a2 a3 s) := by
  unfold execSbHold
  repeat' first
    | with_reducible assumption
    | intro _
    | with_reducible apply KeepsOut.of_next
    | with_reducible apply Keeps.ite
    | simp -zeta only [Keeps.leaf]

theorem execSbThrot_keeps {s₀ s : State} {a0 a1 a2 a3 a4} (h : Keeps s₀ s) : KeepsOut s₀ (execSbThrot a0 a1 a2 a3 a4 s) := by
  unfold execSbThrot
  repeat' first
    | with_reducible assumption
    | intro _
    | with_reducible apply forAll_keeps
    | with_reducible apply State.updFn_keeps
    | with_reducible apply State.clearThrots_keeps
    | with_reducible apply KeepsOut.of_next
    | with_reducible apply Keeps.ite
    | simp -zeta only [Keeps.leaf]

theorem execSbKiln_keeps {s₀ s : State} {a0 a1} (h : Keeps s₀ s) : KeepsOut s₀ (execSbKiln a0 a1 s) := by
  unfold execSbKiln
  repeat' first
    | with_reducible assumption
    | intro _
    | with_reducible apply KeepsOut.of_next
    | with_reducible apply Keeps.ite
    | simp -zeta only [Keeps.leaf]

theorem execSbArrive_keeps {s₀ s : State} {a0 a1} (h : Keeps s₀ s) : KeepsOut s₀ (execSbArrive a0 a1 s) := by
  unfold execSbArrive
  repeat' first
    | with_reducible assumption
    | intro _
    | with_reducible apply State.spanArrive_keeps
    | with_reducible apply KeepsOut.of_next
    | with_reducible apply Keeps.ite

theorem State.spanJoin_keeps {s₀ s : State} {a1 a2 a3 a4 a5} (h : Keeps s₀ s) : KeepsFst s₀ (State.spanJoin s a1 a2 a3 a4 a5) := by
  unfold State.spanJoin
  repeat' first
    | with_reducible assumption
    | intro _
    | with_reducible apply State.updSrec_keeps
    | with_reducible apply KeepsFst.ite
    | with_reducible apply KeepsFst.mk

theorem execSbPackJoin_keeps {s₀ s : State} {a0 a1 a2 a3 a4} (h : Keeps s₀ s) : KeepsOut s₀ (execSbPackJoin a0 a1 a2 a3 a4 s) := by
  unfold execSbPackJoin
  repeat' first
    | with_reducible assumption
    | intro _
    | with_reducible apply State.spanJoin_keeps
    | with_reducible apply State.toWafer_keeps
    | simp -zeta only [KeepsFst.fst_iff]
    | (refine KeepsFst.of_eq ?_ (by assumption))
    | with_reducible apply KeepsFst.ite
    | with_reducible apply KeepsOut.of_next
    | with_reducible apply Keeps.ite

theorem execSbPackLeave_keeps {s₀ s : State} {a0 a1 a2 a3} (h : Keeps s₀ s) : KeepsOut s₀ (execSbPackLeave a0 a1 a2 a3 s) := by
  unfold execSbPackLeave
  repeat' first
    | with_reducible assumption
    | intro _
    | with_reducible apply State.spanLeave_keeps
    | with_reducible apply KeepsOut.of_next
    | with_reducible apply Keeps.ite

theorem State.spanDone_keeps {s₀ s : State} {a1} (h : Keeps s₀ s) : Keeps s₀ (State.spanDone s a1) := by
  unfold State.spanDone
  repeat' first
    | with_reducible assumption
    | intro _
    | with_reducible apply Keeps.ite
    | simp -zeta only [Keeps.leaf]

theorem State.form_keeps {s₀ s : State} {a1 a2 a3 a4 a5} (h : Keeps s₀ s) : Keeps s₀ (State.form s a1 a2 a3 a4 a5) := by
  unfold State.form
  repeat' first
    | with_reducible assumption
    | intro _
    | with_reducible apply State.spanDone_keeps
    | with_reducible apply State.toAll_keeps
    | with_reducible apply Keeps.ite
    | simp -zeta only [Keeps.leaf]
    | (extract_lets +onlyGivenNames x; clear_value x)
    | split

theorem execForm_keeps {s₀ s : State} {a0 a1 a2 a3 a4} (h : Keeps s₀ s) : KeepsOut s₀ (execForm a0 a1 a2 a3 a4 s) := by
  unfold execForm
  repeat' first
    | with_reducible assumption
    | intro _
    | with_reducible apply State.form_keeps
    | with_reducible apply KeepsOut.of_next

theorem execSbFormJoin_keeps {s₀ s : State} {a0 a1} (h : Keeps s₀ s) : KeepsOut s₀ (execSbFormJoin a0 a1 s) := by
  unfold execSbFormJoin
  repeat' first
    | with_reducible assumption
    | intro _
    | with_reducible apply KeepsOut.of_next
    | with_reducible apply Keeps.ite
    | simp -zeta only [Keeps.leaf]
    | (extract_lets +onlyGivenNames x; clear_value x)
    | split

theorem execFormJoinTimeout_keeps {s₀ s : State} (h : Keeps s₀ s) : KeepsOut s₀ (execFormJoinTimeout s) := by
  unfold execFormJoinTimeout
  repeat' first
    | with_reducible assumption
    | intro _
    | with_reducible apply State.failForm_keeps
    | with_reducible apply KeepsOut.of_next
    | with_reducible apply Keeps.ite
    | simp -zeta only [Keeps.leaf]
    | split

theorem State.chooseSwitch_keeps {s₀ s : State} {a1} (h : Keeps s₀ s) : Keeps s₀ (State.chooseSwitch s a1) := by
  unfold State.chooseSwitch
  repeat' first
    | with_reducible assumption
    | intro _
    | with_reducible apply State.sendAll_keeps
    | with_reducible apply Keeps.ite
    | simp -zeta only [Keeps.leaf]
    | (extract_lets +onlyGivenNames x; refine Keeps.cut (s := s₀) (x := x) ?_ (fun hx => ?_) <;> [subst x; clear_value x])
    | (extract_lets +onlyGivenNames x; clear_value x)
    | split

theorem execSbFormSwitch_keeps {s₀ s : State} {a0} (h : Keeps s₀ s) : KeepsOut s₀ (execSbFormSwitch a0 s) := by
  unfold execSbFormSwitch
  repeat' first
    | with_reducible assumption
    | intro _
    | with_reducible apply KeepsOut.of_next
    | with_reducible apply Keeps.ite
    | simp -zeta only [Keeps.leaf]
    | (extract_lets +onlyGivenNames x; clear_value x)
    | split

theorem State.endQueued_keeps {s₀ s : State} {a1} (h : Keeps s₀ s) : Keeps s₀ (State.endQueued s a1) := by
  unfold State.endQueued
  repeat' first
    | with_reducible assumption
    | intro _
    | with_reducible apply forAll_keeps
    | with_reducible apply State.endWaiter_keeps

theorem State.takeCarry_keeps {s₀ s : State} {a1} (h : Keeps s₀ s) : Keeps s₀ (State.takeCarry s a1) := by
  unfold State.takeCarry
  repeat' first
    | with_reducible assumption
    | intro _
    | with_reducible apply forAll_keeps
    | with_reducible apply State.setKen_keeps
    | with_reducible apply Keeps.ite
    | simp -zeta only [Keeps.leaf]

theorem State.switchJob_keeps {s₀ s : State} {a1} (h : Keeps s₀ s) : Keeps s₀ (State.switchJob s a1) := by
  unfold State.switchJob
  repeat' first
    | with_reducible assumption
    | intro _
    | with_reducible apply State.updFn_keeps

theorem State.dropJobs_keeps {s₀ s : State} {a1} (h : Keeps s₀ s) : Keeps s₀ (State.dropJobs s a1) := by
  unfold State.dropJobs
  repeat' first
    | with_reducible assumption
    | intro _
    | with_reducible apply forAll_keeps
    | with_reducible apply State.updFn_keeps
    | with_reducible apply Keeps.ite

theorem State.rejoinSpan_keeps {s₀ s : State} (h : Keeps s₀ s) : Keeps s₀ (State.rejoinSpan s) := by
  unfold State.rejoinSpan
  repeat' first
    | with_reducible assumption
    | intro _
    | with_reducible apply forAll_keeps
    | with_reducible apply State.spanJoin_keeps
    | with_reducible apply State.spanArrive_keeps
    | with_reducible apply State.toWafer_keeps
    | simp -zeta only [KeepsFst.fst_iff]
    | (refine KeepsFst.of_eq ?_ (by assumption))
    | with_reducible apply KeepsFst.ite
    | with_reducible apply Keeps.ite

theorem State.switchTick_keeps {s₀ s : State} {a1 a2} (h : Keeps s₀ s) : Keeps s₀ (State.switchTick s a1 a2) := by
  unfold State.switchTick
  repeat' first
    | with_reducible assumption
    | intro _
    | with_reducible apply Keeps.ite
    | simp -zeta only [Keeps.leaf]

theorem State.doSwitch_keeps {s₀ s : State} (h : Keeps s₀ s) : Keeps s₀ (State.doSwitch s) := by
  unfold State.doSwitch
  repeat' first
    | with_reducible assumption
    | intro _
    | with_reducible apply State.leaveSpan_keeps
    | with_reducible apply State.toWafer_keeps
    | with_reducible apply State.endQueued_keeps
    | with_reducible apply State.endRelays_keeps
    | with_reducible apply State.switchTick_keeps
    | with_reducible apply State.changeId_keeps
    | with_reducible apply State.dropJobs_keeps
    | with_reducible apply forAll_keeps
    | with_reducible apply State.switchJob_keeps
    | with_reducible apply State.spanEvt_keeps
    | with_reducible apply State.spanDone_keeps
    | with_reducible apply State.rejoinSpan_keeps
    | with_reducible apply Keeps.ite
    | simp -zeta only [Keeps.leaf]
    | (extract_lets +onlyGivenNames x; clear_value x)
    | split

theorem execSbFormCarry_keeps {s₀ s : State} {a0} (h : Keeps s₀ s) : KeepsOut s₀ (execSbFormCarry a0 s) := by
  unfold execSbFormCarry
  repeat' first
    | with_reducible assumption
    | intro _
    | with_reducible apply State.doSwitch_keeps
    | with_reducible apply State.takeCarry_keeps
    | with_reducible apply KeepsOut.of_next
    | with_reducible apply Keeps.ite

theorem State.leave_keeps {s₀ s : State} (h : Keeps s₀ s) : Keeps s₀ (State.leave s) := by
  unfold State.leave
  repeat' first
    | with_reducible assumption
    | intro _
    | with_reducible apply State.spanDone_keeps
    | with_reducible apply State.toWafer_keeps
    | with_reducible apply Keeps.ite
    | simp -zeta only [Keeps.leaf]
    | (extract_lets +onlyGivenNames x; clear_value x)
    | split

theorem execLeave_keeps {s₀ s : State} (h : Keeps s₀ s) : KeepsOut s₀ (execLeave s) := by
  unfold execLeave
  repeat' first
    | with_reducible assumption
    | intro _
    | with_reducible apply State.leave_keeps
    | with_reducible apply KeepsOut.of_next

theorem State.cutLeaves_keeps {s₀ s : State} (h : Keeps s₀ s) : Keeps s₀ (State.cutLeaves s) := by
  unfold State.cutLeaves
  repeat' first
    | with_reducible assumption
    | intro _
    | with_reducible apply State.leaveSpan_keeps
    | with_reducible apply State.toAll_keeps
    | with_reducible apply State.loseWafers_keeps
    | with_reducible apply Keeps.ite
    | simp -zeta only [Keeps.leaf]

end Sys2Proof.Machine
end

