-- ==== Sys2Proof/Laws/KeepsFault.lean ====
section
/-! SUPPORT. What every operation keeps (`Keeps`): faults, packs, loads, bring-up and the cask store. -/

namespace Sys2Proof.Machine

open Sys2Proof

theorem State.saveHist_keeps {s₀ s : State} {a1} (h : Keeps s₀ s) : Keeps s₀ (State.saveHist s a1) := by
  unfold State.saveHist
  repeat' first
    | with_reducible assumption
    | intro _
    | with_reducible apply State.caskAdd_keeps
    | with_reducible apply Keeps.ite
    | simp -zeta only [Keeps.leaf]

theorem State.noteLost_keeps {s₀ s : State} {a1} (h : Keeps s₀ s) : Keeps s₀ (State.noteLost s a1) := by
  unfold State.noteLost
  repeat' first
    | with_reducible assumption
    | intro _
    | with_reducible apply State.updFn_keeps
    | with_reducible apply Keeps.ite
    | simp -zeta only [Keeps.leaf]
    | split

theorem State.dropCluster_keeps {s₀ s : State} {a1} (h : Keeps s₀ s) : Keeps s₀ (State.dropCluster s a1) := by
  unfold State.dropCluster
  repeat' first
    | with_reducible assumption
    | intro _
    | with_reducible apply State.loseCluster_keeps
    | with_reducible apply State.noteLost_keeps
    | with_reducible apply forAll_keeps

theorem State.dropEntries_keeps {s₀ s : State} {a1} (h : Keeps s₀ s) : Keeps s₀ (State.dropEntries s a1) := by
  unfold State.dropEntries
  repeat' first
    | with_reducible assumption
    | intro _
    | with_reducible apply forAll_keeps
    | with_reducible apply State.endWaiter_keeps
    | with_reducible apply State.setKen_keeps

theorem State.dropHub_keeps {s₀ s : State} {a1} (h : Keeps s₀ s) : Keeps s₀ (State.dropHub s a1) := by
  unfold State.dropHub
  repeat' first
    | with_reducible assumption
    | intro _
    | with_reducible apply forAll_keeps
    | with_reducible apply State.noteLost_keeps
    | with_reducible apply State.loseHub_keeps
    | with_reducible apply State.dropEntries_keeps
    | with_reducible apply State.loseCluster_keeps
    | with_reducible apply State.mapFrec_keeps
    | with_reducible apply State.clearThrots_keeps
    | with_reducible apply State.updHub_keeps
    | with_reducible apply Keeps.ite
    | simp -zeta only [Keeps.leaf]
    | (extract_lets +onlyGivenNames x; refine Keeps.cut (s := s₀) (x := x) ?_ (fun hx => ?_) <;> [subst x; clear_value x])
    | (extract_lets +onlyGivenNames x; clear_value x)

theorem State.dropRouter_keeps {s₀ s : State} {a1} (h : Keeps s₀ s) : Keeps s₀ (State.dropRouter s a1) := by
  unfold State.dropRouter
  repeat' first
    | with_reducible assumption
    | intro _
    | with_reducible apply State.dropCluster_keeps
    | with_reducible apply forAll_keeps
    | with_reducible apply State.downLink_keeps
    | with_reducible apply Keeps.ite
    | simp -zeta only [Keeps.leaf]

theorem State.muzzleEffect_keeps {s₀ s : State} {a1} (h : Keeps s₀ s) : Keeps s₀ (State.muzzleEffect s a1) := by
  unfold State.muzzleEffect
  repeat' first
    | with_reducible assumption
    | intro _
    | with_reducible apply State.updCsn_keeps
    | with_reducible apply State.dropCluster_keeps
    | with_reducible apply State.dropHub_keeps
    | with_reducible apply State.updHub_keeps
    | with_reducible apply State.dropRouter_keeps
    | with_reducible apply State.downLink_keeps
    | with_reducible apply State.portDown_keeps
    | with_reducible apply State.updPort_keeps
    | with_reducible apply State.needVarvo_keeps
    | with_reducible apply Keeps.ite
    | simp -zeta only [Keeps.leaf]
    | (extract_lets +onlyGivenNames x; clear_value x)
    | split

theorem State.gradeCheck_keeps {s₀ s : State} {a1} (h : Keeps s₀ s) : Keeps s₀ (State.gradeCheck s a1) := by
  unfold State.gradeCheck
  repeat' first
    | with_reducible assumption
    | intro _
    | with_reducible apply State.errBit_keeps
    | with_reducible apply State.report_keeps
    | with_reducible apply Keeps.ite

theorem State.muzzleOne_keeps {s₀ s : State} {a1} (h : Keeps s₀ s) : Keeps s₀ (State.muzzleOne s a1) := by
  unfold State.muzzleOne
  repeat' first
    | with_reducible assumption
    | intro _
    | with_reducible apply State.saveHist_keeps
    | with_reducible apply State.muzzleEffect_keeps
    | with_reducible apply State.gradeCheck_keeps
    | with_reducible apply State.report_keeps
    | with_reducible apply State.errBit_keeps
    | with_reducible apply Keeps.ite

theorem State.muzzle_keeps {s₀ s : State} {a1} (h : Keeps s₀ s) : Keeps s₀ (State.muzzle s a1) := by
  unfold State.muzzle
  repeat' first
    | with_reducible assumption
    | intro _
    | with_reducible apply State.muzzleOne_keeps
    | with_reducible apply Keeps.ite

theorem State.record_keeps {s₀ s : State} {a1} (h : Keeps s₀ s) : Keeps s₀ (State.record s a1) := by
  unfold State.record
  repeat' first
    | with_reducible assumption
    | intro _
    | with_reducible apply State.saveHist_keeps
    | with_reducible apply State.muzzle_keeps
    | with_reducible apply Keeps.ite
    | simp -zeta only [Keeps.leaf]

theorem State.queueCper_keeps {s₀ s : State} {a1} (h : Keeps s₀ s) : Keeps s₀ (State.queueCper s a1) := by
  unfold State.queueCper
  repeat' first
    | with_reducible assumption
    | intro _
    | with_reducible apply State.errBit_keeps
    | with_reducible apply Keeps.ite
    | simp -zeta only [Keeps.leaf]
    | (extract_lets +onlyGivenNames x; clear_value x)
    | split

theorem State.takeLog_keeps {s₀ s : State} {a1} (h : Keeps s₀ s) : Keeps s₀ (State.takeLog s a1) := by
  unfold State.takeLog
  repeat' first
    | with_reducible assumption
    | intro _
    | with_reducible apply State.errBit_keeps
    | with_reducible apply State.queueCper_keeps
    | with_reducible apply State.record_keeps
    | with_reducible apply Keeps.ite
    | simp -zeta only [Keeps.leaf]

theorem execLog_keeps {s₀ s : State} {a0} (h : Keeps s₀ s) : KeepsOut s₀ (execLog a0 s) := by
  unfold execLog
  repeat' first
    | with_reducible assumption
    | intro _
    | with_reducible apply State.stopMsg_keeps
    | with_reducible apply State.taken_keeps
    | with_reducible apply State.takeLog_keeps
    | with_reducible apply KeepsOut.of_next
    | with_reducible apply Keeps.ite

theorem execWatchWindowExpiry_keeps {s₀ s : State} {a0} (h : Keeps s₀ s) : KeepsOut s₀ (execWatchWindowExpiry a0 s) := by
  unfold execWatchWindowExpiry
  repeat' first
    | with_reducible assumption
    | intro _
    | with_reducible apply State.saveHist_keeps
    | with_reducible apply KeepsOut.of_next
    | with_reducible apply Keeps.ite

theorem State.sendCper_keeps {s₀ s : State} {a1} (h : Keeps s₀ s) : Keeps s₀ (State.sendCper s a1) := by
  unfold State.sendCper
  repeat' first
    | with_reducible assumption
    | intro _
    | with_reducible apply State.emit_keeps
    | with_reducible apply State.caskAdd_keeps
    | with_reducible apply Keeps.ite
    | simp -zeta only [Keeps.leaf]

theorem execCperPost_keeps {s₀ s : State} (h : Keeps s₀ s) : KeepsOut s₀ (execCperPost s) := by
  unfold execCperPost
  repeat' first
    | with_reducible assumption
    | intro _
    | with_reducible apply State.sendCper_keeps
    | with_reducible apply KeepsOut.of_next
    | with_reducible apply Keeps.ite
    | simp -zeta only [Keeps.leaf]
    | (extract_lets +onlyGivenNames x; clear_value x)
    | split

theorem State.requestCycle_keeps {s₀ s : State} (h : Keeps s₀ s) : Keeps s₀ (State.requestCycle s) := by
  unfold State.requestCycle
  repeat' first
    | with_reducible assumption
    | intro _
    | with_reducible apply State.emit_keeps
    | with_reducible apply Keeps.ite
    | simp -zeta only [Keeps.leaf]

theorem execPwrcycRepeat_keeps {s₀ s : State} (h : Keeps s₀ s) : KeepsOut s₀ (execPwrcycRepeat s) := by
  unfold execPwrcycRepeat
  repeat' first
    | with_reducible assumption
    | intro _
    | with_reducible apply KeepsOut.of_next
    | with_reducible apply Keeps.ite
    | simp -zeta only [Keeps.leaf]

theorem State.rebuild_keeps {s₀ s : State} {a1} (h : Keeps s₀ s) : Keeps s₀ (State.rebuild s a1) := by
  unfold State.rebuild
  repeat' first
    | with_reducible assumption
    | intro _
    | with_reducible apply State.setKen_keeps
    | with_reducible apply State.setPrec_keeps
    | with_reducible apply Keeps.ite
    | simp -zeta only [Keeps.leaf]
    | (extract_lets +onlyGivenNames x; clear_value x)
    | split

theorem State.awaitRetest_keeps {s₀ s : State} {a1 a2} (h : Keeps s₀ s) : Keeps s₀ (State.awaitRetest s a1 a2) := by
  unfold State.awaitRetest
  repeat' first
    | with_reducible assumption
    | intro _
    | with_reducible apply Keeps.ite
    | simp -zeta only [Keeps.leaf]

theorem State.ueSpare_keeps {s₀ s : State} {a1 a2 a3} (h : Keeps s₀ s) : Keeps s₀ (State.ueSpare s a1 a2 a3) := by
  unfold State.ueSpare
  repeat' first
    | with_reducible assumption
    | intro _
    | with_reducible apply State.report_keeps
    | with_reducible apply State.rebuild_keeps
    | with_reducible apply State.drawn_keeps
    | with_reducible apply Keeps.ite
    | simp -zeta only [Keeps.leaf]
    | (extract_lets +onlyGivenNames x; refine Keeps.cut (s := s₀) (x := x) ?_ (fun hx => ?_) <;> [subst x; clear_value x])
    | (extract_lets +onlyGivenNames x; clear_value x)

theorem State.ueShared_keeps {s₀ s : State} {a1} (h : Keeps s₀ s) : Keeps s₀ (State.ueShared s a1) := by
  unfold State.ueShared
  repeat' first
    | with_reducible assumption
    | intro _
    | with_reducible apply State.awaitRetest_keeps
    | with_reducible apply State.report_keeps
    | with_reducible apply State.send_keeps

theorem State.ueHeld_keeps {s₀ s : State} {a1 a2 a3 a4} (h : Keeps s₀ s) : Keeps s₀ (State.ueHeld s a1 a2 a3 a4) := by
  unfold State.ueHeld
  repeat' first
    | with_reducible assumption
    | intro _
    | with_reducible apply State.awaitRetest_keeps
    | with_reducible apply State.contain_keeps
    | with_reducible apply State.ueSpare_keeps
    | with_reducible apply Keeps.ite
    | simp -zeta only [Keeps.leaf]
    | split

theorem State.poisonBuf_keeps {s₀ s : State} {a1 a2} (h : Keeps s₀ s) : Keeps s₀ (State.poisonBuf s a1 a2) := by
  unfold State.poisonBuf
  repeat' first
    | with_reducible assumption
    | intro _
    | with_reducible apply State.updFr_keeps
    | with_reducible apply State.updPrec_keeps
    | with_reducible apply Keeps.ite
    | simp -zeta only [Keeps.leaf]
    | split

theorem State.ueOwner_keeps {s₀ s : State} {a1 a2 a3} (h : Keeps s₀ s) : Keeps s₀ (State.ueOwner s a1 a2 a3) := by
  unfold State.ueOwner
  repeat' first
    | with_reducible assumption
    | intro _
    | with_reducible apply State.awaitRetest_keeps
    | with_reducible apply State.contain_keeps
    | with_reducible apply State.report_keeps
    | with_reducible apply State.resetAlone_keeps
    | with_reducible apply State.drawn_keeps
    | with_reducible apply State.ueHeld_keeps
    | with_reducible apply State.poisonBuf_keeps
    | with_reducible apply State.ueShared_keeps
    | with_reducible apply State.ueSpare_keeps
    | with_reducible apply Keeps.ite
    | simp -zeta only [Keeps.leaf]
    | split

theorem State.ceWord_keeps {s₀ s : State} {a1 a2} (h : Keeps s₀ s) : Keeps s₀ (State.ceWord s a1 a2) := by
  unfold State.ceWord
  repeat' first
    | with_reducible assumption
    | intro _
    | with_reducible apply State.report_keeps
    | with_reducible apply Keeps.ite
    | simp -zeta only [Keeps.leaf]

theorem execScrubPass_keeps {s₀ s : State} {a0 a1 a2 a3} (h : Keeps s₀ s) : KeepsOut s₀ (execScrubPass a0 a1 a2 a3 s) := by
  unfold execScrubPass
  repeat' first
    | with_reducible assumption
    | intro _
    | with_reducible apply State.ceWord_keeps
    | with_reducible apply State.ueOwner_keeps
    | with_reducible apply KeepsOut.of_next
    | with_reducible apply Keeps.ite
    | simp -zeta only [Keeps.leaf]

theorem State.mgrAbort_keeps {s₀ s : State} {a1} (h : Keeps s₀ s) : Keeps s₀ (State.mgrAbort s a1) := by
  unfold State.mgrAbort
  repeat' first
    | with_reducible assumption
    | intro _
    | with_reducible apply State.abortFn_keeps
    | with_reducible apply State.toAll_keeps
    | with_reducible apply State.toWafer_keeps
    | with_reducible apply Keeps.ite
    | simp -zeta only [Keeps.leaf]
    | (extract_lets +onlyGivenNames x; clear_value x)
    | split

theorem State.writeErrCtrl_keeps {s₀ s : State} {a1} (h : Keeps s₀ s) : Keeps s₀ (State.writeErrCtrl s a1) := by
  unfold State.writeErrCtrl
  repeat' first
    | with_reducible assumption
    | intro _
    | with_reducible apply State.decideReset_keeps
    | with_reducible apply State.mgrAbort_keeps
    | with_reducible apply State.needVarvo_keeps
    | with_reducible apply Keeps.ite
    | simp -zeta only [Keeps.leaf]
    | (extract_lets +onlyGivenNames x; refine Keeps.cut (s := s₀) (x := x) ?_ (fun hx => ?_) <;> [subst x; clear_value x])
    | (extract_lets +onlyGivenNames x; clear_value x)
    | split

theorem execVrst_keeps {s₀ s : State} {a0} (h : Keeps s₀ s) : KeepsOut s₀ (execVrst a0 s) := by
  unfold execVrst
  repeat' first
    | with_reducible assumption
    | intro _
    | with_reducible apply State.writeErrCtrl_keeps
    | with_reducible apply KeepsOut.of_next

theorem execReinit_keeps {s₀ s : State} {a0} (h : Keeps s₀ s) : KeepsOut s₀ (execReinit a0 s) := by
  unfold execReinit
  repeat' first
    | with_reducible assumption
    | intro _
    | with_reducible apply State.writeErrCtrl_keeps
    | with_reducible apply KeepsOut.of_next

theorem execManagerAbort_keeps {s₀ s : State} {a0} (h : Keeps s₀ s) : KeepsOut s₀ (execManagerAbort a0 s) := by
  unfold execManagerAbort
  repeat' first
    | with_reducible assumption
    | intro _
    | with_reducible apply State.writeErrCtrl_keeps
    | with_reducible apply KeepsOut.of_next

theorem State.writeHclr_keeps {s₀ s : State} {a1} (h : Keeps s₀ s) : Keeps s₀ (State.writeHclr s a1) := by
  unfold State.writeHclr
  repeat' first
    | with_reducible assumption
    | intro _
    | with_reducible apply Keeps.ite
    | simp -zeta only [Keeps.leaf]

theorem execHistoryClear_keeps {s₀ s : State} {a0} (h : Keeps s₀ s) : KeepsOut s₀ (execHistoryClear a0 s) := by
  unfold execHistoryClear
  repeat' first
    | with_reducible assumption
    | intro _
    | with_reducible apply State.writeHclr_keeps
    | with_reducible apply KeepsOut.of_next

theorem execPpWatchdogExpiry_keeps {s₀ s : State} {a0} (h : Keeps s₀ s) : KeepsOut s₀ (execPpWatchdogExpiry a0 s) := by
  unfold execPpWatchdogExpiry
  repeat' first
    | with_reducible assumption
    | intro _
    | with_reducible apply State.report_keeps
    | with_reducible apply State.needVarvo_keeps
    | with_reducible apply KeepsOut.of_next
    | with_reducible apply Keeps.ite
    | simp -zeta only [Keeps.leaf]

theorem execPpSelfCheckPass_keeps {s₀ s : State} {a0} (h : Keeps s₀ s) : KeepsOut s₀ (execPpSelfCheckPass a0 s) := by
  unfold execPpSelfCheckPass
  repeat' first
    | with_reducible assumption
    | intro _
    | with_reducible apply KeepsOut.of_next
    | with_reducible apply Keeps.ite
    | simp -zeta only [Keeps.leaf]

theorem State.bindField_keeps {s₀ s : State} {a1 a2 a3 a4 a5} (h : Keeps s₀ s) : Keeps s₀ (State.bindField s a1 a2 a3 a4 a5) := by
  unfold State.bindField
  repeat' first
    | with_reducible assumption
    | intro _
    | with_reducible apply State.updFr_keeps
    | with_reducible apply State.armBarrier_keeps
    | with_reducible apply Keeps.ite

theorem State.packBind_keeps {s₀ s : State} {a1 a2 a3 a4} (h : Keeps s₀ s) : Keeps s₀ (State.packBind s a1 a2 a3 a4) := by
  unfold State.packBind
  repeat' first
    | with_reducible assumption
    | intro _
    | with_reducible apply forAll_keeps
    | with_reducible apply State.onStatus_keeps
    | with_reducible apply State.updPrec_keeps
    | with_reducible apply State.bindField_keeps

theorem State.packSet_keeps {s₀ s : State} {a1 a2 a3 a4 a5 a6} (h : Keeps s₀ s) : Keeps s₀ (State.packSet s a1 a2 a3 a4 a5 a6) := by
  unfold State.packSet
  repeat' first
    | with_reducible assumption
    | intro _
    | with_reducible apply State.finish_keeps
    | with_reducible apply State.spanJoin_keeps
    | with_reducible apply State.packBind_keeps
    | with_reducible apply State.toWafer_keeps
    | with_reducible apply State.updPrec_keeps
    | with_reducible apply State.begin__keeps
    | simp -zeta only [KeepsFst.fst_iff]
    | (refine KeepsFst.of_eq ?_ (by assumption))
    | with_reducible apply KeepsFst.ite
    | with_reducible apply Keeps.ite
    | simp -zeta only [Keeps.leaf]
    | (extract_lets +onlyGivenNames x; refine KeepsFst.cut (s := s₀) (x := x) ?_ (fun hx => ?_) <;> [subst x; clear_value x])
    | (extract_lets +onlyGivenNames x; clear_value x)
    | split

theorem execPackSet_keeps {s₀ s : State} {a0 a1 a2} (h : Keeps s₀ s) : KeepsOut s₀ (execPackSet a0 a1 a2 s) := by
  unfold execPackSet
  repeat' first
    | with_reducible assumption
    | intro _
    | with_reducible apply State.finish_keeps
    | with_reducible apply State.drawn_keeps
    | with_reducible apply State.packSet_keeps
    | with_reducible apply KeepsOut.of_next
    | with_reducible apply Keeps.ite
    | simp -zeta only [Keeps.leaf]
    | (extract_lets +onlyGivenNames x; clear_value x)
    | split

theorem State.packAck_keeps {s₀ s : State} {a1 a2} (h : Keeps s₀ s) : Keeps s₀ (State.packAck s a1 a2) := by
  unfold State.packAck
  repeat' first
    | with_reducible assumption
    | intro _
    | with_reducible apply State.updPrec_keeps
    | with_reducible apply State.finish_keeps
    | with_reducible apply State.toWafer_keeps
    | with_reducible apply State.packBind_keeps
    | with_reducible apply Keeps.ite
    | simp -zeta only [Keeps.leaf]
    | (extract_lets +onlyGivenNames x; refine Keeps.cut (s := s₀) (x := x) ?_ (fun hx => ?_) <;> [subst x; clear_value x])
    | (extract_lets +onlyGivenNames x; clear_value x)
    | split

theorem execSbPackAck_keeps {s₀ s : State} {a0 a1 a2} (h : Keeps s₀ s) : KeepsOut s₀ (execSbPackAck a0 a1 a2 s) := by
  unfold execSbPackAck
  repeat' first
    | with_reducible assumption
    | intro _
    | with_reducible apply State.packAck_keeps
    | with_reducible apply KeepsOut.of_next
    | with_reducible apply Keeps.ite

theorem State.packNack_keeps {s₀ s : State} {a1} (h : Keeps s₀ s) : Keeps s₀ (State.packNack s a1) := by
  unfold State.packNack
  repeat' first
    | with_reducible assumption
    | intro _
    | with_reducible apply State.finish_keeps
    | with_reducible apply State.updPrec_keeps
    | with_reducible apply Keeps.ite
    | simp -zeta only [Keeps.leaf]
    | split

theorem execSbPackNack_keeps {s₀ s : State} {a0 a1} (h : Keeps s₀ s) : KeepsOut s₀ (execSbPackNack a0 a1 s) := by
  unfold execSbPackNack
  repeat' first
    | with_reducible assumption
    | intro _
    | with_reducible apply State.packNack_keeps
    | with_reducible apply KeepsOut.of_next
    | with_reducible apply Keeps.ite

theorem State.packClear_keeps {s₀ s : State} {a1 a2 a3} (h : Keeps s₀ s) : Keeps s₀ (State.packClear s a1 a2 a3) := by
  unfold State.packClear
  repeat' first
    | with_reducible assumption
    | intro _
    | with_reducible apply State.finish_keeps
    | with_reducible apply State.idleBarrier_keeps
    | with_reducible apply Keeps.ite

theorem execPackClear_keeps {s₀ s : State} {a0 a1} (h : Keeps s₀ s) : KeepsOut s₀ (execPackClear a0 a1 s) := by
  unfold execPackClear
  repeat' first
    | with_reducible assumption
    | intro _
    | with_reducible apply State.finish_keeps
    | with_reducible apply State.drawn_keeps
    | with_reducible apply State.packClear_keeps
    | with_reducible apply KeepsOut.of_next
    | with_reducible apply Keeps.ite
    | simp -zeta only [Keeps.leaf]
    | split

theorem State.bruDone_keeps {s₀ s : State} {a1 a2} (h : Keeps s₀ s) : Keeps s₀ (State.bruDone s a1 a2) := by
  unfold State.bruDone
  repeat' first
    | with_reducible assumption
    | intro _
    | with_reducible apply Keeps.ite
    | simp -zeta only [Keeps.leaf]

theorem State.mcTaken_keeps {s₀ s : State} {a1 a2} (h : Keeps s₀ s) : Keeps s₀ (State.mcTaken s a1 a2) := by
  unfold State.mcTaken
  repeat' first
    | with_reducible assumption
    | intro _
    | with_reducible apply Keeps.ite
    | simp -zeta only [Keeps.leaf]
    | (extract_lets +onlyGivenNames x; clear_value x)
    | split

theorem State.takePkt_keeps {s₀ s : State} {a1 a2} (h : Keeps s₀ s) : Keeps s₀ (State.takePkt s a1 a2) := by
  unfold State.takePkt
  repeat' first
    | with_reducible assumption
    | intro _
    | with_reducible apply State.updCsn_keeps
    | with_reducible apply State.emit_keeps
    | with_reducible apply Keeps.ite

theorem execLoadMc_keeps {s₀ s : State} {a0 a1} (h : Keeps s₀ s) : KeepsOut s₀ (execLoadMc a0 a1 s) := by
  unfold execLoadMc
  repeat' first
    | with_reducible assumption
    | intro _
    | with_reducible apply State.mcTaken_keeps
    | with_reducible apply State.takePkt_keeps
    | with_reducible apply KeepsOut.of_next
    | with_reducible apply Keeps.ite

theorem State.takeUc_keeps {s₀ s : State} {a1 a2 a3} (h : Keeps s₀ s) : Keeps s₀ (State.takeUc s a1 a2 a3) := by
  unfold State.takeUc
  repeat' first
    | with_reducible assumption
    | intro _
    | with_reducible apply State.taken_keeps
    | with_reducible apply State.takePkt_keeps
    | with_reducible apply Keeps.ite

theorem execLoadUc_keeps {s₀ s : State} {a0 a1 a2} (h : Keeps s₀ s) : KeepsOut s₀ (execLoadUc a0 a1 a2 s) := by
  unfold execLoadUc
  repeat' first
    | with_reducible assumption
    | intro _
    | with_reducible apply State.stopMsg_keeps
    | with_reducible apply State.takeUc_keeps
    | with_reducible apply KeepsOut.of_next
    | with_reducible apply Keeps.ite

theorem State.takeMgmt_keeps {s₀ s : State} {a1 a2 a3} (h : Keeps s₀ s) : Keeps s₀ (State.takeMgmt s a1 a2 a3) := by
  unfold State.takeMgmt
  repeat' first
    | with_reducible assumption
    | intro _
    | with_reducible apply State.taken_keeps
    | with_reducible apply State.updHub_keeps
    | with_reducible apply State.updCsn_keeps
    | with_reducible apply State.emit_keeps
    | with_reducible apply State.setPoint_keeps
    | with_reducible apply Keeps.ite
    | simp -zeta only [Keeps.leaf]
    | (extract_lets +onlyGivenNames x; clear_value x)
    | split

theorem execMgmt_keeps {s₀ s : State} {a0 a1 a2} (h : Keeps s₀ s) : KeepsOut s₀ (execMgmt a0 a1 a2 s) := by
  unfold execMgmt
  repeat' first
    | with_reducible assumption
    | intro _
    | with_reducible apply State.stopMsg_keeps
    | with_reducible apply State.takeMgmt_keeps
    | with_reducible apply KeepsOut.of_next
    | with_reducible apply Keeps.ite

theorem State.sendLoad_keeps {s₀ s : State} {a1} (h : Keeps s₀ s) : Keeps s₀ (State.sendLoad s a1) := by
  unfold State.sendLoad
  repeat' first
    | with_reducible assumption
    | intro _
    | with_reducible apply State.sendAll_keeps

theorem State.orderCheck_keeps {s₀ s : State} {a1} (h : Keeps s₀ s) : Keeps s₀ (State.orderCheck s a1) := by
  unfold State.orderCheck
  repeat' first
    | with_reducible assumption
    | intro _
    | with_reducible apply State.sendAll_keeps
    | with_reducible apply State.openGen_keeps
    | with_reducible apply Keeps.ite
    | simp -zeta only [Keeps.leaf]
    | (extract_lets +onlyGivenNames x; refine Keeps.cut (s := s₀) (x := x) ?_ (fun hx => ?_) <;> [subst x; clear_value x])

theorem State.beginLoad_keeps {s₀ s : State} {a1} (h : Keeps s₀ s) : Keeps s₀ (State.beginLoad s a1) := by
  unfold State.beginLoad
  repeat' first
    | with_reducible assumption
    | intro _
    | with_reducible apply State.updPrec_keeps
    | with_reducible apply State.idleBarrier_keeps
    | with_reducible apply State.packBind_keeps
    | with_reducible apply State.orderCheck_keeps
    | with_reducible apply State.sendLoad_keeps

theorem State.releaseCores_keeps {s₀ s : State} {a1 a2} (h : Keeps s₀ s) : Keeps s₀ (State.releaseCores s a1 a2) := by
  unfold State.releaseCores
  repeat' first
    | with_reducible assumption
    | intro _
    | with_reducible apply State.emit_keeps
    | with_reducible apply State.updCsn_keeps
    | with_reducible apply forAll_keeps
    | with_reducible apply State.updCore_keeps
    | with_reducible apply Keeps.ite

theorem State.bringUpOver_keeps {s₀ s : State} (h : Keeps s₀ s) : Keeps s₀ (State.bringUpOver s) := by
  unfold State.bringUpOver
  repeat' first
    | with_reducible assumption
    | intro _
    | with_reducible apply Keeps.ite
    | simp -zeta only [Keeps.leaf]

theorem State.bootLoaded_keeps {s₀ s : State} (h : Keeps s₀ s) : Keeps s₀ (State.bootLoaded s) := by
  unfold State.bootLoaded
  repeat' first
    | with_reducible assumption
    | intro _
    | with_reducible apply State.emit_keeps
    | with_reducible apply State.bringUpOver_keeps
    | with_reducible apply Keeps.ite
    | simp -zeta only [Keeps.leaf]

theorem State.endLoad_keeps {s₀ s : State} {a1} (h : Keeps s₀ s) : Keeps s₀ (State.endLoad s a1) := by
  unfold State.endLoad
  repeat' first
    | with_reducible assumption
    | intro _
    | with_reducible apply State.idleBarrier_keeps
    | with_reducible apply forAll_keeps
    | with_reducible apply State.releaseCores_keeps
    | with_reducible apply State.updCsn_keeps
    | with_reducible apply State.bruDone_keeps
    | with_reducible apply State.bootLoaded_keeps
    | with_reducible apply Keeps.ite
    | simp -zeta only [Keeps.leaf]

theorem State.repairRound_keeps {s₀ s : State} {a1 a2} (h : Keeps s₀ s) : Keeps s₀ (State.repairRound s a1 a2) := by
  unfold State.repairRound
  repeat' first
    | with_reducible assumption
    | intro _
    | with_reducible apply State.sendLoad_keeps
    | with_reducible apply State.sendAll_keeps
    | with_reducible apply Keeps.ite
    | simp -zeta only [Keeps.leaf]

theorem State.muzzleLoad_keeps {s₀ s : State} {a1} (h : Keeps s₀ s) : Keeps s₀ (State.muzzleLoad s a1) := by
  unfold State.muzzleLoad
  repeat' first
    | with_reducible assumption
    | intro _
    | with_reducible apply State.muzzle_keeps
    | with_reducible apply State.saveHist_keeps

theorem State.loadDecide_keeps {s₀ s : State} {a1 a2} (h : Keeps s₀ s) : Keeps s₀ (State.loadDecide s a1 a2) := by
  unfold State.loadDecide
  repeat' first
    | with_reducible assumption
    | intro _
    | with_reducible apply State.orderCheck_keeps
    | with_reducible apply forAll_keeps
    | with_reducible apply State.muzzleLoad_keeps
    | with_reducible apply State.endLoad_keeps
    | with_reducible apply State.repairRound_keeps
    | with_reducible apply Keeps.ite
    | simp -zeta only [Keeps.leaf]
    | split

theorem execRepairRoundDone_keeps {s₀ s : State} (h : Keeps s₀ s) : KeepsOut s₀ (execRepairRoundDone s) := by
  unfold execRepairRoundDone
  repeat' first
    | with_reducible assumption
    | intro _
    | with_reducible apply State.orderCheck_keeps
    | with_reducible apply KeepsOut.of_next
    | with_reducible apply Keeps.ite
    | simp -zeta only [Keeps.leaf]
    | split

theorem State.bootLoad_keeps {s₀ s : State} (h : Keeps s₀ s) : Keeps s₀ (State.bootLoad s) := by
  unfold State.bootLoad
  repeat' first
    | with_reducible assumption
    | intro _
    | with_reducible apply State.bruDone_keeps
    | with_reducible apply forAll_keeps
    | with_reducible apply State.updCore_keeps
    | with_reducible apply State.decideReset_keeps
    | with_reducible apply Keeps.ite
    | simp -zeta only [Keeps.leaf]
    | (extract_lets +onlyGivenNames x; refine Keeps.cut (s := s₀) (x := x) ?_ (fun hx => ?_) <;> [subst x; clear_value x])
    | (extract_lets +onlyGivenNames x; clear_value x)

theorem execBootLoad_keeps {s₀ s : State} (h : Keeps s₀ s) : KeepsOut s₀ (execBootLoad s) := by
  unfold execBootLoad
  repeat' first
    | with_reducible assumption
    | intro _
    | with_reducible apply State.bootLoad_keeps
    | with_reducible apply KeepsOut.of_next

theorem State.loadReset_keeps {s₀ s : State} {a1} (h : Keeps s₀ s) : Keeps s₀ (State.loadReset s a1) := by
  unfold State.loadReset
  repeat' first
    | with_reducible assumption
    | intro _
    | with_reducible apply State.idleBarrier_keeps
    | with_reducible apply Keeps.ite
    | simp -zeta only [Keeps.leaf]
    | (extract_lets +onlyGivenNames x; refine Keeps.cut (s := s₀) (x := x) ?_ (fun hx => ?_) <;> [subst x; clear_value x])
    | (extract_lets +onlyGivenNames x; clear_value x)
    | split

theorem execPartitionReset_keeps {s₀ s : State} {a0 a1} (h : Keeps s₀ s) : KeepsOut s₀ (execPartitionReset a0 a1 s) := by
  unfold execPartitionReset
  repeat' first
    | with_reducible assumption
    | intro _
    | with_reducible apply State.loadReset_keeps
    | with_reducible apply State.beginReset_keeps
    | with_reducible apply KeepsOut.of_next

theorem execPartitionResetComplete_keeps {s₀ s : State} {a0} (h : Keeps s₀ s) : KeepsOut s₀ (execPartitionResetComplete a0 s) := by
  unfold execPartitionResetComplete
  repeat' first
    | with_reducible assumption
    | intro _
    | with_reducible apply State.completeReset_keeps
    | with_reducible apply State.beginLoad_keeps
    | with_reducible apply KeepsOut.of_next
    | with_reducible apply Keeps.ite
    | simp -zeta only [Keeps.leaf]
    | (extract_lets +onlyGivenNames x; refine Keeps.cut (s := s₀) (x := x) ?_ (fun hx => ?_) <;> [subst x; clear_value x])
    | split

theorem State.seqMore_keeps {s₀ s : State} {a1} (h : Keeps s₀ s) : Keeps s₀ (State.seqMore s a1) := by
  unfold State.seqMore
  repeat' first
    | with_reducible assumption
    | intro _
    | with_reducible apply State.updPrec_keeps

theorem State.latchFor_keeps {s₀ s : State} {a1 a2 a3} (h : Keeps s₀ s) : Keeps s₀ (State.latchFor s a1 a2 a3) := by
  unfold State.latchFor
  repeat' first
    | with_reducible assumption
    | intro _
    | with_reducible apply State.latchLanes_keeps
    | with_reducible apply Keeps.ite
    | simp -zeta only [Keeps.leaf]
    | split

theorem State.skewFor_keeps {s₀ s : State} {a1} (h : Keeps s₀ s) : Keeps s₀ (State.skewFor s a1) := by
  unfold State.skewFor
  repeat' first
    | with_reducible assumption
    | intro _
    | with_reducible apply State.takeSkew_keeps
    | with_reducible apply Keeps.ite
    | simp -zeta only [Keeps.leaf]
    | split

theorem State.releaseHere_keeps {s₀ s : State} {a1 a2 a3} (h : Keeps s₀ s) : Keeps s₀ (State.releaseHere s a1 a2 a3) := by
  unfold State.releaseHere
  repeat' first
    | with_reducible assumption
    | intro _
    | with_reducible apply State.walkRelease_keeps
    | with_reducible apply State.releaseRoot_keeps
    | with_reducible apply State.seqMore_keeps
    | with_reducible apply State.skewFor_keeps
    | with_reducible apply State.latchFor_keeps

theorem State.loaderReady_keeps {s₀ s : State} (h : Keeps s₀ s) : Keeps s₀ (State.loaderReady s) := by
  unfold State.loaderReady
  repeat' first
    | with_reducible assumption
    | intro _
    | with_reducible apply State.releaseRoot_keeps
    | with_reducible apply State.loadDecide_keeps

theorem State.waferReady_keeps {s₀ s : State} {a1} (h : Keeps s₀ s) : Keeps s₀ (State.waferReady s a1) := by
  unfold State.waferReady
  repeat' first
    | with_reducible assumption
    | intro _
    | with_reducible apply State.releaseHere_keeps

theorem State.spanReady_keeps {s₀ s : State} {a1} (h : Keeps s₀ s) : Keeps s₀ (State.spanReady s a1) := by
  unfold State.spanReady
  repeat' first
    | with_reducible assumption
    | intro _
    | with_reducible apply State.sendAll_keeps
    | with_reducible apply State.skewFor_keeps
    | with_reducible apply State.updSrec_keeps
    | with_reducible apply State.seqMore_keeps
    | with_reducible apply State.walkRelease_keeps
    | with_reducible apply State.releaseRoot_keeps
    | with_reducible apply State.latchFor_keeps
    | with_reducible apply Keeps.ite

theorem State.resultReady_keeps {s₀ s : State} {a1} (h : Keeps s₀ s) : Keeps s₀ (State.resultReady s a1) := by
  unfold State.resultReady
  repeat' first
    | with_reducible assumption
    | intro _
    | with_reducible apply State.spanReady_keeps
    | with_reducible apply State.loaderReady_keeps
    | with_reducible apply State.waferReady_keeps
    | with_reducible apply Keeps.ite

theorem execBarrierResultReady_keeps {s₀ s : State} {a0} (h : Keeps s₀ s) : KeepsOut s₀ (execBarrierResultReady a0 s) := by
  unfold execBarrierResultReady
  repeat' first
    | with_reducible assumption
    | intro _
    | with_reducible apply State.resultReady_keeps
    | with_reducible apply KeepsOut.of_next

theorem State.spanRelease_keeps {s₀ s : State} {a1} (h : Keeps s₀ s) : Keeps s₀ (State.spanRelease s a1) := by
  unfold State.spanRelease
  repeat' first
    | with_reducible assumption
    | intro _
    | with_reducible apply State.releaseHere_keeps
    | with_reducible apply Keeps.ite

theorem execSbRelease_keeps {s₀ s : State} {a0 a1} (h : Keeps s₀ s) : KeepsOut s₀ (execSbRelease a0 a1 s) := by
  unfold execSbRelease
  repeat' first
    | with_reducible assumption
    | intro _
    | with_reducible apply State.spanRelease_keeps
    | with_reducible apply KeepsOut.of_next
    | with_reducible apply Keeps.ite

theorem State.fatal_keeps {s₀ s : State} (h : Keeps s₀ s) : Keeps s₀ (State.fatal s) := by
  unfold State.fatal
  repeat' first
    | with_reducible assumption
    | intro _
    | with_reducible apply Keeps.ite
    | simp -zeta only [Keeps.leaf]

theorem State.stepRoot_keeps {s₀ s : State} (h : Keeps s₀ s) : Keeps s₀ (State.stepRoot s) := by
  unfold State.stepRoot
  repeat' first
    | with_reducible assumption
    | intro _
    | with_reducible apply Keeps.ite
    | simp -zeta only [Keeps.leaf]
    | (extract_lets +onlyGivenNames x; clear_value x)

theorem State.stepRecipe_keeps {s₀ s : State} (h : Keeps s₀ s) : Keeps s₀ (State.stepRecipe s) := by
  unfold State.stepRecipe
  repeat' first
    | with_reducible assumption
    | intro _
    | with_reducible apply State.resetAllRegs_keeps
    | with_reducible apply forAll_keeps
    | with_reducible apply State.updFn_keeps
    | with_reducible apply Keeps.ite
    | simp -zeta only [Keeps.leaf]

theorem State.failUnit_keeps {s₀ s : State} {a1} (h : Keeps s₀ s) : Keeps s₀ (State.failUnit s a1) := by
  unfold State.failUnit
  repeat' first
    | with_reducible assumption
    | intro _
    | with_reducible apply State.saveHist_keeps
    | with_reducible apply State.report_keeps
    | with_reducible apply State.errBit_keeps
    | with_reducible apply Keeps.ite

theorem State.retestAll_keeps {s₀ s : State} (h : Keeps s₀ s) : Keeps s₀ (State.retestAll s) := by
  unfold State.retestAll
  repeat' first
    | with_reducible assumption
    | intro _
    | with_reducible apply forAll_keeps
    | with_reducible apply State.failUnit_keeps
    | with_reducible apply State.drawn_keeps
    | with_reducible apply Keeps.ite
    | simp -zeta only [Keeps.leaf]

theorem State.failUnits_keeps {s₀ s : State} {a1} (h : Keeps s₀ s) : Keeps s₀ (State.failUnits s a1) := by
  unfold State.failUnits
  repeat' first
    | with_reducible assumption
    | intro _
    | with_reducible apply forAll_keeps
    | with_reducible apply State.failUnit_keeps

theorem State.applyMuzzles_keeps {s₀ s : State} (h : Keeps s₀ s) : Keeps s₀ (State.applyMuzzles s) := by
  unfold State.applyMuzzles
  repeat' first
    | with_reducible assumption
    | intro _
    | with_reducible apply State.tabHub_keeps
    | with_reducible apply State.mapHub_keeps
    | with_reducible apply forAll_keeps
    | with_reducible apply State.updCsn_keeps
    | with_reducible apply State.updPort_keeps
    | with_reducible apply Keeps.ite
    | simp -zeta only [Keeps.leaf]

theorem State.trainMesh_keeps {s₀ s : State} (h : Keeps s₀ s) : Keeps s₀ (State.trainMesh s) := by
  unfold State.trainMesh
  repeat' first
    | with_reducible assumption
    | intro _
    | with_reducible apply forAll_keeps
    | with_reducible apply State.updLink_keeps
    | with_reducible apply State.publish_keeps
    | with_reducible apply Keeps.ite
    | simp -zeta only [Keeps.leaf]

theorem State.mapDefects_keeps {s₀ s : State} {a1} (h : Keeps s₀ s) : Keeps s₀ (State.mapDefects s a1) := by
  unfold State.mapDefects
  repeat' first
    | with_reducible assumption
    | intro _
    | with_reducible apply State.tabCsn_keeps
    | with_reducible apply Keeps.ite
    | simp -zeta only [Keeps.leaf]
    | (extract_lets +onlyGivenNames x; refine Keeps.cut (s := s₀) (x := x) ?_ (fun hx => ?_) <;> [subst x; clear_value x])
    | (extract_lets +onlyGivenNames x; clear_value x)

theorem State.gradeReport_keeps {s₀ s : State} (h : Keeps s₀ s) : Keeps s₀ (State.gradeReport s) := by
  unfold State.gradeReport
  repeat' first
    | with_reducible assumption
    | intro _
    | with_reducible apply State.errBit_keeps
    | with_reducible apply State.report_keeps
    | with_reducible apply Keeps.ite

theorem State.bootAll_keeps {s₀ s : State} (h : Keeps s₀ s) : Keeps s₀ (State.bootAll s) := by
  unfold State.bootAll
  repeat' first
    | with_reducible assumption
    | intro _
    | with_reducible apply State.beginLoad_keeps

theorem State.admitKat_keeps {s₀ s : State} (h : Keeps s₀ s) : Keeps s₀ (State.admitKat s) := by
  unfold State.admitKat
  repeat' first
    | with_reducible assumption
    | intro _
    | with_reducible apply Keeps.ite
    | simp -zeta only [Keeps.leaf]

theorem State.stepUnits_keeps {s₀ s : State} {a1} (h : Keeps s₀ s) : Keeps s₀ (State.stepUnits s a1) := by
  unfold State.stepUnits
  repeat' first
    | with_reducible assumption
    | intro _
    | with_reducible apply State.trainMesh_keeps
    | with_reducible apply State.applyMuzzles_keeps
    | with_reducible apply State.failUnits_keeps
    | with_reducible apply State.gradeReport_keeps
    | with_reducible apply State.mapDefects_keeps
    | with_reducible apply forAll_keeps
    | with_reducible apply State.updCsn_keeps
    | with_reducible apply State.failUnit_keeps
    | with_reducible apply State.bootAll_keeps
    | with_reducible apply State.admitKat_keeps
    | with_reducible apply Keeps.ite
    | simp -zeta only [Keeps.leaf]
    | (extract_lets +onlyGivenNames x; refine Keeps.cut (s := s₀) (x := x) ?_ (fun hx => ?_) <;> [subst x; clear_value x])

theorem State.stopBringUp_keeps {s₀ s : State} {a1} (h : Keeps s₀ s) : Keeps s₀ (State.stopBringUp s a1) := by
  unfold State.stopBringUp
  repeat' first
    | with_reducible assumption
    | intro _
    | with_reducible apply State.requestCycle_keeps
    | with_reducible apply State.fatal_keeps
    | with_reducible apply Keeps.ite

theorem State.recovery_keeps {s₀ s : State} (h : Keeps s₀ s) : Keeps s₀ (State.recovery s) := by
  unfold State.recovery
  repeat' first
    | with_reducible assumption
    | intro _
    | with_reducible apply State.stopBringUp_keeps
    | with_reducible apply Keeps.ite
    | simp -zeta only [Keeps.leaf]

theorem State.stepSites_keeps {s₀ s : State} {a1} (h : Keeps s₀ s) : Keeps s₀ (State.stepSites s a1) := by
  unfold State.stepSites
  repeat' first
    | with_reducible assumption
    | intro _
    | with_reducible apply forAll_keeps
    | with_reducible apply State.failUnit_keeps
    | with_reducible apply State.stopBringUp_keeps
    | with_reducible apply State.stepUnits_keeps
    | with_reducible apply Keeps.ite
    | simp -zeta only [Keeps.leaf]
    | (extract_lets +onlyGivenNames x; refine Keeps.cut (s := s₀) (x := x) ?_ (fun hx => ?_) <;> [subst x; clear_value x])
    | (extract_lets +onlyGivenNames x; clear_value x)
    | split

theorem State.bringUp_keeps {s₀ s : State} {a1 a2 a3} (h : Keeps s₀ s) : Keeps s₀ (State.bringUp s a1 a2 a3) := by
  unfold State.bringUp
  repeat' first
    | with_reducible assumption
    | intro _
    | with_reducible apply State.restart_keeps
    | with_reducible apply State.recovery_keeps
    | with_reducible apply State.stepRoot_keeps
    | with_reducible apply State.stopBringUp_keeps
    | with_reducible apply State.stepSites_keeps
    | with_reducible apply State.retestAll_keeps
    | with_reducible apply State.stepRecipe_keeps
    | with_reducible apply Keeps.ite

theorem State.countReset_keeps {s₀ s : State} (h : Keeps s₀ s) : Keeps s₀ (State.countReset s) := by
  unfold State.countReset
  repeat' first
    | with_reducible assumption
    | intro _
    | with_reducible apply State.caskAdd_keeps
    | with_reducible apply State.requestCycle_keeps
    | with_reducible apply Keeps.ite
    | simp -zeta only [Keeps.leaf]

theorem State.varvoReset_keeps {s₀ s : State} {a1} (h : Keeps s₀ s) : Keeps s₀ (State.varvoReset s a1) := by
  unfold State.varvoReset
  repeat' first
    | with_reducible assumption
    | intro _
    | with_reducible apply State.bringUp_keeps
    | with_reducible apply State.countReset_keeps
    | with_reducible apply Keeps.ite

theorem execVarvoReset_keeps {s₀ s : State} {a0} (h : Keeps s₀ s) : KeepsOut s₀ (execVarvoReset a0 s) := by
  unfold execVarvoReset
  repeat' first
    | with_reducible assumption
    | intro _
    | with_reducible apply State.varvoReset_keeps
    | with_reducible apply KeepsOut.of_next

theorem State.powerGood_keeps {s₀ s : State} {a1} (h : Keeps s₀ s) : Keeps s₀ (State.powerGood s a1) := by
  unfold State.powerGood
  repeat' first
    | with_reducible assumption
    | intro _
    | with_reducible apply State.bringUp_keeps
    | with_reducible apply Keeps.ite
    | simp -zeta only [Keeps.leaf]

theorem execPowerGood_keeps {s₀ s : State} {a0} (h : Keeps s₀ s) : KeepsOut s₀ (execPowerGood a0 s) := by
  unfold execPowerGood
  repeat' first
    | with_reducible assumption
    | intro _
    | with_reducible apply State.powerGood_keeps
    | with_reducible apply KeepsOut.of_next

theorem execAonPgDeassert_keeps {s₀ s : State} (h : Keeps s₀ s) : KeepsOut s₀ (execAonPgDeassert s) := by
  unfold execAonPgDeassert
  repeat' first
    | with_reducible assumption
    | intro _
    | with_reducible apply State.aonLost_keeps
    | with_reducible apply KeepsOut.of_next

theorem State.mtestFail_keeps {s₀ s : State} {a1} (h : Keeps s₀ s) : Keeps s₀ (State.mtestFail s a1) := by
  unfold State.mtestFail
  repeat' first
    | with_reducible assumption
    | intro _
    | with_reducible apply State.gradeCheck_keeps
    | with_reducible apply Keeps.ite
    | simp -zeta only [Keeps.leaf]

theorem State.mtestResult_keeps {s₀ s : State} {a1 a2} (h : Keeps s₀ s) : Keeps s₀ (State.mtestResult s a1 a2) := by
  unfold State.mtestResult
  repeat' first
    | with_reducible assumption
    | intro _
    | with_reducible apply State.mtestFail_keeps
    | with_reducible apply Keeps.ite
    | simp -zeta only [Keeps.leaf]

theorem execMtestRes_keeps {s₀ s : State} {a0 a1} (h : Keeps s₀ s) : KeepsOut s₀ (execMtestRes a0 a1 s) := by
  unfold execMtestRes
  repeat' first
    | with_reducible assumption
    | intro _
    | with_reducible apply State.mtestResult_keeps
    | with_reducible apply KeepsOut.of_next

theorem State.mtestEnd_keeps {s₀ s : State} (h : Keeps s₀ s) : Keeps s₀ (State.mtestEnd s) := by
  unfold State.mtestEnd
  repeat' first
    | with_reducible assumption
    | intro _
    | with_reducible apply forAll_keeps
    | with_reducible apply State.mtestFail_keeps
    | with_reducible apply State.bootAll_keeps
    | with_reducible apply Keeps.ite
    | simp -zeta only [Keeps.leaf]

theorem execMtestDone_keeps {s₀ s : State} (h : Keeps s₀ s) : KeepsOut s₀ (execMtestDone s) := by
  unfold execMtestDone
  repeat' first
    | with_reducible assumption
    | intro _
    | with_reducible apply State.mtestEnd_keeps
    | with_reducible apply KeepsOut.of_next
    | with_reducible apply Keeps.ite

theorem execMtestTimeout_keeps {s₀ s : State} (h : Keeps s₀ s) : KeepsOut s₀ (execMtestTimeout s) := by
  unfold execMtestTimeout
  repeat' first
    | with_reducible assumption
    | intro _
    | with_reducible apply State.mtestEnd_keeps
    | with_reducible apply KeepsOut.of_next
    | with_reducible apply Keeps.ite

theorem State.mapRead_keeps {s₀ s : State} (h : Keeps s₀ s) : Keeps s₀ (State.mapRead s) := by
  unfold State.mapRead
  repeat' first
    | with_reducible assumption
    | intro _
    | with_reducible apply State.bruDone_keeps
    | with_reducible apply State.emit_keeps
    | with_reducible apply Keeps.ite

theorem execMapRead_keeps {s₀ s : State} (h : Keeps s₀ s) : KeepsOut s₀ (execMapRead s) := by
  unfold execMapRead
  repeat' first
    | with_reducible assumption
    | intro _
    | with_reducible apply State.mapRead_keeps
    | with_reducible apply KeepsOut.of_next

theorem State.wroteRecord_keeps {s₀ s : State} {a1 a2} (h : Keeps s₀ s) : Keeps s₀ (State.wroteRecord s a1 a2) := by
  unfold State.wroteRecord
  repeat' first
    | with_reducible assumption
    | intro _
    | with_reducible apply State.putCask_keeps
    | with_reducible apply State.finish_keeps
    | with_reducible apply State.updFn_keeps
    | with_reducible apply Keeps.ite
    | simp -zeta only [Keeps.leaf]
    | (extract_lets +onlyGivenNames x; refine Keeps.cut (s := s₀) (x := x) ?_ (fun hx => ?_) <;> [subst x; clear_value x])
    | split

theorem State.wroteErase_keeps {s₀ s : State} {a1} (h : Keeps s₀ s) : Keeps s₀ (State.wroteErase s a1) := by
  unfold State.wroteErase
  repeat' first
    | with_reducible assumption
    | intro _
    | with_reducible apply State.updFn_keeps
    | with_reducible apply Keeps.ite
    | simp -zeta only [Keeps.leaf]

theorem State.wroteRecipe_keeps {s₀ s : State} {a1 a2 a3} (h : Keeps s₀ s) : Keeps s₀ (State.wroteRecipe s a1 a2 a3) := by
  unfold State.wroteRecipe
  repeat' first
    | with_reducible assumption
    | intro _
    | with_reducible apply State.bruDone_keeps
    | with_reducible apply Keeps.ite
    | simp -zeta only [Keeps.leaf]

theorem State.pldmSend_keeps {s₀ s : State} {a1 a2} (h : Keeps s₀ s) : Keeps s₀ (State.pldmSend s a1 a2) := by
  unfold State.pldmSend
  repeat' first
    | with_reducible assumption
    | intro _
    | with_reducible apply State.emit_keeps

theorem State.pldmAnswer_keeps {s₀ s : State} {a1} (h : Keeps s₀ s) : Keeps s₀ (State.pldmAnswer s a1) := by
  unfold State.pldmAnswer
  repeat' first
    | with_reducible assumption
    | intro _
    | with_reducible apply State.emit_keeps

theorem State.commitEnd_keeps {s₀ s : State} {a1 a2} (h : Keeps s₀ s) : Keeps s₀ (State.commitEnd s a1 a2) := by
  unfold State.commitEnd
  repeat' first
    | with_reducible assumption
    | intro _
    | with_reducible apply State.pldmSend_keeps
    | with_reducible apply State.bruDone_keeps
    | with_reducible apply Keeps.ite
    | simp -zeta only [Keeps.leaf]
    | (extract_lets +onlyGivenNames x; refine Keeps.cut (s := s₀) (x := x) ?_ (fun hx => ?_) <;> [subst x; clear_value x])
    | (extract_lets +onlyGivenNames x; clear_value x)
    | split

theorem State.wroteFirmware_keeps {s₀ s : State} {a1 a2} (h : Keeps s₀ s) : Keeps s₀ (State.wroteFirmware s a1 a2) := by
  unfold State.wroteFirmware
  repeat' first
    | with_reducible assumption
    | intro _
    | with_reducible apply State.commitEnd_keeps
    | with_reducible apply Keeps.ite
    | simp -zeta only [Keeps.leaf]

theorem State.wroteUnit_keeps {s₀ s : State} {a1} (h : Keeps s₀ s) : Keeps s₀ (State.wroteUnit s a1) := by
  unfold State.wroteUnit
  repeat' first
    | with_reducible assumption
    | intro _
    | with_reducible apply State.wroteRecord_keeps
    | with_reducible apply State.wroteErase_keeps
    | with_reducible apply State.wroteRecipe_keeps
    | with_reducible apply State.bruDone_keeps
    | with_reducible apply State.wroteFirmware_keeps
    | with_reducible apply Keeps.ite
    | simp -zeta only [Keeps.leaf]
    | (extract_lets +onlyGivenNames x; clear_value x)
    | split

theorem State.caskUnit_keeps {s₀ s : State} (h : Keeps s₀ s) : Keeps s₀ (State.caskUnit s) := by
  unfold State.caskUnit
  repeat' first
    | with_reducible assumption
    | intro _
    | with_reducible apply State.wroteUnit_keeps
    | with_reducible apply State.emit_keeps
    | with_reducible apply Keeps.ite
    | simp -zeta only [Keeps.leaf]
    | (extract_lets +onlyGivenNames x; clear_value x)
    | split

theorem execCaskUnitWrite_keeps {s₀ s : State} (h : Keeps s₀ s) : KeepsOut s₀ (execCaskUnitWrite s) := by
  unfold execCaskUnitWrite
  repeat' first
    | with_reducible assumption
    | intro _
    | with_reducible apply State.caskUnit_keeps
    | with_reducible apply KeepsOut.of_next

theorem State.deferEnds_keeps {s₀ s : State} {a1 a2} (h : Keeps s₀ s) : Keeps s₀ (State.deferEnds s a1 a2) := by
  unfold State.deferEnds
  repeat' first
    | with_reducible assumption
    | intro _
    | with_reducible apply State.finish_keeps
    | with_reducible apply State.updFn_keeps
    | with_reducible apply State.commitEnd_keeps
    | with_reducible apply Keeps.ite
    | simp -zeta only [Keeps.leaf]
    | (extract_lets +onlyGivenNames x; refine Keeps.cut (s := s₀) (x := x) ?_ (fun hx => ?_) <;> [subst x; clear_value x])
    | (extract_lets +onlyGivenNames x; clear_value x)
    | split

theorem State.caskDefer_keeps {s₀ s : State} (h : Keeps s₀ s) : Keeps s₀ (State.caskDefer s) := by
  unfold State.caskDefer
  repeat' first
    | with_reducible assumption
    | intro _
    | with_reducible apply State.deferEnds_keeps
    | with_reducible apply State.report_keeps
    | with_reducible apply Keeps.ite
    | simp -zeta only [Keeps.leaf]
    | (extract_lets +onlyGivenNames x; clear_value x)
    | split

theorem execCaskDefer_keeps {s₀ s : State} (h : Keeps s₀ s) : KeepsOut s₀ (execCaskDefer s) := by
  unfold execCaskDefer
  repeat' first
    | with_reducible assumption
    | intro _
    | with_reducible apply State.caskDefer_keeps
    | with_reducible apply KeepsOut.of_next

theorem execHoldupLoss_keeps {s₀ s : State} (h : Keeps s₀ s) : KeepsOut s₀ (execHoldupLoss s) := by
  unfold execHoldupLoss
  repeat' first
    | with_reducible assumption
    | intro _
    | with_reducible apply KeepsOut.of_next
    | with_reducible apply Keeps.ite
    | simp -zeta only [Keeps.leaf]

theorem State.recipeWrite_keeps {s₀ s : State} {a1} (h : Keeps s₀ s) : Keeps s₀ (State.recipeWrite s a1) := by
  unfold State.recipeWrite
  repeat' first
    | with_reducible assumption
    | intro _
    | with_reducible apply State.bruDone_keeps
    | with_reducible apply State.caskAdd_keeps
    | with_reducible apply Keeps.ite

theorem execRecipeWrite_keeps {s₀ s : State} {a0} (h : Keeps s₀ s) : KeepsOut s₀ (execRecipeWrite a0 s) := by
  unfold execRecipeWrite
  repeat' first
    | with_reducible assumption
    | intro _
    | with_reducible apply State.recipeWrite_keeps
    | with_reducible apply KeepsOut.of_next

theorem State.recipeRead_keeps {s₀ s : State} (h : Keeps s₀ s) : Keeps s₀ (State.recipeRead s) := by
  unfold State.recipeRead
  repeat' first
    | with_reducible assumption
    | intro _
    | with_reducible apply State.bruDone_keeps
    | with_reducible apply State.emit_keeps
    | with_reducible apply Keeps.ite

theorem execRecipeRead_keeps {s₀ s : State} (h : Keeps s₀ s) : KeepsOut s₀ (execRecipeRead s) := by
  unfold execRecipeRead
  repeat' first
    | with_reducible assumption
    | intro _
    | with_reducible apply State.recipeRead_keeps
    | with_reducible apply KeepsOut.of_next

theorem State.recipeClear_keeps {s₀ s : State} (h : Keeps s₀ s) : Keeps s₀ (State.recipeClear s) := by
  unfold State.recipeClear
  repeat' first
    | with_reducible assumption
    | intro _
    | with_reducible apply State.caskAdd_keeps
    | with_reducible apply Keeps.ite

theorem execRecipeClear_keeps {s₀ s : State} (h : Keeps s₀ s) : KeepsOut s₀ (execRecipeClear s) := by
  unfold execRecipeClear
  repeat' first
    | with_reducible assumption
    | intro _
    | with_reducible apply State.recipeClear_keeps
    | with_reducible apply KeepsOut.of_next

theorem State.fwStage_keeps {s₀ s : State} {a1} (h : Keeps s₀ s) : Keeps s₀ (State.fwStage s a1) := by
  unfold State.fwStage
  repeat' first
    | with_reducible assumption
    | intro _
    | with_reducible apply State.bruDone_keeps
    | with_reducible apply Keeps.ite
    | simp -zeta only [Keeps.leaf]

theorem execFwStage_keeps {s₀ s : State} {a0} (h : Keeps s₀ s) : KeepsOut s₀ (execFwStage a0 s) := by
  unfold execFwStage
  repeat' first
    | with_reducible assumption
    | intro _
    | with_reducible apply State.fwStage_keeps
    | with_reducible apply KeepsOut.of_next

theorem State.fwCommit_keeps {s₀ s : State} {a1} (h : Keeps s₀ s) : Keeps s₀ (State.fwCommit s a1) := by
  unfold State.fwCommit
  repeat' first
    | with_reducible assumption
    | intro _
    | with_reducible apply State.bruDone_keeps
    | with_reducible apply State.caskAdd_keeps
    | with_reducible apply Keeps.ite
    | simp -zeta only [Keeps.leaf]

theorem execFwCommit_keeps {s₀ s : State} {a0} (h : Keeps s₀ s) : KeepsOut s₀ (execFwCommit a0 s) := by
  unfold execFwCommit
  repeat' first
    | with_reducible assumption
    | intro _
    | with_reducible apply State.fwCommit_keeps
    | with_reducible apply KeepsOut.of_next

theorem State.requestUpdate_keeps {s₀ s : State} (h : Keeps s₀ s) : Keeps s₀ (State.requestUpdate s) := by
  unfold State.requestUpdate
  repeat' first
    | with_reducible assumption
    | intro _
    | with_reducible apply State.pldmAnswer_keeps
    | with_reducible apply Keeps.ite
    | simp -zeta only [Keeps.leaf]

theorem execRequestUpdate_keeps {s₀ s : State} (h : Keeps s₀ s) : KeepsOut s₀ (execRequestUpdate s) := by
  unfold execRequestUpdate
  repeat' first
    | with_reducible assumption
    | intro _
    | with_reducible apply State.requestUpdate_keeps
    | with_reducible apply KeepsOut.of_next

theorem State.passTable_keeps {s₀ s : State} (h : Keeps s₀ s) : Keeps s₀ (State.passTable s) := by
  unfold State.passTable
  repeat' first
    | with_reducible assumption
    | intro _
    | with_reducible apply State.pldmAnswer_keeps
    | with_reducible apply Keeps.ite
    | simp -zeta only [Keeps.leaf]

theorem execPassComponentTable_keeps {s₀ s : State} (h : Keeps s₀ s) : KeepsOut s₀ (execPassComponentTable s) := by
  unfold execPassComponentTable
  repeat' first
    | with_reducible assumption
    | intro _
    | with_reducible apply State.passTable_keeps
    | with_reducible apply KeepsOut.of_next

theorem State.updateComponent_keeps {s₀ s : State} {a1} (h : Keeps s₀ s) : Keeps s₀ (State.updateComponent s a1) := by
  unfold State.updateComponent
  repeat' first
    | with_reducible assumption
    | intro _
    | with_reducible apply State.pldmSend_keeps
    | with_reducible apply State.pldmAnswer_keeps
    | with_reducible apply Keeps.ite
    | simp -zeta only [Keeps.leaf]

theorem execUpdateComponent_keeps {s₀ s : State} {a0} (h : Keeps s₀ s) : KeepsOut s₀ (execUpdateComponent a0 s) := by
  unfold execUpdateComponent
  repeat' first
    | with_reducible assumption
    | intro _
    | with_reducible apply State.updateComponent_keeps
    | with_reducible apply KeepsOut.of_next

theorem State.transferDone_keeps {s₀ s : State} (h : Keeps s₀ s) : Keeps s₀ (State.transferDone s) := by
  unfold State.transferDone
  repeat' first
    | with_reducible assumption
    | intro _
    | with_reducible apply State.pldmSend_keeps
    | with_reducible apply State.caskAdd_keeps
    | with_reducible apply Keeps.ite
    | simp -zeta only [Keeps.leaf]

theorem State.firmwareData_keeps {s₀ s : State} {a1} (h : Keeps s₀ s) : Keeps s₀ (State.firmwareData s a1) := by
  unfold State.firmwareData
  repeat' first
    | with_reducible assumption
    | intro _
    | with_reducible apply State.pldmAnswer_keeps
    | with_reducible apply State.transferDone_keeps
    | with_reducible apply State.pldmSend_keeps
    | with_reducible apply Keeps.ite
    | simp -zeta only [Keeps.leaf]

theorem execFirmwareData_keeps {s₀ s : State} {a0} (h : Keeps s₀ s) : KeepsOut s₀ (execFirmwareData a0 s) := by
  unfold execFirmwareData
  repeat' first
    | with_reducible assumption
    | intro _
    | with_reducible apply State.firmwareData_keeps
    | with_reducible apply KeepsOut.of_next

theorem State.activate_keeps {s₀ s : State} (h : Keeps s₀ s) : Keeps s₀ (State.activate s) := by
  unfold State.activate
  repeat' first
    | with_reducible assumption
    | intro _
    | with_reducible apply State.pldmAnswer_keeps
    | with_reducible apply State.needVarvo_keeps
    | with_reducible apply Keeps.ite
    | simp -zeta only [Keeps.leaf]
    | (extract_lets +onlyGivenNames x; clear_value x)
    | split

theorem execActivateFirmware_keeps {s₀ s : State} (h : Keeps s₀ s) : KeepsOut s₀ (execActivateFirmware s) := by
  unfold execActivateFirmware
  repeat' first
    | with_reducible assumption
    | intro _
    | with_reducible apply State.activate_keeps
    | with_reducible apply KeepsOut.of_next

theorem State.cancelUpdate_keeps {s₀ s : State} (h : Keeps s₀ s) : Keeps s₀ (State.cancelUpdate s) := by
  unfold State.cancelUpdate
  repeat' first
    | with_reducible assumption
    | intro _
    | with_reducible apply State.pldmAnswer_keeps
    | with_reducible apply Keeps.ite
    | simp -zeta only [Keeps.leaf]

theorem execCancelUpdate_keeps {s₀ s : State} (h : Keeps s₀ s) : KeepsOut s₀ (execCancelUpdate s) := by
  unfold execCancelUpdate
  repeat' first
    | with_reducible assumption
    | intro _
    | with_reducible apply State.cancelUpdate_keeps
    | with_reducible apply KeepsOut.of_next

theorem execEntdaa_keeps {s₀ s : State} {a0} (h : Keeps s₀ s) : KeepsOut s₀ (execEntdaa a0 s) := by
  unfold execEntdaa
  repeat' first
    | with_reducible assumption
    | intro _
    | with_reducible apply KeepsOut.of_next
    | with_reducible apply Keeps.ite
    | simp -zeta only [Keeps.leaf]

theorem State.intervalEnd_keeps {s₀ s : State} {a1} (h : Keeps s₀ s) : Keeps s₀ (State.intervalEnd s a1) := by
  unfold State.intervalEnd
  repeat' first
    | with_reducible assumption
    | intro _
    | with_reducible apply forAll_keeps
    | with_reducible apply State.updCsn_keeps
    | with_reducible apply State.send_keeps
    | with_reducible apply State.updHub_keeps
    | with_reducible apply Keeps.ite

theorem execTelemIntervalEnd_keeps {s₀ s : State} {a0} (h : Keeps s₀ s) : KeepsOut s₀ (execTelemIntervalEnd a0 s) := by
  unfold execTelemIntervalEnd
  repeat' first
    | with_reducible assumption
    | intro _
    | with_reducible apply State.intervalEnd_keeps
    | with_reducible apply KeepsOut.of_next

theorem State.chargeShare_keeps {s₀ s : State} {a1 a2 a3} (h : Keeps s₀ s) : Keeps s₀ (State.chargeShare s a1 a2 a3) := by
  unfold State.chargeShare
  repeat' first
    | with_reducible assumption
    | intro _
    | with_reducible apply forAll_keeps
    | with_reducible apply State.updFn_keeps

theorem State.startHist_keeps {s₀ s : State} {a1 a2 a3} (h : Keeps s₀ s) : Keeps s₀ (State.startHist s a1 a2 a3) := by
  unfold State.startHist
  repeat' first
    | with_reducible assumption
    | intro _
    | with_reducible apply Keeps.ite
    | simp -zeta only [Keeps.leaf]
    | (extract_lets +onlyGivenNames x; clear_value x)

theorem State.settleOne_keeps {s₀ s : State} {a1 a2} (h : Keeps s₀ s) : Keeps s₀ (State.settleOne s a1 a2) := by
  unfold State.settleOne
  repeat' first
    | with_reducible assumption
    | intro _
    | with_reducible apply State.updFn_keeps
    | with_reducible apply Keeps.ite
    | simp -zeta only [Keeps.leaf]
    | (extract_lets +onlyGivenNames x; refine Keeps.cut (s := s₀) (x := x) ?_ (fun hx => ?_) <;> [subst x; clear_value x])
    | (extract_lets +onlyGivenNames x; clear_value x)
    | split

theorem State.settleTicks_keeps {s₀ s : State} (h : Keeps s₀ s) : Keeps s₀ (State.settleTicks s) := by
  unfold State.settleTicks
  repeat' first
    | with_reducible assumption
    | intro _
    | with_reducible apply forAll_keeps
    | with_reducible apply State.settleOne_keeps

theorem State.mgmtTo_keeps {s₀ s : State} {a1 a2} (h : Keeps s₀ s) : Keeps s₀ (State.mgmtTo s a1 a2) := by
  unfold State.mgmtTo
  repeat' first
    | with_reducible assumption
    | intro _
    | with_reducible apply State.send_keeps

theorem State.kilnForce_keeps {s₀ s : State} {a1} (h : Keeps s₀ s) : Keeps s₀ (State.kilnForce s a1) := by
  unfold State.kilnForce
  repeat' first
    | with_reducible assumption
    | intro _
    | with_reducible apply State.noticeField_keeps
    | with_reducible apply State.mgmtTo_keeps

theorem State.kilnLift_keeps {s₀ s : State} {a1} (h : Keeps s₀ s) : Keeps s₀ (State.kilnLift s a1) := by
  unfold State.kilnLift
  repeat' first
    | with_reducible assumption
    | intro _
    | with_reducible apply State.clearField_keeps
    | with_reducible apply State.mgmtTo_keeps
    | with_reducible apply Keeps.ite

theorem State.newWord_keeps {s₀ s : State} {a1 a2} (h : Keeps s₀ s) : Keeps s₀ (State.newWord s a1 a2) := by
  unfold State.newWord
  repeat' first
    | with_reducible assumption
    | intro _
    | with_reducible apply State.updKf_keeps

theorem State.takeTelem_keeps {s₀ s : State} {a1 a2} (h : Keeps s₀ s) : Keeps s₀ (State.takeTelem s a1 a2) := by
  unfold State.takeTelem
  repeat' first
    | with_reducible assumption
    | intro _
    | with_reducible apply State.updKf_keeps
    | with_reducible apply State.chargeShare_keeps
    | with_reducible apply State.newWord_keeps
    | with_reducible apply State.kilnForce_keeps
    | with_reducible apply State.kilnLift_keeps
    | with_reducible apply State.settleTicks_keeps
    | with_reducible apply State.mgmtTo_keeps
    | with_reducible apply Keeps.ite

theorem execTelem_keeps {s₀ s : State} {a0 a1} (h : Keeps s₀ s) : KeepsOut s₀ (execTelem a0 a1 s) := by
  unfold execTelem
  repeat' first
    | with_reducible assumption
    | intro _
    | with_reducible apply State.stopMsg_keeps
    | with_reducible apply State.takeTelem_keeps
    | with_reducible apply State.taken_keeps
    | with_reducible apply KeepsOut.of_next
    | with_reducible apply Keeps.ite

theorem State.telemLost_keeps {s₀ s : State} {a1} (h : Keeps s₀ s) : Keeps s₀ (State.telemLost s a1) := by
  unfold State.telemLost
  repeat' first
    | with_reducible assumption
    | intro _
    | with_reducible apply State.updKf_keeps
    | with_reducible apply State.report_keeps
    | with_reducible apply State.kilnForce_keeps
    | with_reducible apply Keeps.ite

theorem execTelemLoss_keeps {s₀ s : State} {a0} (h : Keeps s₀ s) : KeepsOut s₀ (execTelemLoss a0 s) := by
  unfold execTelemLoss
  repeat' first
    | with_reducible assumption
    | intro _
    | with_reducible apply State.telemLost_keeps
    | with_reducible apply KeepsOut.of_next

theorem State.telemMissed_keeps {s₀ s : State} {a1} (h : Keeps s₀ s) : Keeps s₀ (State.telemMissed s a1) := by
  unfold State.telemMissed
  repeat' first
    | with_reducible assumption
    | intro _
    | with_reducible apply State.settleTicks_keeps
    | with_reducible apply State.updKf_keeps
    | with_reducible apply State.chargeShare_keeps
    | with_reducible apply Keeps.ite

theorem execTelemMissed_keeps {s₀ s : State} {a0} (h : Keeps s₀ s) : KeepsOut s₀ (execTelemMissed a0 s) := by
  unfold execTelemMissed
  repeat' first
    | with_reducible assumption
    | intro _
    | with_reducible apply State.telemMissed_keeps
    | with_reducible apply KeepsOut.of_next

theorem State.takeAlert_keeps {s₀ s : State} {a1 a2} (h : Keeps s₀ s) : Keeps s₀ (State.takeAlert s a1 a2) := by
  unfold State.takeAlert
  repeat' first
    | with_reducible assumption
    | intro _
    | with_reducible apply State.updKf_keeps
    | with_reducible apply State.noticeField_keeps
    | with_reducible apply State.report_keeps
    | with_reducible apply Keeps.ite

theorem execAlertNote_keeps {s₀ s : State} {a0 a1} (h : Keeps s₀ s) : KeepsOut s₀ (execAlertNote a0 a1 s) := by
  unfold execAlertNote
  repeat' first
    | with_reducible assumption
    | intro _
    | with_reducible apply State.stopMsg_keeps
    | with_reducible apply State.takeAlert_keeps
    | with_reducible apply State.taken_keeps
    | with_reducible apply KeepsOut.of_next
    | with_reducible apply Keeps.ite

theorem State.alertLift_keeps {s₀ s : State} {a1} (h : Keeps s₀ s) : Keeps s₀ (State.alertLift s a1) := by
  unfold State.alertLift
  repeat' first
    | with_reducible assumption
    | intro _
    | with_reducible apply State.kilnLift_keeps
    | with_reducible apply State.updKf_keeps
    | with_reducible apply Keeps.ite

theorem execAlertForceLift_keeps {s₀ s : State} {a0} (h : Keeps s₀ s) : KeepsOut s₀ (execAlertForceLift a0 s) := by
  unfold execAlertForceLift
  repeat' first
    | with_reducible assumption
    | intro _
    | with_reducible apply State.alertLift_keeps
    | with_reducible apply KeepsOut.of_next

theorem State.thermalLift_keeps {s₀ s : State} {a1} (h : Keeps s₀ s) : Keeps s₀ (State.thermalLift s a1) := by
  unfold State.thermalLift
  repeat' first
    | with_reducible assumption
    | intro _
    | with_reducible apply State.kilnLift_keeps
    | with_reducible apply State.updKf_keeps
    | with_reducible apply Keeps.ite

theorem execThermalForceLift_keeps {s₀ s : State} {a0} (h : Keeps s₀ s) : KeepsOut s₀ (execThermalForceLift a0 s) := by
  unfold execThermalForceLift
  repeat' first
    | with_reducible assumption
    | intro _
    | with_reducible apply State.thermalLift_keeps
    | with_reducible apply KeepsOut.of_next

theorem execDroopLimitExpiry_keeps {s₀ s : State} {a0} (h : Keeps s₀ s) : KeepsOut s₀ (execDroopLimitExpiry a0 s) := by
  unfold execDroopLimitExpiry
  repeat' first
    | with_reducible assumption
    | intro _
    | with_reducible apply State.updKf_keeps
    | with_reducible apply KeepsOut.of_next
    | with_reducible apply Keeps.ite

theorem execAlertCeilExpiry_keeps {s₀ s : State} {a0} (h : Keeps s₀ s) : KeepsOut s₀ (execAlertCeilExpiry a0 s) := by
  unfold execAlertCeilExpiry
  repeat' first
    | with_reducible assumption
    | intro _
    | with_reducible apply State.updKf_keeps
    | with_reducible apply KeepsOut.of_next
    | with_reducible apply Keeps.ite

end Sys2Proof.Machine
end

