-- ==== Sys2Proof/Laws/KeepsHost.lean ====
section
/-! SUPPORT. What every operation keeps (`Keeps`): the kiln, the tick, the rings, the virtual functions and the registers. -/

namespace Sys2Proof.Machine

open Sys2Proof

theorem State.katBind_keeps {s₀ s : State} {a1 a2 a3 a4} (h : Keeps s₀ s) : Keeps s₀ (State.katBind s a1 a2 a3 a4) := by
  unfold State.katBind
  repeat' first
    | with_reducible assumption
    | intro _
    | with_reducible apply forAll_keeps
    | with_reducible apply State.packBind_keeps
    | with_reducible apply Keeps.ite
    | simp -zeta only [Keeps.leaf]
    | split

theorem State.katChoose_keeps {s₀ s : State} {a1 a2 a3} (h : Keeps s₀ s) : Keeps s₀ (State.katChoose s a1 a2 a3) := by
  unfold State.katChoose
  repeat' first
    | with_reducible assumption
    | intro _
    | with_reducible apply State.drawn_keeps
    | with_reducible apply State.updFn_keeps
    | with_reducible apply State.katBind_keeps
    | with_reducible apply Keeps.ite
    | simp -zeta only [Keeps.leaf]
    | (extract_lets +onlyGivenNames x; refine Keeps.cut (s := s₀) (x := x) ?_ (fun hx => ?_) <;> [subst x; clear_value x])
    | (extract_lets +onlyGivenNames x; clear_value x)
    | split

theorem State.latchChoice_keeps {s₀ s : State} {a1 a2 a3} (h : Keeps s₀ s) : Keeps s₀ (State.latchChoice s a1 a2 a3) := by
  unfold State.latchChoice
  repeat' first
    | with_reducible assumption
    | intro _
    | with_reducible apply State.updFn_keeps
    | with_reducible apply State.updPl_keeps
    | with_reducible apply State.sameView_keeps
    | with_reducible apply State.katChoose_keeps
    | with_reducible apply Keeps.ite
    | simp -zeta only [Keeps.leaf]
    | split

theorem decideGo_keeps {s₀ : State} {nom per next fs a} (h : Keeps s₀ a.1) : Keeps s₀ (decideGo nom per next fs a).1 := by
  induction fs generalizing a with
  | nil => exact h
  | cons f fs ih =>
    obtain ⟨s, r, p⟩ := a
    unfold decideGo
    dsimp only
    split <;> exact ih (State.latchChoice_keeps h)

theorem State.decideAll_keeps {s₀ s : State} {per next} (h : Keeps s₀ s) : KeepsFst s₀ (s.decideAll per next) :=
  ⟨by
    unfold State.decideAll
    dsimp only
    split <;> exact decideGo_keeps h⟩

theorem State.katUnowned_keeps {s₀ s : State} {a1} (h : Keeps s₀ s) : Keeps s₀ (State.katUnowned s a1) := by
  unfold State.katUnowned
  repeat' first
    | with_reducible assumption
    | intro _
    | with_reducible apply State.katChoose_keeps
    | with_reducible apply Keeps.ite
    | simp -zeta only [Keeps.leaf]
    | (extract_lets +onlyGivenNames x; clear_value x)
    | split

theorem State.sendReports_keeps {s₀ s : State} (h : Keeps s₀ s) : Keeps s₀ (State.sendReports s) := by
  unfold State.sendReports
  repeat' first
    | with_reducible assumption
    | intro _
    | with_reducible apply forAll_keeps
    | with_reducible apply State.toWafer_keeps
    | with_reducible apply Keeps.ite

theorem execKilnReportSend_keeps {s₀ s : State} (h : Keeps s₀ s) : KeepsOut s₀ (execKilnReportSend s) := by
  unfold execKilnReportSend
  repeat' first
    | with_reducible assumption
    | intro _
    | with_reducible apply State.sendReports_keeps
    | with_reducible apply KeepsOut.of_next

theorem State.withTick_keeps {s₀ s : State} {a1} (h : Keeps s₀ s) : Keeps s₀ (State.withTick s a1) := by
  unfold State.withTick
  repeat' first
    | with_reducible assumption
    | intro _
    | with_reducible apply h1
    | with_reducible apply Keeps.ite
    | simp -zeta only [Keeps.leaf]

theorem State.writeRun_keeps {s₀ s : State} {a1} (h : Keeps s₀ s) : Keeps s₀ (State.writeRun s a1) := by
  unfold State.writeRun
  repeat' first
    | with_reducible assumption
    | intro _
    | with_reducible apply State.withTick_keeps
    | with_reducible apply Keeps.ite
    | simp -zeta only [Keeps.leaf]
    | (extract_lets +onlyGivenNames x; refine Keeps.cut (s := s₀) (x := x) ?_ (fun hx => ?_) <;> [subst x; clear_value x])
    | split

theorem execRunWrite_keeps {s₀ s : State} {a0} (h : Keeps s₀ s) : KeepsOut s₀ (execRunWrite a0 s) := by
  unfold execRunWrite
  repeat' first
    | with_reducible assumption
    | intro _
    | with_reducible apply State.writeRun_keeps
    | with_reducible apply KeepsOut.of_next

theorem State.latchNow_keeps {s₀ s : State} (h : Keeps s₀ s) : Keeps s₀ (State.latchNow s) := by
  unfold State.latchNow
  repeat' first
    | with_reducible assumption
    | intro _
    | with_reducible apply State.emit_keeps
    | with_reducible apply State.withTick_keeps

theorem execTickNowLatch_keeps {s₀ s : State} (h : Keeps s₀ s) : KeepsOut s₀ (execTickNowLatch s) := by
  unfold execTickNowLatch
  repeat' first
    | with_reducible assumption
    | intro _
    | with_reducible apply State.latchNow_keeps
    | with_reducible apply State.emit_keeps
    | with_reducible apply KeepsOut.of_next
    | with_reducible apply Keeps.ite

theorem State.latchRegs_keeps {s₀ s : State} (h : Keeps s₀ s) : Keeps s₀ (State.latchRegs s) := by
  unfold State.latchRegs
  repeat' first
    | with_reducible assumption
    | intro _
    | with_reducible apply State.mapFn_keeps
    | with_reducible apply forAll_keeps
    | with_reducible apply State.updFn_keeps
    | with_reducible apply Keeps.ite
    | simp -zeta only [Keeps.leaf]
    | (extract_lets +onlyGivenNames x; refine Keeps.cut (s := s₀) (x := x) ?_ (fun hx => ?_) <;> [subst x; clear_value x])
    | (extract_lets +onlyGivenNames x; clear_value x)

theorem State.waitReady_keeps {s₀ s : State} (h : Keeps s₀ s) : Keeps s₀ (State.waitReady s) := by
  unfold State.waitReady
  repeat' first
    | with_reducible assumption
    | intro _
    | with_reducible apply forAll_keeps
    | with_reducible apply State.updFn_keeps
    | with_reducible apply Keeps.ite

theorem State.coolMembers_keeps {s₀ s : State} (h : Keeps s₀ s) : Keeps s₀ (State.coolMembers s) := by
  unfold State.coolMembers
  repeat' first
    | with_reducible assumption
    | intro _
    | with_reducible apply forAll_keeps
    | with_reducible apply State.updFn_keeps

theorem State.latchAcc_keeps {s₀ s : State} {a1} (h : Keeps s₀ s) : Keeps s₀ (State.latchAcc s a1) := by
  unfold State.latchAcc
  repeat' first
    | with_reducible assumption
    | intro _
    | with_reducible apply forAll_keeps
    | with_reducible apply State.updFn_keeps

theorem State.pitchTo_keeps {s₀ s : State} {a1 a2} (h : Keeps s₀ s) : Keeps s₀ (State.pitchTo s a1 a2) := by
  unfold State.pitchTo
  repeat' first
    | with_reducible assumption
    | intro _
    | with_reducible apply State.sendAll_keeps

theorem State.sendPitch_keeps {s₀ s : State} {a1 a2 a3} (h : Keeps s₀ s) : Keeps s₀ (State.sendPitch s a1 a2 a3) := by
  unfold State.sendPitch
  repeat' first
    | with_reducible assumption
    | intro _
    | with_reducible apply State.pitchTo_keeps

theorem State.katPitch_keeps {s₀ s : State} {a1} (h : Keeps s₀ s) : Keeps s₀ (State.katPitch s a1) := by
  unfold State.katPitch
  repeat' first
    | with_reducible assumption
    | intro _
    | with_reducible apply State.pitchTo_keeps
    | with_reducible apply Keeps.ite
    | simp -zeta only [Keeps.leaf]
    | split

theorem State.sendCut_keeps {s₀ s : State} {a1} (h : Keeps s₀ s) : Keeps s₀ (State.sendCut s a1) := by
  unfold State.sendCut
  repeat' first
    | with_reducible assumption
    | intro _
    | with_reducible apply State.toAll_keeps
    | with_reducible apply forAll_keeps
    | with_reducible apply State.sendPitch_keeps
    | with_reducible apply State.katPitch_keeps
    | with_reducible apply Keeps.ite
    | simp -zeta only [Keeps.leaf]
    | split

theorem State.cutWork_keeps {s₀ s : State} (h : Keeps s₀ s) : Keeps s₀ (State.cutWork s) := by
  unfold State.cutWork
  repeat' first
    | with_reducible assumption
    | intro _
    | with_reducible apply State.waitReady_keeps
    | with_reducible apply State.retrySlots_keeps
    | with_reducible apply State.latchRegs_keeps
    | with_reducible apply State.chooseSwitch_keeps
    | with_reducible apply State.decideAll_keeps
    | with_reducible apply State.coolMembers_keeps
    | with_reducible apply State.katUnowned_keeps
    | with_reducible apply State.withTick_keeps
    | with_reducible apply State.latchAcc_keeps
    | with_reducible apply State.cutViews_keeps
    | with_reducible apply State.sendCut_keeps
    | simp -zeta only [KeepsFst.fst_iff]
    | (refine KeepsFst.of_eq ?_ (by assumption))
    | with_reducible apply KeepsFst.ite
    | with_reducible apply Keeps.ite

theorem State.cut_keeps {s₀ s : State} (h : Keeps s₀ s) : Keeps s₀ (State.cut s) := by
  unfold State.cut
  repeat' first
    | with_reducible assumption
    | intro _
    | with_reducible apply State.withTick_keeps
    | with_reducible apply State.cutLeaves_keeps
    | with_reducible apply State.cutWork_keeps
    | with_reducible apply Keeps.ite

theorem execDispatchCut_keeps {s₀ s : State} (h : Keeps s₀ s) : KeepsOut s₀ (execDispatchCut s) := by
  unfold execDispatchCut
  repeat' first
    | with_reducible assumption
    | intro _
    | with_reducible apply State.cut_keeps
    | with_reducible apply KeepsOut.of_next

theorem State.askHold_keeps {s₀ s : State} (h : Keeps s₀ s) : Keeps s₀ (State.askHold s) := by
  unfold State.askHold
  repeat' first
    | with_reducible assumption
    | intro _
    | with_reducible apply State.toWafer_keeps
    | with_reducible apply Keeps.ite
    | simp -zeta only [Keeps.leaf]

theorem State.injectNote_keeps {s₀ s : State} (h : Keeps s₀ s) : Keeps s₀ (State.injectNote s) := by
  unfold State.injectNote
  repeat' first
    | with_reducible assumption
    | intro _
    | with_reducible apply State.askHold_keeps
    | with_reducible apply State.withTick_keeps
    | with_reducible apply State.sendAll_keeps
    | with_reducible apply Keeps.ite

theorem execTickNoteInject_keeps {s₀ s : State} (h : Keeps s₀ s) : KeepsOut s₀ (execTickNoteInject s) := by
  unfold execTickNoteInject
  repeat' first
    | with_reducible assumption
    | intro _
    | with_reducible apply State.injectNote_keeps
    | with_reducible apply KeepsOut.of_next

theorem State.noteAt_keeps {s₀ s : State} {a1 a2 a3} (h : Keeps s₀ s) : Keeps s₀ (State.noteAt s a1 a2 a3) := by
  unfold State.noteAt
  repeat' first
    | with_reducible assumption
    | intro _
    | with_reducible apply State.taken_keeps
    | with_reducible apply State.sendAll_keeps
    | with_reducible apply State.updCsn_keeps
    | with_reducible apply Keeps.ite
    | simp -zeta only [Keeps.leaf]
    | (extract_lets +onlyGivenNames x; refine Keeps.cut (s := s₀) (x := x) ?_ (fun hx => ?_) <;> [subst x; clear_value x])
    | split

theorem execTickNote_keeps {s₀ s : State} {a0 a1 a2} (h : Keeps s₀ s) : KeepsOut s₀ (execTickNote a0 a1 a2 s) := by
  unfold execTickNote
  repeat' first
    | with_reducible assumption
    | intro _
    | with_reducible apply State.stopMsg_keeps
    | with_reducible apply State.noteAt_keeps
    | with_reducible apply KeepsOut.of_next
    | with_reducible apply Keeps.ite

theorem State.spineLate_keeps {s₀ s : State} {a1} (h : Keeps s₀ s) : Keeps s₀ (State.spineLate s a1) := by
  unfold State.spineLate
  repeat' first
    | with_reducible assumption
    | intro _
    | with_reducible apply State.emit_keeps
    | with_reducible apply State.updHub_keeps
    | with_reducible apply State.report_keeps
    | with_reducible apply Keeps.ite

theorem execSpineEdgeMissing_keeps {s₀ s : State} {a0} (h : Keeps s₀ s) : KeepsOut s₀ (execSpineEdgeMissing a0 s) := by
  unfold execSpineEdgeMissing
  repeat' first
    | with_reducible assumption
    | intro _
    | with_reducible apply State.spineLate_keeps
    | with_reducible apply KeepsOut.of_next

theorem State.openTick_keeps {s₀ s : State} {a1 a2} (h : Keeps s₀ s) : Keeps s₀ (State.openTick s a1 a2) := by
  unfold State.openTick
  repeat' first
    | with_reducible assumption
    | intro _
    | with_reducible apply State.updFn_keeps

theorem State.startStep_keeps {s₀ s : State} {a1 a2} (h : Keeps s₀ s) : Keeps s₀ (State.startStep s a1 a2) := by
  unfold State.startStep
  repeat' first
    | with_reducible assumption
    | intro _
    | with_reducible apply State.beginStep_keeps
    | with_reducible apply State.updFn_keeps
    | with_reducible apply forAll_keeps
    | with_reducible apply State.updPrec_keeps
    | with_reducible apply State.walkGo_keeps
    | with_reducible apply State.enterPhase_keeps
    | with_reducible apply Keeps.ite

theorem State.takeChoice_keeps {s₀ s : State} {a1} (h : Keeps s₀ s) : Keeps s₀ (State.takeChoice s a1) := by
  unfold State.takeChoice
  repeat' first
    | with_reducible assumption
    | intro _
    | with_reducible apply State.startStep_keeps
    | with_reducible apply State.voidChoice_keeps
    | with_reducible apply Keeps.ite
    | simp -zeta only [Keeps.leaf]
    | split

theorem State.edgeFn_keeps {s₀ s : State} {a1} (h : Keeps s₀ s) : Keeps s₀ (State.edgeFn s a1) := by
  unfold State.edgeFn
  repeat' first
    | with_reducible assumption
    | intro _
    | with_reducible apply State.updFn_keeps
    | with_reducible apply State.openTick_keeps
    | with_reducible apply State.takeChoice_keeps
    | with_reducible apply Keeps.ite

theorem State.hubsEdge_keeps {s₀ s : State} {a1 a2} (h : Keeps s₀ s) : Keeps s₀ (State.hubsEdge s a1 a2) := by
  unfold State.hubsEdge
  repeat' first
    | with_reducible assumption
    | intro _
    | with_reducible apply State.mapHub_keeps
    | with_reducible apply forAll_keeps
    | with_reducible apply State.hubStart_keeps

theorem State.katBegin_keeps {s₀ s : State} (h : Keeps s₀ s) : Keeps s₀ (State.katBegin s) := by
  unfold State.katBegin
  repeat' first
    | with_reducible assumption
    | intro _
    | with_reducible apply State.walkGo_keeps
    | with_reducible apply State.enterPhase_keeps
    | with_reducible apply Keeps.ite
    | simp -zeta only [Keeps.leaf]
    | (extract_lets +onlyGivenNames x; refine Keeps.cut (s := s₀) (x := x) ?_ (fun hx => ?_) <;> [subst x; clear_value x])
    | (extract_lets +onlyGivenNames x; clear_value x)
    | split

theorem State.issueEdge_keeps {s₀ s : State} {a1} (h : Keeps s₀ s) : Keeps s₀ (State.issueEdge s a1) := by
  unfold State.issueEdge
  repeat' first
    | with_reducible assumption
    | intro _
    | with_reducible apply forAll_keeps
    | with_reducible apply State.updFn_keeps
    | with_reducible apply State.emit_keeps
    | with_reducible apply State.sendAll_keeps
    | with_reducible apply State.freeSubs_keeps
    | with_reducible apply State.hubsEdge_keeps
    | with_reducible apply State.katBegin_keeps
    | with_reducible apply State.edgeFn_keeps
    | with_reducible apply State.updHub_keeps
    | with_reducible apply State.doSwitch_keeps
    | with_reducible apply Keeps.ite
    | simp -zeta only [Keeps.leaf]

theorem State.announceEdge_keeps {s₀ s : State} {a1} (h : Keeps s₀ s) : Keeps s₀ (State.announceEdge s a1) := by
  unfold State.announceEdge
  repeat' first
    | with_reducible assumption
    | intro _
    | with_reducible apply State.withTick_keeps
    | with_reducible apply State.toAll_keeps

theorem State.holdPoint_keeps {s₀ s : State} (h : Keeps s₀ s) : Keeps s₀ (State.holdPoint s) := by
  unfold State.holdPoint
  repeat' first
    | with_reducible assumption
    | intro _
    | with_reducible apply State.issueEdge_keeps
    | with_reducible apply State.announceEdge_keeps
    | with_reducible apply State.withTick_keeps
    | with_reducible apply Keeps.ite

theorem execHoldPoint_keeps {s₀ s : State} (h : Keeps s₀ s) : KeepsOut s₀ (execHoldPoint s) := by
  unfold execHoldPoint
  repeat' first
    | with_reducible assumption
    | intro _
    | with_reducible apply State.holdPoint_keeps
    | with_reducible apply KeepsOut.of_next

theorem State.heldEdge_keeps {s₀ s : State} (h : Keeps s₀ s) : Keeps s₀ (State.heldEdge s) := by
  unfold State.heldEdge
  repeat' first
    | with_reducible assumption
    | intro _
    | with_reducible apply State.issueEdge_keeps
    | with_reducible apply State.announceEdge_keeps
    | with_reducible apply Keeps.ite

theorem execHeldEdge_keeps {s₀ s : State} (h : Keeps s₀ s) : KeepsOut s₀ (execHeldEdge s) := by
  unfold execHeldEdge
  repeat' first
    | with_reducible assumption
    | intro _
    | with_reducible apply State.heldEdge_keeps
    | with_reducible apply KeepsOut.of_next

theorem State.overrunEdge_keeps {s₀ s : State} (h : Keeps s₀ s) : Keeps s₀ (State.overrunEdge s) := by
  unfold State.overrunEdge
  repeat' first
    | with_reducible assumption
    | intro _
    | with_reducible apply State.issueEdge_keeps
    | with_reducible apply State.katStop_keeps
    | with_reducible apply forAll_keeps
    | with_reducible apply State.overrunFn_keeps

theorem State.tickDeadline_keeps {s₀ s : State} (h : Keeps s₀ s) : Keeps s₀ (State.tickDeadline s) := by
  unfold State.tickDeadline
  repeat' first
    | with_reducible assumption
    | intro _
    | with_reducible apply State.announceEdge_keeps
    | with_reducible apply State.withTick_keeps
    | with_reducible apply State.overrunEdge_keeps
    | with_reducible apply Keeps.ite

theorem execTickDeadline_keeps {s₀ s : State} (h : Keeps s₀ s) : KeepsOut s₀ (execTickDeadline s) := by
  unfold execTickDeadline
  repeat' first
    | with_reducible assumption
    | intro _
    | with_reducible apply State.tickDeadline_keeps
    | with_reducible apply KeepsOut.of_next

theorem State.lateEdge_keeps {s₀ s : State} {a1} (h : Keeps s₀ s) : Keeps s₀ (State.lateEdge s a1) := by
  unfold State.lateEdge
  repeat' first
    | with_reducible assumption
    | intro _
    | with_reducible apply State.takeChoice_keeps
    | with_reducible apply State.updFn_keeps
    | with_reducible apply forAll_keeps
    | with_reducible apply State.hubStart_keeps
    | with_reducible apply State.updHub_keeps
    | with_reducible apply Keeps.ite

theorem State.cycleEnd_keeps {s₀ s : State} (h : Keeps s₀ s) : Keeps s₀ (State.cycleEnd s) := by
  unfold State.cycleEnd
  repeat' first
    | with_reducible assumption
    | intro _
    | with_reducible apply State.mapRing_keeps
    | with_reducible apply forAll_keeps
    | with_reducible apply State.lateEdge_keeps
    | with_reducible apply State.withTick_keeps
    | with_reducible apply State.issueEdge_keeps
    | with_reducible apply State.overrunEdge_keeps
    | with_reducible apply Keeps.ite

theorem State.takePitch_keeps {s₀ s : State} {a1 a2 a3 a4} (h : Keeps s₀ s) : Keeps s₀ (State.takePitch s a1 a2 a3 a4) := by
  unfold State.takePitch
  repeat' first
    | with_reducible assumption
    | intro _
    | with_reducible apply State.taken_keeps
    | with_reducible apply State.diverge_keeps
    | with_reducible apply State.updHub_keeps
    | with_reducible apply State.hubStart_keeps
    | with_reducible apply Keeps.ite

theorem execPitch_keeps {s₀ s : State} {a0 a1 a2} (h : Keeps s₀ s) : KeepsOut s₀ (execPitch a0 a1 a2 s) := by
  unfold execPitch
  repeat' first
    | with_reducible assumption
    | intro _
    | with_reducible apply State.stopMsg_keeps
    | with_reducible apply State.takePitch_keeps
    | with_reducible apply KeepsOut.of_next
    | with_reducible apply Keeps.ite

theorem State.joinTick_keeps {s₀ s : State} {a1} (h : Keeps s₀ s) : Keeps s₀ (State.joinTick s a1) := by
  unfold State.joinTick
  repeat' first
    | with_reducible assumption
    | intro _
    | with_reducible apply State.doSwitch_keeps
    | with_reducible apply Keeps.ite
    | simp -zeta only [Keeps.leaf]
    | split

theorem State.takeCutForm_keeps {s₀ s : State} {a1} (h : Keeps s₀ s) : Keeps s₀ (State.takeCutForm s a1) := by
  unfold State.takeCutForm
  repeat' first
    | with_reducible assumption
    | intro _
    | with_reducible apply State.withTick_keeps

theorem execSbTickCut_keeps {s₀ s : State} {a0 a1} (h : Keeps s₀ s) : KeepsOut s₀ (execSbTickCut a0 a1 s) := by
  unfold execSbTickCut
  repeat' first
    | with_reducible assumption
    | intro _
    | with_reducible apply State.joinTick_keeps
    | with_reducible apply State.takeCutForm_keeps
    | with_reducible apply KeepsOut.of_next
    | with_reducible apply Keeps.ite

theorem State.memberEdge_keeps {s₀ s : State} {a1 a2} (h : Keeps s₀ s) : Keeps s₀ (State.memberEdge s a1 a2) := by
  unfold State.memberEdge
  repeat' first
    | with_reducible assumption
    | intro _
    | with_reducible apply State.issueEdge_keeps
    | with_reducible apply State.katStop_keeps
    | with_reducible apply forAll_keeps
    | with_reducible apply State.overrunFn_keeps
    | with_reducible apply State.leaveSpan_keeps
    | with_reducible apply Keeps.ite

theorem State.takeEdgeForm_keeps {s₀ s : State} {a1} (h : Keeps s₀ s) : Keeps s₀ (State.takeEdgeForm s a1) := by
  unfold State.takeEdgeForm
  repeat' first
    | with_reducible assumption
    | intro _
    | with_reducible apply State.withTick_keeps
    | with_reducible apply State.memberEdge_keeps
    | with_reducible apply Keeps.ite

theorem execSbTickEdge_keeps {s₀ s : State} {a0 a1} (h : Keeps s₀ s) : KeepsOut s₀ (execSbTickEdge a0 a1 s) := by
  unfold execSbTickEdge
  repeat' first
    | with_reducible assumption
    | intro _
    | with_reducible apply State.takeEdgeForm_keeps
    | with_reducible apply KeepsOut.of_next
    | with_reducible apply Keeps.ite

theorem State.followEdge_keeps {s₀ s : State} (h : Keeps s₀ s) : Keeps s₀ (State.followEdge s) := by
  unfold State.followEdge
  repeat' first
    | with_reducible assumption
    | intro _
    | with_reducible apply State.memberEdge_keeps
    | with_reducible apply Keeps.ite
    | simp -zeta only [Keeps.leaf]
    | split

theorem execFollowEdge_keeps {s₀ s : State} (h : Keeps s₀ s) : KeepsOut s₀ (execFollowEdge s) := by
  unfold execFollowEdge
  repeat' first
    | with_reducible assumption
    | intro _
    | with_reducible apply State.followEdge_keeps
    | with_reducible apply KeepsOut.of_next

theorem State.lateStart_keeps {s₀ s : State} {a1 a2} (h : Keeps s₀ s) : Keeps s₀ (State.lateStart s a1 a2) := by
  unfold State.lateStart
  repeat' first
    | with_reducible assumption
    | intro _
    | with_reducible apply State.updFn_keeps
    | with_reducible apply State.takeChoice_keeps
    | with_reducible apply Keeps.ite

theorem State.takeSbPitch_keeps {s₀ s : State} {a1} (h : Keeps s₀ s) : Keeps s₀ (State.takeSbPitch s a1) := by
  unfold State.takeSbPitch
  repeat' first
    | with_reducible assumption
    | intro _
    | with_reducible apply State.updPl_keeps
    | with_reducible apply State.updFn_keeps
    | with_reducible apply State.sameView_keeps
    | with_reducible apply State.sendPitch_keeps
    | with_reducible apply State.lateStart_keeps
    | with_reducible apply Keeps.ite

theorem execSbPitch_keeps {s₀ s : State} {a0 a1} (h : Keeps s₀ s) : KeepsOut s₀ (execSbPitch a0 a1 s) := by
  unfold execSbPitch
  repeat' first
    | with_reducible assumption
    | intro _
    | with_reducible apply State.takeSbPitch_keeps
    | with_reducible apply KeepsOut.of_next
    | with_reducible apply Keeps.ite

theorem State.ringAccess_keeps {s₀ s : State} {a1 a2 a3} (h : Keeps s₀ s) (h3 : ∀ x0, Keeps s₀ x0 → Keeps s₀ (a3 x0)) : Keeps s₀ (State.ringAccess s a1 a2 a3) := by
  unfold State.ringAccess
  repeat' first
    | with_reducible assumption
    | intro _
    | with_reducible apply State.updFn_keeps
    | with_reducible apply h3
    | with_reducible apply Keeps.ite

theorem fetchGo_keeps {s₀ s : State} {a0 a1} (h : Keeps s₀ s) : Keeps s₀ (fetchGo a0 a1 s) := by
  induction a1 generalizing s with
  | zero =>
    unfold fetchGo
    repeat' first
      | with_reducible assumption
  | succ n ih =>
    unfold fetchGo
    repeat' first
      | with_reducible apply ih
      | with_reducible assumption
      | intro _
      | with_reducible apply State.emit_keeps
      | with_reducible apply State.updRing_keeps
      | with_reducible apply Keeps.ite

theorem State.fetchRing_keeps {s₀ s : State} {a1} (h : Keeps s₀ s) : Keeps s₀ (State.fetchRing s a1) := by
  unfold State.fetchRing
  repeat' first
    | with_reducible assumption
    | intro _
    | with_reducible apply fetchGo_keeps
    | with_reducible apply Keeps.ite
    | simp -zeta only [Keeps.leaf]
    | split

theorem State.doorSq_keeps {s₀ s : State} {a1 a2} (h : Keeps s₀ s) : Keeps s₀ (State.doorSq s a1 a2) := by
  unfold State.doorSq
  repeat' first
    | with_reducible assumption
    | intro _
    | with_reducible apply State.fetchRing_keeps
    | with_reducible apply State.updRing_keeps
    | with_reducible apply Keeps.ite

theorem execVsfHifDbSq_keeps {s₀ s : State} {a0 a1 a2} (h : Keeps s₀ s) : KeepsOut s₀ (execVsfHifDbSq a0 a1 a2 s) := by
  unfold execVsfHifDbSq
  repeat' first
    | with_reducible assumption
    | intro _
    | with_reducible apply State.ringAccess_keeps
    | with_reducible apply State.doorSq_keeps
    | with_reducible apply KeepsOut.of_next

theorem State.doorCq_keeps {s₀ s : State} {a1 a2} (h : Keeps s₀ s) : Keeps s₀ (State.doorCq s a1 a2) := by
  unfold State.doorCq
  repeat' first
    | with_reducible assumption
    | intro _
    | with_reducible apply State.updRing_keeps
    | with_reducible apply Keeps.ite

theorem execVsfHifDbCq_keeps {s₀ s : State} {a0 a1 a2} (h : Keeps s₀ s) : KeepsOut s₀ (execVsfHifDbCq a0 a1 a2 s) := by
  unfold execVsfHifDbCq
  repeat' first
    | with_reducible assumption
    | intro _
    | with_reducible apply State.ringAccess_keeps
    | with_reducible apply State.doorCq_keeps
    | with_reducible apply KeepsOut.of_next

theorem State.fetched_keeps {s₀ s : State} {a1 a2} (h : Keeps s₀ s) : Keeps s₀ (State.fetched s a1 a2) := by
  unfold State.fetched
  repeat' first
    | with_reducible assumption
    | intro _
    | with_reducible apply State.startRing_keeps
    | with_reducible apply State.updRing_keeps
    | with_reducible apply Keeps.ite

theorem execDescFetchDone_keeps {s₀ s : State} {a0 a1} (h : Keeps s₀ s) : KeepsOut s₀ (execDescFetchDone a0 a1 s) := by
  unfold execDescFetchDone
  repeat' first
    | with_reducible assumption
    | intro _
    | with_reducible apply State.fetched_keeps
    | with_reducible apply KeepsOut.of_next

theorem execNop_keeps {s₀ s : State} {a0 a1} (h : Keeps s₀ s) : KeepsOut s₀ (execNop a0 a1 s) := by
  unfold execNop
  repeat' first
    | with_reducible assumption
    | intro _
    | with_reducible apply State.finish_keeps
    | with_reducible apply KeepsOut.of_next
    | with_reducible apply Keeps.ite

theorem execRingEnable_keeps {s₀ s : State} {a0 a1} (h : Keeps s₀ s) : KeepsOut s₀ (execRingEnable a0 a1 s) := by
  unfold execRingEnable
  repeat' first
    | with_reducible assumption
    | intro _
    | with_reducible apply State.ringAccess_keeps
    | with_reducible apply State.updRing_keeps
    | with_reducible apply KeepsOut.of_next

theorem State.beginSparge_keeps {s₀ s : State} {a1 a2} (h : Keeps s₀ s) : Keeps s₀ (State.beginSparge s a1 a2) := by
  unfold State.beginSparge
  repeat' first
    | with_reducible assumption
    | intro _
    | with_reducible apply State.updRing_keeps
    | with_reducible apply State.withdrawRing_keeps
    | with_reducible apply State.endCask_keeps
    | with_reducible apply Keeps.ite
    | simp -zeta only [Keeps.leaf]
    | (extract_lets +onlyGivenNames x; refine Keeps.cut (s := s₀) (x := x) ?_ (fun hx => ?_) <;> [subst x; clear_value x])
    | split

theorem State.disableRing_keeps {s₀ s : State} {a1 a2} (h : Keeps s₀ s) : Keeps s₀ (State.disableRing s a1 a2) := by
  unfold State.disableRing
  repeat' first
    | with_reducible assumption
    | intro _
    | with_reducible apply State.updRing_keeps
    | with_reducible apply State.beginSparge_keeps
    | with_reducible apply Keeps.ite

theorem execRingDisable_keeps {s₀ s : State} {a0 a1} (h : Keeps s₀ s) : KeepsOut s₀ (execRingDisable a0 a1 s) := by
  unfold execRingDisable
  repeat' first
    | with_reducible assumption
    | intro _
    | with_reducible apply State.ringAccess_keeps
    | with_reducible apply State.disableRing_keeps
    | with_reducible apply KeepsOut.of_next

theorem execRingSparge_keeps {s₀ s : State} {a0 a1} (h : Keeps s₀ s) : KeepsOut s₀ (execRingSparge a0 a1 s) := by
  unfold execRingSparge
  repeat' first
    | with_reducible assumption
    | intro _
    | with_reducible apply State.ringAccess_keeps
    | with_reducible apply State.beginSparge_keeps
    | with_reducible apply KeepsOut.of_next
    | with_reducible apply Keeps.ite

theorem State.spargeNote_keeps {s₀ s : State} {a1} (h : Keeps s₀ s) : Keeps s₀ (State.spargeNote s a1) := by
  unfold State.spargeNote
  repeat' first
    | with_reducible assumption
    | intro _
    | with_reducible apply State.updRing_keeps
    | with_reducible apply Keeps.ite

theorem execSpargeDrained_keeps {s₀ s : State} {a0} (h : Keeps s₀ s) : KeepsOut s₀ (execSpargeDrained a0 s) := by
  unfold execSpargeDrained
  repeat' first
    | with_reducible assumption
    | intro _
    | with_reducible apply State.spargeNote_keeps
    | with_reducible apply KeepsOut.of_next

theorem State.copy_keeps {s₀ s : State} {a1 a2 a3 a4 a5} (h : Keeps s₀ s) : Keeps s₀ (State.copy s a1 a2 a3 a4 a5) := by
  unfold State.copy
  repeat' first
    | with_reducible assumption
    | intro _
    | with_reducible apply State.finish_keeps
    | with_reducible apply State.emit_keeps
    | with_reducible apply State.begin__keeps
    | with_reducible apply Keeps.ite

theorem execCopyIn_keeps {s₀ s : State} {a0 a1} (h : Keeps s₀ s) : KeepsOut s₀ (execCopyIn a0 a1 s) := by
  unfold execCopyIn
  repeat' first
    | with_reducible assumption
    | intro _
    | with_reducible apply State.copy_keeps
    | with_reducible apply KeepsOut.of_next
    | with_reducible apply Keeps.ite
    | simp -zeta only [Keeps.leaf]
    | split

theorem execCopyOut_keeps {s₀ s : State} {a0 a1} (h : Keeps s₀ s) : KeepsOut s₀ (execCopyOut a0 a1 s) := by
  unfold execCopyOut
  repeat' first
    | with_reducible assumption
    | intro _
    | with_reducible apply State.copy_keeps
    | with_reducible apply KeepsOut.of_next
    | with_reducible apply Keeps.ite
    | simp -zeta only [Keeps.leaf]
    | split

theorem State.logData_keeps {s₀ s : State} {a1 a2 a3} (h : Keeps s₀ s) : Keeps s₀ (State.logData s a1 a2 a3) := by
  unfold State.logData
  repeat' first
    | with_reducible assumption
    | intro _
    | with_reducible apply State.logWrite_keeps
    | with_reducible apply Keeps.ite

theorem execDmaDone_keeps {s₀ s : State} {a0 a1} (h : Keeps s₀ s) : KeepsOut s₀ (execDmaDone a0 a1 s) := by
  unfold execDmaDone
  repeat' first
    | with_reducible assumption
    | intro _
    | with_reducible apply State.finish_keeps
    | with_reducible apply State.logData_keeps
    | with_reducible apply KeepsOut.of_next
    | with_reducible apply Keeps.ite
    | simp -zeta only [Keeps.leaf]
    | split

theorem State.poisonData_keeps {s₀ s : State} {a1 a2 a3} (h : Keeps s₀ s) : Keeps s₀ (State.poisonData s a1 a2 a3) := by
  unfold State.poisonData
  repeat' first
    | with_reducible assumption
    | intro _
    | with_reducible apply State.finish_keeps
    | with_reducible apply State.drawn_keeps

theorem execDmaErr_keeps {s₀ s : State} {a0 a1 a2} (h : Keeps s₀ s) : KeepsOut s₀ (execDmaErr a0 a1 a2 s) := by
  unfold execDmaErr
  repeat' first
    | with_reducible assumption
    | intro _
    | with_reducible apply State.finish_keeps
    | with_reducible apply State.poisonData_keeps
    | with_reducible apply State.logData_keeps
    | with_reducible apply KeepsOut.of_next
    | with_reducible apply Keeps.ite
    | simp -zeta only [Keeps.leaf]
    | split

theorem State.writeImage_keeps {s₀ s : State} {a1 a2 a3 a4} (h : Keeps s₀ s) : Keeps s₀ (State.writeImage s a1 a2 a3 a4) := by
  unfold State.writeImage
  repeat' first
    | with_reducible assumption
    | intro _
    | with_reducible apply State.logWrite_keeps
    | with_reducible apply State.emit_keeps

theorem execDistRead_keeps {s₀ s : State} {a0 a1} (h : Keeps s₀ s) : KeepsOut s₀ (execDistRead a0 a1 s) := by
  unfold execDistRead
  repeat' first
    | with_reducible assumption
    | intro _
    | with_reducible apply State.finish_keeps
    | with_reducible apply State.writeImage_keeps
    | with_reducible apply KeepsOut.of_next
    | with_reducible apply Keeps.ite
    | simp -zeta only [Keeps.leaf]
    | split

theorem execHostBusError_keeps {s₀ s : State} {a0 a1} (h : Keeps s₀ s) : KeepsOut s₀ (execHostBusError a0 a1 s) := by
  unfold execHostBusError
  repeat' first
    | with_reducible assumption
    | intro _
    | with_reducible apply State.poisonData_keeps
    | with_reducible apply State.finish_keeps
    | with_reducible apply KeepsOut.of_next
    | with_reducible apply Keeps.ite
    | simp -zeta only [Keeps.leaf]
    | split

theorem State.cmtSet_keeps {s₀ s : State} {a1 a2 a3 a4} (h : Keeps s₀ s) : Keeps s₀ (State.cmtSet s a1 a2 a3 a4) := by
  unfold State.cmtSet
  repeat' first
    | with_reducible assumption
    | intro _
    | with_reducible apply State.finish_keeps
    | with_reducible apply State.updFn_keeps
    | with_reducible apply Keeps.ite

theorem execCmtSet_keeps {s₀ s : State} {a0 a1 a2} (h : Keeps s₀ s) : KeepsOut s₀ (execCmtSet a0 a1 a2 s) := by
  unfold execCmtSet
  repeat' first
    | with_reducible assumption
    | intro _
    | with_reducible apply State.cmtSet_keeps
    | with_reducible apply KeepsOut.of_next
    | with_reducible apply Keeps.ite
    | simp -zeta only [Keeps.leaf]
    | split

theorem State.caskBar_keeps {s₀ s : State} {a1 a2 a3 a4 a5} (h : Keeps s₀ s) : Keeps s₀ (State.caskBar s a1 a2 a3 a4 a5) := by
  unfold State.caskBar
  repeat' first
    | with_reducible assumption
    | intro _
    | with_reducible apply State.finish_keeps
    | with_reducible apply State.updFn_keeps
    | with_reducible apply State.begin__keeps
    | with_reducible apply Keeps.ite

theorem execCaskBar_keeps {s₀ s : State} {a0 a1} (h : Keeps s₀ s) : KeepsOut s₀ (execCaskBar a0 a1 s) := by
  unfold execCaskBar
  repeat' first
    | with_reducible assumption
    | intro _
    | with_reducible apply State.caskBar_keeps
    | with_reducible apply KeepsOut.of_next
    | with_reducible apply Keeps.ite
    | simp -zeta only [Keeps.leaf]
    | split

theorem State.bindImage_keeps {s₀ s : State} {a1 a2 a3} (h : Keeps s₀ s) : Keeps s₀ (State.bindImage s a1 a2 a3) := by
  unfold State.bindImage
  repeat' first
    | with_reducible assumption
    | intro _
    | with_reducible apply State.startHist_keeps
    | with_reducible apply State.setRoles_keeps
    | with_reducible apply State.updPl_keeps
    | with_reducible apply State.leaveHeld_keeps
    | with_reducible apply State.setPl_keeps
    | with_reducible apply State.putImage_keeps
    | with_reducible apply Keeps.ite

theorem State.pitchAdmit_keeps {s₀ s : State} {a1 a2 a3 a4 a5} (h : Keeps s₀ s) : Keeps s₀ (State.pitchAdmit s a1 a2 a3 a4 a5) := by
  unfold State.pitchAdmit
  repeat' first
    | with_reducible assumption
    | intro _
    | with_reducible apply State.finish_keeps
    | with_reducible apply State.bindImage_keeps
    | with_reducible apply Keeps.ite
    | simp -zeta only [Keeps.leaf]
    | split

theorem State.pitchCmd_keeps {s₀ s : State} {a1 a2 a3 a4 a5} (h : Keeps s₀ s) : Keeps s₀ (State.pitchCmd s a1 a2 a3 a4 a5) := by
  unfold State.pitchCmd
  repeat' first
    | with_reducible assumption
    | intro _
    | with_reducible apply State.finish_keeps
    | with_reducible apply State.drawn_keeps
    | with_reducible apply State.pitchAdmit_keeps
    | with_reducible apply Keeps.ite

theorem execPitchAdmit_keeps {s₀ s : State} {a0 a1 a2} (h : Keeps s₀ s) : KeepsOut s₀ (execPitchAdmit a0 a1 a2 s) := by
  unfold execPitchAdmit
  repeat' first
    | with_reducible assumption
    | intro _
    | with_reducible apply State.pitchCmd_keeps
    | with_reducible apply KeepsOut.of_next
    | with_reducible apply Keeps.ite
    | simp -zeta only [Keeps.leaf]
    | split

theorem State.pitchRetire_keeps {s₀ s : State} {a1 a2 a3 a4} (h : Keeps s₀ s) : Keeps s₀ (State.pitchRetire s a1 a2 a3 a4) := by
  unfold State.pitchRetire
  repeat' first
    | with_reducible assumption
    | intro _
    | with_reducible apply State.finish_keeps
    | with_reducible apply State.updPl_keeps
    | with_reducible apply State.begin__keeps
    | with_reducible apply State.retireNow_keeps
    | with_reducible apply Keeps.ite

theorem execPitchRetire_keeps {s₀ s : State} {a0 a1} (h : Keeps s₀ s) : KeepsOut s₀ (execPitchRetire a0 a1 s) := by
  unfold execPitchRetire
  repeat' first
    | with_reducible assumption
    | intro _
    | with_reducible apply State.pitchRetire_keeps
    | with_reducible apply KeepsOut.of_next
    | with_reducible apply Keeps.ite
    | simp -zeta only [Keeps.leaf]
    | split

theorem State.seqAdmit_keeps {s₀ s : State} {a1 a2 a3 a4} (h : Keeps s₀ s) : Keeps s₀ (State.seqAdmit s a1 a2 a3 a4) := by
  unfold State.seqAdmit
  repeat' first
    | with_reducible assumption
    | intro _
    | with_reducible apply State.setBudget_keeps
    | with_reducible apply State.setSlot_keeps
    | with_reducible apply State.endSlot_keeps
    | with_reducible apply State.pageSlot_keeps
    | with_reducible apply State.markView_keeps
    | with_reducible apply State.nextCut_keeps
    | with_reducible apply Keeps.ite

theorem State.seqCmd_keeps {s₀ s : State} {a1 a2 a3 a4 a5} (h : Keeps s₀ s) : Keeps s₀ (State.seqCmd s a1 a2 a3 a4 a5) := by
  unfold State.seqCmd
  repeat' first
    | with_reducible assumption
    | intro _
    | with_reducible apply State.finish_keeps
    | with_reducible apply State.drawn_keeps
    | with_reducible apply State.seqAdmit_keeps
    | with_reducible apply Keeps.ite

theorem execSeqAdmit_keeps {s₀ s : State} {a0 a1 a2} (h : Keeps s₀ s) : KeepsOut s₀ (execSeqAdmit a0 a1 a2 s) := by
  unfold execSeqAdmit
  repeat' first
    | with_reducible assumption
    | intro _
    | with_reducible apply State.seqCmd_keeps
    | with_reducible apply KeepsOut.of_next
    | with_reducible apply Keeps.ite
    | simp -zeta only [Keeps.leaf]
    | split

theorem execSeqRead_keeps {s₀ s : State} {a0 a1} (h : Keeps s₀ s) : KeepsOut s₀ (execSeqRead a0 a1 s) := by
  unfold execSeqRead
  repeat' first
    | with_reducible assumption
    | intro _
    | with_reducible apply State.finish_keeps
    | with_reducible apply State.writeImage_keeps
    | with_reducible apply KeepsOut.of_next
    | with_reducible apply Keeps.ite
    | simp -zeta only [Keeps.leaf]
    | split

theorem State.seqCtl_keeps {s₀ s : State} {a1 a2 a3 a4} (h : Keeps s₀ s) (h4 : ∀ x0 x1 x2, Keeps s₀ x2 → Keeps s₀ (a4 x0 x1 x2)) : Keeps s₀ (State.seqCtl s a1 a2 a3 a4) := by
  unfold State.seqCtl
  repeat' first
    | with_reducible assumption
    | intro _
    | with_reducible apply State.finish_keeps
    | with_reducible apply h4
    | with_reducible apply Keeps.ite
    | simp -zeta only [Keeps.leaf]
    | split

theorem execSeqCtlPause_keeps {s₀ s : State} {a0 a1} (h : Keeps s₀ s) : KeepsOut s₀ (execSeqCtlPause a0 a1 s) := by
  unfold execSeqCtlPause
  repeat' first
    | with_reducible assumption
    | intro _
    | with_reducible apply State.seqCtl_keeps
    | with_reducible apply State.pauseSlot_keeps
    | with_reducible apply KeepsOut.of_next

theorem execSeqCtlResume_keeps {s₀ s : State} {a0 a1} (h : Keeps s₀ s) : KeepsOut s₀ (execSeqCtlResume a0 a1 s) := by
  unfold execSeqCtlResume
  repeat' first
    | with_reducible assumption
    | intro _
    | with_reducible apply State.seqCtl_keeps
    | with_reducible apply State.resumeSlot_keeps
    | with_reducible apply KeepsOut.of_next

theorem execSeqCtlCancel_keeps {s₀ s : State} {a0 a1} (h : Keeps s₀ s) : KeepsOut s₀ (execSeqCtlCancel a0 a1 s) := by
  unfold execSeqCtlCancel
  repeat' first
    | with_reducible assumption
    | intro _
    | with_reducible apply State.seqCtl_keeps
    | with_reducible apply State.cancelSlot_keeps
    | with_reducible apply KeepsOut.of_next

theorem execSeqCtlBudget_keeps {s₀ s : State} {a0 a1} (h : Keeps s₀ s) : KeepsOut s₀ (execSeqCtlBudget a0 a1 s) := by
  unfold execSeqCtlBudget
  repeat' first
    | with_reducible assumption
    | intro _
    | with_reducible apply State.seqCtl_keeps
    | with_reducible apply State.giveBack_keeps
    | with_reducible apply KeepsOut.of_next
    | with_reducible apply Keeps.ite

theorem State.mgrDone_keeps {s₀ s : State} {a1} (h : Keeps s₀ s) : Keeps s₀ (State.mgrDone s a1) := by
  unfold State.mgrDone
  repeat' first
    | with_reducible assumption
    | intro _
    | with_reducible apply Keeps.ite
    | simp -zeta only [Keeps.leaf]

theorem State.setQuotas_keeps {s₀ s : State} {a1 a2} (h : Keeps s₀ s) : Keeps s₀ (State.setQuotas s a1 a2) := by
  unfold State.setQuotas
  repeat' first
    | with_reducible assumption
    | intro _
    | with_reducible apply State.updFn_keeps

theorem execQuotaSet_keeps {s₀ s : State} {a0} (h : Keeps s₀ s) : KeepsOut s₀ (execQuotaSet a0 s) := by
  unfold execQuotaSet
  repeat' first
    | with_reducible assumption
    | intro _
    | with_reducible apply State.mgrDone_keeps
    | with_reducible apply State.setQuotas_keeps
    | with_reducible apply KeepsOut.of_next
    | with_reducible apply Keeps.ite

theorem State.grantUnits_keeps {s₀ s : State} {a1 a2 a3} (h : Keeps s₀ s) : Keeps s₀ (State.grantUnits s a1 a2 a3) := by
  unfold State.grantUnits
  repeat' first
    | with_reducible assumption
    | intro _
    | with_reducible apply State.mgrDone_keeps
    | with_reducible apply State.updFn_keeps
    | with_reducible apply forAll_keeps
    | with_reducible apply State.setRing_keeps
    | with_reducible apply Keeps.ite

theorem State.grant_keeps {s₀ s : State} {a1} (h : Keeps s₀ s) : Keeps s₀ (State.grant s a1) := by
  unfold State.grant
  repeat' first
    | with_reducible assumption
    | intro _
    | with_reducible apply State.mgrDone_keeps
    | with_reducible apply State.drawn_keeps
    | with_reducible apply State.grantUnits_keeps
    | with_reducible apply Keeps.ite
    | simp -zeta only [Keeps.leaf]
    | split

theorem execGrant_keeps {s₀ s : State} {a0} (h : Keeps s₀ s) : KeepsOut s₀ (execGrant a0 s) := by
  unfold execGrant
  repeat' first
    | with_reducible assumption
    | intro _
    | with_reducible apply State.grant_keeps
    | with_reducible apply KeepsOut.of_next

theorem State.freeKen_keeps {s₀ s : State} {a1} (h : Keeps s₀ s) : Keeps s₀ (State.freeKen s a1) := by
  unfold State.freeKen
  repeat' first
    | with_reducible assumption
    | intro _
    | with_reducible apply forAll_keeps
    | with_reducible apply State.endWaiter_keeps
    | with_reducible apply State.disarm_keeps
    | with_reducible apply State.setKen_keeps

theorem State.abortJoin_keeps {s₀ s : State} {a1} (h : Keeps s₀ s) : Keeps s₀ (State.abortJoin s a1) := by
  unfold State.abortJoin
  repeat' first
    | with_reducible assumption
    | intro _
    | with_reducible apply State.finish_keeps
    | with_reducible apply State.toWafer_keeps
    | with_reducible apply State.updPrec_keeps
    | with_reducible apply Keeps.ite
    | simp -zeta only [Keeps.leaf]
    | split

theorem State.freeBar_keeps {s₀ s : State} {a1} (h : Keeps s₀ s) : Keeps s₀ (State.freeBar s a1) := by
  unfold State.freeBar
  repeat' first
    | with_reducible assumption
    | intro _
    | with_reducible apply State.idleBarrier_keeps
    | with_reducible apply State.abortJoin_keeps
    | with_reducible apply forAll_keeps
    | with_reducible apply State.setFrec_keeps
    | with_reducible apply State.setPrec_keeps

theorem State.dropRing_keeps {s₀ s : State} {a1 a2} (h : Keeps s₀ s) : Keeps s₀ (State.dropRing s a1 a2) := by
  unfold State.dropRing
  repeat' first
    | with_reducible assumption
    | intro _
    | with_reducible apply State.withdrawRing_keeps
    | with_reducible apply State.emit_keeps
    | with_reducible apply State.updFn_keeps
    | with_reducible apply State.setRing_keeps
    | with_reducible apply Keeps.ite
    | simp -zeta only [Keeps.leaf]
    | split

theorem State.freeUnits_keeps {s₀ s : State} {a1 a2 a3} (h : Keeps s₀ s) : Keeps s₀ (State.freeUnits s a1 a2 a3) := by
  unfold State.freeUnits
  repeat' first
    | with_reducible assumption
    | intro _
    | with_reducible apply forAll_keeps
    | with_reducible apply State.freeBar_keeps
    | with_reducible apply State.setSlot_keeps
    | with_reducible apply State.dropRing_keeps
    | with_reducible apply State.freeKen_keeps
    | with_reducible apply Keeps.ite

theorem State.revokeUnits_keeps {s₀ s : State} {a1 a2 a3} (h : Keeps s₀ s) : Keeps s₀ (State.revokeUnits s a1 a2 a3) := by
  unfold State.revokeUnits
  repeat' first
    | with_reducible assumption
    | intro _
    | with_reducible apply State.updFn_keeps
    | with_reducible apply State.freeUnits_keeps

theorem State.revoke_keeps {s₀ s : State} {a1} (h : Keeps s₀ s) : Keeps s₀ (State.revoke s a1) := by
  unfold State.revoke
  repeat' first
    | with_reducible assumption
    | intro _
    | with_reducible apply State.mgrDone_keeps
    | with_reducible apply State.drawn_keeps
    | with_reducible apply State.revokeUnits_keeps
    | with_reducible apply Keeps.ite
    | simp -zeta only [Keeps.leaf]
    | split

theorem execRevoke_keeps {s₀ s : State} {a0} (h : Keeps s₀ s) : KeepsOut s₀ (execRevoke a0 s) := by
  unfold execRevoke
  repeat' first
    | with_reducible assumption
    | intro _
    | with_reducible apply State.revoke_keeps
    | with_reducible apply KeepsOut.of_next

theorem State.createPart_keeps {s₀ s : State} {a1 a2 a3 a4} (h : Keeps s₀ s) : Keeps s₀ (State.createPart s a1 a2 a3 a4) := by
  unfold State.createPart
  repeat' first
    | with_reducible assumption
    | intro _
    | with_reducible apply forAll_keeps
    | with_reducible apply State.resetAlone_keeps
    | with_reducible apply State.katDrop_keeps
    | with_reducible apply State.setQuotas_keeps
    | with_reducible apply State.updFn_keeps
    | with_reducible apply State.mgrDone_keeps
    | with_reducible apply State.caskAdd_keeps
    | with_reducible apply Keeps.ite
    | simp -zeta only [Keeps.leaf]
    | (extract_lets +onlyGivenNames x; refine Keeps.cut (s := s₀) (x := x) ?_ (fun hx => ?_) <;> [subst x; clear_value x])

theorem State.partCreate_keeps {s₀ s : State} {a1 a2} (h : Keeps s₀ s) : Keeps s₀ (State.partCreate s a1 a2) := by
  unfold State.partCreate
  repeat' first
    | with_reducible assumption
    | intro _
    | with_reducible apply State.mgrDone_keeps
    | with_reducible apply State.createPart_keeps
    | with_reducible apply Keeps.ite
    | simp -zeta only [Keeps.leaf]
    | split

theorem execPartCreate_keeps {s₀ s : State} {a0 a1} (h : Keeps s₀ s) : KeepsOut s₀ (execPartCreate a0 a1 s) := by
  unfold execPartCreate
  repeat' first
    | with_reducible assumption
    | intro _
    | with_reducible apply State.partCreate_keeps
    | with_reducible apply KeepsOut.of_next

theorem State.destroyPart_keeps {s₀ s : State} {a1} (h : Keeps s₀ s) : Keeps s₀ (State.destroyPart s a1) := by
  unfold State.destroyPart
  repeat' first
    | with_reducible assumption
    | intro _
    | with_reducible apply forAll_keeps
    | with_reducible apply State.revokeUnits_keeps
    | with_reducible apply State.updFn_keeps
    | with_reducible apply Keeps.ite
    | simp -zeta only [Keeps.leaf]
    | (extract_lets +onlyGivenNames x; refine Keeps.cut (s := s₀) (x := x) ?_ (fun hx => ?_) <;> [subst x; clear_value x])

theorem State.partDestroy_keeps {s₀ s : State} (h : Keeps s₀ s) : Keeps s₀ (State.partDestroy s) := by
  unfold State.partDestroy
  repeat' first
    | with_reducible assumption
    | intro _
    | with_reducible apply State.destroyPart_keeps
    | with_reducible apply State.mgrDone_keeps
    | with_reducible apply State.beginReset_keeps
    | with_reducible apply Keeps.ite
    | simp -zeta only [Keeps.leaf]
    | (extract_lets +onlyGivenNames x; refine Keeps.cut (s := s₀) (x := x) ?_ (fun hx => ?_) <;> [subst x; clear_value x])

theorem execPartDestroy_keeps {s₀ s : State} (h : Keeps s₀ s) : KeepsOut s₀ (execPartDestroy s) := by
  unfold execPartDestroy
  repeat' first
    | with_reducible assumption
    | intro _
    | with_reducible apply State.partDestroy_keeps
    | with_reducible apply KeepsOut.of_next

theorem execMbxSet_keeps {s₀ s : State} {a0} (h : Keeps s₀ s) : KeepsOut s₀ (execMbxSet a0 s) := by
  unfold execMbxSet
  repeat' first
    | with_reducible assumption
    | intro _
    | with_reducible apply State.mgrDone_keeps
    | with_reducible apply State.updFn_keeps
    | with_reducible apply KeepsOut.of_next
    | with_reducible apply Keeps.ite

theorem State.mbxMsix_keeps {s₀ s : State} {a1} (h : Keeps s₀ s) : Keeps s₀ (State.mbxMsix s a1) := by
  unfold State.mbxMsix
  repeat' first
    | with_reducible assumption
    | intro _
    | with_reducible apply State.msix_keeps

theorem execMbxReply_keeps {s₀ s : State} (h : Keeps s₀ s) : KeepsOut s₀ (execMbxReply s) := by
  unfold execMbxReply
  repeat' first
    | with_reducible assumption
    | intro _
    | with_reducible apply State.mgrDone_keeps
    | with_reducible apply State.mbxMsix_keeps
    | with_reducible apply State.updFn_keeps
    | with_reducible apply KeepsOut.of_next
    | with_reducible apply Keeps.ite
    | simp -zeta only [Keeps.leaf]

theorem execNote_keeps {s₀ s : State} (h : Keeps s₀ s) : KeepsOut s₀ (execNote s) := by
  unfold execNote
  repeat' first
    | with_reducible assumption
    | intro _
    | with_reducible apply State.mgrDone_keeps
    | with_reducible apply State.mbxMsix_keeps
    | with_reducible apply State.updFn_keeps
    | with_reducible apply KeepsOut.of_next
    | with_reducible apply Keeps.ite

theorem execDlogSet_keeps {s₀ s : State} {a0} (h : Keeps s₀ s) : KeepsOut s₀ (execDlogSet a0 s) := by
  unfold execDlogSet
  repeat' first
    | with_reducible assumption
    | intro _
    | with_reducible apply State.mgrDone_keeps
    | with_reducible apply State.updFn_keeps
    | with_reducible apply KeepsOut.of_next
    | with_reducible apply Keeps.ite

theorem execDlogSwap_keeps {s₀ s : State} (h : Keeps s₀ s) : KeepsOut s₀ (execDlogSwap s) := by
  unfold execDlogSwap
  repeat' first
    | with_reducible assumption
    | intro _
    | with_reducible apply State.updFn_keeps
    | with_reducible apply State.mgrDone_keeps
    | with_reducible apply State.emitAll_keeps
    | with_reducible apply KeepsOut.of_next
    | with_reducible apply Keeps.ite

theorem State.unhold_keeps {s₀ s : State} {a1} (h : Keeps s₀ s) : Keeps s₀ (State.unhold s a1) := by
  unfold State.unhold
  repeat' first
    | with_reducible assumption
    | intro _
    | with_reducible apply State.updFn_keeps
    | with_reducible apply State.emitAll_keeps
    | with_reducible apply forAll_keeps
    | with_reducible apply State.fetchRing_keeps
    | with_reducible apply State.startRings_keeps

theorem execHold_keeps {s₀ s : State} {a0} (h : Keeps s₀ s) : KeepsOut s₀ (execHold a0 s) := by
  unfold execHold
  repeat' first
    | with_reducible assumption
    | intro _
    | with_reducible apply State.mgrDone_keeps
    | with_reducible apply State.updFn_keeps
    | with_reducible apply State.unhold_keeps
    | with_reducible apply KeepsOut.of_next
    | with_reducible apply Keeps.ite

theorem execHostHeld_keeps {s₀ s : State} {a0} (h : Keeps s₀ s) : KeepsOut s₀ (execHostHeld a0 s) := by
  unfold execHostHeld
  repeat' first
    | with_reducible assumption
    | intro _
    | with_reducible apply State.updFn_keeps
    | with_reducible apply KeepsOut.of_next
    | with_reducible apply Keeps.ite

theorem State.mbxPost_keeps {s₀ s : State} {a1} (h : Keeps s₀ s) : Keeps s₀ (State.mbxPost s a1) := by
  unfold State.mbxPost
  repeat' first
    | with_reducible assumption
    | intro _
    | with_reducible apply State.updFn_keeps
    | with_reducible apply Keeps.ite

theorem execMbxReq_keeps {s₀ s : State} {a0} (h : Keeps s₀ s) : KeepsOut s₀ (execMbxReq a0 s) := by
  unfold execMbxReq
  repeat' first
    | with_reducible assumption
    | intro _
    | with_reducible apply State.mbxPost_keeps
    | with_reducible apply KeepsOut.of_next
    | with_reducible apply Keeps.ite

theorem State.mbxAnswer_keeps {s₀ s : State} {a1 a2 a3 a4} (h : Keeps s₀ s) : Keeps s₀ (State.mbxAnswer s a1 a2 a3 a4) := by
  unfold State.mbxAnswer
  repeat' first
    | with_reducible assumption
    | intro _
    | with_reducible apply State.logWrite_keeps
    | with_reducible apply State.emit_keeps
    | with_reducible apply State.updFn_keeps
    | with_reducible apply State.mbxMsix_keeps
    | with_reducible apply Keeps.ite
    | simp -zeta only [Keeps.leaf]
    | (extract_lets +onlyGivenNames x; refine Keeps.cut (s := s₀) (x := x) ?_ (fun hx => ?_) <;> [subst x; clear_value x])
    | split

theorem State.mbxAny_keeps {s₀ s : State} {a1 a2} (h : Keeps s₀ s) : Keeps s₀ (State.mbxAny s a1 a2) := by
  unfold State.mbxAny
  repeat' first
    | with_reducible assumption
    | intro _
    | with_reducible apply State.mbxAnswer_keeps
    | with_reducible apply State.drawn_keeps

theorem State.mbxServe_keeps {s₀ s : State} {f : Nat} {hd t g} (h : Keeps s₀ s) (hg : Keeps s₀ g) :
    Keeps s₀ (s.mbxServe f hd t g) := by
  unfold State.mbxServe
  repeat' first
    | assumption
    | exact State.mbxAny_keeps h
    | split

theorem State.objAlloc_keeps {s₀ s : State} {a1 a2 a3} (h : Keeps s₀ s) : Keeps s₀ (State.objAlloc s a1 a2 a3) := by
  unfold State.objAlloc
  repeat' first
    | with_reducible assumption
    | intro _
    | with_reducible apply State.mbxAnswer_keeps
    | with_reducible apply State.setPrec_keeps
    | with_reducible apply State.setKen_keeps
    | with_reducible apply Keeps.ite
    | simp -zeta only [Keeps.leaf]
    | (extract_lets +onlyGivenNames x; clear_value x)
    | split

theorem execObjAlloc_keeps {s₀ s : State} {a0 a1 a2} (h : Keeps s₀ s) : KeepsOut s₀ (execObjAlloc a0 a1 a2 s) := by
  unfold execObjAlloc
  repeat' first
    | with_reducible assumption
    | intro _
    | with_reducible apply State.mbxServe_keeps
    | with_reducible apply State.objAlloc_keeps
    | with_reducible apply State.mbxAny_keeps
    | with_reducible apply KeepsOut.of_next
    | with_reducible apply Keeps.ite

theorem State.objFree_keeps {s₀ s : State} {a1 a2 a3} (h : Keeps s₀ s) : Keeps s₀ (State.objFree s a1 a2 a3) := by
  unfold State.objFree
  repeat' first
    | with_reducible assumption
    | intro _
    | with_reducible apply State.mbxAny_keeps
    | with_reducible apply State.mbxAnswer_keeps
    | with_reducible apply State.freeKen_keeps
    | with_reducible apply State.freeBar_keeps
    | with_reducible apply Keeps.ite
    | simp -zeta only [Keeps.leaf]
    | split

theorem execObjFree_keeps {s₀ s : State} {a0 a1 a2} (h : Keeps s₀ s) : KeepsOut s₀ (execObjFree a0 a1 a2 s) := by
  unfold execObjFree
  repeat' first
    | with_reducible assumption
    | intro _
    | with_reducible apply State.mbxServe_keeps
    | with_reducible apply State.objFree_keeps
    | with_reducible apply KeepsOut.of_next

theorem execPoolQuery_keeps {s₀ s : State} {a0 a1} (h : Keeps s₀ s) : KeepsOut s₀ (execPoolQuery a0 a1 s) := by
  unfold execPoolQuery
  repeat' first
    | with_reducible assumption
    | intro _
    | with_reducible apply State.mbxServe_keeps
    | with_reducible apply State.mbxAnswer_keeps
    | with_reducible apply KeepsOut.of_next

theorem State.forward_keeps {s₀ s : State} {a1} (h : Keeps s₀ s) : Keeps s₀ (State.forward s a1) := by
  unfold State.forward
  repeat' first
    | with_reducible assumption
    | intro _
    | with_reducible apply State.updFn_keeps
    | with_reducible apply State.msix_keeps
    | with_reducible apply Keeps.ite
    | simp -zeta only [Keeps.leaf]
    | (extract_lets +onlyGivenNames x; refine Keeps.cut (s := s₀) (x := x) ?_ (fun hx => ?_) <;> [subst x; clear_value x])

theorem execAsk_keeps {s₀ s : State} {a0 a1} (h : Keeps s₀ s) : KeepsOut s₀ (execAsk a0 a1 s) := by
  unfold execAsk
  repeat' first
    | with_reducible assumption
    | intro _
    | with_reducible apply State.mbxServe_keeps
    | with_reducible apply State.forward_keeps
    | with_reducible apply KeepsOut.of_next

theorem State.writeTickCtrl_keeps {s₀ s : State} {a1} (h : Keeps s₀ s) : Keeps s₀ (State.writeTickCtrl s a1) := by
  unfold State.writeTickCtrl
  repeat' first
    | with_reducible assumption
    | intro _
    | with_reducible apply State.writeRun_keeps
    | with_reducible apply State.withTick_keeps

theorem State.writeMgrCmd_keeps {s₀ s : State} {a1} (h : Keeps s₀ s) : Keeps s₀ (State.writeMgrCmd s a1) := by
  unfold State.writeMgrCmd
  repeat' first
    | with_reducible assumption
    | intro _
    | with_reducible apply Keeps.ite
    | simp -zeta only [Keeps.leaf]

theorem State.writeSpanCmd_keeps {s₀ s : State} {a1} (h : Keeps s₀ s) : Keeps s₀ (State.writeSpanCmd s a1) := by
  unfold State.writeSpanCmd
  repeat' first
    | with_reducible assumption
    | intro _
    | with_reducible apply Keeps.ite
    | simp -zeta only [Keeps.leaf]

theorem State.writeBruCmd_keeps {s₀ s : State} {a1} (h : Keeps s₀ s) : Keeps s₀ (State.writeBruCmd s a1) := by
  unfold State.writeBruCmd
  repeat' first
    | with_reducible assumption
    | intro _
    | with_reducible apply Keeps.ite
    | simp -zeta only [Keeps.leaf]

theorem State.writeCommand_keeps {s₀ s : State} {a1 a2} (h : Keeps s₀ s) : Keeps s₀ (State.writeCommand s a1 a2) := by
  unfold State.writeCommand
  repeat' first
    | with_reducible assumption
    | intro _
    | with_reducible apply State.writeMgrCmd_keeps
    | with_reducible apply State.writeSpanCmd_keeps
    | with_reducible apply State.writeBruCmd_keeps
    | with_reducible apply Keeps.ite
    | simp -zeta only [Keeps.leaf]
    | (extract_lets +onlyGivenNames x; clear_value x)
    | split

theorem State.writeWafer_keeps {s₀ s : State} {a1 a2} (h : Keeps s₀ s) : Keeps s₀ (State.writeWafer s a1 a2) := by
  unfold State.writeWafer
  repeat' first
    | with_reducible assumption
    | intro _
    | with_reducible apply State.withTick_keeps
    | with_reducible apply State.writeTickCtrl_keeps
    | with_reducible apply State.writeErrCtrl_keeps
    | with_reducible apply State.writeHclr_keeps
    | with_reducible apply State.writeCommand_keeps
    | with_reducible apply Keeps.ite
    | simp -zeta only [Keeps.leaf]
    | (extract_lets +onlyGivenNames x; clear_value x)
    | split

theorem State.writeMbx_keeps {s₀ s : State} {a1 a2} (h : Keeps s₀ s) : Keeps s₀ (State.writeMbx s a1 a2) := by
  unfold State.writeMbx
  repeat' first
    | with_reducible assumption
    | intro _
    | with_reducible apply State.updFn_keeps
    | with_reducible apply State.mbxPost_keeps
    | with_reducible apply Keeps.ite

theorem State.writeDlog_keeps {s₀ s : State} {a1 a2} (h : Keeps s₀ s) : Keeps s₀ (State.writeDlog s a1 a2) := by
  unfold State.writeDlog
  repeat' first
    | with_reducible assumption
    | intro _
    | with_reducible apply State.updFn_keeps
    | with_reducible apply Keeps.ite

theorem State.writeOwn_keeps {s₀ s : State} {a1 a2 a3} (h : Keeps s₀ s) : Keeps s₀ (State.writeOwn s a1 a2 a3) := by
  unfold State.writeOwn
  repeat' first
    | with_reducible assumption
    | intro _
    | with_reducible apply State.updFn_keeps
    | with_reducible apply State.writeMbx_keeps
    | with_reducible apply Keeps.ite
    | simp -zeta only [Keeps.leaf]
    | split

theorem State.writeSet_keeps {s₀ s : State} {a1 a2 a3} (h : Keeps s₀ s) : Keeps s₀ (State.writeSet s a1 a2 a3) := by
  unfold State.writeSet
  repeat' first
    | with_reducible assumption
    | intro _
    | with_reducible apply State.updFn_keeps
    | with_reducible apply State.writeDlog_keeps
    | with_reducible apply State.writeOwn_keeps
    | with_reducible apply Keeps.ite
    | simp -zeta only [Keeps.leaf]
    | split

theorem State.writeRctl_keeps {s₀ s : State} {a1 a2 a3} (h : Keeps s₀ s) : Keeps s₀ (State.writeRctl s a1 a2 a3) := by
  unfold State.writeRctl
  repeat' first
    | with_reducible assumption
    | intro _
    | with_reducible apply State.disableRing_keeps
    | with_reducible apply State.updRing_keeps
    | with_reducible apply State.beginSparge_keeps
    | with_reducible apply Keeps.ite

theorem State.updOff_keeps {s₀ s : State} {a1 a2} (h : Keeps s₀ s) : Keeps s₀ (State.updOff s a1 a2) := by
  unfold State.updOff
  repeat' first
    | with_reducible assumption
    | intro _
    | with_reducible apply State.updRing_keeps

theorem State.writeRing_keeps {s₀ s : State} {a1 a2 a3 a4} (h : Keeps s₀ s) : Keeps s₀ (State.writeRing s a1 a2 a3 a4) := by
  unfold State.writeRing
  repeat' first
    | with_reducible assumption
    | intro _
    | with_reducible apply State.updOff_keeps
    | with_reducible apply State.updRing_keeps
    | with_reducible apply State.writeRctl_keeps
    | with_reducible apply Keeps.ite
    | simp -zeta only [Keeps.leaf]
    | split

theorem State.writeMsix_keeps {s₀ s : State} {a1 a2 a3} (h : Keeps s₀ s) : Keeps s₀ (State.writeMsix s a1 a2 a3) := by
  unfold State.writeMsix
  repeat' first
    | with_reducible assumption
    | intro _
    | with_reducible apply State.updFn_keeps
    | with_reducible apply State.unmask_keeps
    | with_reducible apply Keeps.ite

theorem State.writeBar0_keeps {s₀ s : State} {a1 a2 a3} (h : Keeps s₀ s) : Keeps s₀ (State.writeBar0 s a1 a2 a3) := by
  unfold State.writeBar0
  repeat' first
    | with_reducible assumption
    | intro _
    | with_reducible apply State.writeWafer_keeps
    | with_reducible apply State.writeSet_keeps
    | with_reducible apply State.writeOwn_keeps
    | with_reducible apply State.ringAccess_keeps
    | with_reducible apply State.writeRing_keeps
    | with_reducible apply State.writeMsix_keeps
    | with_reducible apply Keeps.ite

theorem State.regWrite_keeps {s₀ s : State} {a1 a2 a3 a4} (h : Keeps s₀ s) : Keeps s₀ (State.regWrite s a1 a2 a3 a4) := by
  unfold State.regWrite
  repeat' first
    | with_reducible assumption
    | intro _
    | with_reducible apply State.writeCommand_keeps
    | with_reducible apply State.writeBar0_keeps
    | with_reducible apply Keeps.ite

theorem execRegWrite_keeps {s₀ s : State} {a0 a1 a2 a3} (h : Keeps s₀ s) : KeepsOut s₀ (execRegWrite a0 a1 a2 a3 s) := by
  unfold execRegWrite
  repeat' first
    | with_reducible assumption
    | intro _
    | with_reducible apply State.regWrite_keeps
    | with_reducible apply KeepsOut.of_next

theorem State.ringReadBy_keeps {s₀ s : State} {a1 a2} (h : Keeps s₀ s) : Keeps s₀ (State.ringReadBy s a1 a2) := by
  unfold State.ringReadBy
  repeat' first
    | with_reducible assumption
    | intro _
    | with_reducible apply State.ringAccess_keeps

end Sys2Proof.Machine
end

