-- ==== Sys2Proof/Laws/State.lean ====
section
/-! SUPPORT. What each primitive update of the state leaves of each field, and what it writes: one lemma per field per update,
so that no later proof unfolds a record update. -/

namespace Sys2Proof.Machine

open Sys2Proof

variable {s : State}

/-! ### State.setCsn -/

@[simp] theorem State.setCsn_now {k v} : (s.setCsn k v).now = s.now := rfl
@[simp] theorem State.setCsn_fresh {k v} : (s.setCsn k v).fresh = s.fresh := rfl
@[simp] theorem State.setCsn_pending {k v} : (s.setCsn k v).pending = s.pending := rfl
@[simp] theorem State.setCsn_net {k v} : (s.setCsn k v).net = s.net := rfl
@[simp] theorem State.setCsn_out {k v} : (s.setCsn k v).out = s.out := rfl
@[simp] theorem State.setCsn_core {k v} : (s.setCsn k v).core = s.core := rfl
@[simp] theorem State.setCsn_hub {k v} : (s.setCsn k v).hub = s.hub := rfl
@[simp] theorem State.setCsn_ken {k v} : (s.setCsn k v).ken = s.ken := rfl
@[simp] theorem State.setCsn_frec {k v} : (s.setCsn k v).frec = s.frec := rfl
@[simp] theorem State.setCsn_prec {k v} : (s.setCsn k v).prec = s.prec := rfl
@[simp] theorem State.setCsn_rfolds {k v} : (s.setCsn k v).rfolds = s.rfolds := rfl
@[simp] theorem State.setCsn_tick {k v} : (s.setCsn k v).tick = s.tick := rfl
@[simp] theorem State.setCsn_kiln {k v} : (s.setCsn k v).kiln = s.kiln := rfl
@[simp] theorem State.setCsn_fn {k v} : (s.setCsn k v).fn = s.fn := rfl
@[simp] theorem State.setCsn_pl {k v} : (s.setCsn k v).pl = s.pl := rfl
@[simp] theorem State.setCsn_slot {k v} : (s.setCsn k v).slot = s.slot := rfl
@[simp] theorem State.setCsn_ring {k v} : (s.setCsn k v).ring = s.ring := rfl
@[simp] theorem State.setCsn_mgr {k v} : (s.setCsn k v).mgr = s.mgr := rfl
@[simp] theorem State.setCsn_mesh {k v} : (s.setCsn k v).mesh = s.mesh := rfl
@[simp] theorem State.setCsn_span {k v} : (s.setCsn k v).span = s.span := rfl
@[simp] theorem State.setCsn_err {k v} : (s.setCsn k v).err = s.err := rfl
@[simp] theorem State.setCsn_bru {k v} : (s.setCsn k v).bru = s.bru := rfl
@[simp] theorem State.setCsn_cask {k v} : (s.setCsn k v).cask = s.cask := rfl
@[simp] theorem State.setCsn_kat {k v} : (s.setCsn k v).kat = s.kat := rfl
@[simp] theorem State.setCsn_coreAt {k v} {i} : (s.setCsn k v).coreAt i = s.coreAt i := rfl
@[simp] theorem State.setCsn_hubAt {k v} {i} : (s.setCsn k v).hubAt i = s.hubAt i := rfl
@[simp] theorem State.setCsn_kenAt {k v} {i} : (s.setCsn k v).kenAt i = s.kenAt i := rfl
@[simp] theorem State.setCsn_frecAt {k v} {i} : (s.setCsn k v).frecAt i = s.frecAt i := rfl
@[simp] theorem State.setCsn_precAt {k v} {i} : (s.setCsn k v).precAt i = s.precAt i := rfl
@[simp] theorem State.setCsn_fnAt {k v} {i} : (s.setCsn k v).fnAt i = s.fnAt i := rfl
@[simp] theorem State.setCsn_plAt {k v} {i} : (s.setCsn k v).plAt i = s.plAt i := rfl
@[simp] theorem State.setCsn_slotAt {k v} {i} : (s.setCsn k v).slotAt i = s.slotAt i := rfl
@[simp] theorem State.setCsn_ringAt {k v} {i} : (s.setCsn k v).ringAt i = s.ringAt i := rfl

/-! ### State.updCsn -/

@[simp] theorem State.updCsn_now {k g} : (s.updCsn k g).now = s.now := rfl
@[simp] theorem State.updCsn_fresh {k g} : (s.updCsn k g).fresh = s.fresh := rfl
@[simp] theorem State.updCsn_pending {k g} : (s.updCsn k g).pending = s.pending := rfl
@[simp] theorem State.updCsn_net {k g} : (s.updCsn k g).net = s.net := rfl
@[simp] theorem State.updCsn_out {k g} : (s.updCsn k g).out = s.out := rfl
@[simp] theorem State.updCsn_core {k g} : (s.updCsn k g).core = s.core := rfl
@[simp] theorem State.updCsn_hub {k g} : (s.updCsn k g).hub = s.hub := rfl
@[simp] theorem State.updCsn_ken {k g} : (s.updCsn k g).ken = s.ken := rfl
@[simp] theorem State.updCsn_frec {k g} : (s.updCsn k g).frec = s.frec := rfl
@[simp] theorem State.updCsn_prec {k g} : (s.updCsn k g).prec = s.prec := rfl
@[simp] theorem State.updCsn_rfolds {k g} : (s.updCsn k g).rfolds = s.rfolds := rfl
@[simp] theorem State.updCsn_tick {k g} : (s.updCsn k g).tick = s.tick := rfl
@[simp] theorem State.updCsn_kiln {k g} : (s.updCsn k g).kiln = s.kiln := rfl
@[simp] theorem State.updCsn_fn {k g} : (s.updCsn k g).fn = s.fn := rfl
@[simp] theorem State.updCsn_pl {k g} : (s.updCsn k g).pl = s.pl := rfl
@[simp] theorem State.updCsn_slot {k g} : (s.updCsn k g).slot = s.slot := rfl
@[simp] theorem State.updCsn_ring {k g} : (s.updCsn k g).ring = s.ring := rfl
@[simp] theorem State.updCsn_mgr {k g} : (s.updCsn k g).mgr = s.mgr := rfl
@[simp] theorem State.updCsn_mesh {k g} : (s.updCsn k g).mesh = s.mesh := rfl
@[simp] theorem State.updCsn_span {k g} : (s.updCsn k g).span = s.span := rfl
@[simp] theorem State.updCsn_err {k g} : (s.updCsn k g).err = s.err := rfl
@[simp] theorem State.updCsn_bru {k g} : (s.updCsn k g).bru = s.bru := rfl
@[simp] theorem State.updCsn_cask {k g} : (s.updCsn k g).cask = s.cask := rfl
@[simp] theorem State.updCsn_kat {k g} : (s.updCsn k g).kat = s.kat := rfl
@[simp] theorem State.updCsn_coreAt {k g} {i} : (s.updCsn k g).coreAt i = s.coreAt i := rfl
@[simp] theorem State.updCsn_hubAt {k g} {i} : (s.updCsn k g).hubAt i = s.hubAt i := rfl
@[simp] theorem State.updCsn_kenAt {k g} {i} : (s.updCsn k g).kenAt i = s.kenAt i := rfl
@[simp] theorem State.updCsn_frecAt {k g} {i} : (s.updCsn k g).frecAt i = s.frecAt i := rfl
@[simp] theorem State.updCsn_precAt {k g} {i} : (s.updCsn k g).precAt i = s.precAt i := rfl
@[simp] theorem State.updCsn_fnAt {k g} {i} : (s.updCsn k g).fnAt i = s.fnAt i := rfl
@[simp] theorem State.updCsn_plAt {k g} {i} : (s.updCsn k g).plAt i = s.plAt i := rfl
@[simp] theorem State.updCsn_slotAt {k g} {i} : (s.updCsn k g).slotAt i = s.slotAt i := rfl
@[simp] theorem State.updCsn_ringAt {k g} {i} : (s.updCsn k g).ringAt i = s.ringAt i := rfl

/-! ### State.setCore -/

@[simp] theorem State.setCore_now {k v} : (s.setCore k v).now = s.now := rfl
@[simp] theorem State.setCore_fresh {k v} : (s.setCore k v).fresh = s.fresh := rfl
@[simp] theorem State.setCore_pending {k v} : (s.setCore k v).pending = s.pending := rfl
@[simp] theorem State.setCore_net {k v} : (s.setCore k v).net = s.net := rfl
@[simp] theorem State.setCore_out {k v} : (s.setCore k v).out = s.out := rfl
@[simp] theorem State.setCore_csn {k v} : (s.setCore k v).csn = s.csn := rfl
@[simp] theorem State.setCore_hub {k v} : (s.setCore k v).hub = s.hub := rfl
@[simp] theorem State.setCore_ken {k v} : (s.setCore k v).ken = s.ken := rfl
@[simp] theorem State.setCore_frec {k v} : (s.setCore k v).frec = s.frec := rfl
@[simp] theorem State.setCore_prec {k v} : (s.setCore k v).prec = s.prec := rfl
@[simp] theorem State.setCore_rfolds {k v} : (s.setCore k v).rfolds = s.rfolds := rfl
@[simp] theorem State.setCore_tick {k v} : (s.setCore k v).tick = s.tick := rfl
@[simp] theorem State.setCore_kiln {k v} : (s.setCore k v).kiln = s.kiln := rfl
@[simp] theorem State.setCore_fn {k v} : (s.setCore k v).fn = s.fn := rfl
@[simp] theorem State.setCore_pl {k v} : (s.setCore k v).pl = s.pl := rfl
@[simp] theorem State.setCore_slot {k v} : (s.setCore k v).slot = s.slot := rfl
@[simp] theorem State.setCore_ring {k v} : (s.setCore k v).ring = s.ring := rfl
@[simp] theorem State.setCore_mgr {k v} : (s.setCore k v).mgr = s.mgr := rfl
@[simp] theorem State.setCore_mesh {k v} : (s.setCore k v).mesh = s.mesh := rfl
@[simp] theorem State.setCore_span {k v} : (s.setCore k v).span = s.span := rfl
@[simp] theorem State.setCore_err {k v} : (s.setCore k v).err = s.err := rfl
@[simp] theorem State.setCore_bru {k v} : (s.setCore k v).bru = s.bru := rfl
@[simp] theorem State.setCore_cask {k v} : (s.setCore k v).cask = s.cask := rfl
@[simp] theorem State.setCore_kat {k v} : (s.setCore k v).kat = s.kat := rfl
@[simp] theorem State.setCore_csnAt {k v} {i} : (s.setCore k v).csnAt i = s.csnAt i := rfl
@[simp] theorem State.setCore_hubAt {k v} {i} : (s.setCore k v).hubAt i = s.hubAt i := rfl
@[simp] theorem State.setCore_kenAt {k v} {i} : (s.setCore k v).kenAt i = s.kenAt i := rfl
@[simp] theorem State.setCore_frecAt {k v} {i} : (s.setCore k v).frecAt i = s.frecAt i := rfl
@[simp] theorem State.setCore_precAt {k v} {i} : (s.setCore k v).precAt i = s.precAt i := rfl
@[simp] theorem State.setCore_fnAt {k v} {i} : (s.setCore k v).fnAt i = s.fnAt i := rfl
@[simp] theorem State.setCore_plAt {k v} {i} : (s.setCore k v).plAt i = s.plAt i := rfl
@[simp] theorem State.setCore_slotAt {k v} {i} : (s.setCore k v).slotAt i = s.slotAt i := rfl
@[simp] theorem State.setCore_ringAt {k v} {i} : (s.setCore k v).ringAt i = s.ringAt i := rfl

/-! ### State.updCore -/

@[simp] theorem State.updCore_now {k g} : (s.updCore k g).now = s.now := rfl
@[simp] theorem State.updCore_fresh {k g} : (s.updCore k g).fresh = s.fresh := rfl
@[simp] theorem State.updCore_pending {k g} : (s.updCore k g).pending = s.pending := rfl
@[simp] theorem State.updCore_net {k g} : (s.updCore k g).net = s.net := rfl
@[simp] theorem State.updCore_out {k g} : (s.updCore k g).out = s.out := rfl
@[simp] theorem State.updCore_csn {k g} : (s.updCore k g).csn = s.csn := rfl
@[simp] theorem State.updCore_hub {k g} : (s.updCore k g).hub = s.hub := rfl
@[simp] theorem State.updCore_ken {k g} : (s.updCore k g).ken = s.ken := rfl
@[simp] theorem State.updCore_frec {k g} : (s.updCore k g).frec = s.frec := rfl
@[simp] theorem State.updCore_prec {k g} : (s.updCore k g).prec = s.prec := rfl
@[simp] theorem State.updCore_rfolds {k g} : (s.updCore k g).rfolds = s.rfolds := rfl
@[simp] theorem State.updCore_tick {k g} : (s.updCore k g).tick = s.tick := rfl
@[simp] theorem State.updCore_kiln {k g} : (s.updCore k g).kiln = s.kiln := rfl
@[simp] theorem State.updCore_fn {k g} : (s.updCore k g).fn = s.fn := rfl
@[simp] theorem State.updCore_pl {k g} : (s.updCore k g).pl = s.pl := rfl
@[simp] theorem State.updCore_slot {k g} : (s.updCore k g).slot = s.slot := rfl
@[simp] theorem State.updCore_ring {k g} : (s.updCore k g).ring = s.ring := rfl
@[simp] theorem State.updCore_mgr {k g} : (s.updCore k g).mgr = s.mgr := rfl
@[simp] theorem State.updCore_mesh {k g} : (s.updCore k g).mesh = s.mesh := rfl
@[simp] theorem State.updCore_span {k g} : (s.updCore k g).span = s.span := rfl
@[simp] theorem State.updCore_err {k g} : (s.updCore k g).err = s.err := rfl
@[simp] theorem State.updCore_bru {k g} : (s.updCore k g).bru = s.bru := rfl
@[simp] theorem State.updCore_cask {k g} : (s.updCore k g).cask = s.cask := rfl
@[simp] theorem State.updCore_kat {k g} : (s.updCore k g).kat = s.kat := rfl
@[simp] theorem State.updCore_csnAt {k g} {i} : (s.updCore k g).csnAt i = s.csnAt i := rfl
@[simp] theorem State.updCore_hubAt {k g} {i} : (s.updCore k g).hubAt i = s.hubAt i := rfl
@[simp] theorem State.updCore_kenAt {k g} {i} : (s.updCore k g).kenAt i = s.kenAt i := rfl
@[simp] theorem State.updCore_frecAt {k g} {i} : (s.updCore k g).frecAt i = s.frecAt i := rfl
@[simp] theorem State.updCore_precAt {k g} {i} : (s.updCore k g).precAt i = s.precAt i := rfl
@[simp] theorem State.updCore_fnAt {k g} {i} : (s.updCore k g).fnAt i = s.fnAt i := rfl
@[simp] theorem State.updCore_plAt {k g} {i} : (s.updCore k g).plAt i = s.plAt i := rfl
@[simp] theorem State.updCore_slotAt {k g} {i} : (s.updCore k g).slotAt i = s.slotAt i := rfl
@[simp] theorem State.updCore_ringAt {k g} {i} : (s.updCore k g).ringAt i = s.ringAt i := rfl

/-! ### State.setHub -/

@[simp] theorem State.setHub_now {k v} : (s.setHub k v).now = s.now := rfl
@[simp] theorem State.setHub_fresh {k v} : (s.setHub k v).fresh = s.fresh := rfl
@[simp] theorem State.setHub_pending {k v} : (s.setHub k v).pending = s.pending := rfl
@[simp] theorem State.setHub_net {k v} : (s.setHub k v).net = s.net := rfl
@[simp] theorem State.setHub_out {k v} : (s.setHub k v).out = s.out := rfl
@[simp] theorem State.setHub_csn {k v} : (s.setHub k v).csn = s.csn := rfl
@[simp] theorem State.setHub_core {k v} : (s.setHub k v).core = s.core := rfl
@[simp] theorem State.setHub_ken {k v} : (s.setHub k v).ken = s.ken := rfl
@[simp] theorem State.setHub_frec {k v} : (s.setHub k v).frec = s.frec := rfl
@[simp] theorem State.setHub_prec {k v} : (s.setHub k v).prec = s.prec := rfl
@[simp] theorem State.setHub_rfolds {k v} : (s.setHub k v).rfolds = s.rfolds := rfl
@[simp] theorem State.setHub_tick {k v} : (s.setHub k v).tick = s.tick := rfl
@[simp] theorem State.setHub_kiln {k v} : (s.setHub k v).kiln = s.kiln := rfl
@[simp] theorem State.setHub_fn {k v} : (s.setHub k v).fn = s.fn := rfl
@[simp] theorem State.setHub_pl {k v} : (s.setHub k v).pl = s.pl := rfl
@[simp] theorem State.setHub_slot {k v} : (s.setHub k v).slot = s.slot := rfl
@[simp] theorem State.setHub_ring {k v} : (s.setHub k v).ring = s.ring := rfl
@[simp] theorem State.setHub_mgr {k v} : (s.setHub k v).mgr = s.mgr := rfl
@[simp] theorem State.setHub_mesh {k v} : (s.setHub k v).mesh = s.mesh := rfl
@[simp] theorem State.setHub_span {k v} : (s.setHub k v).span = s.span := rfl
@[simp] theorem State.setHub_err {k v} : (s.setHub k v).err = s.err := rfl
@[simp] theorem State.setHub_bru {k v} : (s.setHub k v).bru = s.bru := rfl
@[simp] theorem State.setHub_cask {k v} : (s.setHub k v).cask = s.cask := rfl
@[simp] theorem State.setHub_kat {k v} : (s.setHub k v).kat = s.kat := rfl
@[simp] theorem State.setHub_csnAt {k v} {i} : (s.setHub k v).csnAt i = s.csnAt i := rfl
@[simp] theorem State.setHub_coreAt {k v} {i} : (s.setHub k v).coreAt i = s.coreAt i := rfl
@[simp] theorem State.setHub_kenAt {k v} {i} : (s.setHub k v).kenAt i = s.kenAt i := rfl
@[simp] theorem State.setHub_frecAt {k v} {i} : (s.setHub k v).frecAt i = s.frecAt i := rfl
@[simp] theorem State.setHub_precAt {k v} {i} : (s.setHub k v).precAt i = s.precAt i := rfl
@[simp] theorem State.setHub_fnAt {k v} {i} : (s.setHub k v).fnAt i = s.fnAt i := rfl
@[simp] theorem State.setHub_plAt {k v} {i} : (s.setHub k v).plAt i = s.plAt i := rfl
@[simp] theorem State.setHub_slotAt {k v} {i} : (s.setHub k v).slotAt i = s.slotAt i := rfl
@[simp] theorem State.setHub_ringAt {k v} {i} : (s.setHub k v).ringAt i = s.ringAt i := rfl

/-! ### State.updHub -/

@[simp] theorem State.updHub_now {k g} : (s.updHub k g).now = s.now := rfl
@[simp] theorem State.updHub_fresh {k g} : (s.updHub k g).fresh = s.fresh := rfl
@[simp] theorem State.updHub_pending {k g} : (s.updHub k g).pending = s.pending := rfl
@[simp] theorem State.updHub_net {k g} : (s.updHub k g).net = s.net := rfl
@[simp] theorem State.updHub_out {k g} : (s.updHub k g).out = s.out := rfl
@[simp] theorem State.updHub_csn {k g} : (s.updHub k g).csn = s.csn := rfl
@[simp] theorem State.updHub_core {k g} : (s.updHub k g).core = s.core := rfl
@[simp] theorem State.updHub_ken {k g} : (s.updHub k g).ken = s.ken := rfl
@[simp] theorem State.updHub_frec {k g} : (s.updHub k g).frec = s.frec := rfl
@[simp] theorem State.updHub_prec {k g} : (s.updHub k g).prec = s.prec := rfl
@[simp] theorem State.updHub_rfolds {k g} : (s.updHub k g).rfolds = s.rfolds := rfl
@[simp] theorem State.updHub_tick {k g} : (s.updHub k g).tick = s.tick := rfl
@[simp] theorem State.updHub_kiln {k g} : (s.updHub k g).kiln = s.kiln := rfl
@[simp] theorem State.updHub_fn {k g} : (s.updHub k g).fn = s.fn := rfl
@[simp] theorem State.updHub_pl {k g} : (s.updHub k g).pl = s.pl := rfl
@[simp] theorem State.updHub_slot {k g} : (s.updHub k g).slot = s.slot := rfl
@[simp] theorem State.updHub_ring {k g} : (s.updHub k g).ring = s.ring := rfl
@[simp] theorem State.updHub_mgr {k g} : (s.updHub k g).mgr = s.mgr := rfl
@[simp] theorem State.updHub_mesh {k g} : (s.updHub k g).mesh = s.mesh := rfl
@[simp] theorem State.updHub_span {k g} : (s.updHub k g).span = s.span := rfl
@[simp] theorem State.updHub_err {k g} : (s.updHub k g).err = s.err := rfl
@[simp] theorem State.updHub_bru {k g} : (s.updHub k g).bru = s.bru := rfl
@[simp] theorem State.updHub_cask {k g} : (s.updHub k g).cask = s.cask := rfl
@[simp] theorem State.updHub_kat {k g} : (s.updHub k g).kat = s.kat := rfl
@[simp] theorem State.updHub_csnAt {k g} {i} : (s.updHub k g).csnAt i = s.csnAt i := rfl
@[simp] theorem State.updHub_coreAt {k g} {i} : (s.updHub k g).coreAt i = s.coreAt i := rfl
@[simp] theorem State.updHub_kenAt {k g} {i} : (s.updHub k g).kenAt i = s.kenAt i := rfl
@[simp] theorem State.updHub_frecAt {k g} {i} : (s.updHub k g).frecAt i = s.frecAt i := rfl
@[simp] theorem State.updHub_precAt {k g} {i} : (s.updHub k g).precAt i = s.precAt i := rfl
@[simp] theorem State.updHub_fnAt {k g} {i} : (s.updHub k g).fnAt i = s.fnAt i := rfl
@[simp] theorem State.updHub_plAt {k g} {i} : (s.updHub k g).plAt i = s.plAt i := rfl
@[simp] theorem State.updHub_slotAt {k g} {i} : (s.updHub k g).slotAt i = s.slotAt i := rfl
@[simp] theorem State.updHub_ringAt {k g} {i} : (s.updHub k g).ringAt i = s.ringAt i := rfl

/-! ### State.setKen -/

@[simp] theorem State.setKen_now {k v} : (s.setKen k v).now = s.now := rfl
@[simp] theorem State.setKen_fresh {k v} : (s.setKen k v).fresh = s.fresh := rfl
@[simp] theorem State.setKen_pending {k v} : (s.setKen k v).pending = s.pending := rfl
@[simp] theorem State.setKen_net {k v} : (s.setKen k v).net = s.net := rfl
@[simp] theorem State.setKen_out {k v} : (s.setKen k v).out = s.out := rfl
@[simp] theorem State.setKen_csn {k v} : (s.setKen k v).csn = s.csn := rfl
@[simp] theorem State.setKen_core {k v} : (s.setKen k v).core = s.core := rfl
@[simp] theorem State.setKen_hub {k v} : (s.setKen k v).hub = s.hub := rfl
@[simp] theorem State.setKen_frec {k v} : (s.setKen k v).frec = s.frec := rfl
@[simp] theorem State.setKen_prec {k v} : (s.setKen k v).prec = s.prec := rfl
@[simp] theorem State.setKen_rfolds {k v} : (s.setKen k v).rfolds = s.rfolds := rfl
@[simp] theorem State.setKen_tick {k v} : (s.setKen k v).tick = s.tick := rfl
@[simp] theorem State.setKen_kiln {k v} : (s.setKen k v).kiln = s.kiln := rfl
@[simp] theorem State.setKen_fn {k v} : (s.setKen k v).fn = s.fn := rfl
@[simp] theorem State.setKen_pl {k v} : (s.setKen k v).pl = s.pl := rfl
@[simp] theorem State.setKen_slot {k v} : (s.setKen k v).slot = s.slot := rfl
@[simp] theorem State.setKen_ring {k v} : (s.setKen k v).ring = s.ring := rfl
@[simp] theorem State.setKen_mgr {k v} : (s.setKen k v).mgr = s.mgr := rfl
@[simp] theorem State.setKen_mesh {k v} : (s.setKen k v).mesh = s.mesh := rfl
@[simp] theorem State.setKen_span {k v} : (s.setKen k v).span = s.span := rfl
@[simp] theorem State.setKen_err {k v} : (s.setKen k v).err = s.err := rfl
@[simp] theorem State.setKen_bru {k v} : (s.setKen k v).bru = s.bru := rfl
@[simp] theorem State.setKen_cask {k v} : (s.setKen k v).cask = s.cask := rfl
@[simp] theorem State.setKen_kat {k v} : (s.setKen k v).kat = s.kat := rfl
@[simp] theorem State.setKen_csnAt {k v} {i} : (s.setKen k v).csnAt i = s.csnAt i := rfl
@[simp] theorem State.setKen_coreAt {k v} {i} : (s.setKen k v).coreAt i = s.coreAt i := rfl
@[simp] theorem State.setKen_hubAt {k v} {i} : (s.setKen k v).hubAt i = s.hubAt i := rfl
@[simp] theorem State.setKen_frecAt {k v} {i} : (s.setKen k v).frecAt i = s.frecAt i := rfl
@[simp] theorem State.setKen_precAt {k v} {i} : (s.setKen k v).precAt i = s.precAt i := rfl
@[simp] theorem State.setKen_fnAt {k v} {i} : (s.setKen k v).fnAt i = s.fnAt i := rfl
@[simp] theorem State.setKen_plAt {k v} {i} : (s.setKen k v).plAt i = s.plAt i := rfl
@[simp] theorem State.setKen_slotAt {k v} {i} : (s.setKen k v).slotAt i = s.slotAt i := rfl
@[simp] theorem State.setKen_ringAt {k v} {i} : (s.setKen k v).ringAt i = s.ringAt i := rfl

/-! ### State.updKen -/

@[simp] theorem State.updKen_now {k g} : (s.updKen k g).now = s.now := rfl
@[simp] theorem State.updKen_fresh {k g} : (s.updKen k g).fresh = s.fresh := rfl
@[simp] theorem State.updKen_pending {k g} : (s.updKen k g).pending = s.pending := rfl
@[simp] theorem State.updKen_net {k g} : (s.updKen k g).net = s.net := rfl
@[simp] theorem State.updKen_out {k g} : (s.updKen k g).out = s.out := rfl
@[simp] theorem State.updKen_csn {k g} : (s.updKen k g).csn = s.csn := rfl
@[simp] theorem State.updKen_core {k g} : (s.updKen k g).core = s.core := rfl
@[simp] theorem State.updKen_hub {k g} : (s.updKen k g).hub = s.hub := rfl
@[simp] theorem State.updKen_frec {k g} : (s.updKen k g).frec = s.frec := rfl
@[simp] theorem State.updKen_prec {k g} : (s.updKen k g).prec = s.prec := rfl
@[simp] theorem State.updKen_rfolds {k g} : (s.updKen k g).rfolds = s.rfolds := rfl
@[simp] theorem State.updKen_tick {k g} : (s.updKen k g).tick = s.tick := rfl
@[simp] theorem State.updKen_kiln {k g} : (s.updKen k g).kiln = s.kiln := rfl
@[simp] theorem State.updKen_fn {k g} : (s.updKen k g).fn = s.fn := rfl
@[simp] theorem State.updKen_pl {k g} : (s.updKen k g).pl = s.pl := rfl
@[simp] theorem State.updKen_slot {k g} : (s.updKen k g).slot = s.slot := rfl
@[simp] theorem State.updKen_ring {k g} : (s.updKen k g).ring = s.ring := rfl
@[simp] theorem State.updKen_mgr {k g} : (s.updKen k g).mgr = s.mgr := rfl
@[simp] theorem State.updKen_mesh {k g} : (s.updKen k g).mesh = s.mesh := rfl
@[simp] theorem State.updKen_span {k g} : (s.updKen k g).span = s.span := rfl
@[simp] theorem State.updKen_err {k g} : (s.updKen k g).err = s.err := rfl
@[simp] theorem State.updKen_bru {k g} : (s.updKen k g).bru = s.bru := rfl
@[simp] theorem State.updKen_cask {k g} : (s.updKen k g).cask = s.cask := rfl
@[simp] theorem State.updKen_kat {k g} : (s.updKen k g).kat = s.kat := rfl
@[simp] theorem State.updKen_csnAt {k g} {i} : (s.updKen k g).csnAt i = s.csnAt i := rfl
@[simp] theorem State.updKen_coreAt {k g} {i} : (s.updKen k g).coreAt i = s.coreAt i := rfl
@[simp] theorem State.updKen_hubAt {k g} {i} : (s.updKen k g).hubAt i = s.hubAt i := rfl
@[simp] theorem State.updKen_frecAt {k g} {i} : (s.updKen k g).frecAt i = s.frecAt i := rfl
@[simp] theorem State.updKen_precAt {k g} {i} : (s.updKen k g).precAt i = s.precAt i := rfl
@[simp] theorem State.updKen_fnAt {k g} {i} : (s.updKen k g).fnAt i = s.fnAt i := rfl
@[simp] theorem State.updKen_plAt {k g} {i} : (s.updKen k g).plAt i = s.plAt i := rfl
@[simp] theorem State.updKen_slotAt {k g} {i} : (s.updKen k g).slotAt i = s.slotAt i := rfl
@[simp] theorem State.updKen_ringAt {k g} {i} : (s.updKen k g).ringAt i = s.ringAt i := rfl

/-! ### State.setFrec -/

@[simp] theorem State.setFrec_now {k v} : (s.setFrec k v).now = s.now := rfl
@[simp] theorem State.setFrec_fresh {k v} : (s.setFrec k v).fresh = s.fresh := rfl
@[simp] theorem State.setFrec_pending {k v} : (s.setFrec k v).pending = s.pending := rfl
@[simp] theorem State.setFrec_net {k v} : (s.setFrec k v).net = s.net := rfl
@[simp] theorem State.setFrec_out {k v} : (s.setFrec k v).out = s.out := rfl
@[simp] theorem State.setFrec_csn {k v} : (s.setFrec k v).csn = s.csn := rfl
@[simp] theorem State.setFrec_core {k v} : (s.setFrec k v).core = s.core := rfl
@[simp] theorem State.setFrec_hub {k v} : (s.setFrec k v).hub = s.hub := rfl
@[simp] theorem State.setFrec_ken {k v} : (s.setFrec k v).ken = s.ken := rfl
@[simp] theorem State.setFrec_prec {k v} : (s.setFrec k v).prec = s.prec := rfl
@[simp] theorem State.setFrec_rfolds {k v} : (s.setFrec k v).rfolds = s.rfolds := rfl
@[simp] theorem State.setFrec_tick {k v} : (s.setFrec k v).tick = s.tick := rfl
@[simp] theorem State.setFrec_kiln {k v} : (s.setFrec k v).kiln = s.kiln := rfl
@[simp] theorem State.setFrec_fn {k v} : (s.setFrec k v).fn = s.fn := rfl
@[simp] theorem State.setFrec_pl {k v} : (s.setFrec k v).pl = s.pl := rfl
@[simp] theorem State.setFrec_slot {k v} : (s.setFrec k v).slot = s.slot := rfl
@[simp] theorem State.setFrec_ring {k v} : (s.setFrec k v).ring = s.ring := rfl
@[simp] theorem State.setFrec_mgr {k v} : (s.setFrec k v).mgr = s.mgr := rfl
@[simp] theorem State.setFrec_mesh {k v} : (s.setFrec k v).mesh = s.mesh := rfl
@[simp] theorem State.setFrec_span {k v} : (s.setFrec k v).span = s.span := rfl
@[simp] theorem State.setFrec_err {k v} : (s.setFrec k v).err = s.err := rfl
@[simp] theorem State.setFrec_bru {k v} : (s.setFrec k v).bru = s.bru := rfl
@[simp] theorem State.setFrec_cask {k v} : (s.setFrec k v).cask = s.cask := rfl
@[simp] theorem State.setFrec_kat {k v} : (s.setFrec k v).kat = s.kat := rfl
@[simp] theorem State.setFrec_csnAt {k v} {i} : (s.setFrec k v).csnAt i = s.csnAt i := rfl
@[simp] theorem State.setFrec_coreAt {k v} {i} : (s.setFrec k v).coreAt i = s.coreAt i := rfl
@[simp] theorem State.setFrec_hubAt {k v} {i} : (s.setFrec k v).hubAt i = s.hubAt i := rfl
@[simp] theorem State.setFrec_kenAt {k v} {i} : (s.setFrec k v).kenAt i = s.kenAt i := rfl
@[simp] theorem State.setFrec_precAt {k v} {i} : (s.setFrec k v).precAt i = s.precAt i := rfl
@[simp] theorem State.setFrec_fnAt {k v} {i} : (s.setFrec k v).fnAt i = s.fnAt i := rfl
@[simp] theorem State.setFrec_plAt {k v} {i} : (s.setFrec k v).plAt i = s.plAt i := rfl
@[simp] theorem State.setFrec_slotAt {k v} {i} : (s.setFrec k v).slotAt i = s.slotAt i := rfl
@[simp] theorem State.setFrec_ringAt {k v} {i} : (s.setFrec k v).ringAt i = s.ringAt i := rfl

/-! ### State.updFrec -/

@[simp] theorem State.updFrec_now {k g} : (s.updFrec k g).now = s.now := rfl
@[simp] theorem State.updFrec_fresh {k g} : (s.updFrec k g).fresh = s.fresh := rfl
@[simp] theorem State.updFrec_pending {k g} : (s.updFrec k g).pending = s.pending := rfl
@[simp] theorem State.updFrec_net {k g} : (s.updFrec k g).net = s.net := rfl
@[simp] theorem State.updFrec_out {k g} : (s.updFrec k g).out = s.out := rfl
@[simp] theorem State.updFrec_csn {k g} : (s.updFrec k g).csn = s.csn := rfl
@[simp] theorem State.updFrec_core {k g} : (s.updFrec k g).core = s.core := rfl
@[simp] theorem State.updFrec_hub {k g} : (s.updFrec k g).hub = s.hub := rfl
@[simp] theorem State.updFrec_ken {k g} : (s.updFrec k g).ken = s.ken := rfl
@[simp] theorem State.updFrec_prec {k g} : (s.updFrec k g).prec = s.prec := rfl
@[simp] theorem State.updFrec_rfolds {k g} : (s.updFrec k g).rfolds = s.rfolds := rfl
@[simp] theorem State.updFrec_tick {k g} : (s.updFrec k g).tick = s.tick := rfl
@[simp] theorem State.updFrec_kiln {k g} : (s.updFrec k g).kiln = s.kiln := rfl
@[simp] theorem State.updFrec_fn {k g} : (s.updFrec k g).fn = s.fn := rfl
@[simp] theorem State.updFrec_pl {k g} : (s.updFrec k g).pl = s.pl := rfl
@[simp] theorem State.updFrec_slot {k g} : (s.updFrec k g).slot = s.slot := rfl
@[simp] theorem State.updFrec_ring {k g} : (s.updFrec k g).ring = s.ring := rfl
@[simp] theorem State.updFrec_mgr {k g} : (s.updFrec k g).mgr = s.mgr := rfl
@[simp] theorem State.updFrec_mesh {k g} : (s.updFrec k g).mesh = s.mesh := rfl
@[simp] theorem State.updFrec_span {k g} : (s.updFrec k g).span = s.span := rfl
@[simp] theorem State.updFrec_err {k g} : (s.updFrec k g).err = s.err := rfl
@[simp] theorem State.updFrec_bru {k g} : (s.updFrec k g).bru = s.bru := rfl
@[simp] theorem State.updFrec_cask {k g} : (s.updFrec k g).cask = s.cask := rfl
@[simp] theorem State.updFrec_kat {k g} : (s.updFrec k g).kat = s.kat := rfl
@[simp] theorem State.updFrec_csnAt {k g} {i} : (s.updFrec k g).csnAt i = s.csnAt i := rfl
@[simp] theorem State.updFrec_coreAt {k g} {i} : (s.updFrec k g).coreAt i = s.coreAt i := rfl
@[simp] theorem State.updFrec_hubAt {k g} {i} : (s.updFrec k g).hubAt i = s.hubAt i := rfl
@[simp] theorem State.updFrec_kenAt {k g} {i} : (s.updFrec k g).kenAt i = s.kenAt i := rfl
@[simp] theorem State.updFrec_precAt {k g} {i} : (s.updFrec k g).precAt i = s.precAt i := rfl
@[simp] theorem State.updFrec_fnAt {k g} {i} : (s.updFrec k g).fnAt i = s.fnAt i := rfl
@[simp] theorem State.updFrec_plAt {k g} {i} : (s.updFrec k g).plAt i = s.plAt i := rfl
@[simp] theorem State.updFrec_slotAt {k g} {i} : (s.updFrec k g).slotAt i = s.slotAt i := rfl
@[simp] theorem State.updFrec_ringAt {k g} {i} : (s.updFrec k g).ringAt i = s.ringAt i := rfl

/-! ### State.setPrec -/

@[simp] theorem State.setPrec_now {k v} : (s.setPrec k v).now = s.now := rfl
@[simp] theorem State.setPrec_fresh {k v} : (s.setPrec k v).fresh = s.fresh := rfl
@[simp] theorem State.setPrec_pending {k v} : (s.setPrec k v).pending = s.pending := rfl
@[simp] theorem State.setPrec_net {k v} : (s.setPrec k v).net = s.net := rfl
@[simp] theorem State.setPrec_out {k v} : (s.setPrec k v).out = s.out := rfl
@[simp] theorem State.setPrec_csn {k v} : (s.setPrec k v).csn = s.csn := rfl
@[simp] theorem State.setPrec_core {k v} : (s.setPrec k v).core = s.core := rfl
@[simp] theorem State.setPrec_hub {k v} : (s.setPrec k v).hub = s.hub := rfl
@[simp] theorem State.setPrec_ken {k v} : (s.setPrec k v).ken = s.ken := rfl
@[simp] theorem State.setPrec_frec {k v} : (s.setPrec k v).frec = s.frec := rfl
@[simp] theorem State.setPrec_rfolds {k v} : (s.setPrec k v).rfolds = s.rfolds := rfl
@[simp] theorem State.setPrec_tick {k v} : (s.setPrec k v).tick = s.tick := rfl
@[simp] theorem State.setPrec_kiln {k v} : (s.setPrec k v).kiln = s.kiln := rfl
@[simp] theorem State.setPrec_fn {k v} : (s.setPrec k v).fn = s.fn := rfl
@[simp] theorem State.setPrec_pl {k v} : (s.setPrec k v).pl = s.pl := rfl
@[simp] theorem State.setPrec_slot {k v} : (s.setPrec k v).slot = s.slot := rfl
@[simp] theorem State.setPrec_ring {k v} : (s.setPrec k v).ring = s.ring := rfl
@[simp] theorem State.setPrec_mgr {k v} : (s.setPrec k v).mgr = s.mgr := rfl
@[simp] theorem State.setPrec_mesh {k v} : (s.setPrec k v).mesh = s.mesh := rfl
@[simp] theorem State.setPrec_span {k v} : (s.setPrec k v).span = s.span := rfl
@[simp] theorem State.setPrec_err {k v} : (s.setPrec k v).err = s.err := rfl
@[simp] theorem State.setPrec_bru {k v} : (s.setPrec k v).bru = s.bru := rfl
@[simp] theorem State.setPrec_cask {k v} : (s.setPrec k v).cask = s.cask := rfl
@[simp] theorem State.setPrec_kat {k v} : (s.setPrec k v).kat = s.kat := rfl
@[simp] theorem State.setPrec_csnAt {k v} {i} : (s.setPrec k v).csnAt i = s.csnAt i := rfl
@[simp] theorem State.setPrec_coreAt {k v} {i} : (s.setPrec k v).coreAt i = s.coreAt i := rfl
@[simp] theorem State.setPrec_hubAt {k v} {i} : (s.setPrec k v).hubAt i = s.hubAt i := rfl
@[simp] theorem State.setPrec_kenAt {k v} {i} : (s.setPrec k v).kenAt i = s.kenAt i := rfl
@[simp] theorem State.setPrec_frecAt {k v} {i} : (s.setPrec k v).frecAt i = s.frecAt i := rfl
@[simp] theorem State.setPrec_fnAt {k v} {i} : (s.setPrec k v).fnAt i = s.fnAt i := rfl
@[simp] theorem State.setPrec_plAt {k v} {i} : (s.setPrec k v).plAt i = s.plAt i := rfl
@[simp] theorem State.setPrec_slotAt {k v} {i} : (s.setPrec k v).slotAt i = s.slotAt i := rfl
@[simp] theorem State.setPrec_ringAt {k v} {i} : (s.setPrec k v).ringAt i = s.ringAt i := rfl

/-! ### State.updPrec -/

@[simp] theorem State.updPrec_now {k g} : (s.updPrec k g).now = s.now := rfl
@[simp] theorem State.updPrec_fresh {k g} : (s.updPrec k g).fresh = s.fresh := rfl
@[simp] theorem State.updPrec_pending {k g} : (s.updPrec k g).pending = s.pending := rfl
@[simp] theorem State.updPrec_net {k g} : (s.updPrec k g).net = s.net := rfl
@[simp] theorem State.updPrec_out {k g} : (s.updPrec k g).out = s.out := rfl
@[simp] theorem State.updPrec_csn {k g} : (s.updPrec k g).csn = s.csn := rfl
@[simp] theorem State.updPrec_core {k g} : (s.updPrec k g).core = s.core := rfl
@[simp] theorem State.updPrec_hub {k g} : (s.updPrec k g).hub = s.hub := rfl
@[simp] theorem State.updPrec_ken {k g} : (s.updPrec k g).ken = s.ken := rfl
@[simp] theorem State.updPrec_frec {k g} : (s.updPrec k g).frec = s.frec := rfl
@[simp] theorem State.updPrec_rfolds {k g} : (s.updPrec k g).rfolds = s.rfolds := rfl
@[simp] theorem State.updPrec_tick {k g} : (s.updPrec k g).tick = s.tick := rfl
@[simp] theorem State.updPrec_kiln {k g} : (s.updPrec k g).kiln = s.kiln := rfl
@[simp] theorem State.updPrec_fn {k g} : (s.updPrec k g).fn = s.fn := rfl
@[simp] theorem State.updPrec_pl {k g} : (s.updPrec k g).pl = s.pl := rfl
@[simp] theorem State.updPrec_slot {k g} : (s.updPrec k g).slot = s.slot := rfl
@[simp] theorem State.updPrec_ring {k g} : (s.updPrec k g).ring = s.ring := rfl
@[simp] theorem State.updPrec_mgr {k g} : (s.updPrec k g).mgr = s.mgr := rfl
@[simp] theorem State.updPrec_mesh {k g} : (s.updPrec k g).mesh = s.mesh := rfl
@[simp] theorem State.updPrec_span {k g} : (s.updPrec k g).span = s.span := rfl
@[simp] theorem State.updPrec_err {k g} : (s.updPrec k g).err = s.err := rfl
@[simp] theorem State.updPrec_bru {k g} : (s.updPrec k g).bru = s.bru := rfl
@[simp] theorem State.updPrec_cask {k g} : (s.updPrec k g).cask = s.cask := rfl
@[simp] theorem State.updPrec_kat {k g} : (s.updPrec k g).kat = s.kat := rfl
@[simp] theorem State.updPrec_csnAt {k g} {i} : (s.updPrec k g).csnAt i = s.csnAt i := rfl
@[simp] theorem State.updPrec_coreAt {k g} {i} : (s.updPrec k g).coreAt i = s.coreAt i := rfl
@[simp] theorem State.updPrec_hubAt {k g} {i} : (s.updPrec k g).hubAt i = s.hubAt i := rfl
@[simp] theorem State.updPrec_kenAt {k g} {i} : (s.updPrec k g).kenAt i = s.kenAt i := rfl
@[simp] theorem State.updPrec_frecAt {k g} {i} : (s.updPrec k g).frecAt i = s.frecAt i := rfl
@[simp] theorem State.updPrec_fnAt {k g} {i} : (s.updPrec k g).fnAt i = s.fnAt i := rfl
@[simp] theorem State.updPrec_plAt {k g} {i} : (s.updPrec k g).plAt i = s.plAt i := rfl
@[simp] theorem State.updPrec_slotAt {k g} {i} : (s.updPrec k g).slotAt i = s.slotAt i := rfl
@[simp] theorem State.updPrec_ringAt {k g} {i} : (s.updPrec k g).ringAt i = s.ringAt i := rfl

/-! ### State.setFn -/

@[simp] theorem State.setFn_now {k v} : (s.setFn k v).now = s.now := rfl
@[simp] theorem State.setFn_fresh {k v} : (s.setFn k v).fresh = s.fresh := rfl
@[simp] theorem State.setFn_pending {k v} : (s.setFn k v).pending = s.pending := rfl
@[simp] theorem State.setFn_net {k v} : (s.setFn k v).net = s.net := rfl
@[simp] theorem State.setFn_out {k v} : (s.setFn k v).out = s.out := rfl
@[simp] theorem State.setFn_csn {k v} : (s.setFn k v).csn = s.csn := rfl
@[simp] theorem State.setFn_core {k v} : (s.setFn k v).core = s.core := rfl
@[simp] theorem State.setFn_hub {k v} : (s.setFn k v).hub = s.hub := rfl
@[simp] theorem State.setFn_ken {k v} : (s.setFn k v).ken = s.ken := rfl
@[simp] theorem State.setFn_frec {k v} : (s.setFn k v).frec = s.frec := rfl
@[simp] theorem State.setFn_prec {k v} : (s.setFn k v).prec = s.prec := rfl
@[simp] theorem State.setFn_rfolds {k v} : (s.setFn k v).rfolds = s.rfolds := rfl
@[simp] theorem State.setFn_tick {k v} : (s.setFn k v).tick = s.tick := rfl
@[simp] theorem State.setFn_kiln {k v} : (s.setFn k v).kiln = s.kiln := rfl
@[simp] theorem State.setFn_pl {k v} : (s.setFn k v).pl = s.pl := rfl
@[simp] theorem State.setFn_slot {k v} : (s.setFn k v).slot = s.slot := rfl
@[simp] theorem State.setFn_ring {k v} : (s.setFn k v).ring = s.ring := rfl
@[simp] theorem State.setFn_mgr {k v} : (s.setFn k v).mgr = s.mgr := rfl
@[simp] theorem State.setFn_mesh {k v} : (s.setFn k v).mesh = s.mesh := rfl
@[simp] theorem State.setFn_span {k v} : (s.setFn k v).span = s.span := rfl
@[simp] theorem State.setFn_err {k v} : (s.setFn k v).err = s.err := rfl
@[simp] theorem State.setFn_bru {k v} : (s.setFn k v).bru = s.bru := rfl
@[simp] theorem State.setFn_cask {k v} : (s.setFn k v).cask = s.cask := rfl
@[simp] theorem State.setFn_kat {k v} : (s.setFn k v).kat = s.kat := rfl
@[simp] theorem State.setFn_csnAt {k v} {i} : (s.setFn k v).csnAt i = s.csnAt i := rfl
@[simp] theorem State.setFn_coreAt {k v} {i} : (s.setFn k v).coreAt i = s.coreAt i := rfl
@[simp] theorem State.setFn_hubAt {k v} {i} : (s.setFn k v).hubAt i = s.hubAt i := rfl
@[simp] theorem State.setFn_kenAt {k v} {i} : (s.setFn k v).kenAt i = s.kenAt i := rfl
@[simp] theorem State.setFn_frecAt {k v} {i} : (s.setFn k v).frecAt i = s.frecAt i := rfl
@[simp] theorem State.setFn_precAt {k v} {i} : (s.setFn k v).precAt i = s.precAt i := rfl
@[simp] theorem State.setFn_plAt {k v} {i} : (s.setFn k v).plAt i = s.plAt i := rfl
@[simp] theorem State.setFn_slotAt {k v} {i} : (s.setFn k v).slotAt i = s.slotAt i := rfl
@[simp] theorem State.setFn_ringAt {k v} {i} : (s.setFn k v).ringAt i = s.ringAt i := rfl

/-! ### State.updFn -/

@[simp] theorem State.updFn_now {k g} : (s.updFn k g).now = s.now := rfl
@[simp] theorem State.updFn_fresh {k g} : (s.updFn k g).fresh = s.fresh := rfl
@[simp] theorem State.updFn_pending {k g} : (s.updFn k g).pending = s.pending := rfl
@[simp] theorem State.updFn_net {k g} : (s.updFn k g).net = s.net := rfl
@[simp] theorem State.updFn_out {k g} : (s.updFn k g).out = s.out := rfl
@[simp] theorem State.updFn_csn {k g} : (s.updFn k g).csn = s.csn := rfl
@[simp] theorem State.updFn_core {k g} : (s.updFn k g).core = s.core := rfl
@[simp] theorem State.updFn_hub {k g} : (s.updFn k g).hub = s.hub := rfl
@[simp] theorem State.updFn_ken {k g} : (s.updFn k g).ken = s.ken := rfl
@[simp] theorem State.updFn_frec {k g} : (s.updFn k g).frec = s.frec := rfl
@[simp] theorem State.updFn_prec {k g} : (s.updFn k g).prec = s.prec := rfl
@[simp] theorem State.updFn_rfolds {k g} : (s.updFn k g).rfolds = s.rfolds := rfl
@[simp] theorem State.updFn_tick {k g} : (s.updFn k g).tick = s.tick := rfl
@[simp] theorem State.updFn_kiln {k g} : (s.updFn k g).kiln = s.kiln := rfl
@[simp] theorem State.updFn_pl {k g} : (s.updFn k g).pl = s.pl := rfl
@[simp] theorem State.updFn_slot {k g} : (s.updFn k g).slot = s.slot := rfl
@[simp] theorem State.updFn_ring {k g} : (s.updFn k g).ring = s.ring := rfl
@[simp] theorem State.updFn_mgr {k g} : (s.updFn k g).mgr = s.mgr := rfl
@[simp] theorem State.updFn_mesh {k g} : (s.updFn k g).mesh = s.mesh := rfl
@[simp] theorem State.updFn_span {k g} : (s.updFn k g).span = s.span := rfl
@[simp] theorem State.updFn_err {k g} : (s.updFn k g).err = s.err := rfl
@[simp] theorem State.updFn_bru {k g} : (s.updFn k g).bru = s.bru := rfl
@[simp] theorem State.updFn_cask {k g} : (s.updFn k g).cask = s.cask := rfl
@[simp] theorem State.updFn_kat {k g} : (s.updFn k g).kat = s.kat := rfl
@[simp] theorem State.updFn_csnAt {k g} {i} : (s.updFn k g).csnAt i = s.csnAt i := rfl
@[simp] theorem State.updFn_coreAt {k g} {i} : (s.updFn k g).coreAt i = s.coreAt i := rfl
@[simp] theorem State.updFn_hubAt {k g} {i} : (s.updFn k g).hubAt i = s.hubAt i := rfl
@[simp] theorem State.updFn_kenAt {k g} {i} : (s.updFn k g).kenAt i = s.kenAt i := rfl
@[simp] theorem State.updFn_frecAt {k g} {i} : (s.updFn k g).frecAt i = s.frecAt i := rfl
@[simp] theorem State.updFn_precAt {k g} {i} : (s.updFn k g).precAt i = s.precAt i := rfl
@[simp] theorem State.updFn_plAt {k g} {i} : (s.updFn k g).plAt i = s.plAt i := rfl
@[simp] theorem State.updFn_slotAt {k g} {i} : (s.updFn k g).slotAt i = s.slotAt i := rfl
@[simp] theorem State.updFn_ringAt {k g} {i} : (s.updFn k g).ringAt i = s.ringAt i := rfl

/-! ### State.setPl -/

@[simp] theorem State.setPl_now {k v} : (s.setPl k v).now = s.now := rfl
@[simp] theorem State.setPl_fresh {k v} : (s.setPl k v).fresh = s.fresh := rfl
@[simp] theorem State.setPl_pending {k v} : (s.setPl k v).pending = s.pending := rfl
@[simp] theorem State.setPl_net {k v} : (s.setPl k v).net = s.net := rfl
@[simp] theorem State.setPl_out {k v} : (s.setPl k v).out = s.out := rfl
@[simp] theorem State.setPl_csn {k v} : (s.setPl k v).csn = s.csn := rfl
@[simp] theorem State.setPl_core {k v} : (s.setPl k v).core = s.core := rfl
@[simp] theorem State.setPl_hub {k v} : (s.setPl k v).hub = s.hub := rfl
@[simp] theorem State.setPl_ken {k v} : (s.setPl k v).ken = s.ken := rfl
@[simp] theorem State.setPl_frec {k v} : (s.setPl k v).frec = s.frec := rfl
@[simp] theorem State.setPl_prec {k v} : (s.setPl k v).prec = s.prec := rfl
@[simp] theorem State.setPl_rfolds {k v} : (s.setPl k v).rfolds = s.rfolds := rfl
@[simp] theorem State.setPl_tick {k v} : (s.setPl k v).tick = s.tick := rfl
@[simp] theorem State.setPl_kiln {k v} : (s.setPl k v).kiln = s.kiln := rfl
@[simp] theorem State.setPl_fn {k v} : (s.setPl k v).fn = s.fn := rfl
@[simp] theorem State.setPl_slot {k v} : (s.setPl k v).slot = s.slot := rfl
@[simp] theorem State.setPl_ring {k v} : (s.setPl k v).ring = s.ring := rfl
@[simp] theorem State.setPl_mgr {k v} : (s.setPl k v).mgr = s.mgr := rfl
@[simp] theorem State.setPl_mesh {k v} : (s.setPl k v).mesh = s.mesh := rfl
@[simp] theorem State.setPl_span {k v} : (s.setPl k v).span = s.span := rfl
@[simp] theorem State.setPl_err {k v} : (s.setPl k v).err = s.err := rfl
@[simp] theorem State.setPl_bru {k v} : (s.setPl k v).bru = s.bru := rfl
@[simp] theorem State.setPl_cask {k v} : (s.setPl k v).cask = s.cask := rfl
@[simp] theorem State.setPl_kat {k v} : (s.setPl k v).kat = s.kat := rfl
@[simp] theorem State.setPl_csnAt {k v} {i} : (s.setPl k v).csnAt i = s.csnAt i := rfl
@[simp] theorem State.setPl_coreAt {k v} {i} : (s.setPl k v).coreAt i = s.coreAt i := rfl
@[simp] theorem State.setPl_hubAt {k v} {i} : (s.setPl k v).hubAt i = s.hubAt i := rfl
@[simp] theorem State.setPl_kenAt {k v} {i} : (s.setPl k v).kenAt i = s.kenAt i := rfl
@[simp] theorem State.setPl_frecAt {k v} {i} : (s.setPl k v).frecAt i = s.frecAt i := rfl
@[simp] theorem State.setPl_precAt {k v} {i} : (s.setPl k v).precAt i = s.precAt i := rfl
@[simp] theorem State.setPl_fnAt {k v} {i} : (s.setPl k v).fnAt i = s.fnAt i := rfl
@[simp] theorem State.setPl_slotAt {k v} {i} : (s.setPl k v).slotAt i = s.slotAt i := rfl
@[simp] theorem State.setPl_ringAt {k v} {i} : (s.setPl k v).ringAt i = s.ringAt i := rfl

/-! ### State.updPl -/

@[simp] theorem State.updPl_now {k g} : (s.updPl k g).now = s.now := rfl
@[simp] theorem State.updPl_fresh {k g} : (s.updPl k g).fresh = s.fresh := rfl
@[simp] theorem State.updPl_pending {k g} : (s.updPl k g).pending = s.pending := rfl
@[simp] theorem State.updPl_net {k g} : (s.updPl k g).net = s.net := rfl
@[simp] theorem State.updPl_out {k g} : (s.updPl k g).out = s.out := rfl
@[simp] theorem State.updPl_csn {k g} : (s.updPl k g).csn = s.csn := rfl
@[simp] theorem State.updPl_core {k g} : (s.updPl k g).core = s.core := rfl
@[simp] theorem State.updPl_hub {k g} : (s.updPl k g).hub = s.hub := rfl
@[simp] theorem State.updPl_ken {k g} : (s.updPl k g).ken = s.ken := rfl
@[simp] theorem State.updPl_frec {k g} : (s.updPl k g).frec = s.frec := rfl
@[simp] theorem State.updPl_prec {k g} : (s.updPl k g).prec = s.prec := rfl
@[simp] theorem State.updPl_rfolds {k g} : (s.updPl k g).rfolds = s.rfolds := rfl
@[simp] theorem State.updPl_tick {k g} : (s.updPl k g).tick = s.tick := rfl
@[simp] theorem State.updPl_kiln {k g} : (s.updPl k g).kiln = s.kiln := rfl
@[simp] theorem State.updPl_fn {k g} : (s.updPl k g).fn = s.fn := rfl
@[simp] theorem State.updPl_slot {k g} : (s.updPl k g).slot = s.slot := rfl
@[simp] theorem State.updPl_ring {k g} : (s.updPl k g).ring = s.ring := rfl
@[simp] theorem State.updPl_mgr {k g} : (s.updPl k g).mgr = s.mgr := rfl
@[simp] theorem State.updPl_mesh {k g} : (s.updPl k g).mesh = s.mesh := rfl
@[simp] theorem State.updPl_span {k g} : (s.updPl k g).span = s.span := rfl
@[simp] theorem State.updPl_err {k g} : (s.updPl k g).err = s.err := rfl
@[simp] theorem State.updPl_bru {k g} : (s.updPl k g).bru = s.bru := rfl
@[simp] theorem State.updPl_cask {k g} : (s.updPl k g).cask = s.cask := rfl
@[simp] theorem State.updPl_kat {k g} : (s.updPl k g).kat = s.kat := rfl
@[simp] theorem State.updPl_csnAt {k g} {i} : (s.updPl k g).csnAt i = s.csnAt i := rfl
@[simp] theorem State.updPl_coreAt {k g} {i} : (s.updPl k g).coreAt i = s.coreAt i := rfl
@[simp] theorem State.updPl_hubAt {k g} {i} : (s.updPl k g).hubAt i = s.hubAt i := rfl
@[simp] theorem State.updPl_kenAt {k g} {i} : (s.updPl k g).kenAt i = s.kenAt i := rfl
@[simp] theorem State.updPl_frecAt {k g} {i} : (s.updPl k g).frecAt i = s.frecAt i := rfl
@[simp] theorem State.updPl_precAt {k g} {i} : (s.updPl k g).precAt i = s.precAt i := rfl
@[simp] theorem State.updPl_fnAt {k g} {i} : (s.updPl k g).fnAt i = s.fnAt i := rfl
@[simp] theorem State.updPl_slotAt {k g} {i} : (s.updPl k g).slotAt i = s.slotAt i := rfl
@[simp] theorem State.updPl_ringAt {k g} {i} : (s.updPl k g).ringAt i = s.ringAt i := rfl

/-! ### State.setSlot -/

@[simp] theorem State.setSlot_now {k v} : (s.setSlot k v).now = s.now := rfl
@[simp] theorem State.setSlot_fresh {k v} : (s.setSlot k v).fresh = s.fresh := rfl
@[simp] theorem State.setSlot_pending {k v} : (s.setSlot k v).pending = s.pending := rfl
@[simp] theorem State.setSlot_net {k v} : (s.setSlot k v).net = s.net := rfl
@[simp] theorem State.setSlot_out {k v} : (s.setSlot k v).out = s.out := rfl
@[simp] theorem State.setSlot_csn {k v} : (s.setSlot k v).csn = s.csn := rfl
@[simp] theorem State.setSlot_core {k v} : (s.setSlot k v).core = s.core := rfl
@[simp] theorem State.setSlot_hub {k v} : (s.setSlot k v).hub = s.hub := rfl
@[simp] theorem State.setSlot_ken {k v} : (s.setSlot k v).ken = s.ken := rfl
@[simp] theorem State.setSlot_frec {k v} : (s.setSlot k v).frec = s.frec := rfl
@[simp] theorem State.setSlot_prec {k v} : (s.setSlot k v).prec = s.prec := rfl
@[simp] theorem State.setSlot_rfolds {k v} : (s.setSlot k v).rfolds = s.rfolds := rfl
@[simp] theorem State.setSlot_tick {k v} : (s.setSlot k v).tick = s.tick := rfl
@[simp] theorem State.setSlot_kiln {k v} : (s.setSlot k v).kiln = s.kiln := rfl
@[simp] theorem State.setSlot_fn {k v} : (s.setSlot k v).fn = s.fn := rfl
@[simp] theorem State.setSlot_pl {k v} : (s.setSlot k v).pl = s.pl := rfl
@[simp] theorem State.setSlot_ring {k v} : (s.setSlot k v).ring = s.ring := rfl
@[simp] theorem State.setSlot_mgr {k v} : (s.setSlot k v).mgr = s.mgr := rfl
@[simp] theorem State.setSlot_mesh {k v} : (s.setSlot k v).mesh = s.mesh := rfl
@[simp] theorem State.setSlot_span {k v} : (s.setSlot k v).span = s.span := rfl
@[simp] theorem State.setSlot_err {k v} : (s.setSlot k v).err = s.err := rfl
@[simp] theorem State.setSlot_bru {k v} : (s.setSlot k v).bru = s.bru := rfl
@[simp] theorem State.setSlot_cask {k v} : (s.setSlot k v).cask = s.cask := rfl
@[simp] theorem State.setSlot_kat {k v} : (s.setSlot k v).kat = s.kat := rfl
@[simp] theorem State.setSlot_csnAt {k v} {i} : (s.setSlot k v).csnAt i = s.csnAt i := rfl
@[simp] theorem State.setSlot_coreAt {k v} {i} : (s.setSlot k v).coreAt i = s.coreAt i := rfl
@[simp] theorem State.setSlot_hubAt {k v} {i} : (s.setSlot k v).hubAt i = s.hubAt i := rfl
@[simp] theorem State.setSlot_kenAt {k v} {i} : (s.setSlot k v).kenAt i = s.kenAt i := rfl
@[simp] theorem State.setSlot_frecAt {k v} {i} : (s.setSlot k v).frecAt i = s.frecAt i := rfl
@[simp] theorem State.setSlot_precAt {k v} {i} : (s.setSlot k v).precAt i = s.precAt i := rfl
@[simp] theorem State.setSlot_fnAt {k v} {i} : (s.setSlot k v).fnAt i = s.fnAt i := rfl
@[simp] theorem State.setSlot_plAt {k v} {i} : (s.setSlot k v).plAt i = s.plAt i := rfl
@[simp] theorem State.setSlot_ringAt {k v} {i} : (s.setSlot k v).ringAt i = s.ringAt i := rfl

/-! ### State.updSlot -/

@[simp] theorem State.updSlot_now {k g} : (s.updSlot k g).now = s.now := rfl
@[simp] theorem State.updSlot_fresh {k g} : (s.updSlot k g).fresh = s.fresh := rfl
@[simp] theorem State.updSlot_pending {k g} : (s.updSlot k g).pending = s.pending := rfl
@[simp] theorem State.updSlot_net {k g} : (s.updSlot k g).net = s.net := rfl
@[simp] theorem State.updSlot_out {k g} : (s.updSlot k g).out = s.out := rfl
@[simp] theorem State.updSlot_csn {k g} : (s.updSlot k g).csn = s.csn := rfl
@[simp] theorem State.updSlot_core {k g} : (s.updSlot k g).core = s.core := rfl
@[simp] theorem State.updSlot_hub {k g} : (s.updSlot k g).hub = s.hub := rfl
@[simp] theorem State.updSlot_ken {k g} : (s.updSlot k g).ken = s.ken := rfl
@[simp] theorem State.updSlot_frec {k g} : (s.updSlot k g).frec = s.frec := rfl
@[simp] theorem State.updSlot_prec {k g} : (s.updSlot k g).prec = s.prec := rfl
@[simp] theorem State.updSlot_rfolds {k g} : (s.updSlot k g).rfolds = s.rfolds := rfl
@[simp] theorem State.updSlot_tick {k g} : (s.updSlot k g).tick = s.tick := rfl
@[simp] theorem State.updSlot_kiln {k g} : (s.updSlot k g).kiln = s.kiln := rfl
@[simp] theorem State.updSlot_fn {k g} : (s.updSlot k g).fn = s.fn := rfl
@[simp] theorem State.updSlot_pl {k g} : (s.updSlot k g).pl = s.pl := rfl
@[simp] theorem State.updSlot_ring {k g} : (s.updSlot k g).ring = s.ring := rfl
@[simp] theorem State.updSlot_mgr {k g} : (s.updSlot k g).mgr = s.mgr := rfl
@[simp] theorem State.updSlot_mesh {k g} : (s.updSlot k g).mesh = s.mesh := rfl
@[simp] theorem State.updSlot_span {k g} : (s.updSlot k g).span = s.span := rfl
@[simp] theorem State.updSlot_err {k g} : (s.updSlot k g).err = s.err := rfl
@[simp] theorem State.updSlot_bru {k g} : (s.updSlot k g).bru = s.bru := rfl
@[simp] theorem State.updSlot_cask {k g} : (s.updSlot k g).cask = s.cask := rfl
@[simp] theorem State.updSlot_kat {k g} : (s.updSlot k g).kat = s.kat := rfl
@[simp] theorem State.updSlot_csnAt {k g} {i} : (s.updSlot k g).csnAt i = s.csnAt i := rfl
@[simp] theorem State.updSlot_coreAt {k g} {i} : (s.updSlot k g).coreAt i = s.coreAt i := rfl
@[simp] theorem State.updSlot_hubAt {k g} {i} : (s.updSlot k g).hubAt i = s.hubAt i := rfl
@[simp] theorem State.updSlot_kenAt {k g} {i} : (s.updSlot k g).kenAt i = s.kenAt i := rfl
@[simp] theorem State.updSlot_frecAt {k g} {i} : (s.updSlot k g).frecAt i = s.frecAt i := rfl
@[simp] theorem State.updSlot_precAt {k g} {i} : (s.updSlot k g).precAt i = s.precAt i := rfl
@[simp] theorem State.updSlot_fnAt {k g} {i} : (s.updSlot k g).fnAt i = s.fnAt i := rfl
@[simp] theorem State.updSlot_plAt {k g} {i} : (s.updSlot k g).plAt i = s.plAt i := rfl
@[simp] theorem State.updSlot_ringAt {k g} {i} : (s.updSlot k g).ringAt i = s.ringAt i := rfl

/-! ### State.setRing -/

@[simp] theorem State.setRing_now {k v} : (s.setRing k v).now = s.now := rfl
@[simp] theorem State.setRing_fresh {k v} : (s.setRing k v).fresh = s.fresh := rfl
@[simp] theorem State.setRing_pending {k v} : (s.setRing k v).pending = s.pending := rfl
@[simp] theorem State.setRing_net {k v} : (s.setRing k v).net = s.net := rfl
@[simp] theorem State.setRing_out {k v} : (s.setRing k v).out = s.out := rfl
@[simp] theorem State.setRing_csn {k v} : (s.setRing k v).csn = s.csn := rfl
@[simp] theorem State.setRing_core {k v} : (s.setRing k v).core = s.core := rfl
@[simp] theorem State.setRing_hub {k v} : (s.setRing k v).hub = s.hub := rfl
@[simp] theorem State.setRing_ken {k v} : (s.setRing k v).ken = s.ken := rfl
@[simp] theorem State.setRing_frec {k v} : (s.setRing k v).frec = s.frec := rfl
@[simp] theorem State.setRing_prec {k v} : (s.setRing k v).prec = s.prec := rfl
@[simp] theorem State.setRing_rfolds {k v} : (s.setRing k v).rfolds = s.rfolds := rfl
@[simp] theorem State.setRing_tick {k v} : (s.setRing k v).tick = s.tick := rfl
@[simp] theorem State.setRing_kiln {k v} : (s.setRing k v).kiln = s.kiln := rfl
@[simp] theorem State.setRing_fn {k v} : (s.setRing k v).fn = s.fn := rfl
@[simp] theorem State.setRing_pl {k v} : (s.setRing k v).pl = s.pl := rfl
@[simp] theorem State.setRing_slot {k v} : (s.setRing k v).slot = s.slot := rfl
@[simp] theorem State.setRing_mgr {k v} : (s.setRing k v).mgr = s.mgr := rfl
@[simp] theorem State.setRing_mesh {k v} : (s.setRing k v).mesh = s.mesh := rfl
@[simp] theorem State.setRing_span {k v} : (s.setRing k v).span = s.span := rfl
@[simp] theorem State.setRing_err {k v} : (s.setRing k v).err = s.err := rfl
@[simp] theorem State.setRing_bru {k v} : (s.setRing k v).bru = s.bru := rfl
@[simp] theorem State.setRing_cask {k v} : (s.setRing k v).cask = s.cask := rfl
@[simp] theorem State.setRing_kat {k v} : (s.setRing k v).kat = s.kat := rfl
@[simp] theorem State.setRing_csnAt {k v} {i} : (s.setRing k v).csnAt i = s.csnAt i := rfl
@[simp] theorem State.setRing_coreAt {k v} {i} : (s.setRing k v).coreAt i = s.coreAt i := rfl
@[simp] theorem State.setRing_hubAt {k v} {i} : (s.setRing k v).hubAt i = s.hubAt i := rfl
@[simp] theorem State.setRing_kenAt {k v} {i} : (s.setRing k v).kenAt i = s.kenAt i := rfl
@[simp] theorem State.setRing_frecAt {k v} {i} : (s.setRing k v).frecAt i = s.frecAt i := rfl
@[simp] theorem State.setRing_precAt {k v} {i} : (s.setRing k v).precAt i = s.precAt i := rfl
@[simp] theorem State.setRing_fnAt {k v} {i} : (s.setRing k v).fnAt i = s.fnAt i := rfl
@[simp] theorem State.setRing_plAt {k v} {i} : (s.setRing k v).plAt i = s.plAt i := rfl
@[simp] theorem State.setRing_slotAt {k v} {i} : (s.setRing k v).slotAt i = s.slotAt i := rfl

/-! ### State.updRing -/

@[simp] theorem State.updRing_now {k g} : (s.updRing k g).now = s.now := rfl
@[simp] theorem State.updRing_fresh {k g} : (s.updRing k g).fresh = s.fresh := rfl
@[simp] theorem State.updRing_pending {k g} : (s.updRing k g).pending = s.pending := rfl
@[simp] theorem State.updRing_net {k g} : (s.updRing k g).net = s.net := rfl
@[simp] theorem State.updRing_out {k g} : (s.updRing k g).out = s.out := rfl
@[simp] theorem State.updRing_csn {k g} : (s.updRing k g).csn = s.csn := rfl
@[simp] theorem State.updRing_core {k g} : (s.updRing k g).core = s.core := rfl
@[simp] theorem State.updRing_hub {k g} : (s.updRing k g).hub = s.hub := rfl
@[simp] theorem State.updRing_ken {k g} : (s.updRing k g).ken = s.ken := rfl
@[simp] theorem State.updRing_frec {k g} : (s.updRing k g).frec = s.frec := rfl
@[simp] theorem State.updRing_prec {k g} : (s.updRing k g).prec = s.prec := rfl
@[simp] theorem State.updRing_rfolds {k g} : (s.updRing k g).rfolds = s.rfolds := rfl
@[simp] theorem State.updRing_tick {k g} : (s.updRing k g).tick = s.tick := rfl
@[simp] theorem State.updRing_kiln {k g} : (s.updRing k g).kiln = s.kiln := rfl
@[simp] theorem State.updRing_fn {k g} : (s.updRing k g).fn = s.fn := rfl
@[simp] theorem State.updRing_pl {k g} : (s.updRing k g).pl = s.pl := rfl
@[simp] theorem State.updRing_slot {k g} : (s.updRing k g).slot = s.slot := rfl
@[simp] theorem State.updRing_mgr {k g} : (s.updRing k g).mgr = s.mgr := rfl
@[simp] theorem State.updRing_mesh {k g} : (s.updRing k g).mesh = s.mesh := rfl
@[simp] theorem State.updRing_span {k g} : (s.updRing k g).span = s.span := rfl
@[simp] theorem State.updRing_err {k g} : (s.updRing k g).err = s.err := rfl
@[simp] theorem State.updRing_bru {k g} : (s.updRing k g).bru = s.bru := rfl
@[simp] theorem State.updRing_cask {k g} : (s.updRing k g).cask = s.cask := rfl
@[simp] theorem State.updRing_kat {k g} : (s.updRing k g).kat = s.kat := rfl
@[simp] theorem State.updRing_csnAt {k g} {i} : (s.updRing k g).csnAt i = s.csnAt i := rfl
@[simp] theorem State.updRing_coreAt {k g} {i} : (s.updRing k g).coreAt i = s.coreAt i := rfl
@[simp] theorem State.updRing_hubAt {k g} {i} : (s.updRing k g).hubAt i = s.hubAt i := rfl
@[simp] theorem State.updRing_kenAt {k g} {i} : (s.updRing k g).kenAt i = s.kenAt i := rfl
@[simp] theorem State.updRing_frecAt {k g} {i} : (s.updRing k g).frecAt i = s.frecAt i := rfl
@[simp] theorem State.updRing_precAt {k g} {i} : (s.updRing k g).precAt i = s.precAt i := rfl
@[simp] theorem State.updRing_fnAt {k g} {i} : (s.updRing k g).fnAt i = s.fnAt i := rfl
@[simp] theorem State.updRing_plAt {k g} {i} : (s.updRing k g).plAt i = s.plAt i := rfl
@[simp] theorem State.updRing_slotAt {k g} {i} : (s.updRing k g).slotAt i = s.slotAt i := rfl

/-! ### State.emit -/

@[simp] theorem State.emit_now {g} : (s.emit g).now = s.now := rfl
@[simp] theorem State.emit_fresh {g} : (s.emit g).fresh = s.fresh := rfl
@[simp] theorem State.emit_pending {g} : (s.emit g).pending = s.pending := rfl
@[simp] theorem State.emit_net {g} : (s.emit g).net = s.net := rfl
@[simp] theorem State.emit_csn {g} : (s.emit g).csn = s.csn := rfl
@[simp] theorem State.emit_core {g} : (s.emit g).core = s.core := rfl
@[simp] theorem State.emit_hub {g} : (s.emit g).hub = s.hub := rfl
@[simp] theorem State.emit_ken {g} : (s.emit g).ken = s.ken := rfl
@[simp] theorem State.emit_frec {g} : (s.emit g).frec = s.frec := rfl
@[simp] theorem State.emit_prec {g} : (s.emit g).prec = s.prec := rfl
@[simp] theorem State.emit_rfolds {g} : (s.emit g).rfolds = s.rfolds := rfl
@[simp] theorem State.emit_tick {g} : (s.emit g).tick = s.tick := rfl
@[simp] theorem State.emit_kiln {g} : (s.emit g).kiln = s.kiln := rfl
@[simp] theorem State.emit_fn {g} : (s.emit g).fn = s.fn := rfl
@[simp] theorem State.emit_pl {g} : (s.emit g).pl = s.pl := rfl
@[simp] theorem State.emit_slot {g} : (s.emit g).slot = s.slot := rfl
@[simp] theorem State.emit_ring {g} : (s.emit g).ring = s.ring := rfl
@[simp] theorem State.emit_mgr {g} : (s.emit g).mgr = s.mgr := rfl
@[simp] theorem State.emit_mesh {g} : (s.emit g).mesh = s.mesh := rfl
@[simp] theorem State.emit_span {g} : (s.emit g).span = s.span := rfl
@[simp] theorem State.emit_err {g} : (s.emit g).err = s.err := rfl
@[simp] theorem State.emit_bru {g} : (s.emit g).bru = s.bru := rfl
@[simp] theorem State.emit_cask {g} : (s.emit g).cask = s.cask := rfl
@[simp] theorem State.emit_kat {g} : (s.emit g).kat = s.kat := rfl
@[simp] theorem State.emit_csnAt {g} {i} : (s.emit g).csnAt i = s.csnAt i := rfl
@[simp] theorem State.emit_coreAt {g} {i} : (s.emit g).coreAt i = s.coreAt i := rfl
@[simp] theorem State.emit_hubAt {g} {i} : (s.emit g).hubAt i = s.hubAt i := rfl
@[simp] theorem State.emit_kenAt {g} {i} : (s.emit g).kenAt i = s.kenAt i := rfl
@[simp] theorem State.emit_frecAt {g} {i} : (s.emit g).frecAt i = s.frecAt i := rfl
@[simp] theorem State.emit_precAt {g} {i} : (s.emit g).precAt i = s.precAt i := rfl
@[simp] theorem State.emit_fnAt {g} {i} : (s.emit g).fnAt i = s.fnAt i := rfl
@[simp] theorem State.emit_plAt {g} {i} : (s.emit g).plAt i = s.plAt i := rfl
@[simp] theorem State.emit_slotAt {g} {i} : (s.emit g).slotAt i = s.slotAt i := rfl
@[simp] theorem State.emit_ringAt {g} {i} : (s.emit g).ringAt i = s.ringAt i := rfl

/-! ### State.emitAll -/

@[simp] theorem State.emitAll_now {g} : (s.emitAll g).now = s.now := rfl
@[simp] theorem State.emitAll_fresh {g} : (s.emitAll g).fresh = s.fresh := rfl
@[simp] theorem State.emitAll_pending {g} : (s.emitAll g).pending = s.pending := rfl
@[simp] theorem State.emitAll_net {g} : (s.emitAll g).net = s.net := rfl
@[simp] theorem State.emitAll_csn {g} : (s.emitAll g).csn = s.csn := rfl
@[simp] theorem State.emitAll_core {g} : (s.emitAll g).core = s.core := rfl
@[simp] theorem State.emitAll_hub {g} : (s.emitAll g).hub = s.hub := rfl
@[simp] theorem State.emitAll_ken {g} : (s.emitAll g).ken = s.ken := rfl
@[simp] theorem State.emitAll_frec {g} : (s.emitAll g).frec = s.frec := rfl
@[simp] theorem State.emitAll_prec {g} : (s.emitAll g).prec = s.prec := rfl
@[simp] theorem State.emitAll_rfolds {g} : (s.emitAll g).rfolds = s.rfolds := rfl
@[simp] theorem State.emitAll_tick {g} : (s.emitAll g).tick = s.tick := rfl
@[simp] theorem State.emitAll_kiln {g} : (s.emitAll g).kiln = s.kiln := rfl
@[simp] theorem State.emitAll_fn {g} : (s.emitAll g).fn = s.fn := rfl
@[simp] theorem State.emitAll_pl {g} : (s.emitAll g).pl = s.pl := rfl
@[simp] theorem State.emitAll_slot {g} : (s.emitAll g).slot = s.slot := rfl
@[simp] theorem State.emitAll_ring {g} : (s.emitAll g).ring = s.ring := rfl
@[simp] theorem State.emitAll_mgr {g} : (s.emitAll g).mgr = s.mgr := rfl
@[simp] theorem State.emitAll_mesh {g} : (s.emitAll g).mesh = s.mesh := rfl
@[simp] theorem State.emitAll_span {g} : (s.emitAll g).span = s.span := rfl
@[simp] theorem State.emitAll_err {g} : (s.emitAll g).err = s.err := rfl
@[simp] theorem State.emitAll_bru {g} : (s.emitAll g).bru = s.bru := rfl
@[simp] theorem State.emitAll_cask {g} : (s.emitAll g).cask = s.cask := rfl
@[simp] theorem State.emitAll_kat {g} : (s.emitAll g).kat = s.kat := rfl
@[simp] theorem State.emitAll_csnAt {g} {i} : (s.emitAll g).csnAt i = s.csnAt i := rfl
@[simp] theorem State.emitAll_coreAt {g} {i} : (s.emitAll g).coreAt i = s.coreAt i := rfl
@[simp] theorem State.emitAll_hubAt {g} {i} : (s.emitAll g).hubAt i = s.hubAt i := rfl
@[simp] theorem State.emitAll_kenAt {g} {i} : (s.emitAll g).kenAt i = s.kenAt i := rfl
@[simp] theorem State.emitAll_frecAt {g} {i} : (s.emitAll g).frecAt i = s.frecAt i := rfl
@[simp] theorem State.emitAll_precAt {g} {i} : (s.emitAll g).precAt i = s.precAt i := rfl
@[simp] theorem State.emitAll_fnAt {g} {i} : (s.emitAll g).fnAt i = s.fnAt i := rfl
@[simp] theorem State.emitAll_plAt {g} {i} : (s.emitAll g).plAt i = s.plAt i := rfl
@[simp] theorem State.emitAll_slotAt {g} {i} : (s.emitAll g).slotAt i = s.slotAt i := rfl
@[simp] theorem State.emitAll_ringAt {g} {i} : (s.emitAll g).ringAt i = s.ringAt i := rfl

/-! ### State.send -/

@[simp] theorem State.send_now {m} : (s.send m).now = s.now := rfl
@[simp] theorem State.send_fresh {m} : (s.send m).fresh = s.fresh := rfl
@[simp] theorem State.send_pending {m} : (s.send m).pending = s.pending := rfl
@[simp] theorem State.send_out {m} : (s.send m).out = s.out := rfl
@[simp] theorem State.send_csn {m} : (s.send m).csn = s.csn := rfl
@[simp] theorem State.send_core {m} : (s.send m).core = s.core := rfl
@[simp] theorem State.send_hub {m} : (s.send m).hub = s.hub := rfl
@[simp] theorem State.send_ken {m} : (s.send m).ken = s.ken := rfl
@[simp] theorem State.send_frec {m} : (s.send m).frec = s.frec := rfl
@[simp] theorem State.send_prec {m} : (s.send m).prec = s.prec := rfl
@[simp] theorem State.send_rfolds {m} : (s.send m).rfolds = s.rfolds := rfl
@[simp] theorem State.send_tick {m} : (s.send m).tick = s.tick := rfl
@[simp] theorem State.send_kiln {m} : (s.send m).kiln = s.kiln := rfl
@[simp] theorem State.send_fn {m} : (s.send m).fn = s.fn := rfl
@[simp] theorem State.send_pl {m} : (s.send m).pl = s.pl := rfl
@[simp] theorem State.send_slot {m} : (s.send m).slot = s.slot := rfl
@[simp] theorem State.send_ring {m} : (s.send m).ring = s.ring := rfl
@[simp] theorem State.send_mgr {m} : (s.send m).mgr = s.mgr := rfl
@[simp] theorem State.send_mesh {m} : (s.send m).mesh = s.mesh := rfl
@[simp] theorem State.send_span {m} : (s.send m).span = s.span := rfl
@[simp] theorem State.send_err {m} : (s.send m).err = s.err := rfl
@[simp] theorem State.send_bru {m} : (s.send m).bru = s.bru := rfl
@[simp] theorem State.send_cask {m} : (s.send m).cask = s.cask := rfl
@[simp] theorem State.send_kat {m} : (s.send m).kat = s.kat := rfl
@[simp] theorem State.send_csnAt {m} {i} : (s.send m).csnAt i = s.csnAt i := rfl
@[simp] theorem State.send_coreAt {m} {i} : (s.send m).coreAt i = s.coreAt i := rfl
@[simp] theorem State.send_hubAt {m} {i} : (s.send m).hubAt i = s.hubAt i := rfl
@[simp] theorem State.send_kenAt {m} {i} : (s.send m).kenAt i = s.kenAt i := rfl
@[simp] theorem State.send_frecAt {m} {i} : (s.send m).frecAt i = s.frecAt i := rfl
@[simp] theorem State.send_precAt {m} {i} : (s.send m).precAt i = s.precAt i := rfl
@[simp] theorem State.send_fnAt {m} {i} : (s.send m).fnAt i = s.fnAt i := rfl
@[simp] theorem State.send_plAt {m} {i} : (s.send m).plAt i = s.plAt i := rfl
@[simp] theorem State.send_slotAt {m} {i} : (s.send m).slotAt i = s.slotAt i := rfl
@[simp] theorem State.send_ringAt {m} {i} : (s.send m).ringAt i = s.ringAt i := rfl

/-! ### State.sendAll -/

@[simp] theorem State.sendAll_now {m} : (s.sendAll m).now = s.now := rfl
@[simp] theorem State.sendAll_fresh {m} : (s.sendAll m).fresh = s.fresh := rfl
@[simp] theorem State.sendAll_pending {m} : (s.sendAll m).pending = s.pending := rfl
@[simp] theorem State.sendAll_out {m} : (s.sendAll m).out = s.out := rfl
@[simp] theorem State.sendAll_csn {m} : (s.sendAll m).csn = s.csn := rfl
@[simp] theorem State.sendAll_core {m} : (s.sendAll m).core = s.core := rfl
@[simp] theorem State.sendAll_hub {m} : (s.sendAll m).hub = s.hub := rfl
@[simp] theorem State.sendAll_ken {m} : (s.sendAll m).ken = s.ken := rfl
@[simp] theorem State.sendAll_frec {m} : (s.sendAll m).frec = s.frec := rfl
@[simp] theorem State.sendAll_prec {m} : (s.sendAll m).prec = s.prec := rfl
@[simp] theorem State.sendAll_rfolds {m} : (s.sendAll m).rfolds = s.rfolds := rfl
@[simp] theorem State.sendAll_tick {m} : (s.sendAll m).tick = s.tick := rfl
@[simp] theorem State.sendAll_kiln {m} : (s.sendAll m).kiln = s.kiln := rfl
@[simp] theorem State.sendAll_fn {m} : (s.sendAll m).fn = s.fn := rfl
@[simp] theorem State.sendAll_pl {m} : (s.sendAll m).pl = s.pl := rfl
@[simp] theorem State.sendAll_slot {m} : (s.sendAll m).slot = s.slot := rfl
@[simp] theorem State.sendAll_ring {m} : (s.sendAll m).ring = s.ring := rfl
@[simp] theorem State.sendAll_mgr {m} : (s.sendAll m).mgr = s.mgr := rfl
@[simp] theorem State.sendAll_mesh {m} : (s.sendAll m).mesh = s.mesh := rfl
@[simp] theorem State.sendAll_span {m} : (s.sendAll m).span = s.span := rfl
@[simp] theorem State.sendAll_err {m} : (s.sendAll m).err = s.err := rfl
@[simp] theorem State.sendAll_bru {m} : (s.sendAll m).bru = s.bru := rfl
@[simp] theorem State.sendAll_cask {m} : (s.sendAll m).cask = s.cask := rfl
@[simp] theorem State.sendAll_kat {m} : (s.sendAll m).kat = s.kat := rfl
@[simp] theorem State.sendAll_csnAt {m} {i} : (s.sendAll m).csnAt i = s.csnAt i := rfl
@[simp] theorem State.sendAll_coreAt {m} {i} : (s.sendAll m).coreAt i = s.coreAt i := rfl
@[simp] theorem State.sendAll_hubAt {m} {i} : (s.sendAll m).hubAt i = s.hubAt i := rfl
@[simp] theorem State.sendAll_kenAt {m} {i} : (s.sendAll m).kenAt i = s.kenAt i := rfl
@[simp] theorem State.sendAll_frecAt {m} {i} : (s.sendAll m).frecAt i = s.frecAt i := rfl
@[simp] theorem State.sendAll_precAt {m} {i} : (s.sendAll m).precAt i = s.precAt i := rfl
@[simp] theorem State.sendAll_fnAt {m} {i} : (s.sendAll m).fnAt i = s.fnAt i := rfl
@[simp] theorem State.sendAll_plAt {m} {i} : (s.sendAll m).plAt i = s.plAt i := rfl
@[simp] theorem State.sendAll_slotAt {m} {i} : (s.sendAll m).slotAt i = s.slotAt i := rfl
@[simp] theorem State.sendAll_ringAt {m} {i} : (s.sendAll m).ringAt i = s.ringAt i := rfl

/-! ### State.taken -/

@[simp] theorem State.taken_now {m} : (s.taken m).now = s.now := rfl
@[simp] theorem State.taken_fresh {m} : (s.taken m).fresh = s.fresh := rfl
@[simp] theorem State.taken_pending {m} : (s.taken m).pending = s.pending := rfl
@[simp] theorem State.taken_out {m} : (s.taken m).out = s.out := rfl
@[simp] theorem State.taken_csn {m} : (s.taken m).csn = s.csn := rfl
@[simp] theorem State.taken_core {m} : (s.taken m).core = s.core := rfl
@[simp] theorem State.taken_hub {m} : (s.taken m).hub = s.hub := rfl
@[simp] theorem State.taken_ken {m} : (s.taken m).ken = s.ken := rfl
@[simp] theorem State.taken_frec {m} : (s.taken m).frec = s.frec := rfl
@[simp] theorem State.taken_prec {m} : (s.taken m).prec = s.prec := rfl
@[simp] theorem State.taken_rfolds {m} : (s.taken m).rfolds = s.rfolds := rfl
@[simp] theorem State.taken_tick {m} : (s.taken m).tick = s.tick := rfl
@[simp] theorem State.taken_kiln {m} : (s.taken m).kiln = s.kiln := rfl
@[simp] theorem State.taken_fn {m} : (s.taken m).fn = s.fn := rfl
@[simp] theorem State.taken_pl {m} : (s.taken m).pl = s.pl := rfl
@[simp] theorem State.taken_slot {m} : (s.taken m).slot = s.slot := rfl
@[simp] theorem State.taken_ring {m} : (s.taken m).ring = s.ring := rfl
@[simp] theorem State.taken_mgr {m} : (s.taken m).mgr = s.mgr := rfl
@[simp] theorem State.taken_mesh {m} : (s.taken m).mesh = s.mesh := rfl
@[simp] theorem State.taken_span {m} : (s.taken m).span = s.span := rfl
@[simp] theorem State.taken_err {m} : (s.taken m).err = s.err := rfl
@[simp] theorem State.taken_bru {m} : (s.taken m).bru = s.bru := rfl
@[simp] theorem State.taken_cask {m} : (s.taken m).cask = s.cask := rfl
@[simp] theorem State.taken_kat {m} : (s.taken m).kat = s.kat := rfl
@[simp] theorem State.taken_csnAt {m} {i} : (s.taken m).csnAt i = s.csnAt i := rfl
@[simp] theorem State.taken_coreAt {m} {i} : (s.taken m).coreAt i = s.coreAt i := rfl
@[simp] theorem State.taken_hubAt {m} {i} : (s.taken m).hubAt i = s.hubAt i := rfl
@[simp] theorem State.taken_kenAt {m} {i} : (s.taken m).kenAt i = s.kenAt i := rfl
@[simp] theorem State.taken_frecAt {m} {i} : (s.taken m).frecAt i = s.frecAt i := rfl
@[simp] theorem State.taken_precAt {m} {i} : (s.taken m).precAt i = s.precAt i := rfl
@[simp] theorem State.taken_fnAt {m} {i} : (s.taken m).fnAt i = s.fnAt i := rfl
@[simp] theorem State.taken_plAt {m} {i} : (s.taken m).plAt i = s.plAt i := rfl
@[simp] theorem State.taken_slotAt {m} {i} : (s.taken m).slotAt i = s.slotAt i := rfl
@[simp] theorem State.taken_ringAt {m} {i} : (s.taken m).ringAt i = s.ringAt i := rfl

/-! ### State.drawn -/

@[simp] theorem State.drawn_now : (s.drawn).now = s.now := rfl
@[simp] theorem State.drawn_pending : (s.drawn).pending = s.pending := rfl
@[simp] theorem State.drawn_net : (s.drawn).net = s.net := rfl
@[simp] theorem State.drawn_out : (s.drawn).out = s.out := rfl
@[simp] theorem State.drawn_csn : (s.drawn).csn = s.csn := rfl
@[simp] theorem State.drawn_core : (s.drawn).core = s.core := rfl
@[simp] theorem State.drawn_hub : (s.drawn).hub = s.hub := rfl
@[simp] theorem State.drawn_ken : (s.drawn).ken = s.ken := rfl
@[simp] theorem State.drawn_frec : (s.drawn).frec = s.frec := rfl
@[simp] theorem State.drawn_prec : (s.drawn).prec = s.prec := rfl
@[simp] theorem State.drawn_rfolds : (s.drawn).rfolds = s.rfolds := rfl
@[simp] theorem State.drawn_tick : (s.drawn).tick = s.tick := rfl
@[simp] theorem State.drawn_kiln : (s.drawn).kiln = s.kiln := rfl
@[simp] theorem State.drawn_fn : (s.drawn).fn = s.fn := rfl
@[simp] theorem State.drawn_pl : (s.drawn).pl = s.pl := rfl
@[simp] theorem State.drawn_slot : (s.drawn).slot = s.slot := rfl
@[simp] theorem State.drawn_ring : (s.drawn).ring = s.ring := rfl
@[simp] theorem State.drawn_mgr : (s.drawn).mgr = s.mgr := rfl
@[simp] theorem State.drawn_mesh : (s.drawn).mesh = s.mesh := rfl
@[simp] theorem State.drawn_span : (s.drawn).span = s.span := rfl
@[simp] theorem State.drawn_err : (s.drawn).err = s.err := rfl
@[simp] theorem State.drawn_bru : (s.drawn).bru = s.bru := rfl
@[simp] theorem State.drawn_cask : (s.drawn).cask = s.cask := rfl
@[simp] theorem State.drawn_kat : (s.drawn).kat = s.kat := rfl
@[simp] theorem State.drawn_csnAt {i} : (s.drawn).csnAt i = s.csnAt i := rfl
@[simp] theorem State.drawn_coreAt {i} : (s.drawn).coreAt i = s.coreAt i := rfl
@[simp] theorem State.drawn_hubAt {i} : (s.drawn).hubAt i = s.hubAt i := rfl
@[simp] theorem State.drawn_kenAt {i} : (s.drawn).kenAt i = s.kenAt i := rfl
@[simp] theorem State.drawn_frecAt {i} : (s.drawn).frecAt i = s.frecAt i := rfl
@[simp] theorem State.drawn_precAt {i} : (s.drawn).precAt i = s.precAt i := rfl
@[simp] theorem State.drawn_fnAt {i} : (s.drawn).fnAt i = s.fnAt i := rfl
@[simp] theorem State.drawn_plAt {i} : (s.drawn).plAt i = s.plAt i := rfl
@[simp] theorem State.drawn_slotAt {i} : (s.drawn).slotAt i = s.slotAt i := rfl
@[simp] theorem State.drawn_ringAt {i} : (s.drawn).ringAt i = s.ringAt i := rfl

/-! ### State.withTick -/

@[simp] theorem State.withTick_now {g} : (s.withTick g).now = s.now := rfl
@[simp] theorem State.withTick_fresh {g} : (s.withTick g).fresh = s.fresh := rfl
@[simp] theorem State.withTick_pending {g} : (s.withTick g).pending = s.pending := rfl
@[simp] theorem State.withTick_net {g} : (s.withTick g).net = s.net := rfl
@[simp] theorem State.withTick_out {g} : (s.withTick g).out = s.out := rfl
@[simp] theorem State.withTick_csn {g} : (s.withTick g).csn = s.csn := rfl
@[simp] theorem State.withTick_core {g} : (s.withTick g).core = s.core := rfl
@[simp] theorem State.withTick_hub {g} : (s.withTick g).hub = s.hub := rfl
@[simp] theorem State.withTick_ken {g} : (s.withTick g).ken = s.ken := rfl
@[simp] theorem State.withTick_frec {g} : (s.withTick g).frec = s.frec := rfl
@[simp] theorem State.withTick_prec {g} : (s.withTick g).prec = s.prec := rfl
@[simp] theorem State.withTick_rfolds {g} : (s.withTick g).rfolds = s.rfolds := rfl
@[simp] theorem State.withTick_kiln {g} : (s.withTick g).kiln = s.kiln := rfl
@[simp] theorem State.withTick_fn {g} : (s.withTick g).fn = s.fn := rfl
@[simp] theorem State.withTick_pl {g} : (s.withTick g).pl = s.pl := rfl
@[simp] theorem State.withTick_slot {g} : (s.withTick g).slot = s.slot := rfl
@[simp] theorem State.withTick_ring {g} : (s.withTick g).ring = s.ring := rfl
@[simp] theorem State.withTick_mgr {g} : (s.withTick g).mgr = s.mgr := rfl
@[simp] theorem State.withTick_mesh {g} : (s.withTick g).mesh = s.mesh := rfl
@[simp] theorem State.withTick_span {g} : (s.withTick g).span = s.span := rfl
@[simp] theorem State.withTick_err {g} : (s.withTick g).err = s.err := rfl
@[simp] theorem State.withTick_bru {g} : (s.withTick g).bru = s.bru := rfl
@[simp] theorem State.withTick_cask {g} : (s.withTick g).cask = s.cask := rfl
@[simp] theorem State.withTick_kat {g} : (s.withTick g).kat = s.kat := rfl
@[simp] theorem State.withTick_csnAt {g} {i} : (s.withTick g).csnAt i = s.csnAt i := rfl
@[simp] theorem State.withTick_coreAt {g} {i} : (s.withTick g).coreAt i = s.coreAt i := rfl
@[simp] theorem State.withTick_hubAt {g} {i} : (s.withTick g).hubAt i = s.hubAt i := rfl
@[simp] theorem State.withTick_kenAt {g} {i} : (s.withTick g).kenAt i = s.kenAt i := rfl
@[simp] theorem State.withTick_frecAt {g} {i} : (s.withTick g).frecAt i = s.frecAt i := rfl
@[simp] theorem State.withTick_precAt {g} {i} : (s.withTick g).precAt i = s.precAt i := rfl
@[simp] theorem State.withTick_fnAt {g} {i} : (s.withTick g).fnAt i = s.fnAt i := rfl
@[simp] theorem State.withTick_plAt {g} {i} : (s.withTick g).plAt i = s.plAt i := rfl
@[simp] theorem State.withTick_slotAt {g} {i} : (s.withTick g).slotAt i = s.slotAt i := rfl
@[simp] theorem State.withTick_ringAt {g} {i} : (s.withTick g).ringAt i = s.ringAt i := rfl

/-! ### State.updKf -/

@[simp] theorem State.updKf_now {f g} : (s.updKf f g).now = s.now := rfl
@[simp] theorem State.updKf_fresh {f g} : (s.updKf f g).fresh = s.fresh := rfl
@[simp] theorem State.updKf_pending {f g} : (s.updKf f g).pending = s.pending := rfl
@[simp] theorem State.updKf_net {f g} : (s.updKf f g).net = s.net := rfl
@[simp] theorem State.updKf_out {f g} : (s.updKf f g).out = s.out := rfl
@[simp] theorem State.updKf_csn {f g} : (s.updKf f g).csn = s.csn := rfl
@[simp] theorem State.updKf_core {f g} : (s.updKf f g).core = s.core := rfl
@[simp] theorem State.updKf_hub {f g} : (s.updKf f g).hub = s.hub := rfl
@[simp] theorem State.updKf_ken {f g} : (s.updKf f g).ken = s.ken := rfl
@[simp] theorem State.updKf_frec {f g} : (s.updKf f g).frec = s.frec := rfl
@[simp] theorem State.updKf_prec {f g} : (s.updKf f g).prec = s.prec := rfl
@[simp] theorem State.updKf_rfolds {f g} : (s.updKf f g).rfolds = s.rfolds := rfl
@[simp] theorem State.updKf_tick {f g} : (s.updKf f g).tick = s.tick := rfl
@[simp] theorem State.updKf_fn {f g} : (s.updKf f g).fn = s.fn := rfl
@[simp] theorem State.updKf_pl {f g} : (s.updKf f g).pl = s.pl := rfl
@[simp] theorem State.updKf_slot {f g} : (s.updKf f g).slot = s.slot := rfl
@[simp] theorem State.updKf_ring {f g} : (s.updKf f g).ring = s.ring := rfl
@[simp] theorem State.updKf_mgr {f g} : (s.updKf f g).mgr = s.mgr := rfl
@[simp] theorem State.updKf_mesh {f g} : (s.updKf f g).mesh = s.mesh := rfl
@[simp] theorem State.updKf_span {f g} : (s.updKf f g).span = s.span := rfl
@[simp] theorem State.updKf_err {f g} : (s.updKf f g).err = s.err := rfl
@[simp] theorem State.updKf_bru {f g} : (s.updKf f g).bru = s.bru := rfl
@[simp] theorem State.updKf_cask {f g} : (s.updKf f g).cask = s.cask := rfl
@[simp] theorem State.updKf_kat {f g} : (s.updKf f g).kat = s.kat := rfl
@[simp] theorem State.updKf_csnAt {f g} {i} : (s.updKf f g).csnAt i = s.csnAt i := rfl
@[simp] theorem State.updKf_coreAt {f g} {i} : (s.updKf f g).coreAt i = s.coreAt i := rfl
@[simp] theorem State.updKf_hubAt {f g} {i} : (s.updKf f g).hubAt i = s.hubAt i := rfl
@[simp] theorem State.updKf_kenAt {f g} {i} : (s.updKf f g).kenAt i = s.kenAt i := rfl
@[simp] theorem State.updKf_frecAt {f g} {i} : (s.updKf f g).frecAt i = s.frecAt i := rfl
@[simp] theorem State.updKf_precAt {f g} {i} : (s.updKf f g).precAt i = s.precAt i := rfl
@[simp] theorem State.updKf_fnAt {f g} {i} : (s.updKf f g).fnAt i = s.fnAt i := rfl
@[simp] theorem State.updKf_plAt {f g} {i} : (s.updKf f g).plAt i = s.plAt i := rfl
@[simp] theorem State.updKf_slotAt {f g} {i} : (s.updKf f g).slotAt i = s.slotAt i := rfl
@[simp] theorem State.updKf_ringAt {f g} {i} : (s.updKf f g).ringAt i = s.ringAt i := rfl

/-! ### State.updPort -/

@[simp] theorem State.updPort_now {p g} : (s.updPort p g).now = s.now := rfl
@[simp] theorem State.updPort_fresh {p g} : (s.updPort p g).fresh = s.fresh := rfl
@[simp] theorem State.updPort_pending {p g} : (s.updPort p g).pending = s.pending := rfl
@[simp] theorem State.updPort_net {p g} : (s.updPort p g).net = s.net := rfl
@[simp] theorem State.updPort_out {p g} : (s.updPort p g).out = s.out := rfl
@[simp] theorem State.updPort_csn {p g} : (s.updPort p g).csn = s.csn := rfl
@[simp] theorem State.updPort_core {p g} : (s.updPort p g).core = s.core := rfl
@[simp] theorem State.updPort_hub {p g} : (s.updPort p g).hub = s.hub := rfl
@[simp] theorem State.updPort_ken {p g} : (s.updPort p g).ken = s.ken := rfl
@[simp] theorem State.updPort_frec {p g} : (s.updPort p g).frec = s.frec := rfl
@[simp] theorem State.updPort_prec {p g} : (s.updPort p g).prec = s.prec := rfl
@[simp] theorem State.updPort_rfolds {p g} : (s.updPort p g).rfolds = s.rfolds := rfl
@[simp] theorem State.updPort_tick {p g} : (s.updPort p g).tick = s.tick := rfl
@[simp] theorem State.updPort_kiln {p g} : (s.updPort p g).kiln = s.kiln := rfl
@[simp] theorem State.updPort_fn {p g} : (s.updPort p g).fn = s.fn := rfl
@[simp] theorem State.updPort_pl {p g} : (s.updPort p g).pl = s.pl := rfl
@[simp] theorem State.updPort_slot {p g} : (s.updPort p g).slot = s.slot := rfl
@[simp] theorem State.updPort_ring {p g} : (s.updPort p g).ring = s.ring := rfl
@[simp] theorem State.updPort_mgr {p g} : (s.updPort p g).mgr = s.mgr := rfl
@[simp] theorem State.updPort_mesh {p g} : (s.updPort p g).mesh = s.mesh := rfl
@[simp] theorem State.updPort_err {p g} : (s.updPort p g).err = s.err := rfl
@[simp] theorem State.updPort_bru {p g} : (s.updPort p g).bru = s.bru := rfl
@[simp] theorem State.updPort_cask {p g} : (s.updPort p g).cask = s.cask := rfl
@[simp] theorem State.updPort_kat {p g} : (s.updPort p g).kat = s.kat := rfl
@[simp] theorem State.updPort_csnAt {p g} {i} : (s.updPort p g).csnAt i = s.csnAt i := rfl
@[simp] theorem State.updPort_coreAt {p g} {i} : (s.updPort p g).coreAt i = s.coreAt i := rfl
@[simp] theorem State.updPort_hubAt {p g} {i} : (s.updPort p g).hubAt i = s.hubAt i := rfl
@[simp] theorem State.updPort_kenAt {p g} {i} : (s.updPort p g).kenAt i = s.kenAt i := rfl
@[simp] theorem State.updPort_frecAt {p g} {i} : (s.updPort p g).frecAt i = s.frecAt i := rfl
@[simp] theorem State.updPort_precAt {p g} {i} : (s.updPort p g).precAt i = s.precAt i := rfl
@[simp] theorem State.updPort_fnAt {p g} {i} : (s.updPort p g).fnAt i = s.fnAt i := rfl
@[simp] theorem State.updPort_plAt {p g} {i} : (s.updPort p g).plAt i = s.plAt i := rfl
@[simp] theorem State.updPort_slotAt {p g} {i} : (s.updPort p g).slotAt i = s.slotAt i := rfl
@[simp] theorem State.updPort_ringAt {p g} {i} : (s.updPort p g).ringAt i = s.ringAt i := rfl

/-! ### State.updSrec -/

@[simp] theorem State.updSrec_now {b g} : (s.updSrec b g).now = s.now := rfl
@[simp] theorem State.updSrec_fresh {b g} : (s.updSrec b g).fresh = s.fresh := rfl
@[simp] theorem State.updSrec_pending {b g} : (s.updSrec b g).pending = s.pending := rfl
@[simp] theorem State.updSrec_net {b g} : (s.updSrec b g).net = s.net := rfl
@[simp] theorem State.updSrec_out {b g} : (s.updSrec b g).out = s.out := rfl
@[simp] theorem State.updSrec_csn {b g} : (s.updSrec b g).csn = s.csn := rfl
@[simp] theorem State.updSrec_core {b g} : (s.updSrec b g).core = s.core := rfl
@[simp] theorem State.updSrec_hub {b g} : (s.updSrec b g).hub = s.hub := rfl
@[simp] theorem State.updSrec_ken {b g} : (s.updSrec b g).ken = s.ken := rfl
@[simp] theorem State.updSrec_frec {b g} : (s.updSrec b g).frec = s.frec := rfl
@[simp] theorem State.updSrec_prec {b g} : (s.updSrec b g).prec = s.prec := rfl
@[simp] theorem State.updSrec_rfolds {b g} : (s.updSrec b g).rfolds = s.rfolds := rfl
@[simp] theorem State.updSrec_tick {b g} : (s.updSrec b g).tick = s.tick := rfl
@[simp] theorem State.updSrec_kiln {b g} : (s.updSrec b g).kiln = s.kiln := rfl
@[simp] theorem State.updSrec_fn {b g} : (s.updSrec b g).fn = s.fn := rfl
@[simp] theorem State.updSrec_pl {b g} : (s.updSrec b g).pl = s.pl := rfl
@[simp] theorem State.updSrec_slot {b g} : (s.updSrec b g).slot = s.slot := rfl
@[simp] theorem State.updSrec_ring {b g} : (s.updSrec b g).ring = s.ring := rfl
@[simp] theorem State.updSrec_mgr {b g} : (s.updSrec b g).mgr = s.mgr := rfl
@[simp] theorem State.updSrec_mesh {b g} : (s.updSrec b g).mesh = s.mesh := rfl
@[simp] theorem State.updSrec_err {b g} : (s.updSrec b g).err = s.err := rfl
@[simp] theorem State.updSrec_bru {b g} : (s.updSrec b g).bru = s.bru := rfl
@[simp] theorem State.updSrec_cask {b g} : (s.updSrec b g).cask = s.cask := rfl
@[simp] theorem State.updSrec_kat {b g} : (s.updSrec b g).kat = s.kat := rfl
@[simp] theorem State.updSrec_csnAt {b g} {i} : (s.updSrec b g).csnAt i = s.csnAt i := rfl
@[simp] theorem State.updSrec_coreAt {b g} {i} : (s.updSrec b g).coreAt i = s.coreAt i := rfl
@[simp] theorem State.updSrec_hubAt {b g} {i} : (s.updSrec b g).hubAt i = s.hubAt i := rfl
@[simp] theorem State.updSrec_kenAt {b g} {i} : (s.updSrec b g).kenAt i = s.kenAt i := rfl
@[simp] theorem State.updSrec_frecAt {b g} {i} : (s.updSrec b g).frecAt i = s.frecAt i := rfl
@[simp] theorem State.updSrec_precAt {b g} {i} : (s.updSrec b g).precAt i = s.precAt i := rfl
@[simp] theorem State.updSrec_fnAt {b g} {i} : (s.updSrec b g).fnAt i = s.fnAt i := rfl
@[simp] theorem State.updSrec_plAt {b g} {i} : (s.updSrec b g).plAt i = s.plAt i := rfl
@[simp] theorem State.updSrec_slotAt {b g} {i} : (s.updSrec b g).slotAt i = s.slotAt i := rfl
@[simp] theorem State.updSrec_ringAt {b g} {i} : (s.updSrec b g).ringAt i = s.ringAt i := rfl

/-! ### State.updLink -/

@[simp] theorem State.updLink_now {l g} : (s.updLink l g).now = s.now := rfl
@[simp] theorem State.updLink_fresh {l g} : (s.updLink l g).fresh = s.fresh := rfl
@[simp] theorem State.updLink_pending {l g} : (s.updLink l g).pending = s.pending := rfl
@[simp] theorem State.updLink_net {l g} : (s.updLink l g).net = s.net := rfl
@[simp] theorem State.updLink_out {l g} : (s.updLink l g).out = s.out := rfl
@[simp] theorem State.updLink_csn {l g} : (s.updLink l g).csn = s.csn := rfl
@[simp] theorem State.updLink_core {l g} : (s.updLink l g).core = s.core := rfl
@[simp] theorem State.updLink_hub {l g} : (s.updLink l g).hub = s.hub := rfl
@[simp] theorem State.updLink_ken {l g} : (s.updLink l g).ken = s.ken := rfl
@[simp] theorem State.updLink_frec {l g} : (s.updLink l g).frec = s.frec := rfl
@[simp] theorem State.updLink_prec {l g} : (s.updLink l g).prec = s.prec := rfl
@[simp] theorem State.updLink_rfolds {l g} : (s.updLink l g).rfolds = s.rfolds := rfl
@[simp] theorem State.updLink_tick {l g} : (s.updLink l g).tick = s.tick := rfl
@[simp] theorem State.updLink_kiln {l g} : (s.updLink l g).kiln = s.kiln := rfl
@[simp] theorem State.updLink_fn {l g} : (s.updLink l g).fn = s.fn := rfl
@[simp] theorem State.updLink_pl {l g} : (s.updLink l g).pl = s.pl := rfl
@[simp] theorem State.updLink_slot {l g} : (s.updLink l g).slot = s.slot := rfl
@[simp] theorem State.updLink_ring {l g} : (s.updLink l g).ring = s.ring := rfl
@[simp] theorem State.updLink_mgr {l g} : (s.updLink l g).mgr = s.mgr := rfl
@[simp] theorem State.updLink_span {l g} : (s.updLink l g).span = s.span := rfl
@[simp] theorem State.updLink_err {l g} : (s.updLink l g).err = s.err := rfl
@[simp] theorem State.updLink_bru {l g} : (s.updLink l g).bru = s.bru := rfl
@[simp] theorem State.updLink_cask {l g} : (s.updLink l g).cask = s.cask := rfl
@[simp] theorem State.updLink_kat {l g} : (s.updLink l g).kat = s.kat := rfl
@[simp] theorem State.updLink_csnAt {l g} {i} : (s.updLink l g).csnAt i = s.csnAt i := rfl
@[simp] theorem State.updLink_coreAt {l g} {i} : (s.updLink l g).coreAt i = s.coreAt i := rfl
@[simp] theorem State.updLink_hubAt {l g} {i} : (s.updLink l g).hubAt i = s.hubAt i := rfl
@[simp] theorem State.updLink_kenAt {l g} {i} : (s.updLink l g).kenAt i = s.kenAt i := rfl
@[simp] theorem State.updLink_frecAt {l g} {i} : (s.updLink l g).frecAt i = s.frecAt i := rfl
@[simp] theorem State.updLink_precAt {l g} {i} : (s.updLink l g).precAt i = s.precAt i := rfl
@[simp] theorem State.updLink_fnAt {l g} {i} : (s.updLink l g).fnAt i = s.fnAt i := rfl
@[simp] theorem State.updLink_plAt {l g} {i} : (s.updLink l g).plAt i = s.plAt i := rfl
@[simp] theorem State.updLink_slotAt {l g} {i} : (s.updLink l g).slotAt i = s.slotAt i := rfl
@[simp] theorem State.updLink_ringAt {l g} {i} : (s.updLink l g).ringAt i = s.ringAt i := rfl

/-! ### State.mapCore -/

@[simp] theorem State.mapCore_now {g} : (s.mapCore g).now = s.now := rfl
@[simp] theorem State.mapCore_fresh {g} : (s.mapCore g).fresh = s.fresh := rfl
@[simp] theorem State.mapCore_pending {g} : (s.mapCore g).pending = s.pending := rfl
@[simp] theorem State.mapCore_net {g} : (s.mapCore g).net = s.net := rfl
@[simp] theorem State.mapCore_out {g} : (s.mapCore g).out = s.out := rfl
@[simp] theorem State.mapCore_csn {g} : (s.mapCore g).csn = s.csn := rfl
@[simp] theorem State.mapCore_hub {g} : (s.mapCore g).hub = s.hub := rfl
@[simp] theorem State.mapCore_ken {g} : (s.mapCore g).ken = s.ken := rfl
@[simp] theorem State.mapCore_frec {g} : (s.mapCore g).frec = s.frec := rfl
@[simp] theorem State.mapCore_prec {g} : (s.mapCore g).prec = s.prec := rfl
@[simp] theorem State.mapCore_rfolds {g} : (s.mapCore g).rfolds = s.rfolds := rfl
@[simp] theorem State.mapCore_tick {g} : (s.mapCore g).tick = s.tick := rfl
@[simp] theorem State.mapCore_kiln {g} : (s.mapCore g).kiln = s.kiln := rfl
@[simp] theorem State.mapCore_fn {g} : (s.mapCore g).fn = s.fn := rfl
@[simp] theorem State.mapCore_pl {g} : (s.mapCore g).pl = s.pl := rfl
@[simp] theorem State.mapCore_slot {g} : (s.mapCore g).slot = s.slot := rfl
@[simp] theorem State.mapCore_ring {g} : (s.mapCore g).ring = s.ring := rfl
@[simp] theorem State.mapCore_mgr {g} : (s.mapCore g).mgr = s.mgr := rfl
@[simp] theorem State.mapCore_mesh {g} : (s.mapCore g).mesh = s.mesh := rfl
@[simp] theorem State.mapCore_span {g} : (s.mapCore g).span = s.span := rfl
@[simp] theorem State.mapCore_err {g} : (s.mapCore g).err = s.err := rfl
@[simp] theorem State.mapCore_bru {g} : (s.mapCore g).bru = s.bru := rfl
@[simp] theorem State.mapCore_cask {g} : (s.mapCore g).cask = s.cask := rfl
@[simp] theorem State.mapCore_kat {g} : (s.mapCore g).kat = s.kat := rfl
@[simp] theorem State.mapCore_csnAt {g} {i} : (s.mapCore g).csnAt i = s.csnAt i := rfl
@[simp] theorem State.mapCore_hubAt {g} {i} : (s.mapCore g).hubAt i = s.hubAt i := rfl
@[simp] theorem State.mapCore_kenAt {g} {i} : (s.mapCore g).kenAt i = s.kenAt i := rfl
@[simp] theorem State.mapCore_frecAt {g} {i} : (s.mapCore g).frecAt i = s.frecAt i := rfl
@[simp] theorem State.mapCore_precAt {g} {i} : (s.mapCore g).precAt i = s.precAt i := rfl
@[simp] theorem State.mapCore_fnAt {g} {i} : (s.mapCore g).fnAt i = s.fnAt i := rfl
@[simp] theorem State.mapCore_plAt {g} {i} : (s.mapCore g).plAt i = s.plAt i := rfl
@[simp] theorem State.mapCore_slotAt {g} {i} : (s.mapCore g).slotAt i = s.slotAt i := rfl
@[simp] theorem State.mapCore_ringAt {g} {i} : (s.mapCore g).ringAt i = s.ringAt i := rfl

/-! ### State.mapFrec -/

@[simp] theorem State.mapFrec_now {g} : (s.mapFrec g).now = s.now := rfl
@[simp] theorem State.mapFrec_fresh {g} : (s.mapFrec g).fresh = s.fresh := rfl
@[simp] theorem State.mapFrec_pending {g} : (s.mapFrec g).pending = s.pending := rfl
@[simp] theorem State.mapFrec_net {g} : (s.mapFrec g).net = s.net := rfl
@[simp] theorem State.mapFrec_out {g} : (s.mapFrec g).out = s.out := rfl
@[simp] theorem State.mapFrec_csn {g} : (s.mapFrec g).csn = s.csn := rfl
@[simp] theorem State.mapFrec_core {g} : (s.mapFrec g).core = s.core := rfl
@[simp] theorem State.mapFrec_ken {g} : (s.mapFrec g).ken = s.ken := rfl
@[simp] theorem State.mapFrec_hub {g} : (s.mapFrec g).hub = s.hub := rfl
@[simp] theorem State.mapFrec_prec {g} : (s.mapFrec g).prec = s.prec := rfl
@[simp] theorem State.mapFrec_rfolds {g} : (s.mapFrec g).rfolds = s.rfolds := rfl
@[simp] theorem State.mapFrec_tick {g} : (s.mapFrec g).tick = s.tick := rfl
@[simp] theorem State.mapFrec_kiln {g} : (s.mapFrec g).kiln = s.kiln := rfl
@[simp] theorem State.mapFrec_fn {g} : (s.mapFrec g).fn = s.fn := rfl
@[simp] theorem State.mapFrec_pl {g} : (s.mapFrec g).pl = s.pl := rfl
@[simp] theorem State.mapFrec_slot {g} : (s.mapFrec g).slot = s.slot := rfl
@[simp] theorem State.mapFrec_ring {g} : (s.mapFrec g).ring = s.ring := rfl
@[simp] theorem State.mapFrec_mgr {g} : (s.mapFrec g).mgr = s.mgr := rfl
@[simp] theorem State.mapFrec_mesh {g} : (s.mapFrec g).mesh = s.mesh := rfl
@[simp] theorem State.mapFrec_span {g} : (s.mapFrec g).span = s.span := rfl
@[simp] theorem State.mapFrec_err {g} : (s.mapFrec g).err = s.err := rfl
@[simp] theorem State.mapFrec_bru {g} : (s.mapFrec g).bru = s.bru := rfl
@[simp] theorem State.mapFrec_cask {g} : (s.mapFrec g).cask = s.cask := rfl
@[simp] theorem State.mapFrec_kat {g} : (s.mapFrec g).kat = s.kat := rfl
@[simp] theorem State.mapFrec_csnAt {g} {i} : (s.mapFrec g).csnAt i = s.csnAt i := rfl
@[simp] theorem State.mapFrec_coreAt {g} {i} : (s.mapFrec g).coreAt i = s.coreAt i := rfl
@[simp] theorem State.mapFrec_kenAt {g} {i} : (s.mapFrec g).kenAt i = s.kenAt i := rfl
@[simp] theorem State.mapFrec_hubAt {g} {i} : (s.mapFrec g).hubAt i = s.hubAt i := rfl
@[simp] theorem State.mapFrec_precAt {g} {i} : (s.mapFrec g).precAt i = s.precAt i := rfl
@[simp] theorem State.mapFrec_fnAt {g} {i} : (s.mapFrec g).fnAt i = s.fnAt i := rfl
@[simp] theorem State.mapFrec_plAt {g} {i} : (s.mapFrec g).plAt i = s.plAt i := rfl
@[simp] theorem State.mapFrec_slotAt {g} {i} : (s.mapFrec g).slotAt i = s.slotAt i := rfl
@[simp] theorem State.mapFrec_ringAt {g} {i} : (s.mapFrec g).ringAt i = s.ringAt i := rfl

/-! ### State.mapHub -/

@[simp] theorem State.mapHub_now {g} : (s.mapHub g).now = s.now := rfl
@[simp] theorem State.mapHub_fresh {g} : (s.mapHub g).fresh = s.fresh := rfl
@[simp] theorem State.mapHub_pending {g} : (s.mapHub g).pending = s.pending := rfl
@[simp] theorem State.mapHub_net {g} : (s.mapHub g).net = s.net := rfl
@[simp] theorem State.mapHub_out {g} : (s.mapHub g).out = s.out := rfl
@[simp] theorem State.mapHub_csn {g} : (s.mapHub g).csn = s.csn := rfl
@[simp] theorem State.mapHub_core {g} : (s.mapHub g).core = s.core := rfl
@[simp] theorem State.mapHub_ken {g} : (s.mapHub g).ken = s.ken := rfl
@[simp] theorem State.mapHub_frec {g} : (s.mapHub g).frec = s.frec := rfl
@[simp] theorem State.mapHub_prec {g} : (s.mapHub g).prec = s.prec := rfl
@[simp] theorem State.mapHub_rfolds {g} : (s.mapHub g).rfolds = s.rfolds := rfl
@[simp] theorem State.mapHub_tick {g} : (s.mapHub g).tick = s.tick := rfl
@[simp] theorem State.mapHub_kiln {g} : (s.mapHub g).kiln = s.kiln := rfl
@[simp] theorem State.mapHub_fn {g} : (s.mapHub g).fn = s.fn := rfl
@[simp] theorem State.mapHub_pl {g} : (s.mapHub g).pl = s.pl := rfl
@[simp] theorem State.mapHub_slot {g} : (s.mapHub g).slot = s.slot := rfl
@[simp] theorem State.mapHub_ring {g} : (s.mapHub g).ring = s.ring := rfl
@[simp] theorem State.mapHub_mgr {g} : (s.mapHub g).mgr = s.mgr := rfl
@[simp] theorem State.mapHub_mesh {g} : (s.mapHub g).mesh = s.mesh := rfl
@[simp] theorem State.mapHub_span {g} : (s.mapHub g).span = s.span := rfl
@[simp] theorem State.mapHub_err {g} : (s.mapHub g).err = s.err := rfl
@[simp] theorem State.mapHub_bru {g} : (s.mapHub g).bru = s.bru := rfl
@[simp] theorem State.mapHub_cask {g} : (s.mapHub g).cask = s.cask := rfl
@[simp] theorem State.mapHub_kat {g} : (s.mapHub g).kat = s.kat := rfl
@[simp] theorem State.mapHub_csnAt {g} {i} : (s.mapHub g).csnAt i = s.csnAt i := rfl
@[simp] theorem State.mapHub_coreAt {g} {i} : (s.mapHub g).coreAt i = s.coreAt i := rfl
@[simp] theorem State.mapHub_kenAt {g} {i} : (s.mapHub g).kenAt i = s.kenAt i := rfl
@[simp] theorem State.mapHub_frecAt {g} {i} : (s.mapHub g).frecAt i = s.frecAt i := rfl
@[simp] theorem State.mapHub_precAt {g} {i} : (s.mapHub g).precAt i = s.precAt i := rfl
@[simp] theorem State.mapHub_fnAt {g} {i} : (s.mapHub g).fnAt i = s.fnAt i := rfl
@[simp] theorem State.mapHub_plAt {g} {i} : (s.mapHub g).plAt i = s.plAt i := rfl
@[simp] theorem State.mapHub_slotAt {g} {i} : (s.mapHub g).slotAt i = s.slotAt i := rfl
@[simp] theorem State.mapHub_ringAt {g} {i} : (s.mapHub g).ringAt i = s.ringAt i := rfl

/-! ### State.mapKen -/

@[simp] theorem State.mapKen_now {g} : (s.mapKen g).now = s.now := rfl
@[simp] theorem State.mapKen_fresh {g} : (s.mapKen g).fresh = s.fresh := rfl
@[simp] theorem State.mapKen_pending {g} : (s.mapKen g).pending = s.pending := rfl
@[simp] theorem State.mapKen_net {g} : (s.mapKen g).net = s.net := rfl
@[simp] theorem State.mapKen_out {g} : (s.mapKen g).out = s.out := rfl
@[simp] theorem State.mapKen_csn {g} : (s.mapKen g).csn = s.csn := rfl
@[simp] theorem State.mapKen_core {g} : (s.mapKen g).core = s.core := rfl
@[simp] theorem State.mapKen_hub {g} : (s.mapKen g).hub = s.hub := rfl
@[simp] theorem State.mapKen_frec {g} : (s.mapKen g).frec = s.frec := rfl
@[simp] theorem State.mapKen_prec {g} : (s.mapKen g).prec = s.prec := rfl
@[simp] theorem State.mapKen_rfolds {g} : (s.mapKen g).rfolds = s.rfolds := rfl
@[simp] theorem State.mapKen_tick {g} : (s.mapKen g).tick = s.tick := rfl
@[simp] theorem State.mapKen_kiln {g} : (s.mapKen g).kiln = s.kiln := rfl
@[simp] theorem State.mapKen_fn {g} : (s.mapKen g).fn = s.fn := rfl
@[simp] theorem State.mapKen_pl {g} : (s.mapKen g).pl = s.pl := rfl
@[simp] theorem State.mapKen_slot {g} : (s.mapKen g).slot = s.slot := rfl
@[simp] theorem State.mapKen_ring {g} : (s.mapKen g).ring = s.ring := rfl
@[simp] theorem State.mapKen_mgr {g} : (s.mapKen g).mgr = s.mgr := rfl
@[simp] theorem State.mapKen_mesh {g} : (s.mapKen g).mesh = s.mesh := rfl
@[simp] theorem State.mapKen_span {g} : (s.mapKen g).span = s.span := rfl
@[simp] theorem State.mapKen_err {g} : (s.mapKen g).err = s.err := rfl
@[simp] theorem State.mapKen_bru {g} : (s.mapKen g).bru = s.bru := rfl
@[simp] theorem State.mapKen_cask {g} : (s.mapKen g).cask = s.cask := rfl
@[simp] theorem State.mapKen_kat {g} : (s.mapKen g).kat = s.kat := rfl
@[simp] theorem State.mapKen_csnAt {g} {i} : (s.mapKen g).csnAt i = s.csnAt i := rfl
@[simp] theorem State.mapKen_coreAt {g} {i} : (s.mapKen g).coreAt i = s.coreAt i := rfl
@[simp] theorem State.mapKen_hubAt {g} {i} : (s.mapKen g).hubAt i = s.hubAt i := rfl
@[simp] theorem State.mapKen_frecAt {g} {i} : (s.mapKen g).frecAt i = s.frecAt i := rfl
@[simp] theorem State.mapKen_precAt {g} {i} : (s.mapKen g).precAt i = s.precAt i := rfl
@[simp] theorem State.mapKen_fnAt {g} {i} : (s.mapKen g).fnAt i = s.fnAt i := rfl
@[simp] theorem State.mapKen_plAt {g} {i} : (s.mapKen g).plAt i = s.plAt i := rfl
@[simp] theorem State.mapKen_slotAt {g} {i} : (s.mapKen g).slotAt i = s.slotAt i := rfl
@[simp] theorem State.mapKen_ringAt {g} {i} : (s.mapKen g).ringAt i = s.ringAt i := rfl

/-! ### State.mapRing -/

@[simp] theorem State.mapRing_now {g} : (s.mapRing g).now = s.now := rfl
@[simp] theorem State.mapRing_fresh {g} : (s.mapRing g).fresh = s.fresh := rfl
@[simp] theorem State.mapRing_pending {g} : (s.mapRing g).pending = s.pending := rfl
@[simp] theorem State.mapRing_net {g} : (s.mapRing g).net = s.net := rfl
@[simp] theorem State.mapRing_out {g} : (s.mapRing g).out = s.out := rfl
@[simp] theorem State.mapRing_csn {g} : (s.mapRing g).csn = s.csn := rfl
@[simp] theorem State.mapRing_core {g} : (s.mapRing g).core = s.core := rfl
@[simp] theorem State.mapRing_hub {g} : (s.mapRing g).hub = s.hub := rfl
@[simp] theorem State.mapRing_frec {g} : (s.mapRing g).frec = s.frec := rfl
@[simp] theorem State.mapRing_prec {g} : (s.mapRing g).prec = s.prec := rfl
@[simp] theorem State.mapRing_rfolds {g} : (s.mapRing g).rfolds = s.rfolds := rfl
@[simp] theorem State.mapRing_tick {g} : (s.mapRing g).tick = s.tick := rfl
@[simp] theorem State.mapRing_kiln {g} : (s.mapRing g).kiln = s.kiln := rfl
@[simp] theorem State.mapRing_fn {g} : (s.mapRing g).fn = s.fn := rfl
@[simp] theorem State.mapRing_pl {g} : (s.mapRing g).pl = s.pl := rfl
@[simp] theorem State.mapRing_slot {g} : (s.mapRing g).slot = s.slot := rfl
@[simp] theorem State.mapRing_ken {g} : (s.mapRing g).ken = s.ken := rfl
@[simp] theorem State.mapRing_mgr {g} : (s.mapRing g).mgr = s.mgr := rfl
@[simp] theorem State.mapRing_mesh {g} : (s.mapRing g).mesh = s.mesh := rfl
@[simp] theorem State.mapRing_span {g} : (s.mapRing g).span = s.span := rfl
@[simp] theorem State.mapRing_err {g} : (s.mapRing g).err = s.err := rfl
@[simp] theorem State.mapRing_bru {g} : (s.mapRing g).bru = s.bru := rfl
@[simp] theorem State.mapRing_cask {g} : (s.mapRing g).cask = s.cask := rfl
@[simp] theorem State.mapRing_kat {g} : (s.mapRing g).kat = s.kat := rfl
@[simp] theorem State.mapRing_csnAt {g} {i} : (s.mapRing g).csnAt i = s.csnAt i := rfl
@[simp] theorem State.mapRing_coreAt {g} {i} : (s.mapRing g).coreAt i = s.coreAt i := rfl
@[simp] theorem State.mapRing_hubAt {g} {i} : (s.mapRing g).hubAt i = s.hubAt i := rfl
@[simp] theorem State.mapRing_frecAt {g} {i} : (s.mapRing g).frecAt i = s.frecAt i := rfl
@[simp] theorem State.mapRing_precAt {g} {i} : (s.mapRing g).precAt i = s.precAt i := rfl
@[simp] theorem State.mapRing_fnAt {g} {i} : (s.mapRing g).fnAt i = s.fnAt i := rfl
@[simp] theorem State.mapRing_plAt {g} {i} : (s.mapRing g).plAt i = s.plAt i := rfl
@[simp] theorem State.mapRing_slotAt {g} {i} : (s.mapRing g).slotAt i = s.slotAt i := rfl
@[simp] theorem State.mapRing_kenAt {g} {i} : (s.mapRing g).kenAt i = s.kenAt i := rfl

/-! ### State.mapFn -/

@[simp] theorem State.mapFn_now {g} : (s.mapFn g).now = s.now := rfl
@[simp] theorem State.mapFn_fresh {g} : (s.mapFn g).fresh = s.fresh := rfl
@[simp] theorem State.mapFn_pending {g} : (s.mapFn g).pending = s.pending := rfl
@[simp] theorem State.mapFn_net {g} : (s.mapFn g).net = s.net := rfl
@[simp] theorem State.mapFn_out {g} : (s.mapFn g).out = s.out := rfl
@[simp] theorem State.mapFn_csn {g} : (s.mapFn g).csn = s.csn := rfl
@[simp] theorem State.mapFn_core {g} : (s.mapFn g).core = s.core := rfl
@[simp] theorem State.mapFn_hub {g} : (s.mapFn g).hub = s.hub := rfl
@[simp] theorem State.mapFn_ken {g} : (s.mapFn g).ken = s.ken := rfl
@[simp] theorem State.mapFn_frec {g} : (s.mapFn g).frec = s.frec := rfl
@[simp] theorem State.mapFn_prec {g} : (s.mapFn g).prec = s.prec := rfl
@[simp] theorem State.mapFn_rfolds {g} : (s.mapFn g).rfolds = s.rfolds := rfl
@[simp] theorem State.mapFn_tick {g} : (s.mapFn g).tick = s.tick := rfl
@[simp] theorem State.mapFn_kiln {g} : (s.mapFn g).kiln = s.kiln := rfl
@[simp] theorem State.mapFn_pl {g} : (s.mapFn g).pl = s.pl := rfl
@[simp] theorem State.mapFn_slot {g} : (s.mapFn g).slot = s.slot := rfl
@[simp] theorem State.mapFn_ring {g} : (s.mapFn g).ring = s.ring := rfl
@[simp] theorem State.mapFn_mgr {g} : (s.mapFn g).mgr = s.mgr := rfl
@[simp] theorem State.mapFn_mesh {g} : (s.mapFn g).mesh = s.mesh := rfl
@[simp] theorem State.mapFn_span {g} : (s.mapFn g).span = s.span := rfl
@[simp] theorem State.mapFn_err {g} : (s.mapFn g).err = s.err := rfl
@[simp] theorem State.mapFn_bru {g} : (s.mapFn g).bru = s.bru := rfl
@[simp] theorem State.mapFn_cask {g} : (s.mapFn g).cask = s.cask := rfl
@[simp] theorem State.mapFn_kat {g} : (s.mapFn g).kat = s.kat := rfl
@[simp] theorem State.mapFn_csnAt {g} {i} : (s.mapFn g).csnAt i = s.csnAt i := rfl
@[simp] theorem State.mapFn_coreAt {g} {i} : (s.mapFn g).coreAt i = s.coreAt i := rfl
@[simp] theorem State.mapFn_hubAt {g} {i} : (s.mapFn g).hubAt i = s.hubAt i := rfl
@[simp] theorem State.mapFn_kenAt {g} {i} : (s.mapFn g).kenAt i = s.kenAt i := rfl
@[simp] theorem State.mapFn_frecAt {g} {i} : (s.mapFn g).frecAt i = s.frecAt i := rfl
@[simp] theorem State.mapFn_precAt {g} {i} : (s.mapFn g).precAt i = s.precAt i := rfl
@[simp] theorem State.mapFn_plAt {g} {i} : (s.mapFn g).plAt i = s.plAt i := rfl
@[simp] theorem State.mapFn_slotAt {g} {i} : (s.mapFn g).slotAt i = s.slotAt i := rfl
@[simp] theorem State.mapFn_ringAt {g} {i} : (s.mapFn g).ringAt i = s.ringAt i := rfl

/-! ### What a write of a unit reads back as -/

theorem State.csnAt_setCsn_same {k v} (h : s.wf = true) : (s.setCsn k v).csnAt k = v :=
  tget_tset_same (by simp only [State.wf, Bool.and_eq_true] at h; tauto)
@[simp] theorem State.csnAt_setCsn_other {k l v} (h : l ≠ k) : (s.setCsn k v).csnAt l = s.csnAt l := tget_tset_other h
theorem State.csnAt_updCsn_same {k g} (h : s.wf = true) : (s.updCsn k g).csnAt k = g (s.csnAt k) := State.csnAt_setCsn_same h
@[simp] theorem State.csnAt_updCsn_other {k l g} (h : l ≠ k) : (s.updCsn k g).csnAt l = s.csnAt l := tget_tset_other h

theorem State.coreAt_setCore_same {k v} (h : s.wf = true) : (s.setCore k v).coreAt k = v :=
  tget_tset_same (by simp only [State.wf, Bool.and_eq_true] at h; tauto)
@[simp] theorem State.coreAt_setCore_other {k l v} (h : l ≠ k) : (s.setCore k v).coreAt l = s.coreAt l := tget_tset_other h
theorem State.coreAt_updCore_same {k g} (h : s.wf = true) : (s.updCore k g).coreAt k = g (s.coreAt k) := State.coreAt_setCore_same h
@[simp] theorem State.coreAt_updCore_other {k l g} (h : l ≠ k) : (s.updCore k g).coreAt l = s.coreAt l := tget_tset_other h

theorem State.hubAt_setHub_same {k v} (h : s.wf = true) : (s.setHub k v).hubAt k = v :=
  tget_tset_same (by simp only [State.wf, Bool.and_eq_true] at h; tauto)
@[simp] theorem State.hubAt_setHub_other {k l v} (h : l ≠ k) : (s.setHub k v).hubAt l = s.hubAt l := tget_tset_other h
theorem State.hubAt_updHub_same {k g} (h : s.wf = true) : (s.updHub k g).hubAt k = g (s.hubAt k) := State.hubAt_setHub_same h
@[simp] theorem State.hubAt_updHub_other {k l g} (h : l ≠ k) : (s.updHub k g).hubAt l = s.hubAt l := tget_tset_other h

theorem State.kenAt_setKen_same {k v} (h : s.wf = true) : (s.setKen k v).kenAt k = v :=
  tget_tset_same (by simp only [State.wf, Bool.and_eq_true] at h; tauto)
@[simp] theorem State.kenAt_setKen_other {k l v} (h : l ≠ k) : (s.setKen k v).kenAt l = s.kenAt l := tget_tset_other h
theorem State.kenAt_updKen_same {k g} (h : s.wf = true) : (s.updKen k g).kenAt k = g (s.kenAt k) := State.kenAt_setKen_same h
@[simp] theorem State.kenAt_updKen_other {k l g} (h : l ≠ k) : (s.updKen k g).kenAt l = s.kenAt l := tget_tset_other h

theorem State.frecAt_setFrec_same {k v} (h : s.wf = true) : (s.setFrec k v).frecAt k = v :=
  tget_tset_same (by simp only [State.wf, Bool.and_eq_true] at h; tauto)
@[simp] theorem State.frecAt_setFrec_other {k l v} (h : l ≠ k) : (s.setFrec k v).frecAt l = s.frecAt l := tget_tset_other h
theorem State.frecAt_updFrec_same {k g} (h : s.wf = true) : (s.updFrec k g).frecAt k = g (s.frecAt k) := State.frecAt_setFrec_same h
@[simp] theorem State.frecAt_updFrec_other {k l g} (h : l ≠ k) : (s.updFrec k g).frecAt l = s.frecAt l := tget_tset_other h

theorem State.precAt_setPrec_same {k v} (h : s.wf = true) : (s.setPrec k v).precAt k = v :=
  tget_tset_same (by simp only [State.wf, Bool.and_eq_true] at h; tauto)
@[simp] theorem State.precAt_setPrec_other {k l v} (h : l ≠ k) : (s.setPrec k v).precAt l = s.precAt l := tget_tset_other h
theorem State.precAt_updPrec_same {k g} (h : s.wf = true) : (s.updPrec k g).precAt k = g (s.precAt k) := State.precAt_setPrec_same h
@[simp] theorem State.precAt_updPrec_other {k l g} (h : l ≠ k) : (s.updPrec k g).precAt l = s.precAt l := tget_tset_other h

theorem State.fnAt_setFn_same {k v} (h : s.wf = true) : (s.setFn k v).fnAt k = v :=
  tget_tset_same (by simp only [State.wf, Bool.and_eq_true] at h; tauto)
@[simp] theorem State.fnAt_setFn_other {k l v} (h : l ≠ k) : (s.setFn k v).fnAt l = s.fnAt l := tget_tset_other h
theorem State.fnAt_updFn_same {k g} (h : s.wf = true) : (s.updFn k g).fnAt k = g (s.fnAt k) := State.fnAt_setFn_same h
@[simp] theorem State.fnAt_updFn_other {k l g} (h : l ≠ k) : (s.updFn k g).fnAt l = s.fnAt l := tget_tset_other h

theorem State.plAt_setPl_same {k v} (h : s.wf = true) : (s.setPl k v).plAt k = v :=
  tget_tset_same (by simp only [State.wf, Bool.and_eq_true] at h; tauto)
@[simp] theorem State.plAt_setPl_other {k l v} (h : l ≠ k) : (s.setPl k v).plAt l = s.plAt l := tget_tset_other h
theorem State.plAt_updPl_same {k g} (h : s.wf = true) : (s.updPl k g).plAt k = g (s.plAt k) := State.plAt_setPl_same h
@[simp] theorem State.plAt_updPl_other {k l g} (h : l ≠ k) : (s.updPl k g).plAt l = s.plAt l := tget_tset_other h

theorem State.slotAt_setSlot_same {k v} (h : s.wf = true) : (s.setSlot k v).slotAt k = v :=
  tget_tset_same (by simp only [State.wf, Bool.and_eq_true] at h; tauto)
@[simp] theorem State.slotAt_setSlot_other {k l v} (h : l ≠ k) : (s.setSlot k v).slotAt l = s.slotAt l := tget_tset_other h
theorem State.slotAt_updSlot_same {k g} (h : s.wf = true) : (s.updSlot k g).slotAt k = g (s.slotAt k) := State.slotAt_setSlot_same h
@[simp] theorem State.slotAt_updSlot_other {k l g} (h : l ≠ k) : (s.updSlot k g).slotAt l = s.slotAt l := tget_tset_other h

theorem State.ringAt_setRing_same {k v} (h : s.wf = true) : (s.setRing k v).ringAt k = v :=
  tget_tset_same (by simp only [State.wf, Bool.and_eq_true] at h; tauto)
@[simp] theorem State.ringAt_setRing_other {k l v} (h : l ≠ k) : (s.setRing k v).ringAt l = s.ringAt l := tget_tset_other h
theorem State.ringAt_updRing_same {k g} (h : s.wf = true) : (s.updRing k g).ringAt k = g (s.ringAt k) := State.ringAt_setRing_same h
@[simp] theorem State.ringAt_updRing_other {k l g} (h : l ≠ k) : (s.updRing k g).ringAt l = s.ringAt l := tget_tset_other h

end Sys2Proof.Machine
end

