-- ==== Sys2Proof/WellFormed.lean ====
section
/-! DEFINITION. Well-formed commands: the bounds that the layouts of the specification put on operands which the types of
the syntax leave wider. -/

namespace Sys2Proof

/-- A number that is a cluster ID (R11). -/
def isCluster (n : Nat) : Bool := decide (n / 128 < 84 ∧ n % 128 < 96)

/-- ARRIVE from a CSN: its cluster, and a body of whole flits, within a 1 KiB window (R121, R140). -/
def CArrive.wf (a : CArrive) : Bool := isCluster a.src && decide (a.body.length % 8 = 0 ∧ a.body.length ≤ 1024)

/-- ARRIVE from a hub: no more members than a field has clusters (R121). -/
def FArrive.wf (a : FArrive) : Bool := decide (a.ncl ≤ 96 ∧ a.nlost ≤ 96)

/-- RELEASE: NLOST of 13 bits (R122). -/
def Release.wf (r : Release) : Bool := decide (r.nlost < 8192)

/-- PITCH: 1 to 8 phases with a point for each, at most 6 ordered barriers in a phase, at most 32 bindings (R245, R255). -/
def PitchMsg.wf (m : PitchMsg) : Bool :=
  decide (1 ≤ m.phases.length ∧ m.phases.length ≤ 8 ∧ m.gops.length = m.phases.length ∧ m.bounds.length ≤ 32) &&
  m.phases.all (fun p => decide (p.length ≤ 6))

/-- A loaded packet carries 128 bytes, to an offset that is a multiple of 128 and no greater than 3,145,600 (R65). -/
def LoadPkt.wf (p : LoadPkt) : Bool :=
  p.data.length == 128 && decide (p.addr.toNat % 128 = 0 ∧ p.addr.toNat ≤ 3145600)

/-- TELEM: eight row counts, or none where DRP is 0 (R186). -/
def Telem.wf (t : Telem) : Bool := if t.drp = 0 then t.rows.isEmpty else t.rows.length == 8

/-- The up links of a span join two wafers each, and none is listed twice (R359). -/
def linksWf (l : List UpLink) : Bool := l.all (fun x => x.a != x.b) && decide l.Nodup

/-- The report of the start-up tests: two root sites, and links within the table (R61, R396). -/
def BringUp.wf (b : BringUp) : Bool := b.siteFails.all (fun n => decide (n < 2)) && b.linkFails.all (fun n => decide (n < 131072))

/-- A command whose operands keep the bounds of their layouts. -/
def Instr.wf (c : Instr) : Bool :=
  match c with
  | .kenIssue _ _ _ => true
  | .load _ _ _ => true
  | .store _ _ _ => true
  | .swap _ _ _ => true
  | .cas _ _ _ => true
  | .add _ _ _ => true
  | .and _ _ _ => true
  | .or _ _ _ => true
  | .xor _ _ _ => true
  | .umax _ _ _ => true
  | .umin _ _ _ => true
  | .smax _ _ _ => true
  | .smin _ _ _ => true
  | .semWait _ _ _ => true
  | .semSignal _ _ _ => true
  | .semSet _ _ _ => true
  | .semRead _ _ _ => true
  | .tokTake _ _ _ => true
  | .tokReturn _ _ _ => true
  | .tokSet _ _ _ => true
  | .tokRead _ _ _ => true
  | .lockAcq _ _ _ => true
  | .lockRel _ _ _ => true
  | .lockConfirm _ _ _ => true
  | .lockCancel _ _ _ => true
  | .lockRenew _ _ _ => true
  | .lockRead _ _ _ => true
  | .withdraw _ _ _ => true
  | .leashExpiry _ => true
  | .waitTimeout _ _ _ => true
  | .kenRsp _ _ => true
  | .whistle _ _ _ _ => true
  | .kenReqSpan _ _ _ _ => true
  | .barInit _ _ _ => true
  | .barFree _ _ => true
  | .barArrive _ _ => true
  | .barWait _ _ _ _ => true
  | .barSync _ _ => true
  | .barRead _ _ => true
  | .tickArm _ => true
  | .tickRead _ => true
  | .cmtRead _ => true
  | .coreDistRead _ _ => true
  | .syncFence _ _ _ _ => true
  | .fenceComplete _ _ => true
  | .broadcastRead _ _ => true
  | .cmWriteSnoop _ _ => true
  | .abftRecord _ _ _ _ => true
  | .droopEvent _ => true
  | .cinvAck _ => true
  | .invAck _ => true
  | .invTimeout _ => true
  | .tickNote _ _ _ => true
  | .edge _ => true
  | .tickEdge _ => true
  | .spineEdgeMissing _ => true
  | .abort _ _ _ _ => true
  | .resetNote _ _ => true
  | .resetNoteAtRoot _ => true
  | .resetNoteContain _ => true
  | .alertNote _ _ => true
  | .linkNote _ => true
  | .arrive _ _ a => a.wf
  | .fieldArrive _ _ a => a.wf
  | .mashFold _ _ => true
  | .barrierResultReady _ => true
  | .release _ _ r => r.wf
  | .releaseBegin _ => true
  | .releaseWave _ => true
  | .releaseAtCsn _ _ r => r.wf
  | .barrierTimeout _ _ => true
  | .pitch _ _ m => m.wf
  | .proxyRecord _ p => isCluster p.2.x && isCluster p.2.s
  | .loadMc _ p => p.wf
  | .loadUc _ _ p => p.wf
  | .mcBranchDrop _ => true
  | .telem _ t => t.wf
  | .telemIntervalEnd _ => true
  | .telemLoss _ => true
  | .telemMissed _ => true
  | .alertForceLift _ => true
  | .thermalForceLift _ => true
  | .droopLimitExpiry _ => true
  | .alertCeilExpiry _ => true
  | .log _ => true
  | .mgmt _ _ _ => true
  | .routeLoad _ es => es.all (fun e => decide (e.1 < 16384))
  | .linkRetry _ _ => true
  | .routeReload _ => true
  | .rdDrp _ => true
  | .loadOpen _ => true
  | .loadCheck _ _ => true
  | .loadSend _ _ _ b => decide (b.length % 128 = 0)
  | .legBind _ _ e _ _ => decide (e ≠ 0)
  | .legFree _ _ _ => true
  | .epochLoad _ t _ => t.all (fun e => decide (e.1 < 86))
  | .runWrite _ => true
  | .tickNowLatch => true
  | .dispatchCut => true
  | .tickNoteInject => true
  | .holdPoint => true
  | .heldEdge => true
  | .tickDeadline => true
  | .followEdge => true
  | .opChangeComplete _ => true
  | .avsRead _ _ _ => true
  | .thermalRead _ _ _ _ _ => true
  | .pmbusRead _ _ _ _ => true
  | .fclkAck _ => true
  | .fclkOpRepeat _ => true
  | .regAlertAssert _ => true
  | .regAlertDeassert _ => true
  | .kilnReportSend => true
  | .substituteBind _ => true
  | .replayReadyTimeout _ => true
  | .caskRecordWrite _ => true
  | .caskUnitWrite => true
  | .caskDefer => true
  | .holdupLoss => true
  | .viewSend _ => true
  | .vsfHifDbSq _ _ _ => true
  | .vsfHifDbCq _ _ _ => true
  | .descFetchDone _ d => decide (1 ≤ d.length ∧ d.length ≤ 8)
  | .nop _ _ => true
  | .kennelDesc _ _ => true
  | .packSet _ _ i => i.length == 8064
  | .packClear _ _ => true
  | .cmtSet _ _ i => i.length == 8064
  | .caskBar _ _ => true
  | .pitchAdmit _ _ i => decide (64 ≤ i.length)
  | .pitchRetire _ _ => true
  | .seqAdmit _ _ i => i.length == 64
  | .seqRead _ _ => true
  | .seqCtlPause _ _ => true
  | .seqCtlResume _ _ => true
  | .seqCtlCancel _ _ => true
  | .seqCtlBudget _ _ => true
  | .copyIn _ _ => true
  | .copyOut _ _ => true
  | .distRead _ _ => true
  | .dmaDone _ _ => true
  | .dmaErr _ _ _ => true
  | .hostBusError _ _ => true
  | .completionPost _ => true
  | .msixTimeout _ => true
  | .ringEnable _ _ => true
  | .ringDisable _ _ => true
  | .ringSparge _ _ => true
  | .spargeDrained _ => true
  | .partCreate _ i => i.length == 8064
  | .partDestroy => true
  | .quotaSet _ => true
  | .grant _ => true
  | .revoke _ => true
  | .mbxSet _ => true
  | .mbxReply => true
  | .note => true
  | .dlogSet _ => true
  | .dlogSwap => true
  | .hold _ => true
  | .hostHeld _ => true
  | .mbxReq _ => true
  | .objAlloc _ _ _ => true
  | .objFree _ _ _ => true
  | .poolQuery _ _ => true
  | .ask _ _ => true
  | .form i l _ _ _ => i.length == 384 && linksWf l
  | .leave => true
  | .formJoinTimeout => true
  | .sbTickCut _ _ => true
  | .sbTickEdge _ _ => true
  | .sbHold _ _ _ _ => true
  | .sbThrot _ _ _ _ _ => true
  | .sbPitch _ m => decide (m.gops.length ≤ 8)
  | .sbAbort _ _ _ _ _ => true
  | .sbResetn _ _ _ => true
  | .sbArrive _ a => decide (a.ncl < 8192 ∧ a.nlost < 8192)
  | .sbRelease _ _ => true
  | .sbKreq _ _ _ _ _ _ => true
  | .sbKrsp _ _ _ _ => true
  | .sbCmt _ _ _ _ _ => true
  | .sbPackJoin _ _ _ _ _ => true
  | .sbPackLeave _ _ _ _ => true
  | .sbPackAck _ _ _ => true
  | .sbPackNack _ _ => true
  | .sbKiln _ _ => true
  | .sbFormJoin _ _ => true
  | .sbFormSwitch _ => true
  | .sbFormCarry _ => true
  | .sbTsync _ _ _ _ _ => true
  | .tsyncInterval => true
  | .sbHello _ _ _ _ => true
  | .sbElect _ _ _ => true
  | .electFlood => true
  | .electStable => true
  | .sbLive _ => true
  | .sbLiveSend _ => true
  | .sbNak _ _ l => linksWf l
  | .sbFrameError _ _ _ => true
  | .sbLinkSilent _ l => linksWf l
  | .nelUpDeassert _ l => linksWf l
  | .nelLinkUp _ l => linksWf l
  | .scrubPass _ _ _ _ => true
  | .partitionReset _ _ => true
  | .partitionResetComplete _ => true
  | .resetEscalate _ => true
  | .epochAdvance _ => true
  | .coreReset _ => true
  | .coreRetireDone _ => true
  | .coreRetireTimeout _ => true
  | .functionLevelReset _ => true
  | .vrst _ => true
  | .varvoReset b => b.wf
  | .reinit _ => true
  | .managerAbort _ => true
  | .historyClear _ => true
  | .ppWatchdogExpiry _ => true
  | .ppSelfCheckPass _ => true
  | .cperPost => true
  | .pwrcycRepeat => true
  | .powerGood b => b.wf
  | .mtestRes _ _ => true
  | .mtestDone => true
  | .mtestTimeout => true
  | .repairRoundDone => true
  | .recipeWrite _ => true
  | .recipeRead => true
  | .recipeClear => true
  | .fwStage i => decide (i.length ≤ 8388608)
  | .fwCommit _ => true
  | .mapRead => true
  | .bootLoad => true
  | .requestUpdate => true
  | .passComponentTable => true
  | .updateComponent _ => true
  | .firmwareData _ => true
  | .activateFirmware => true
  | .cancelUpdate => true
  | .entdaa _ => true
  | .regWrite _ _ _ _ => true
  | .whistleCauseWrite _ _ => true
  | .cmRsp _ _ b _ => decide (b.length ≤ 8192)
  | .storeCountsZero _ _ _ _ => true
  | .msixUnmask _ _ => true
  | .aonPgDeassert => true
  | .nelUpAssert _ => true
  | .watchWindowExpiry _ => true
  | .csnSpineInputFail _ => true

end Sys2Proof
end

