-- ==== Sys2Proof/Tests/Slice0.lean ====
section
/-! SUPPORT. Tests: ill-formed commands that the check refuses; values that the specification's worked examples and tables
give; and, for every statement with hypotheses, a state and operands that meet them (`met_…`). -/

namespace Sys2Proof.Tests

open Sys2Proof Sys2Proof.Machine

set_option Elab.async false

/-! ### Small states -/

/-- The reset state. -/
def R : State := State.reset

/-- Kennel operands of zeros, and a request of PF0 with them. -/
def args0 : KArgs :=
  { scope := 0, pub := false, ret := false, cls := 0, index := 0, n := 0, m := 0, leash := 0, tmo := 0, wait := false,
    ahead := false, ctag := 0, a := 0, b := 0 }
def q0 : KMsg := ⟨args0, State.reset.fnMaster 0, 7⟩

/-- A core, and a reply to it. -/
def c0 : CoreRef := ⟨⟨2, 3⟩, 4⟩
def rsp0 : KRsp := ⟨false, 0, .load, .ok, false, 0, 0, 0, State.reset.coreMaster c0.id, 7⟩

/-- Kennel entry 0, homed at hub 0, of the kind given. -/
def kenS (k : Kind) (g : KEntry → KEntry) : State := R.updKen 0 (fun e => g { e with kind := k })

/-- A waiter of core 5 with tag 3. -/
def w0 (op : KOp) : Waiter := ⟨0, State.reset.coreMaster 5, 3, op, 4, 0, 0, none, .none⟩

/-- Barrier entry 0 of the cluster of `c0`. -/
def entS (g : BarEntry → BarEntry) : State := R.updCsn c0.cl.id (fun x => { x with ents := [(0, g BarEntry.init)] })

/-- A published request that waits for its invalidation. -/
def req0 : Req := ⟨7, .semWait, { args0 with scope := 1, pub := true }, .inv 0, false, false, false, false, false⟩

/-- Barrier 6 at hub 0 gathering generation 3, with a payload descriptor, arrivals and expected arrivals. -/
def gathS (d : BitVec 32) (n e : Nat) : State :=
  (R.updPrec 6 (fun r => { r with st := .armed, scope := 1, gen := 3, payload := d, mfs := 1, fexp := 1 })).updFrec 6
    (fun r => { r with st := .gather, gen := 3, arr := n, exp := e })
def arr0 : CArrive := ⟨0, none, 6, 3, 0, true, [], .none⟩

/-- Barrier 6 ARMED at the root in generation 3, with a payload descriptor, field arrivals and expected fields. -/
def rootS (d : BitVec 32) (n e : Nat) : State :=
  R.updPrec 6 (fun r => { r with st := .armed, scope := 1, gen := 3, payload := d, mfs := 3, fexp := e, farr := n, ncl := n, arrived := BitVec.ofNat 84 (if n = 0 then 0 else 2) })
def farr0 : FArrive := ⟨6, 3, 2, 0, 0, .ok, true, Partial.init, HubVerdict.init⟩
def rel0 : Release := ⟨6, 3, 0, .ok, false, ⟨[], [], 0⟩⟩

def pkt0 : LoadPkt := ⟨0, 1, 256, List.replicate 128 1⟩
def note0 : TickNote := ⟨9, false, false, 500000⟩

/-- A wafer whose bring-up is complete; one whose tick runs. -/
def upS : State := { R with bru := { R.bru with step := 15 } }
def tickS (g : Tick → Tick) : State := { upS with tick := g { R.tick with st := .running, any := true } }

def run0 : Run :=
  { plid := 0, image := 0, img := PitchImage.init, slots := [], gops := [], rpl := 0, tick := 9, key := 0, phase := 0, opened := 0, waitOrd := false, bound := [],
    commitOpen := false, commitDone := false, heelOpen := false, heelDone := false, counted := false, start := 0, closers := [] }
def telem0 : Telem := ⟨0, 0, 0, 0, false, 0, 9, 8, 7, 6, 5, []⟩
def pitch0 : PitchMsg := ⟨1, 3, 0, false, 9, 6, 7, 1, [0], [[6]], []⟩
def proxy0 : Proxy := ⟨1, 5, 6, 0⟩
def man0 : Manifest := ⟨256, 300, 3, 0, false, 0⟩
def load0 : Load := ⟨none, [0], man0, 0, [], [], false, [], true⟩
def rnote0 : ResetNote := ⟨.core, 1, 0, 0, false, 5⟩
def uid0 : UnitId := ⟨.packProc, 1⟩
def log0 : LogMsg := ⟨0x0E, uid0, 1, 0, 3, true, 1, 1, 0, 0⟩
def hist0 : HistRec := ⟨uid0, .service, 0, 0, 0, 0, 0, 0, [], none, false⟩

/-- Cluster 0 with its load open and its leg of barrier 65,535. -/
def loadS : State :=
  R.updCsn 0 (fun x => { x with loadOpen := true, ents := [(255, { BarEntry.init with mode := 2, bar := 65535, exp := 1, gen := 3, rgen := 2 })] })

/-- A descriptor of a family and operation; its command at submission index 3; a record. -/
def desc (fam op x : Nat) : BitVec 512 := BitVec.ofNat 512 (fam * 2 ^ 508 + op * 2 ^ 503 + x)
def cmd0 (d : BitVec 512) : Cmd := ⟨⟨3, d⟩, false, none, false, none, none, false⟩
def rec0 : Rec := cmdRec ⟨3, 0⟩ .ok false 0

/-- Ring 5 of function 1 in RUN, with commands started; the function has clusters 0 and 1, slots 0 to 31 and PLIDs. -/
def ringS (ds : List (BitVec 512)) (g : Ring → Ring) : State :=
  (upS.updFn 1 (fun x => { x with members := [0, 1], rings := [5], slotBlk := [0], qpl := 4 })).updRing 5
    (fun x => g { x with st := .run, started := ds.map cmd0 })

/-- PACK_SET and PACK_CLEAR of barrier 6; PITCH_ADMIT of an image whose one phase names barrier 6, with its heel. -/
def packD (x : Nat) : BitVec 512 := desc 2 1 (2 ^ 499 + 0x300006 * 2 ^ 360 + x)
def clearD : BitVec 512 := desc 2 2 (0x300006 * 2 ^ 360)
def pitchD : BitVec 512 := desc 4 1 (0xFFFF * 2 ^ 368 + 96 * 2 ^ 256)
def pitchI (heel : Nat) : List Byte :=
  leBytes 64 (heel * 2 ^ 400 + 0xFFFF * 2 ^ 368 + 5 * 2 ^ 340 + 2 ^ 308) ++ leBytes 32 (2 ^ 250 + 6)
def pitchS : State :=
  ((ringS [pitchD] id).updPrec 6 (fun p => { p with st := .idle, func := 1 })).updPrec 7 (fun p => { p with st := .idle, func := 1 })

/-- Function 1 with pitch list 2; slot 31's controls and an admitted slot's record. -/
def slotS (d : BitVec 512) : State := (ringS [d] id).updPl 2 (fun p => { p with st := .queued, func := 1 })
def ctlD (act : Nat) : BitVec 512 := desc 5 3 (31 * 2 ^ 368 + act * 2 ^ 364 + 2 * 2 ^ 320)
def slotI : List Byte := leBytes 64 (100 * 2 ^ 88 + 5 * 2 ^ 51 + 2 * 2 ^ 40)

/-- The manager's command for function 1; its block. -/
def mgrS : State := { upS with mgr := { R.mgr with go := true, func := 1 } }
def mblk (op x : Nat) : BitVec 512 := BitVec.ofNat 512 (op * 2 ^ 504 + x)

/-- Function 1's mailbox request in its turn; its header and an OBJ_ALLOC's payload. -/
def mbxS (g : Fn → Fn) : State := upS.updFn 1 (fun x => g { x with mbxSt := .serving, mbxPage := some (0x5000, 0), mbxVec := 4 })
def hdr0 (t n : Nat) : BitVec 128 := BitVec.ofNat 128 (9 * 2 ^ 96 + t * 2 ^ 88 + n * 2 ^ 64)
def pay0 (cls kind x : Nat) : BitVec 128 := BitVec.ofNat 128 (cls * 2 ^ 124 + kind * 2 ^ 120 + x)

/-- A wafer in a span of four whose lead is wafer 0: the lead, or member 1. -/
def spS (st : SpanSt) : State :=
  { upS with span := { R.span with
      st := st, wid := if st = .lead then 0 else 1, lead := 0, sgen := 5, formed := 15, reach := 15, links := [⟨0, 0, 1, 0⟩] } }
/-- A following tick; frames of a span. -/
def folS (g : Tick → Tick) : State := { spS .member with tick := g { R.tick with st := .follow, any := true } }
def sbt0 : SbTick := ⟨8, false, false, 1000, 16, 500000⟩
def sbp0 : SbPitch := ⟨1, 2, 0, [1], 9⟩
def sba0 : SbArrive := ⟨1, 1, 6, 4, 3, .ok, true, 5, 0, 0, 0, 0, Partial.init⟩
def sbr0 : SbRelease := ⟨{ rel0 with gen := 4 }, 0⟩
def rel1 : Relay := ⟨9, State.reset.coreMaster 5, 3, .semWait, 1⟩
def sbk0 : SbKiln := ⟨1, 1, 0, 0, 0, []⟩

/-- The lead's open record of barrier 6 with member 1; a member whose PACK_SET of barrier 6 waits for the lead. -/
def recS (g : SpanRec → SpanRec) : State :=
  (spS .lead).updSrec 6 (fun r => g { r with open_ := true, wexp := 1, gen := 4, members := [(1, 3)] })
def jw0 : JoinWait := ⟨5, 3, [0, 48]⟩
def joinD : BitVec 512 := desc 2 1 (2 * 2 ^ 499 + 0x300006 * 2 ^ 360)
def joinS : State :=
  { (ringS [joinD] id).updPrec 6 (fun p => { p with st := .idle, func := 1, scope := 2, join := some jw0 }) with span := (spS .member).span }

/-- A formation of wafers 0 (this one, the lead) and 1; its image and its frames. -/
def formI : List Byte := leBytes 64 0 ++ leBytes 8 7 ++ leBytes 8 9 ++ List.replicate 240 0
def fm0 : Forming := ⟨0, 0, 3, 0, [7, 9], [], [0], 2, 0, none, false, true⟩
def fsw0 : FormSwitch := ⟨9, 6, 0, 0, 3, true, []⟩
def fcar0 : FormCarry := ⟨[], [], 400000, 8, []⟩

/-- Electing wafer 1 of a formed span of four, with a reachable mask. -/
def elS (reach : BitVec 32) : State :=
  { upS with span := { R.span with
      st := .electing, wid := 1, lead := 0, sgen := 5, formed := 15, reach := reach, links := [⟨1, 0, 2, 0⟩, ⟨1, 1, 3, 0⟩] } }

/-- A bring-up that finds no valid image; a memory test; a command of VSF_BRU_CMD; a recipe image without entries. -/
def bup0 : BringUp := ⟨false, true, [], [], [], [], [], [], []⟩
def mtS : State := { R with bru := { R.bru with step := 7, mtest := true } }
def bruS (op : Byte) (g : Bru → Bru) : State := { R with bru := g { R.bru with step := 15, go := true, op := op } }
def rcpI : List Byte :=
  let b := leBytes 54 0 ++ leBytes 2 1 ++ leBytes 4 0x52C19E07
  leBytes 4 (crc32 b).toNat ++ b

/-- A cask record queued for function 1's CASK_BAR of epoch 6. -/
def ck0 : CaskReq := ⟨5, 3, 6, 9⟩
def cr0 : CaskRec := ⟨1, 0, 1, 9, 4, 1, 6⟩
def caskS (n : Nat) (up : Bool) : State :=
  let s := ((ringS [desc 3 2 0] id).updFn 1 (fun x => { x with cask := some ck0, cep := 6 })).updHub 0 (fun h => { h with vin := 48 })
  { s with bru := { s.bru with caskQ := [.record 1 cr0], deferred := n, holdup := up } }

/-- The last check of a load, decided with no cluster BAD. -/
def lendS (f : Option Nat) (st : BitVec 4) (run : Reg) : State :=
  { R.updPrec 65535 (fun r => { r with st := .deciding, scope := 1 }) with
      tick := { R.tick with ctrl := 0x1000 + run }
      bru := { R.bru with step := st, go := true, op := 7, load := some { load0 with checking := true, func := f } } }


/-! ### Ill-formed commands, one for each check of `Instr.wf` -/

theorem test_ill_arrive_source : Instr.wf (.arrive ⟨0, false⟩ 0 { arr0 with src := 96 }) = false := by decide
theorem test_ill_arrive_body : Instr.wf (.arrive ⟨0, false⟩ 0 { arr0 with body := [1] }) = false := by decide
theorem test_ill_arrive_window : Instr.wf (.arrive ⟨0, false⟩ 0 { arr0 with body := List.replicate 1032 1 }) = false := by decide +kernel
theorem test_ill_field_arrive : Instr.wf (.fieldArrive 0 0 { farr0 with ncl := 97 }) = false := by decide
theorem test_ill_field_arrive_lost : Instr.wf (.fieldArrive 0 0 { farr0 with nlost := 97 }) = false := by decide
theorem test_ill_release : Instr.wf (.release ⟨0, false⟩ 0 { rel0 with nlost := 8192 }) = false := by decide
theorem test_ill_release_at_csn : Instr.wf (.releaseAtCsn ⟨0, 0⟩ 0 { rel0 with nlost := 8192 }) = false := by decide
theorem test_ill_pitch_phases : Instr.wf (.pitch ⟨0, false⟩ 0 { pitch0 with gops := [], phases := [] }) = false := by decide
theorem test_ill_pitch_points : Instr.wf (.pitch ⟨0, false⟩ 0 { pitch0 with gops := [0, 0] }) = false := by decide
theorem test_ill_pitch_barriers : Instr.wf (.pitch ⟨0, false⟩ 0 { pitch0 with phases := [[1, 2, 3, 4, 5, 6, 7]] }) = false := by decide
theorem test_ill_proxy_cluster : Instr.wf (.proxyRecord ⟨0, false⟩ (0, { proxy0 with x := 96 })) = false := by decide
theorem test_ill_proxy_substitute : Instr.wf (.proxyRecord ⟨0, false⟩ (0, { proxy0 with s := 84 * 128 })) = false := by decide
theorem test_ill_load_mc : Instr.wf (.loadMc ⟨0, 0⟩ { pkt0 with data := [] }) = false := by decide
theorem test_ill_load_uc : Instr.wf (.loadUc ⟨0, 0⟩ 0 { pkt0 with data := [] }) = false := by decide
theorem test_ill_load_address : Instr.wf (.loadUc ⟨0, 0⟩ 0 { pkt0 with addr := 1 }) = false := by decide +kernel
theorem test_ill_telem_rows : Instr.wf (.telem 0 { telem0 with drp := 0, rows := List.replicate 8 0 }) = false := by decide
theorem test_ill_pitch_bindings : Instr.wf (.pitch ⟨0, false⟩ 0 { pitch0 with bounds := List.replicate 33 (0, 1) }) = false := by decide
theorem test_ill_telem : Instr.wf (.telem 0 { telem0 with rows := [] }) = false := by decide
theorem test_ill_route_load : Instr.wf (.routeLoad (0, none) [(16384, 0, 0)]) = false := by decide
theorem test_ill_load_send : Instr.wf (.loadSend ⟨0, 0⟩ ⟨0, 1⟩ 0 [1]) = false := by decide
theorem test_ill_leg_bind : Instr.wf (.legBind ⟨0, 0⟩ 6 0 3 none) = false := by decide
theorem test_ill_epoch_load : Instr.wf (.epochLoad ⟨0, 0⟩ [(86, 0)] none) = false := by decide
theorem test_ill_desc_fetch_none : Instr.wf (.descFetchDone 0 []) = false := by decide
theorem test_ill_desc_fetch_nine : Instr.wf (.descFetchDone 0 (List.replicate 9 0)) = false := by decide
theorem test_ill_pack_set : Instr.wf (.packSet 0 0 []) = false := by decide
theorem test_ill_cmt_set : Instr.wf (.cmtSet 0 0 []) = false := by decide
theorem test_ill_pitch_admit : Instr.wf (.pitchAdmit 0 0 (leBytes 63 0)) = false := by decide +kernel
theorem test_ill_seq_admit : Instr.wf (.seqAdmit 0 0 (leBytes 65 0)) = false := by decide +kernel
theorem test_ill_part_create : Instr.wf (.partCreate 0 []) = false := by decide
theorem test_ill_form_image : Instr.wf (.form [] [] true false false) = false := by decide
theorem test_ill_form_links : Instr.wf (.form (leBytes 384 0) [⟨0, 0, 0, 1⟩] true false false) = false := by decide +kernel
theorem test_ill_sb_pitch : Instr.wf (.sbPitch 0 { sbp0 with gops := List.replicate 9 0 }) = false := by decide
theorem test_ill_sb_arrive : Instr.wf (.sbArrive 0 { sba0 with ncl := 8192 }) = false := by decide
theorem test_ill_sb_nak : Instr.wf (.sbNak 0 0 [⟨0, 0, 1, 0⟩, ⟨0, 0, 1, 0⟩]) = false := by decide
theorem test_ill_sb_link_silent : Instr.wf (.sbLinkSilent 0 [⟨1, 0, 1, 1⟩]) = false := by decide
theorem test_ill_nel_up_deassert : Instr.wf (.nelUpDeassert 0 [⟨1, 0, 1, 1⟩]) = false := by decide
theorem test_ill_nel_link_up : Instr.wf (.nelLinkUp 0 [⟨1, 0, 1, 1⟩]) = false := by decide
theorem test_ill_varvo_reset : Instr.wf (.varvoReset { bup0 with siteFails := [2] }) = false := by decide
theorem test_ill_power_good : Instr.wf (.powerGood { bup0 with linkFails := [131072] }) = false := by decide
theorem test_ill_fw_stage (l : List Byte) (h : 8388608 < l.length) : Instr.wf (.fwStage l) = false := by
  show decide (l.length ≤ 8388608) = false
  simpa using h
theorem test_ill_cm_rsp (l : List Byte) (h : 8192 < l.length) : Instr.wf (.cmRsp ⟨0, 0⟩ 0 l false) = false := by
  show decide (l.length ≤ 8192) = false
  simpa using h

/-! ### Values that the specification's examples give -/

/-- 02_sync_mesh, one lock request: lock 4,101 is homed at hub 43; the core is 0x3_1051. -/
theorem test_home_of_lock_4101 : homeHub (kennelIndex 1 4101) = 43 := by decide +kernel
theorem test_core_id : CoreRef.id ⟨⟨24, 65⟩, 17⟩ = 0x31051 := by decide +kernel
theorem test_master_identity : masterOf 0 0x31051 7 = 0x003105107 := by decide +kernel

/-- 12_virtual_functions, hinted lock allocation: lock 4,184 is homed at hub 24, slot 10,204. -/
theorem test_home_of_lock_4184 : (homeHub (kennelIndex 1 4184), homeSlot (kennelIndex 1 4184)) = (24, 10204) := by
  decide +kernel

/-- 10_memory_model: MESH 1 and EXPR 3 give a LAT of 139 ns. -/
theorem test_lat : latOf 1 3 = 139 := by decide

/-- 02_sync_mesh R60 and its example: hub 24's path to the root runs 24, 30, 35, 41, and every hub is at depth 3 or less. -/
theorem test_express_tree : R.buildTree.length = 84 ∧ tget (0, 9, 0) R.buildTree 24 = (30, 3, 0) ∧
    tget (0, 9, 0) R.buildTree 35 = (41, 1, 0) ∧ R.buildTree.all (fun e => decide (e.2.2.1 ≤ 3)) = true := by decide +kernel

/-- 04_barriers, one release: 96 members at CPW 8 and at CPW 6 take 12 and 16 waves. -/
theorem test_waves : (wavesOf 0x0810 (List.range 96)).length = 12 ∧ (wavesOf 0x0610 (List.range 96)).length = 16 := by
  decide +kernel

/-- 16_registers R440: with every mash unit in service VSF_MSH_STAT reads HDEG 0, HMIN 8, RUNITS 32. -/
theorem test_msh_stat : upS.readWord 0 0x0A0 = 0x820 := by decide +kernel

/-- 05_mash_reductions, the stochastic key of the example. -/
theorem test_stochastic_key : srKey 7310 4 0 0x00023A41 = 0x1C8E040000023A41 := by decide +kernel

/-- 06_tick, a throttled wafer: P′ at 250,000 ns from OP0 to OP7 is 833,334 ns. -/
theorem test_level_period : levelPer { PitchImage.init with phases := [⟨0, 0, []⟩, ⟨1, 0, []⟩] } 7 250000 = 833334 := by
  decide +kernel

/-- 07_kiln_governor, a cap lowered: pitch list 0x0041 at g 1 is forecast 0.762118 J and 183.333 µs. -/
def kilnS : State :=
  { R with
      pl := [(0x41, { PitchList.init with img := { PitchImage.init with phases := [⟨0, 120000, []⟩, ⟨1, 50000, []⟩] } })]
      kiln := { R.kiln with hist := [(0x41, ⟨4, 0, ⟨820000000, 1⟩, ⟨0, 1⟩, ⟨170000, 1⟩, ⟨0, 1⟩⟩)] } }
theorem test_kiln_forecast :
    let t := (kilnS.tryGrants [] ⟨9, 0x41, 0x41, (kilnS.plAt 0x41).img, false⟩ [1, 1] 200000 200000 0).c
    (t.energy.floor, t.dur.floor) = (762117647, 183333) := by decide +kernel

/-- 08_commit_integrity, a suspect cluster: the verdict flit and the two commit words. -/
theorem test_verdict_flit :
    verdictFlit ⟨bf16Up 0x42160000, bf16Up 0x3F4CCCCD, 1536, 3, false, false, false, true⟩ = 0x42163F4D00600031 := by
  decide +kernel
theorem test_commit_words : cmtWord 88411 1 0x0A3C false = 0x0001595B4A3C0000 ∧
    cmtWord 88411 1 0x3FFF true = 0x0001595B7FFF8000 := by decide +kernel

/-- 09_step_and_decode_loops: POS 300, 304 and 305 at 16 tokens a page take 19, 19 and 20 pages. -/
theorem test_pages : [300, 304, 305].map (fun p => ({ Slot.init with pos := p, pgsh := 4 } : Slot).need) = [19, 19, 20] := by
  decide +kernel

/-- 16_registers, a tolerance through the recipe: two ignored entries; TOL 8.0 for function 7, 6.0 for the others, PER
300,000 ns. -/
def rcpExample : List Byte :=
  recipeStored (leBytes 56 0 ++ leBytes 2 5 ++ leBytes 2 1 ++ leBytes 4 0x52C19E07 ++
    ([0x0504FF0040C00000, 0x0504070041000000, 0x0300FF00000493E0, 0x03000700000493E0, 0x0311070000000003] : List Nat).flatMap
      (leBytes 8)) 3
theorem test_recipe :
    let b := ((recipeEntries rcpExample).foldl applyEntry (R.bru, rhoBase)).1
    let s := { R with bru := b }
    (b.nign, s.regReset .cmtTol 7, s.regReset .cmtTol 6, s.regReset .period 0) = (2, 0x41000000, 0x40C00000, 300000) := by
  decide +kernel

/-- 14_faults_recovery R401 with its example: the LOG flit of class 0x05. -/
theorem test_log_flit : logFlit ⟨5, ⟨.csn, 0x653⟩, 2, 2, 4, true, 2, 1, 0, 0⟩ = 0x0500065350920001 := by decide +kernel

/-! ### What the hypotheses of the statements are met by -/

theorem met_CommandsLeaveQueue : ∃ (c : Instr) (s t : State), exec c s = .next t :=
  ⟨.sbTickCut 1 sbt0, R, R, rfl⟩

theorem met_StepKeepsCanonicalForm : ∃ s t : State, s.wf = true ∧ step s = .next t :=
  ⟨R, { R with now := 1 }, by decide +kernel, rfl⟩

/-- Two payloads of an I32 and of a U64 lane whose sums leave the range. -/
def twoI : List (List Byte) := [[255, 255, 255, 127], [1, 0, 0, 0]]
def twoU : List (List Byte) := [[255, 255, 255, 255, 255, 255, 255, 255], [1, 0, 0, 0, 0, 0, 0, 0]]
def pairOf (d : BitVec 32) (p q : List Byte) : Partial := foldPartial d (leafPartial d p false) (leafPartial d q false)
def laneSum (v : Int) : Lane := ⟨v, 0, 0, false, false, false, false, false, false⟩

theorem met_MashOrderIndependence : ∃ (d : BitVec 32) (ps qs : List (List Byte)) (a b : Partial),
    0 < pdLanes d ∧ pdReserved d = false ∧ pdOutside d = false ∧ ps.Perm qs ∧ Folds d ps a ∧ Folds d qs b :=
  ⟨0x90010000, twoI, [[1, 0, 0, 0], [255, 255, 255, 127]], pairOf 0x90010000 [255, 255, 255, 127] [1, 0, 0, 0],
    pairOf 0x90010000 [1, 0, 0, 0] [255, 255, 255, 127], by decide, by decide +kernel, by decide +kernel, List.Perm.swap _ _ [],
    .node [_] [_] _ _ (.leaf _) (.leaf _), .node [_] [_] _ _ (.leaf _) (.leaf _)⟩

theorem met_IntegerSums :
    (∃ (d : BitVec 32) (ps : List (List Byte)) (a : Partial) (i : Nat) (l : Lane),
      Folds d ps a ∧ pdOp d = 0 ∧ a.lanes[i]? = some l ∧ pdFmt d = 9) ∧
    (∃ (d : BitVec 32) (ps : List (List Byte)) (a : Partial) (i : Nat) (l : Lane),
      Folds d ps a ∧ pdOp d = 0 ∧ a.lanes[i]? = some l ∧ pdFmt d = 10) ∧
    (∃ d : BitVec 32, pdFmt d = 9 ∨ pdFmt d = 10 ∨ pdOp d = 7) :=
  ⟨⟨0x90010000, twoI, pairOf 0x90010000 [255, 255, 255, 127] [1, 0, 0, 0], 0, laneSum 2147483648,
      .node [_] [_] _ _ (.leaf _) (.leaf _), by decide, by decide +kernel, by decide⟩,
    ⟨0xA0010000, twoU, pairOf 0xA0010000 [255, 255, 255, 255, 255, 255, 255, 255] [1, 0, 0, 0, 0, 0, 0, 0], 0,
      laneSum 18446744073709551616, .node [_] [_] _ _ (.leaf _) (.leaf _), by decide, by decide +kernel, by decide⟩,
    ⟨0x90010000, by decide⟩⟩

theorem met_EmptyQueuePassesOneCycle :
    (∃ (s : State), s.pending = [] ∧ s.tick.dueNow = false ∧ ((∀ f ∈ s.parts, (s.fnAt f).edgeHeld = false))) ∧
    (∃ (s : State), s.pending = []) := by
  refine ⟨⟨R, ?_⟩, ⟨R, ?_⟩⟩
  all_goals ((try dsimp only [AtHome, PortFree, Calm, Still, Quiet, Started, keyOf, entOf]) <;> decide +kernel)

theorem met_AtomicOperations :
    ∃ (s : State) (hub : Field) (tep : Epoch) (q : KMsg), Arrives s hub tep q ∧ AtHome s hub tep (s.renewed q)
      .atomicWord := by
  refine ⟨kenS .atomicWord (fun e => { e with value := 5 }), 0, 0,
    { q0 with args := { args0 with a := 0xFFFFFFFFFFFFFFFE, b := 9 } }, ?_⟩
  all_goals ((try dsimp only [Arrives, AtHome, keyOf]) <;> repeat' apply And.intro) <;>
    first | (intro x; cases x <;> rfl) | decide +kernel

theorem met_TakeWhenEnough :
    (∃ (s : State) (hub : Field) (tep : Epoch) (q : KMsg),
      let r := s.renewed q
      let e := s.kenAt (keyOf r)
      Arrives s hub tep q ∧ e.queue = [] ∧ r.args.n ≠ 0 ∧ AtHome s hub tep r .semaphore ∧ r.args.n.toNat ≤
        e.count.toNat) ∧
    (∃ (s : State) (hub : Field) (tep : Epoch) (q : KMsg),
      let r := s.renewed q
      let e := s.kenAt (keyOf r)
      Arrives s hub tep q ∧ e.queue = [] ∧ r.args.n ≠ 0 ∧ AtHome s hub tep r .tokenPool ∧ r.args.m.toNat ≤
        r.args.n.toNat ∧ (if r.args.m = 0 then r.args.n.toNat else r.args.m.toNat) ≤ e.count.toNat) := by
  refine ⟨⟨kenS .semaphore (fun e => { e with count := 5, limit := 9 }), 0, 0,
    { q0 with args := { args0 with n := 5 } }, ?_⟩, ⟨kenS .tokenPool (fun e => { e with count := 5, limit := 9 }), 0,
    0, { q0 with args := { args0 with n := 7, m := 5 } }, ?_⟩⟩
  all_goals ((try dsimp only [Arrives, AtHome, keyOf]) <;> repeat' apply And.intro) <;>
    first | (intro x; cases x <;> rfl) | decide +kernel

theorem met_GiveSetAndRead :
    (∃ (s : State) (hub : Field) (tep : Epoch) (q : KMsg),
      let r := s.renewed q
      let e := s.kenAt (keyOf r)
      Arrives s hub tep q ∧ s.wf = true ∧ e.queue = [] ∧ AtHome s hub tep r .semaphore) ∧
    (∃ (s : State) (hub : Field) (tep : Epoch) (q : KMsg),
      let r := s.renewed q
      let e := s.kenAt (keyOf r)
      Arrives s hub tep q ∧ s.wf = true ∧ e.queue = [] ∧ AtHome s hub tep r .tokenPool) := by
  refine ⟨⟨kenS .semaphore (fun e => { e with count := 5, limit := 9 }), 0, 0,
    { q0 with args := { args0 with n := 4, a := 0x0000000700000008 } }, ?_⟩, ⟨kenS .tokenPool (fun e =>
    { e with count := 5, limit := 9 }), 0, 0, { q0 with args := { args0 with n := 5, a := 0x0000000700000008 } }, ?_⟩⟩
  all_goals ((try dsimp only [Arrives, AtHome, keyOf]) <;> repeat' apply And.intro) <;>
    first | (intro x; cases x <;> rfl) | decide +kernel

theorem met_TakeWithoutWaiting :
    ∃ (s : State) (hub : Field) (tep : Epoch) (q : KMsg),
      let r := s.renewed q
      let e := s.kenAt (keyOf r)
      Arrives s hub tep q ∧ AtHome s hub tep r .semaphore ∧ r.args.n ≠ 0 ∧ r.args.wait = false ∧ ((e.queue ≠ [] ∨
        e.count.toNat < r.args.n.toNat)) := by
  refine ⟨kenS .semaphore (fun e => { e with count := 3, limit := 9 }), 0, 0,
    { q0 with args := { args0 with n := 4 } }, ?_⟩
  all_goals ((try dsimp only [Arrives, AtHome, keyOf]) <;> repeat' apply And.intro) <;>
    first | (intro x; cases x <;> rfl) | decide +kernel

theorem met_SignalServesHeadWaiter :
    ∃ (s : State) (hub : Field) (tep : Epoch) (q : KMsg) (w : Waiter),
      let r := s.renewed q
      let e := s.kenAt (keyOf r)
      Arrives s hub tep q ∧ s.wf = true ∧ AtHome s hub tep r .semaphore ∧ e.queue = [w] ∧ w.op = .semWait ∧ w.deadline
        = none ∧ w.timer = .none ∧ e.count.toNat + r.args.n.toNat ≤ e.limit.toNat ∧ w.n.toNat ≤ e.count.toNat +
        r.args.n.toNat := by
  refine ⟨(kenS .semaphore (fun e => { e with count := 3, limit := 9, queue := [w0 .semWait] })), 0, 0,
    { q0 with args := { args0 with n := 2 } }, w0 .semWait, ?_⟩
  all_goals ((try dsimp only [Arrives, AtHome, keyOf]) <;> repeat' apply And.intro) <;>
    first | (intro x; cases x <;> rfl) | decide +kernel

theorem met_LockAcquireFree :
    ∃ (s : State) (hub : Field) (tep : Epoch) (q : KMsg),
      let r := s.renewed q
      let e := s.kenAt (keyOf r)
      Arrives s hub tep q ∧ s.wf = true ∧ AtHome s hub tep r .lock ∧ e.st = .free ∧ r.args.leash = 0 := by
  refine ⟨kenS .lock (fun e => { e with phn := true, abnd := true }), 0, 0,
    { q0 with args := { args0 with ahead := true } }, ?_⟩
  all_goals ((try dsimp only [Arrives, AtHome, keyOf]) <;> repeat' apply And.intro) <;>
    first | (intro x; cases x <;> rfl) | decide +kernel

theorem met_LockOwnerOperations :
    (∃ (s : State) (hub : Field) (tep : Epoch) (q : KMsg),
      let r := s.renewed q
      let e := s.kenAt (keyOf r)
      Arrives s hub tep q ∧ s.wf = true ∧ AtHome s hub tep r .lock ∧ e.st ≠ .free ∧ e.owner = r.master ∧ e.queue = []
        ∧ e.leash = .none ∧ r.args.ret = false) ∧
    (∃ (s : State) (hub : Field) (tep : Epoch) (q : KMsg),
      let r := s.renewed q
      let e := s.kenAt (keyOf r)
      Arrives s hub tep q ∧ s.wf = true ∧ AtHome s hub tep r .lock ∧ e.st ≠ .free ∧ e.owner = r.master ∧ e.queue = []
        ∧ e.leash = .none) ∧
    (∃ (s : State) (hub : Field) (tep : Epoch) (q : KMsg),
      let r := s.renewed q
      let e := s.kenAt (keyOf r)
      Arrives s hub tep q ∧ s.wf = true ∧ AtHome s hub tep r .lock ∧ e.st ≠ .free ∧ e.owner = r.master ∧ e.queue = []
        ∧ e.leash = .none ∧ e.st = .heldAhead) ∧
    (∃ (s : State) (hub : Field) (tep : Epoch) (q : KMsg),
      let r := s.renewed q
      let e := s.kenAt (keyOf r)
      Arrives s hub tep q ∧ s.wf = true ∧ AtHome s hub tep r .lock ∧ e.st ≠ .free ∧ e.owner = r.master ∧ e.queue = []
        ∧ e.leash = .none ∧ r.args.leash = 0) := by
  refine ⟨⟨kenS .lock (fun e => { e with st := .held, owner := R.fnMaster 0 }), 0, 0, q0, ?_⟩, ⟨kenS .lock (fun e =>
    { e with st := .heldAhead, owner := R.fnMaster 0 }), 0, 0, q0, ?_⟩, ⟨kenS .lock (fun e =>
    { e with st := .heldAhead, owner := R.fnMaster 0 }), 0, 0, q0, ?_⟩, ⟨kenS .lock (fun e =>
    { e with st := .held, owner := R.fnMaster 0 }), 0, 0, q0, ?_⟩⟩
  all_goals ((try dsimp only [Arrives, AtHome, keyOf]) <;> repeat' apply And.intro) <;>
    first | (intro x; cases x <;> rfl) | decide +kernel

theorem met_NotOwnerCounting :
    ∃ (s : State) (hub : Field) (tep : Epoch) (q : KMsg),
      let r := s.renewed q
      let e := s.kenAt (keyOf r)
      Arrives s hub tep q ∧ AtHome s hub tep r .lock ∧ ((e.st = .free ∨ e.owner ≠ r.master)) ∧ r.args.ret = false := by
  refine ⟨kenS .lock (fun e => { e with st := .held, owner := 5 }), 0, 0, q0, ?_⟩
  all_goals ((try dsimp only [Arrives, AtHome, keyOf]) <;> repeat' apply And.intro) <;>
    first | (intro x; cases x <;> rfl) | decide +kernel

theorem met_WithdrawEndsQueuedRequest :
    (∃ (s : State) (hub : Field) (tep : Epoch) (q : KMsg),
      let r := s.renewed q
      let e := s.kenAt (keyOf r)
      Arrives s hub tep q ∧ AtHome s hub tep r .lock ∧ e.queue = []) ∧
    (∃ (s : State) (hub : Field) (tep : Epoch) (q : KMsg) (w : Waiter),
      let r := s.renewed q
      let e := s.kenAt (keyOf r)
      Arrives s hub tep q ∧ AtHome s hub tep r .lock ∧ s.wf = true ∧ e.queue = [w] ∧ w.master = r.master ∧ w.tag =
        r.args.ctag ∧ w.timer = .none) := by
  refine ⟨⟨kenS .lock (fun e => { e with st := .held, owner := 5 }), 0, 0, q0, ?_⟩, ⟨kenS .lock (fun e =>
    { e with st := .held, owner := 5, queue := [{ w0 .lockAcq with master := R.fnMaster 0 }] }), 0, 0,
    { q0 with args := { args0 with ctag := 3 } }, { w0 .lockAcq with master := R.fnMaster 0 }, ?_⟩⟩
  all_goals ((try dsimp only [Arrives, AtHome, keyOf]) <;> repeat' apply And.intro) <;>
    first | (intro x; cases x <;> rfl) | decide +kernel

theorem met_KennelExpiries :
    (∃ (s : State) (k : Fin 1376256) (i : _), s.wf = true ∧ (s.kenAt k.val).kind = .lock ∧ (s.kenAt k.val).st ≠ .free
      ∧ (s.kenAt k.val).leash = .comparator i ∧ (s.kenAt k.val).queue = [] ∧ passed s.units (s.kenAt k.val).deadline =
      true) ∧
    (∃ (s : State) (k : Fin 1376256) (w : Waiter) (d : BitVec 32), s.wf = true ∧ (s.kenAt k.val).kind = .lock ∧
      (s.kenAt k.val).queue = [w] ∧ w.timer = .none ∧ w.deadline = some d ∧ passed s.units d = true) := by
  refine
    ⟨⟨{ (kenS .lock (fun e => { e with st := .held, owner := 5, leash := .comparator 10, deadline := 4 })).updHub 0 (fun h => { h with cmp := [(10, some ⟨.leash 0, 4, 0⟩)] }) with now := 3000 },
    0, 10, ?_⟩,
    ⟨{ kenS .lock (fun e => { e with st := .held, owner := 5, queue := [{ w0 .lockAcq with deadline := some 4 }] }) with now := 3000 },
    0, { w0 .lockAcq with deadline := some 4 }, 4, ?_⟩⟩
  all_goals ((try dsimp only [AtHome, PortFree, Calm, Still, Quiet, Started, keyOf, entOf]) <;> decide +kernel)

theorem met_HomeHubRefuses :
    (∃ (s : State) (hub : Field) (tep : Epoch) (q : KMsg), Arrives s hub tep q ∧ (s.hubAt hub.val).muz = true) ∧
    (∃ (s : State) (hub : Field) (tep : Epoch) (q : KMsg),
      let r := s.renewed q
      Arrives s hub tep q ∧ (s.kenAt (keyOf r)).kind = .free) ∧
    (∃ (s : State) (hub : Field) (tep : Epoch) (q : KMsg),
      let r := s.renewed q
      Arrives s hub tep q ∧ 2 < r.args.cls.toNat) ∧
    (∃ (s : State) (hub : Field) (tep : Epoch) (q : KMsg) (kind : _),
      let r := s.renewed q
      Arrives s hub tep q ∧ AtHome s hub (s.hubAt hub.val).epoch r kind ∧ tep ≠ (s.hubAt hub.val).epoch) := by
  refine ⟨⟨R.updHub 0 (fun h => { h with muz := true }), 0, 0, q0, ?_⟩, ⟨R, 0, 0, q0, ?_⟩, ⟨R, 0, 0,
    { q0 with args := { args0 with cls := 3 } }, ?_⟩, ⟨kenS .atomicWord (fun e => e), 0, 1, q0, .atomicWord, ?_⟩⟩
  all_goals ((try dsimp only [Arrives, AtHome, keyOf]) <;> repeat' apply And.intro) <;>
    first | (intro x; cases x <;> rfl) | decide +kernel

theorem met_KennelCommandsComplete :
    (∃ (s : State) (hub : Field) (tep : Epoch) (q : KMsg),
      let r := s.renewed q
      let k := keyOf r
      let e := s.kenAt k
      let n := r.args.n.toNat
      Arrives s hub tep q ∧ s.wf = true ∧ e.queue = [] ∧ AtHome s hub tep r .semaphore ∧ n ≤ e.count.toNat) ∧
    (∃ (s : State) (hub : Field) (tep : Epoch) (q : KMsg),
      let r := s.renewed q
      let k := keyOf r
      let e := s.kenAt k
      Arrives s hub tep q ∧ s.wf = true ∧ e.queue = [] ∧ AtHome s hub tep r .semaphore) ∧
    (∃ (s : State) (hub : Field) (tep : Epoch) (q : KMsg),
      let r := s.renewed q
      let k := keyOf r
      let e := s.kenAt k
      let n := r.args.n.toNat
      Arrives s hub tep q ∧ s.wf = true ∧ e.queue = [] ∧ AtHome s hub tep r .tokenPool ∧ r.args.m.toNat ≤ n ∧ (if
        r.args.m = 0 then n else r.args.m.toNat) ≤ e.count.toNat) ∧
    (∃ (s : State) (hub : Field) (tep : Epoch) (q : KMsg),
      let r := s.renewed q
      let k := keyOf r
      let e := s.kenAt k
      Arrives s hub tep q ∧ s.wf = true ∧ e.queue = [] ∧ AtHome s hub tep r .tokenPool) ∧
    (∃ (s : State) (hub : Field) (tep : Epoch) (q : KMsg),
      let r := s.renewed q
      let k := keyOf r
      let e := s.kenAt k
      Arrives s hub tep q ∧ s.wf = true ∧ e.queue = [] ∧ AtHome s hub tep r .lock ∧ e.st = .free ∧ r.args.leash = 0) ∧
    (∃ (s : State) (hub : Field) (tep : Epoch) (q : KMsg),
      let r := s.renewed q
      let k := keyOf r
      let e := s.kenAt k
      Arrives s hub tep q ∧ s.wf = true ∧ e.queue = [] ∧ AtHome s hub tep r .lock) ∧
    (∃ (s : State) (hub : Field) (tep : Epoch) (q : KMsg),
      let r := s.renewed q
      let k := keyOf r
      let e := s.kenAt k
      Arrives s hub tep q ∧ s.wf = true ∧ e.queue = [] ∧ AtHome s hub tep r .lock ∧ e.st ≠ .free ∧ e.owner = r.master) ∧
    (∃ (s : State) (hub : Field) (tep : Epoch) (q : KMsg),
      let r := s.renewed q
      let k := keyOf r
      let e := s.kenAt k
      Arrives s hub tep q ∧ s.wf = true ∧ e.queue = [] ∧ AtHome s hub tep r .lock ∧ e.st ≠ .free ∧ e.owner = r.master
        ∧ r.args.leash = 0) ∧
    (∃ (s : State) (hub : Field) (tep : Epoch) (q : KMsg) (i : Fin 1376256),
      let r := s.renewed q
      let k := keyOf r
      let e := s.kenAt k
      Arrives s hub tep q ∧ s.wf = true ∧ e.queue = [] ∧ AtHome s hub tep r .lock ∧ e.st ≠ .free ∧ e.leash ≠ .none ∧
        passed s.units e.deadline = true ∧ i.val = k) ∧
    (∃ (s : State) (hub : Field) (tep : Epoch) (q : KMsg) (kind : _),
      let r := s.renewed q
      let k := keyOf r
      let e := s.kenAt k
      Arrives s hub tep q ∧ s.wf = true ∧ e.queue = [] ∧ AtHome s hub tep r kind) ∧
    (∃ (s : State) (hub : Field) (tep : Epoch) (q : KMsg) (i : Fin 1376256) (w : Waiter) (d : BitVec 32),
      let r := s.renewed q
      let k := keyOf r
      let e := s.kenAt k
      Arrives s hub tep q ∧ s.wf = true ∧ e.queue = [] ∧ (s.kenAt i.val).queue = [w] ∧ w.deadline = some d ∧ passed
        s.units d = true) := by
  refine ⟨⟨kenS .semaphore (fun e => { e with count := 5, limit := 9 }), 0, 0,
    { q0 with args := { args0 with n := 5 } }, ?_⟩, ⟨kenS .semaphore (fun e => { e with count := 5, limit := 9 }), 0,
    0, { q0 with args := { args0 with n := 7 } }, ?_⟩, ⟨kenS .tokenPool (fun e => { e with count := 5, limit := 9 }),
    0, 0, { q0 with args := { args0 with n := 7, m := 5 } }, ?_⟩, ⟨kenS .tokenPool (fun e =>
    { e with count := 5, limit := 9 }), 0, 0, { q0 with args := { args0 with n := 7 } }, ?_⟩, ⟨kenS .lock id, 0, 0,
    q0, ?_⟩, ⟨kenS .lock id, 0, 0, q0, ?_⟩, ⟨kenS .lock (fun e => { e with st := .heldAhead, owner := R.fnMaster 0 }),
    0, 0, q0, ?_⟩, ⟨kenS .lock (fun e => { e with st := .held, owner := R.fnMaster 0 }), 0, 0, q0, ?_⟩,
    ⟨{ (kenS .lock (fun e => { e with st := .held, owner := 5, leash := .comparator 10, deadline := 4 })).updHub 0 (fun h => { h with cmp := [(10, some ⟨.leash 0, 4, 0⟩)] }) with now := 3000 },
    0, 0, q0, 0, ?_⟩, ⟨kenS .lock id, 0, 0, q0, .lock, ?_⟩, ⟨({ R with now := 3000 }).updKen 1 (fun e =>
    { e with kind := .lock, st := .held, owner := 5, queue := [{ w0 .lockAcq with deadline := some 4 }] }), 0, 0, q0,
    1, { w0 .lockAcq with deadline := some 4 }, 4, ?_⟩⟩
  all_goals ((try dsimp only [Arrives, AtHome, keyOf]) <;> repeat' apply And.intro) <;>
    first | (intro x; cases x <;> rfl) | decide +kernel

theorem met_KennelIssueSendsRequest :
    ∃ (s : State) (c : CoreRef) (op : BitVec 5) (o : KOp) (q : KArgs),
      let h := homeHub (kennelIndex q.cls.toNat q.index.toNat)
      kopOf op.toNat = some o ∧ ((q.scope = 0 ∨ q.scope = 1)) ∧ q.cls.toNat ≤ 1 ∧ q.index.toNat < classRange
        q.cls.toNat ∧ ¬ h ∈ s.mesh.shownMuz ∧ q.pub = false ∧ PortFree s c ∧ (s.coreAt c.id).reqs = [] ∧ storesDone
        (s.coreAt c.id) q.scope.toNat = true := by
  refine ⟨R, c0, 5, .add, args0, ?_⟩
  all_goals ((try dsimp only [AtHome, PortFree, Calm, Still, Quiet, Started, keyOf, entOf]) <;> decide +kernel)

theorem met_ReservedKennelEncodingEnds :
    ∃ (s : State) (c : CoreRef) (op : BitVec 5) (q : KArgs), ((kopOf op.toNat = none ∨ q.scope = 3 ∨ 2 < q.cls.toNat))
      ∧ portOpen (s.coreAt c.id) = true := by
  refine ⟨R, c0, 0, { args0 with scope := 3 }, ?_⟩
  all_goals ((try dsimp only [AtHome, PortFree, Calm, Still, Quiet, Started, keyOf, entOf]) <;> decide +kernel)

theorem met_KennelResultReachesCore :
    (∃ (s : State) (c : CoreRef) (r : KRsp) (q : Req),
      let e : KRsp := { r with master := s.newMaster r.master }
      s.wf = true ∧ (s.csnAt c.cl.id).rst = none ∧ (s.coreAt c.id).reqs = [q] ∧ q.tag = r.tag ∧ q.silent = false ∧
        q.own = false ∧ Calm s c.cl.id ∧ Master.core e.master = c.id ∧ Master.wafer e.master = s.span.wid.toNat ∧
        Master.isFn e.master = false ∧ s.stopped (.kenRsp (s.coreAt c.id).epoch r) = false) ∧
    (∃ (s : State) (c : CoreRef) (r : KRsp) (q : Req),
      let e : KRsp := { r with master := s.newMaster r.master }
      s.wf = true ∧ (s.csnAt c.cl.id).rst = none ∧ (s.coreAt c.id).reqs = [q] ∧ q.tag = r.tag ∧ q.silent = false ∧
        q.own = false ∧ Calm s c.cl.id ∧ Master.core e.master = c.id ∧ Master.wafer e.master = s.span.wid.toNat ∧
        Master.isFn e.master = false ∧ s.stopped (.whistle c.id (s.coreAt c.id).epoch .sem r) = false ∧ r.status ≠
        .aborted ∧ r.status ≠ .spanLost) := by
  refine ⟨⟨R.updCore c0.id (fun x =>
    { x with reqs := [⟨7, .semWait, args0, .sent, false, false, false, false, false⟩] }), c0, rsp0, ⟨7, .semWait,
    args0, .sent, false, false, false, false, false⟩, ?_⟩, ⟨R.updCore c0.id (fun x =>
    { x with reqs := [⟨7, .semWait, args0, .sent, false, false, false, false, false⟩] }), c0, rsp0, ⟨7, .semWait,
    args0, .sent, false, false, false, false, false⟩, ?_⟩⟩
  all_goals ((try dsimp only [AtHome, PortFree, Calm, Still, Quiet, Started, keyOf, entOf]) <;> decide +kernel)

theorem met_StaleReplyIsCounted :
    (∃ (s : State) (c : CoreRef) (tep : Epoch) (cause : Cause) (r : KRsp), (s.csnAt c.cl.id).rst = none ∧ tep ≠
      (s.coreAt c.id).epoch ∧ s.stopped (.whistle c.id tep cause r) = false ∧ ((cause = .lock ∨ cause = .sem))) ∧
    (∃ (s : State) (c : CoreRef) (tep : Epoch) (cause : Cause) (r : KRsp), (s.csnAt c.cl.id).rst = none ∧ tep ≠
      (s.coreAt c.id).epoch ∧ s.stopped (.whistle c.id tep cause r) = false ∧ cause ≠ .lock ∧ cause ≠ .sem) := by
  refine ⟨⟨R, c0, 1, .lock, rsp0, ?_⟩, ⟨R, c0, 1, .leash, rsp0, ?_⟩⟩
  all_goals ((try dsimp only [AtHome, PortFree, Calm, Still, Quiet, Started, keyOf, entOf]) <;> decide +kernel)

theorem met_SpanRequestAtRoot :
    (∃ (s : State) (src : Cluster) (tep : Epoch) (op : KOp) (q : KMsg) (f : Nat), s.fnOf src.id = some f ∧ s.stopped
      (.kenReqRoot src.id tep op q) = false ∧ tep ≠ (s.fnAt f).pepoch) ∧
    (∃ (s : State) (src : Cluster) (tep : Epoch) (op : KOp) (q : KMsg) (f : Nat), s.fnOf src.id = some f ∧ s.stopped
      (.kenReqRoot src.id tep op q) = false ∧ tep = (s.fnAt f).pepoch ∧ s.span.st = .lead ∧ q.args.cls.toNat ≤ 1 ∧
      q.args.index.toNat < classRange q.args.cls.toNat ∧ (s.kenAt (keyOf q)).kind ≠ .free ∧ (s.kenAt (keyOf
      q)).func.val = f ∧ (s.hubAt (homeHub (keyOf q))).muz = false) := by
  refine ⟨⟨R.updFn 1 (fun x => { x with members := [Cluster.id ⟨0, 0⟩] }), ⟨0, 0⟩, 1, .load, q0, 1, ?_⟩,
    ⟨{ (kenS .atomicWord (fun e => { e with func := 1 })).updFn 1 (fun x => { x with members := [0] }) with span := { R.span with st := .lead } },
    ⟨0, 0⟩, 0, .load, q0, 1, ?_⟩⟩
  all_goals ((try dsimp only [AtHome, PortFree, Calm, Still, Quiet, Started, keyOf, entOf]) <;> decide +kernel)

theorem met_BarrierInitAndFree :
    ∃ (s : State) (c : CoreRef) (ix : Byte), s.wf = true ∧ twf BarEntry.init (s.csnAt c.cl.id).ents = true ∧ PortFree
      s c ∧ (entOf s c ix).mode ≠ 2 ∧ (entOf s c ix).waitm = 0 := by
  refine ⟨entS (fun e => { e with mode := 1, exp := 4, arr := 2, gen := 3, rgen := 2 }), c0, 0, ?_⟩
  all_goals ((try dsimp only [AtHome, PortFree, Calm, Still, Quiet, Started, keyOf, entOf]) <;> decide +kernel)

theorem met_BarrierMisnamedEnds :
    (∃ (s : State) (c : CoreRef) (ix : Byte), PortFree s c ∧ (entOf s c ix).mode = 2) ∧
    (∃ (s : State) (c : CoreRef) (ix : Byte), PortFree s c ∧ (entOf s c ix).mode ≠ 1) := by
  refine ⟨⟨entS (fun e => { e with mode := 2 }), c0, 0, ?_⟩, ⟨R, c0, 0, ?_⟩⟩
  all_goals ((try dsimp only [AtHome, PortFree, Calm, Still, Quiet, Started, keyOf, entOf]) <;> decide +kernel)

theorem met_BarrierArrivals :
    (∃ (s : State) (c : CoreRef) (ix : Byte),
      let e := entOf s c ix
      s.wf = true ∧ twf BarEntry.init (s.csnAt c.cl.id).ents = true ∧ PortFree s c ∧ e.mode = 1 ∧ e.arr.toNat <
        e.exp.toNat ∧ (s.coreAt c.id).stOwn = 0 ∧ e.arr + 1 ≠ e.exp) ∧
    (∃ (s : State) (c : CoreRef) (ix : Byte),
      let e := entOf s c ix
      s.wf = true ∧ twf BarEntry.init (s.csnAt c.cl.id).ents = true ∧ PortFree s c ∧ e.mode = 1 ∧ e.arr.toNat <
        e.exp.toNat ∧ (s.coreAt c.id).stOwn = 0 ∧ e.arr + 1 = e.exp ∧ e.early = 0 ∧ e.waitm = 0) := by
  refine ⟨⟨entS (fun e => { e with mode := 1, exp := 3, arr := 1, gen := 3, rgen := 2 }), c0, 0, ?_⟩, ⟨entS (fun e =>
    { e with mode := 1, exp := 3, arr := 2, gen := 3, rgen := 2 }), c0, 0, ?_⟩⟩
  all_goals ((try dsimp only [AtHome, PortFree, Calm, Still, Quiet, Started, keyOf, entOf]) <;> decide +kernel)

theorem met_BarrierWaits :
    (∃ (s : State) (c : CoreRef) (ix : Byte) (g : Byte),
      let e := entOf s c ix
      s.wf = true ∧ twf BarEntry.init (s.csnAt c.cl.id).ents = true ∧ PortFree s c ∧ e.mode = 1 ∧ e.exp ≠ 0 ∧
        (s.coreAt c.id).bwait = none ∧ g ≠ e.rgen + 1 ∧ g ≠ e.rgen + 2) ∧
    (∃ (s : State) (c : CoreRef) (ix : Byte),
      let e := entOf s c ix
      s.wf = true ∧ twf BarEntry.init (s.csnAt c.cl.id).ents = true ∧ PortFree s c ∧ e.mode = 1 ∧ e.exp ≠ 0 ∧
        (s.coreAt c.id).bwait = none) ∧
    (∃ (s : State) (c : CoreRef) (ix : Byte),
      let e := entOf s c ix
      s.wf = true ∧ twf BarEntry.init (s.csnAt c.cl.id).ents = true ∧ PortFree s c ∧ e.mode = 1 ∧ e.exp ≠ 0 ∧
        (s.coreAt c.id).bwait = none ∧ e.arr.toNat + 1 < e.exp.toNat ∧ e.gen = e.rgen + 1 ∧ (s.coreAt c.id).stOwn = 0) := by
  refine ⟨⟨entS (fun e => { e with mode := 1, exp := 3, arr := 1, gen := 3, rgen := 2 }), c0, 0, 2, ?_⟩, ⟨entS (fun e
    => { e with mode := 1, exp := 3, arr := 1, gen := 3, rgen := 2 }), c0, 0, ?_⟩, ⟨entS (fun e =>
    { e with mode := 1, exp := 3, arr := 1, gen := 3, rgen := 2 }), c0, 0, ?_⟩⟩
  all_goals ((try dsimp only [AtHome, PortFree, Calm, Still, Quiet, Started, keyOf, entOf]) <;> decide +kernel)

theorem met_PortReads :
    (∃ (s : State) (c : CoreRef), portOpen (s.coreAt c.id) = true) ∧
    (∃ (s : State) (c : CoreRef) (entry : BitVec 7), portOpen (s.coreAt c.id) = true ∧ entry.toNat ≤ 107) ∧
    (∃ (s : State) (c : CoreRef) (entry : BitVec 7), portOpen (s.coreAt c.id) = true ∧ 107 < entry.toNat) := by
  refine ⟨⟨R, c0, ?_⟩, ⟨R, c0, 107, ?_⟩, ⟨R, c0, 108, ?_⟩⟩
  all_goals ((try dsimp only [AtHome, PortFree, Calm, Still, Quiet, Started, keyOf, entOf]) <;> decide +kernel)

theorem met_Fences :
    (∃ (s : State) (c : CoreRef) (scope : BitVec 2), portOpen (s.coreAt c.id) = true ∧ scope ≠ 3) ∧
    (∃ (s : State) (c : CoreRef) (scope : BitVec 2) (w : Bool) (f : Fence), (s.coreAt c.id).fence = some f ∧ f.inv =
      false ∧ ((f.w = true → storesDone (s.coreAt c.id) f.scope.toNat = true ∧ ∀ q ∈ (s.coreAt c.id).reqs, q.silent =
      true ∨ q.own = true))) ∧
    (∃ (s : State) (c : CoreRef) (scope : BitVec 2) (w : Bool) (f : Fence), (s.coreAt c.id).fence = some f ∧ f.inv =
      false ∧ f.w = true ∧ f.scope = 2 ∧ (s.coreAt c.id).spnCut = true ∧ (s.coreAt c.id).stSpn ≠ 0) ∧
    (∃ (s : State) (c : CoreRef) (scope : BitVec 2), portOpen (s.coreAt c.id) = true ∧ scope = 3) := by
  refine ⟨⟨R, c0, 2, ?_⟩, ⟨R.updCore c0.id (fun x => { x with fence := some ⟨1, true, false, false⟩ }), c0, 0, false,
    ⟨1, true, false, false⟩, ?_⟩, ⟨R.updCore c0.id (fun x =>
    { x with fence := some ⟨2, true, false, false⟩, spnCut := true, stSpn := 1 }), c0, 0, false, ⟨2, true, false,
    false⟩, ?_⟩, ⟨R, c0, 3, ?_⟩⟩
  all_goals ((try dsimp only [AtHome, PortFree, Calm, Still, Quiet, Started, keyOf, entOf]) <;> decide +kernel)

theorem met_Invalidations :
    (∃ (s : State) (c : CoreRef) (f : Fence), s.wf = true ∧ ((∀ n ∈ s.coresOf c.cl.id, (s.coreAt n).reqs = [])) ∧
      (s.csnAt c.cl.id).phaseInv = [] ∧ (s.csnAt c.cl.id).phaseTodo = [] ∧ (s.coreAt c.id).fence = some f) ∧
    (∃ (s : State) (c : CoreRef) (r : Req) (since : Nat), s.wf = true ∧ (s.coreAt c.id).reqs = [r] ∧ r.phase = .inv
      since ∧ r.args.scope = 1) ∧
    (∃ (s : State) (c : CoreRef) (r : Req) (since : Nat), s.wf = true ∧ (s.coreAt c.id).reqs = [r] ∧ r.phase = .inv
      since ∧ r.silent = false ∧ since + 150000 ≤ s.now ∧ Calm s c.cl.id) := by
  refine ⟨⟨R.updCore c0.id (fun x => { x with fence := some ⟨1, true, true, true⟩ }), c0, ⟨1, true, true, true⟩, ?_⟩,
    ⟨R.updCore c0.id (fun x => { x with reqs := [req0] }), c0, req0, 0, ?_⟩,
    ⟨{ R.updCore c0.id (fun x => { x with reqs := [req0] }) with now := 150000 }, c0, req0, 0, ?_⟩⟩
  all_goals ((try dsimp only [AtHome, PortFree, Calm, Still, Quiet, Started, keyOf, entOf]) <;> decide +kernel)

theorem met_StoreCounts :
    ∃ (s : State) (c : CoreRef), ((∀ n ∈ c.id :: s.coresOf c.cl.id, (s.coreAt n).stall = none)) ∧ s.wf = true ∧
      (s.coreAt c.id).reqs = [] := by
  refine ⟨R, c0, ?_⟩
  all_goals ((try dsimp only [AtHome, PortFree, Calm, Still, Quiet, Started, keyOf, entOf]) <;> decide +kernel)

theorem met_BroadcastReads :
    (∃ (s : State) (c : CoreRef) (cl : Cluster), (s.csnAt c.cl.id).merges = []) ∧
    (∃ (s : State) (c : CoreRef) (cl : Cluster) (addr : BitVec 22) (m : Merge), (s.csnAt c.cl.id).merges = [m] ∧
      m.line = addr.toNat / 64 ∧ m.since = s.now ∧ m.opn = true ∧ m.cores.length < 48) ∧
    (∃ (s : State) (cl : Cluster) (addr : BitVec 22) (m : Merge), (s.csnAt cl.id).reads = [] ∧ (s.csnAt cl.id).merges
      = [m] ∧ m.line = addr.toNat / 64) := by
  refine ⟨⟨R, c0, ⟨0, 0⟩, ?_⟩, ⟨R.updCsn c0.cl.id (fun x => { x with merges := [⟨1, 0, [7], true⟩] }), c0, ⟨0, 0⟩, 64,
    ⟨1, 0, [7], true⟩, ?_⟩, ⟨R.updCsn 0 (fun x => { x with merges := [⟨1, 0, [7], true⟩] }), ⟨0, 0⟩, 64, ⟨1, 0, [7],
    true⟩, ?_⟩⟩
  all_goals ((try dsimp only [AtHome, PortFree, Calm, Still, Quiet, Started, keyOf, entOf]) <;> decide +kernel)

theorem met_ResidualsAndDroop :
    ∃ (s : State), s.wf = true := by
  refine ⟨R, ?_⟩
  all_goals ((try dsimp only [AtHome, PortFree, Calm, Still, Quiet, Started, keyOf, entOf]) <;> decide +kernel)

theorem met_LegArrivals :
    (∃ (s : State) (c : CoreRef) (b : BarIx),
      let x := s.csnAt c.cl.id
      x.findEnt (.handle b) = none ∧ PortFree s c) ∧
    (∃ (s : State) (c : CoreRef) (b : BarIx) (ix : Nat) (e : BarEntry),
      let x := s.csnAt c.cl.id
      x.findEnt (.handle b) = some ix ∧ x.entAt ix = e ∧ s.wf = true ∧ twf BarEntry.init x.ents = true ∧ e.mode = 2 ∧
        e.bar = b ∧ e.proxy = none ∧ e.arr.toNat < e.exp.toNat ∧ PortFree s c ∧ storesDone (s.coreAt c.id) (s.precAt
        b.toNat).scope.toNat = true ∧ (s.precAt b.toNat).role ≠ 1 ∧ pdLanes (s.precAt b.toNat).payload = 0 ∧ e.arr + 1
        ≠ e.exp) ∧
    (∃ (s : State) (c : CoreRef) (b : BarIx) (ix : Nat) (e : BarEntry),
      let x := s.csnAt c.cl.id
      x.findEnt (.handle b) = some ix ∧ x.entAt ix = e ∧ s.wf = true ∧ twf BarEntry.init x.ents = true ∧ e.mode = 2 ∧
        e.bar = b ∧ e.proxy = none ∧ e.arr.toNat < e.exp.toNat ∧ PortFree s c ∧ storesDone (s.coreAt c.id) (s.precAt
        b.toNat).scope.toNat = true ∧ (s.precAt b.toNat).role ≠ 1 ∧ pdLanes (s.precAt b.toNat).payload = 0 ∧ e.arr + 1
        = e.exp) := by
  refine ⟨⟨R, c0, 0, ?_⟩, ⟨entS (fun e => { e with mode := 2, bar := 6, exp := 3, arr := 1, gen := 3, rgen := 2 }),
    c0, 6, 0, { BarEntry.init with mode := 2, bar := 6, exp := 3, arr := 1, gen := 3, rgen := 2 }, ?_⟩, ⟨entS (fun e
    => { e with mode := 2, bar := 6, exp := 3, arr := 2, gen := 3, rgen := 2 }), c0, 6, 0,
    { BarEntry.init with mode := 2, bar := 6, exp := 3, arr := 2, gen := 3, rgen := 2 }, ?_⟩⟩
  all_goals ((try dsimp only [AtHome, PortFree, Calm, Still, Quiet, Started, keyOf, entOf]) <;> decide +kernel)

theorem met_FieldGathering :
    (∃ (s : State) (hub : Field) (tep : Epoch) (a : CArrive),
      let h := hub.val
      let b := a.bar.toNat
      let r := s.frecOf h b
      let d := (s.precAt b).payload
      let m : Msg := .arrive h tep a
      s.wf = true ∧ (s.hubAt h).muz = false ∧ ((r.st = .gather ∨ r.st = .armed)) ∧ a.gen = r.gen ∧ tep = (s.hubAt
        h).epoch ∧ a.pepoch = s.barEpoch b ∧ s.stopped m = false ∧ pdLanes d = 0 ∧ r.arr + 1 < r.exp) ∧
    (∃ (s : State) (hub : Field) (tep : Epoch) (a : CArrive),
      let h := hub.val
      let b := a.bar.toNat
      let r := s.frecOf h b
      let d := (s.precAt b).payload
      let m : Msg := .arrive h tep a
      s.wf = true ∧ (s.hubAt h).muz = false ∧ ((r.st = .gather ∨ r.st = .armed)) ∧ a.gen = r.gen ∧ tep = (s.hubAt
        h).epoch ∧ a.pepoch = s.barEpoch b ∧ s.stopped m = false ∧ pdLanes d = 0 ∧ r.arr + 1 = r.exp) ∧
    (∃ (s : State) (hub : Field) (tep : Epoch) (a : CArrive),
      let h := hub.val
      let b := a.bar.toNat
      let r := s.frecOf h b
      let d := (s.precAt b).payload
      let m : Msg := .arrive h tep a
      s.wf = true ∧ (s.hubAt h).muz = false ∧ ((r.st = .gather ∨ r.st = .armed)) ∧ a.gen = r.gen ∧ tep = (s.hubAt
        h).epoch ∧ a.pepoch = s.barEpoch b ∧ s.stopped m = false ∧ pdLanes d ≠ 0 ∧ (s.hubAt h).folds.length < 64) ∧
    (∃ (s : State) (hub : Field) (a : CArrive) (k : Nat),
      let h := hub.val
      let b := a.bar.toNat
      let r := s.frecOf h b
      s.wf = true ∧ (s.hubAt h).muz = false ∧ ((r.st = .gather ∨ r.st = .armed)) ∧ a.gen = r.gen ∧ (s.hubAt h).folds =
        [⟨k, a⟩] ∧ r.arr + 1 < r.exp) ∧
    (∃ (s : State) (hub : Field) (a : CArrive) (i : Nat) (x : Timer),
      let h := hub.val
      let b := a.bar.toNat
      let r := s.frecOf h b
      s.wf = true ∧ (s.hubAt h).muz = false ∧ ((r.st = .gather ∨ r.st = .armed)) ∧ a.gen = r.gen ∧ r.st = .armed ∧
        r.arr < r.exp ∧ r.timer = .comparator i ∧ (s.hubAt h).cmpAt i = some x ∧ x.use = .barrier b ∧ passed s.units
        x.deadline = true) := by
  refine ⟨⟨gathS 0 0 2, 0, 0, arr0, ?_⟩, ⟨gathS 0 1 2, 0, 0, arr0, ?_⟩, ⟨gathS 0x00010000 1 2, 0, 0, arr0, ?_⟩,
    ⟨(gathS 0x00010000 0 2).updHub 0 (fun h => { h with folds := [⟨0, arr0⟩] }), 0, arr0, 0, ?_⟩,
    ⟨{ ((gathS 0 0 2).updFrec 6 (fun r => { r with st := .armed, timer := .comparator 10 })).updHub 0 (fun h => { h with cmp := [(10, some ⟨.barrier 6, 4, 0⟩)] }) with now := 3000 },
    0, arr0, 10, ⟨.barrier 6, 4, 0⟩, ?_⟩⟩
  all_goals ((try dsimp only [AtHome, PortFree, Calm, Still, Quiet, Started, keyOf, entOf]) <;> decide +kernel)

theorem met_RootGathering :
    (∃ (s : State) (hub : Field) (a : FArrive),
      let h := hub.val
      let b := a.bar.toNat
      let r := s.precAt b
      let m : Msg := .fieldArrive h s.rootEpoch a
      s.wf = true ∧ r.st = .armed ∧ r.scope ≠ 2 ∧ r.early = false ∧ a.stat ≠ .timeout ∧ a.stat ≠ .fenced ∧ s.stopped m
        = false ∧ a.gen = r.gen ∧ a.pepoch = r.pepoch ∧ bit r.arrived.toNat h = false ∧ bit r.mfs.toNat h = true ∧
        pdLanes r.payload = 0 ∧ r.farr + 1 < r.fexp) ∧
    (∃ (s : State) (hub : Field) (a : FArrive),
      let h := hub.val
      let b := a.bar.toNat
      let r := s.precAt b
      let m : Msg := .fieldArrive h s.rootEpoch a
      s.wf = true ∧ r.st = .armed ∧ r.scope ≠ 2 ∧ r.early = false ∧ a.stat ≠ .timeout ∧ a.stat ≠ .fenced ∧ s.stopped m
        = false ∧ a.gen = r.gen ∧ a.pepoch = r.pepoch ∧ bit r.arrived.toNat h = false ∧ bit r.mfs.toNat h = true ∧
        pdLanes r.payload = 0 ∧ r.farr + 1 = r.fexp ∧ ((∀ q ∈ s.rfolds, q.ofField b = false))) ∧
    (∃ (s : State) (hub : Field) (a : FArrive),
      let h := hub.val
      let b := a.bar.toNat
      let r := s.precAt b
      let m : Msg := .fieldArrive h s.rootEpoch a
      s.wf = true ∧ r.st = .armed ∧ r.scope ≠ 2 ∧ r.early = false ∧ a.stat ≠ .timeout ∧ a.stat ≠ .fenced ∧ s.stopped m
        = false ∧ a.gen = r.gen ∧ a.pepoch = r.pepoch ∧ bit r.arrived.toNat h = false ∧ bit r.mfs.toNat h = true ∧
        pdLanes r.payload ≠ 0 ∧ s.rfolds.length < 128) ∧
    (∃ (s : State) (hub : Field) (a : FArrive) (k : Nat),
      let h := hub.val
      let b := a.bar.toNat
      let r := s.precAt b
      let m : Msg := .fieldArrive h s.rootEpoch a
      s.wf = true ∧ r.st = .armed ∧ r.scope ≠ 2 ∧ r.early = false ∧ a.stat ≠ .timeout ∧ a.stat ≠ .fenced ∧ s.stopped m
        = false ∧ s.rfolds = [⟨k, .field h a⟩] ∧ a.gen = r.gen ∧ r.farr + 1 < r.fexp) ∧
    (∃ (s : State) (hub : Field) (a : FArrive),
      let h := hub.val
      let b := a.bar.toNat
      let r := s.precAt b
      let m : Msg := .fieldArrive h s.rootEpoch a
      s.wf = true ∧ r.st = .armed ∧ r.scope ≠ 2 ∧ r.early = false ∧ a.stat ≠ .timeout ∧ a.stat ≠ .fenced ∧ s.stopped m
        = false ∧ noFnBar b = false ∧ a.gen ≠ r.gen) := by
  refine ⟨⟨rootS 0 0 2, 0, farr0, ?_⟩, ⟨rootS 0 1 2, 0, farr0, ?_⟩, ⟨rootS 0x00010000 0 2, 0, farr0, ?_⟩,
    ⟨{ rootS 0x00010000 0 2 with rfolds := [⟨0, .field 0 farr0⟩] }, 0, farr0, 0, ?_⟩, ⟨rootS 0 0 2, 0,
    { farr0 with gen := 4 }, ?_⟩⟩
  all_goals ((try dsimp only [AtHome, PortFree, Calm, Still, Quiet, Started, keyOf, entOf]) <;> decide +kernel)

theorem met_RootReleases :
    ∃ (s : State) (bar : BarIx),
      let b := bar.toNat
      let p := s.precAt b
      s.wf = true ∧ p.scope ≠ 2 ∧ p.st = .deciding ∧ bar ≠ 65535 ∧ s.runOf (s.walkerOf b) = none ∧ p.held = false ∧
        ((∃ h ∈ mfsFields p.mfs, (s.frecOf h b).mem ≠ 0)) := by
  refine ⟨((rootS 0 2 2).updPrec 6 (fun r => { r with st := .deciding })).updFrec 6 (fun r => { r with mem := 3 }), 6,
    ?_⟩
  all_goals ((try dsimp only [AtHome, PortFree, Calm, Still, Quiet, Started, keyOf, entOf]) <;> decide +kernel)

theorem met_HubReleaseWaves :
    (∃ (s : State) (hub : Field) (r : Release) (tep : Epoch),
      let h := hub.val
      let b := r.bar.toNat
      let x := s.hubAt h
      s.wf = true ∧ x.muz = false ∧ tep = s.barEpoch b ∧ x.waveQ.length < 256 ∧ s.rootClaim h r = false ∧ s.stopped
        (.release h tep r) = false) ∧
    (∃ (s : State) (hub : Field) (r : Release),
      let h := hub.val
      let b := r.bar.toNat
      let x := s.hubAt h
      let f := s.frecOf h b
      s.wf = true ∧ x.run = none ∧ x.waveQ = [r] ∧ f.st ≠ .idle ∧ r.gen = f.gen ∧ memLocals f.mem ≠ [] ∧ s.phaseBegun
        r = none) ∧
    (∃ (s : State) (hub : Field) (r : Release) (v : WaveRun) (w : List Nat) (ws : List (List Nat)),
      let h := hub.val
      let x := s.hubAt h
      s.wf = true ∧ x.run = some v ∧ v.rel = r ∧ v.waves = w :: ws ∧ v.nextAt ≤ s.now) := by
  refine ⟨⟨gathS 0 0 2, 0, rel0, 0, ?_⟩, ⟨((gathS 0 0 2).updFrec 6 (fun r => { r with mem := 3 })).updHub 0 (fun h =>
    { h with waveQ := [rel0] }), 0, rel0, ?_⟩, ⟨((gathS 0 0 2).updFrec 6 (fun r => { r with mem := 3 })).updHub 0 (fun
    h => { h with run := some ⟨rel0, [[0], [1]], 0, 4, 0⟩ }), 0, rel0, ⟨rel0, [[0], [1]], 0, 4, 0⟩, [0], [[1]], ?_⟩⟩
  all_goals ((try dsimp only [AtHome, PortFree, Calm, Still, Quiet, Started, keyOf, entOf]) <;> decide +kernel)

theorem met_ReleaseAtCsn :
    (∃ (s : State) (cl : Cluster) (tep : Epoch) (r : Release) (ix : Nat),
      let x := s.csnAt cl.id
      let e := x.entAt ix
      s.wf = true ∧ twf BarEntry.init x.ents = true ∧ s.net = [.releaseCsn cl.id tep 0 r] ∧ s.stopped (.releaseCsn
        cl.id tep 0 r) = false ∧ x.rst = none ∧ tep = x.pepoch ∧ x.legsFor r.bar r.gen = [ix] ∧ pdLanes (s.precAt
        r.bar.toNat).payload = 0 ∧ x.phaseInv = [] ∧ x.phaseTodo = [] ∧ s.phaseBegun r = none ∧ e.waitm = 0 ∧
        e.nextArr r.stat ≠ e.exp ∧ x.edgeWait = false ∧ Calm s cl.id) ∧
    (∃ (s : State) (cl : Cluster) (tep : Epoch) (r : Release) (f : Nat),
      let x := s.csnAt cl.id
      s.wf = true ∧ twf BarEntry.init x.ents = true ∧ s.net = [.releaseCsn cl.id tep 0 r] ∧ s.stopped (.releaseCsn
        cl.id tep 0 r) = false ∧ x.rst = none ∧ noFnBar r.bar.toNat = false ∧ x.legsFor r.bar r.gen = [] ∧ s.fnOf
        cl.id = some f) ∧
    (∃ (s : State) (cl : Cluster) (tep : Epoch) (r : Release),
      let x := s.csnAt cl.id
      s.wf = true ∧ twf BarEntry.init x.ents = true ∧ s.net = [.releaseCsn cl.id tep 0 r] ∧ s.stopped (.releaseCsn
        cl.id tep 0 r) = false ∧ x.rst ≠ none) := by
  refine
    ⟨⟨{ R.updCsn 0 (fun x => { x with ents := [(0, { BarEntry.init with mode := 2, bar := 6, exp := 3, arr := 3, early := 1, gen := 3, rgen := 2 })] }) with net := [.releaseCsn 0 0 0 rel0] },
    ⟨0, 0⟩, 0, rel0, 0, ?_⟩, ⟨{ R.updFn 1 (fun x => { x with members := [0] }) with net := [.releaseCsn 0 0 0 rel0] },
    ⟨0, 0⟩, 0, rel0, 1, ?_⟩, ⟨{ R.updCsn 0 (fun x => { x with rst := some 0 }) with net := [.releaseCsn 0 0 0 rel0] },
    ⟨0, 0⟩, 0, rel0, ?_⟩⟩
  all_goals ((try dsimp only [AtHome, PortFree, Calm, Still, Quiet, Started, keyOf, entOf]) <;> decide +kernel)

theorem met_StatusPath :
    (∃ (s : State) (cl : Cluster) (i : Nat),
      let x := s.csnAt cl.id
      s.wf = true ∧ twf BarEntry.init x.ents = true ∧ twf (0 : Epoch) x.eptab = true ∧ x.rst = none ∧ x.highFree =
        some i) ∧
    (∃ (s : State) (cl : Cluster),
      let x := s.csnAt cl.id
      s.wf = true ∧ twf BarEntry.init x.ents = true ∧ twf (0 : Epoch) x.eptab = true ∧ x.rst = none ∧ x.highFree =
        none) ∧
    (∃ (s : State) (cl : Cluster) (bar : BarIx) (p : Option Cluster) (i : Nat),
      let x := s.csnAt cl.id
      let e := x.entAt i
      s.wf = true ∧ twf BarEntry.init x.ents = true ∧ twf (0 : Epoch) x.eptab = true ∧ x.rst = none ∧ x.legIx bar
        (p.map Cluster.id) = some i ∧ e.waitm = 0 ∧ Calm s cl.id) ∧
    (∃ (s : State) (cl : Cluster),
      let x := s.csnAt cl.id
      s.wf = true ∧ twf BarEntry.init x.ents = true ∧ twf (0 : Epoch) x.eptab = true ∧ x.rst = none) := by
  refine ⟨⟨R, ⟨0, 0⟩, 255, ?_⟩, ⟨R.updCsn 0 (fun x =>
    { x with ents := (List.range 256).map (fun i => (i, { BarEntry.init with mode := 1 })) }), ⟨0, 0⟩, ?_⟩, ⟨R.updCsn
    0 (fun x =>
    { x with ents := [(255, { BarEntry.init with mode := 2, bar := 6, exp := 3, gen := 3, rgen := 2 })] }), ⟨0, 0⟩, 6,
    none, 255, ?_⟩, ⟨R, ⟨0, 0⟩, ?_⟩⟩
  all_goals ((try dsimp only [AtHome, PortFree, Calm, Still, Quiet, Started, keyOf, entOf]) <;> decide +kernel)

theorem met_LinksAndRoutes :
    (∃ (s : State) (n : BitVec 7), s.wf = true ∧ twf Link.init s.mesh.links = true ∧ twf (0, 0) s.mesh.routes = true ∧
      twf 0 s.mesh.mcDrop = true ∧ 2 < n.toNat) ∧
    (∃ (s : State) (link : BitVec 17) (n : BitVec 7),
      let l := link.toNat
      let x := s.linkAt l
      s.wf = true ∧ twf Link.init s.mesh.links = true ∧ twf (0, 0) s.mesh.routes = true ∧ twf 0 s.mesh.mcDrop = true ∧
        2 < n.toNat ∧ x.retries < 4) ∧
    (∃ (s : State) (link : BitVec 17) (n : BitVec 7),
      let l := link.toNat
      let x := s.linkAt l
      s.wf = true ∧ twf Link.init s.mesh.links = true ∧ twf (0, 0) s.mesh.routes = true ∧ twf 0 s.mesh.mcDrop = true ∧
        2 < n.toNat ∧ x.retries = 4 ∧ x.down = false ∧ l < 65536) ∧
    (∃ (s : State) (link : BitVec 17) (n : BitVec 7),
      let l := link.toNat
      s.wf = true ∧ twf Link.init s.mesh.links = true ∧ twf (0, 0) s.mesh.routes = true ∧ twf 0 s.mesh.mcDrop = true ∧
        2 < n.toNat ∧ s.stopped (.linkNote l) = false) ∧
    (∃ (s : State) (n : BitVec 7), s.wf = true ∧ twf Link.init s.mesh.links = true ∧ twf (0, 0) s.mesh.routes = true ∧
      twf 0 s.mesh.mcDrop = true ∧ 2 < n.toNat ∧ twf (0 : BitVec 32) s.mesh.ports = true) ∧
    (∃ (s : State) (link : BitVec 17) (n : BitVec 7) (site : Field × Option Loc) (d : Nat) (p : BitVec 4) (q : BitVec
      4),
      let l := link.toNat
      let u := site.1.val * 128 + (match site.2 with | some l => l.val | none => 0x7D)
      s.wf = true ∧ twf Link.init s.mesh.links = true ∧ twf (0, 0) s.mesh.routes = true ∧ twf 0 s.mesh.mcDrop = true ∧
        2 < n.toNat ∧ s.stopped (.routeLoad u [(d, p, q)]) = false) ∧
    (∃ (s : State) (n : BitVec 7) (router : Cluster) (pk : LoadPkt) (since : _), s.wf = true ∧ twf Link.init
      s.mesh.links = true ∧ twf (0, 0) s.mesh.routes = true ∧ twf 0 s.mesh.mcDrop = true ∧ 2 < n.toNat ∧ s.net =
      [.loadMc [router.id] pk since] ∧ since + 4096 ≤ s.now) ∧
    (∃ (s : State) (n : BitVec 7) (hub : Field) (e : Nat), s.wf = true ∧ twf Link.init s.mesh.links = true ∧ twf (0,
      0) s.mesh.routes = true ∧ twf 0 s.mesh.mcDrop = true ∧ 2 < n.toNat ∧ (s.hubAt hub.val).edgeAt = some e ∧ e + 30
      ≤ s.now ∧ (s.hubAt hub.val).spineMuz = true) ∧
    (∃ (s : State) (n : BitVec 7) (hub : Field) (e : Nat), s.wf = true ∧ twf Link.init s.mesh.links = true ∧ twf (0,
      0) s.mesh.routes = true ∧ twf 0 s.mesh.mcDrop = true ∧ 2 < n.toNat ∧ (s.hubAt hub.val).edgeAt = some e ∧ e + 30
      ≤ s.now ∧ (s.hubAt hub.val).spineMuz = false) := by
  refine ⟨⟨R, 3, ?_⟩, ⟨R, 0, 3, ?_⟩, ⟨R.updLink 0 (fun l => { l with retries := 4 }), 0, 3, ?_⟩, ⟨R, 0, 3, ?_⟩, ⟨R, 3,
    ?_⟩, ⟨R, 0, 3, (0, none), 0, 0, 0, ?_⟩, ⟨{ R with net := [.loadMc [0] pkt0 0], now := 4096 }, 3, ⟨0, 0⟩, pkt0, 0,
    ?_⟩, ⟨{ R.updHub 0 (fun h => { h with spineMuz := true, edgeAt := some 0 }) with now := 30 }, 3, 0, 0, ?_⟩,
    ⟨{ R.updHub 0 (fun h => { h with edgeAt := some 0 }) with now := 30 }, 3, 0, 0, ?_⟩⟩
  all_goals ((try dsimp only [AtHome, PortFree, Calm, Still, Quiet, Started, keyOf, entOf]) <;> decide +kernel)

theorem met_EdgeAtCsn :
    (∃ (s : State) (hub : Field) (n : TickNote),
      let h := hub.val
      s.wf = true ∧ (s.hubAt h).muz = false ∧ s.stopped (.tickNote h none n) = false) ∧
    (∃ (s : State) (hub : Field) (l : Loc) (n : TickNote),
      let h := hub.val
      s.wf = true ∧ (s.csnAt (Cluster.id ⟨hub, l⟩)).rst = none ∧ s.stopped (.tickNote h (some (Cluster.id ⟨hub, l⟩))
        n) = false) ∧
    (∃ (s : State) (c : CoreRef),
      let cl := c.cl
      let x := s.csnAt cl.id
      s.wf = true ∧ x.rst = none ∧ s.heelBehind cl.id = false ∧ s.fnOf cl.id = none ∧ x.phaseInv = [] ∧ x.phaseTodo =
        [] ∧ (s.coresOf cl.id).filter (fun i => (s.coreAt i).armed) = [c.id]) ∧
    (∃ (s : State) (c : CoreRef),
      let cl := c.cl
      let x := s.csnAt cl.id
      s.wf = true ∧ x.rst = none ∧ s.heelBehind cl.id = false ∧ s.fnOf cl.id = none ∧ x.phaseInv = [] ∧ x.phaseTodo =
        [] ∧ (s.coresOf cl.id).filter (fun i => (s.coreAt i).armed) = [c.id] ∧ s.stopped (.edge cl.id) = false) ∧
    (∃ (s : State) (c : CoreRef),
      let cl := c.cl
      let x := s.csnAt cl.id
      s.wf = true ∧ x.rst ≠ none) := by
  refine ⟨⟨R, 0, note0, ?_⟩, ⟨R, 0, 0, note0, ?_⟩, ⟨R.updCore c0.id (fun x => { x with armed := true }), c0, ?_⟩,
    ⟨R.updCore c0.id (fun x => { x with armed := true }), c0, ?_⟩, ⟨R.updCsn c0.cl.id (fun x =>
    { x with rst := some 0 }), c0, ?_⟩⟩
  all_goals ((try dsimp only [AtHome, PortFree, Calm, Still, Quiet, Started, keyOf, entOf]) <;> decide +kernel)

theorem met_TickRun :
    (∃ (s : State), s.bru.step = 15 ∧ s.tick.st = .stopped) ∧
    (∃ (s : State), s.bru.step = 15 ∧ s.tick.st = .running) ∧
    (∃ (s : State), s.bru.step = 15 ∧ s.tick.st = .running ∧ s.tick.stopReq = true ∧ s.tick.cutDone = false ∧
      s.tick.pred ≤ s.now + 6000) ∧
    (∃ (s : State), s.bru.step = 15) := by
  refine ⟨⟨upS, ?_⟩, ⟨tickS (fun k => { k with pred := 9000 }), ?_⟩, ⟨tickS (fun k =>
    { k with pred := 9000, stopReq := true, num := 7 }) |> (fun s => { s with now := 3000 }), ?_⟩, ⟨tickS (fun k =>
    { k with num := 0x500000007 }), ?_⟩⟩
  all_goals ((try dsimp only [AtHome, PortFree, Calm, Still, Quiet, Started, keyOf, entOf]) <;> decide +kernel)

theorem met_TickCycle :
    (∃ (s : State),
      let k := s.tick
      s.wf = true ∧ Still s ∧ s.pl = [] ∧ s.slot = [] ∧ k.st = .running ∧ k.stopReq = false ∧ k.cutDone = false ∧
        k.pred ≤ s.now + 6000) ∧
    (∃ (s : State),
      let k := s.tick
      s.wf = true ∧ s.span.st = .none ∧ k.lead = none ∧ k.cutDone = true ∧ k.noted = false ∧ k.st = .running ∧ k.pred
        ≤ s.now + 4500) ∧
    (∃ (s : State),
      let k := s.tick
      s.wf = true ∧ Still s ∧ k.st = .running ∧ k.noted = true ∧ k.passed = false ∧ k.pred ≤ s.now ∧ s.now % 3 = 0) ∧
    (∃ (s : State),
      let k := s.tick
      s.wf = true ∧ s.heelsDone = false ∧ s.span.st = .none ∧ k.st = .running ∧ k.noted = true ∧ k.passed = false ∧
        k.pred ≤ s.now) ∧
    (∃ (s : State) (l : Nat),
      let k := s.tick
      s.wf = true ∧ Still s ∧ k.st = .held ∧ k.stopReq = false ∧ k.etime = none ∧ k.late = [] ∧ k.lastHeel = some l ∧
        (l + 122) / 3 * 3 ≤ s.now ∧ s.now % 3 = 0) ∧
    (∃ (s : State),
      let k := s.tick
      s.wf = true ∧ Still s ∧ k.st = .held ∧ k.stopReq = false ∧ k.late = [] ∧ k.etime = none ∧ k.dead ≤ s.now ∧ s.now
        % 3 = 0) := by
  refine ⟨⟨{ tickS (fun k => { k with pred := 9000 }) with now := 3000 }, ?_⟩,
    ⟨{ tickS (fun k => { k with pred := 9000, cutDone := true, perNext := 500000 }) with now := 4500 }, ?_⟩,
    ⟨{ tickS (fun k => { k with pred := 9000, cutDone := true, noted := true, perNext := 500000 }) with now := 9000 },
    ?_⟩,
    ⟨{ (tickS (fun k => { k with pred := 9000, cutDone := true, noted := true, perNext := 500000, per := 500000 })).updFn 1 (fun x => { x with run := some run0 }) with now := 9000 },
    ?_⟩,
    ⟨{ tickS (fun k => { k with st := .held, pred := 9000, cutDone := true, noted := true, passed := true, perNext := 500000, lastHeel := some 10000, dead := 99000 }) with now := 10122 },
    10000, ?_⟩,
    ⟨{ tickS (fun k => { k with st := .held, pred := 9000, cutDone := true, noted := true, passed := true, perNext := 500000, dead := 99000 }) with now := 99000 },
    ?_⟩⟩
  all_goals ((try dsimp only [AtHome, PortFree, Calm, Still, Quiet, Started, keyOf, entOf]) <;> decide +kernel)

theorem met_OperatingPoint :
    (∃ (s : State), s.wf = true) ∧
    (∃ (s : State) (hub : Field) (p : BitVec 3),
      let h := hub.val
      let x := s.hubAt h
      s.wf = true ∧ x.opNext = some p) ∧
    (∃ (s : State) (hub : Field),
      let h := hub.val
      let x := s.hubAt h
      s.wf = true ∧ x.fclkWait = true ∧ x.force = true) ∧
    (∃ (s : State) (hub : Field) (tep : Epoch),
      let h := hub.val
      let x := s.hubAt h
      s.wf = true ∧ x.muz = false ∧ tep = x.epoch ∧ ((∀ m, s.stopped (.mgmt h tep m) = false))) := by
  refine ⟨⟨R, ?_⟩, ⟨R.updHub 0 (fun x => { x with op := 4, opNext := some 2 }), 0, 2, ?_⟩, ⟨R.updHub 0 (fun x =>
    { x with op := 7, force := true, fclkWait := true }), 0, ?_⟩, ⟨R, 0, 0, ?_⟩⟩
  all_goals ((try dsimp only [Arrives, AtHome, keyOf]) <;> repeat' apply And.intro) <;>
    first | (intro x; cases x <;> rfl) | decide +kernel

theorem met_Telemetry :
    (∃ (s : State) (hub : Field),
      let h := hub.val
      let n := s.intvNow
      s.wf = true ∧ twf KField.init s.kiln.fields = true ∧ s.span.st = .none ∧ (s.hubAt h).muz = false ∧ n ≠ 0 ∧
        BitVec.ofNat 16 n ≠ (s.hubAt h).intv ∧ ((∀ l < 96, (s.csnAt (h * 128 + l)).rst = none))) ∧
    (∃ (s : State) (hub : Field) (m : Telem),
      let h := hub.val
      let k := s.kfAt h
      s.wf = true ∧ twf KField.init s.kiln.fields = true ∧ s.span.st = .none ∧ (s.hubAt h).muz = false ∧ s.stopped
        (.telem h m) = false ∧ s.parts = [] ∧ s.telemNew h m = true ∧ k.hasAcct (s.intvOf m.seq) = true ∧ k.alertForce
        = false ∧ k.thermForce = false ∧ k.lossForce = false ∧ k.halve = 0 ∧ m.drp.toNat ≤ bits s.kiln.didtF.toNat 16
        16 ∧ m.tmax.toNat < 8 * s.kiln.thot) ∧
    (∃ (s : State) (hub : Field),
      let h := hub.val
      let k := s.kfAt h
      s.wf = true ∧ twf KField.init s.kiln.fields = true ∧ s.span.st = .none ∧ (s.hubAt h).muz = false ∧ s.parts = []
        ∧ k.ahead = [] ∧ s.kiln.base + (k.acctTo + 2) * 150000 + 9000 ≤ s.now) ∧
    (∃ (s : State) (hub : Field),
      let h := hub.val
      let k := s.kfAt h
      let n := s.intvNow
      s.wf = true ∧ twf KField.init s.kiln.fields = true ∧ s.span.st = .none ∧ (s.hubAt h).muz = false ∧ k.lossForce =
        false ∧ k.heard + 5 ≤ n) := by
  refine ⟨⟨{ R with now := 150000 }, 0, ?_⟩, ⟨{ R.updKf 0 (fun k => { k with acctTo := 1 }) with now := 150000 }, 0,
    telem0, ?_⟩, ⟨{ R with now := 309000 }, 0, ?_⟩, ⟨{ R with now := 750000 }, 0, ?_⟩⟩
  all_goals ((try dsimp only [AtHome, PortFree, Calm, Still, Quiet, Started, keyOf, entOf]) <;> decide +kernel)

theorem met_KilnForces :
    (∃ (s : State) (hub : Field) (t0 : BitVec 32) (w : BitVec 3) (op : BitVec 3),
      let h := hub.val
      s.wf = true ∧ twf KField.init s.kiln.fields = true ∧ (s.hubAt h).muz = false ∧ s.stopped (.alertNote h ⟨true, w,
        op, t0⟩) = false) ∧
    (∃ (s : State) (hub : Field) (t0 : BitVec 32) (w : BitVec 3) (op : BitVec 3),
      let h := hub.val
      s.wf = true ∧ twf KField.init s.kiln.fields = true ∧ s.stopped (.alertNote h ⟨false, w, op, t0⟩) = false) ∧
    (∃ (s : State) (hub : Field),
      let h := hub.val
      let k := s.kfAt h
      s.wf = true ∧ twf KField.init s.kiln.fields = true ∧ s.span.st = .none ∧ k.lossForce = false ∧ k.alertForce =
        true ∧ k.thermForce = false ∧ s.kiln.hold ≤ k.quiet) ∧
    (∃ (s : State) (hub : Field),
      let h := hub.val
      let k := s.kfAt h
      s.wf = true ∧ twf KField.init s.kiln.fields = true ∧ s.span.st = .none ∧ k.lossForce = false ∧ k.thermForce =
        true ∧ k.alertForce = false ∧ 2 ≤ k.cool) ∧
    (∃ (s : State) (hub : Field),
      let h := hub.val
      let k := s.kfAt h
      s.wf = true ∧ twf KField.init s.kiln.fields = true ∧ 20 ≤ k.underN) ∧
    (∃ (s : State) (hub : Field) (a : Nat) (l : List Nat),
      let h := hub.val
      let k := s.kfAt h
      s.wf = true ∧ twf KField.init s.kiln.fields = true ∧ k.alerts = a :: l ∧ a + 3000000000 ≤ s.now) ∧
    (∃ (s : State) (f : Nat), s.wf = true ∧ twf KField.init s.kiln.fields = true ∧ s.span.st = .member ∧ s.jobs = [f]) := by
  refine ⟨⟨R, 0, 0, 0, 3, ?_⟩, ⟨R, 0, 0, 0, 3, ?_⟩, ⟨R.updKf 0 (fun k =>
    { k with alertForce := true, quiet := 200, word := 0x0203 }), 0, ?_⟩, ⟨R.updKf 0 (fun k =>
    { k with thermForce := true, cool := 2 }), 0, ?_⟩, ⟨R.updKf 0 (fun k =>
    { k with underN := 20, droopLim := some 2, ceilLim := some 3 }), 0, ?_⟩,
    ⟨{ R.updKf 0 (fun k => { k with alerts := [7], droopLim := some 2, ceilLim := some 3 }) with now := 3000000007 },
    0, 7, [], ?_⟩,
    ⟨{ R.updFn 1 (fun x => { x with job := true, members := [0] }) with span := { R.span with st := .member, lead := 2 } },
    1, ?_⟩⟩
  all_goals ((try dsimp only [AtHome, PortFree, Calm, Still, Quiet, Started, keyOf, entOf]) <;> decide +kernel)

theorem met_StepCommands :
    (∃ (s : State) (hub : Field) (m : PitchMsg) (plid : BitVec 11),
      let h := hub.val
      s.wf = true ∧ (s.hubAt h).muz = false ∧ s.stopped (.pitch h (s.hubAt h).epoch m) = false ∧ s.tick.any = false ∧
        m.plid.toNat < 2032) ∧
    (∃ (s : State) (hub : Field) (m : PitchMsg) (plid : BitVec 11),
      let h := hub.val
      let g := m.func.val
      s.wf = true ∧ (s.hubAt h).muz = false ∧ s.stopped (.pitch h (s.hubAt h).epoch m) = false ∧ s.tick.any = true ∧
        m.plid.toNat < 2032 ∧ m.tick = BitVec.ofNat 32 s.tick.num.toNat ∧ (s.fnAt g).run ≠ none ∧ (s.fnAt g).edgeHeld
        = false ∧ s.heelAtHub h g = false) ∧
    (∃ (s : State) (fn : Func) (x : Nat) (q : Nat × Nat × PitchImage),
      let f := fn.val
      let y := s.fnAt f
      s.wf = true ∧ (s.err.roleAt 0).isSome = true ∧ y.cst = .suspect ∧ y.run = none ∧ y.ready = false ∧ y.job = false
        ∧ y.replayOf = some q ∧ y.needSub = [x] ∧ y.subs = [] ∧ y.members = [x] ∧ y.spares = [] ∧ y.rpl = 0 ∧ y.selfOk
        = true ∧ y.lostNow = [] ∧ (s.hubAt (fieldOf x)).muz = false) ∧
    (∃ (s : State) (hub : Field) (p : Proxy),
      let h := hub.val
      let e := (s.hubAt h).epoch
      s.wf = true ∧ s.stopped (.proxy h e p) = false ∧ (s.hubAt h).muz = false ∧ s.proxyOk h p = true) ∧
    (∃ (s : State) (hub : Field) (p : Proxy),
      let h := hub.val
      let e := (s.hubAt h).epoch
      s.wf = true ∧ s.stopped (.proxy h e p) = false ∧ (((s.hubAt h).muz = true ∨ s.proxyOk h p = false))) ∧
    (∃ (s : State) (fn : Func),
      let f := fn.val
      let y := s.fnAt f
      s.wf = true ∧ y.cst = .suspect ∧ y.job = true ∧ s.span.st = .lead ∧ s.allReady f = false ∧ 4 ≤ y.readyWait) ∧
    (∃ (s : State) (plid : BitVec 11) (i : PitchImage), s.wf = true ∧ (s.plAt plid.toNat).viewApp = some i) := by
  refine ⟨⟨R, 0, pitch0, 0, ?_⟩,
    ⟨{ R.updFn 1 (fun x => { x with members := [0], run := some run0 }) with tick := { R.tick with any := true, num := 9, st := .running } },
    0, pitch0, 0, ?_⟩, ⟨R.updFn 1 (fun x =>
    { x with cst := .suspect, members := [5], needSub := [5], replayOf := some (3, 3, PitchImage.init), cmtCtrlF := 0x00000028 }),
    1, 5, (3, 3, PitchImage.init), ?_⟩, ⟨R.updFn 1 (fun x => { x with members := [5, 6] }), 0, proxy0, ?_⟩, ⟨R.updFn 1
    (fun x => { x with members := [5] }), 0, proxy0, ?_⟩,
    ⟨{ R.updFn 1 (fun x => { x with cst := .suspect, job := true, readyWait := 4 }) with span := { R.span with st := .lead, formed := 3 } },
    1, ?_⟩, ⟨R.updPl 3 (fun x =>
    { x with st := .queued, func := 1, viewApp := some PitchImage.init, viewDue := true }), 3, PitchImage.init, ?_⟩⟩
  all_goals ((try dsimp only [AtHome, PortFree, Calm, Still, Quiet, Started, keyOf, entOf]) <;> decide +kernel)

theorem met_LoadPackets :
    (∃ (s : State) (cl : Cluster) (p : LoadPkt) (since : _),
      let c := s.csnAt cl.id
      s.wf = true ∧ twf BarEntry.init c.ents = true ∧ c.rst = none ∧ c.loadOpen = true ∧ p.seq ≠ 0xFFFFFFFF ∧
        p.func.val = (s.fnOf cl.id).getD 0 ∧ s.net = [.loadMc [cl.id] p since] ∧ s.reachable cl.id = true ∧
        s.outOfTurn (.loadMc [cl.id] p since) = false) ∧
    (∃ (s : State) (cl : Cluster) (p : LoadPkt),
      let c := s.csnAt cl.id
      s.wf = true ∧ twf BarEntry.init c.ents = true ∧ c.rst = none ∧ c.loadOpen = true ∧ p.seq ≠ 0xFFFFFFFF ∧
        p.func.val = (s.fnOf cl.id).getD 0 ∧ s.stopped (.loadUc cl.id c.pepoch p) = false) ∧
    (∃ (s : State) (cl : Cluster) (p : LoadPkt),
      let c := s.csnAt cl.id
      s.wf = true ∧ twf BarEntry.init c.ents = true ∧ c.rst = none ∧ c.loadOpen = true ∧ p.seq = 0xFFFFFFFF ∧
        c.manifest = none ∧ s.stopped (.loadUc cl.id c.pepoch p) = false) ∧
    (∃ (s : State) (cl : Cluster) (ix : Nat),
      let c := s.csnAt cl.id
      let e := c.entAt ix
      s.wf = true ∧ twf BarEntry.init c.ents = true ∧ c.rst = none ∧ c.loadOpen = true ∧ c.legIx 65535 none = some ix
        ∧ e.arr ≠ e.exp) ∧
    (∃ (s : State) (cl : Cluster) (m : Manifest),
      let c := s.csnAt cl.id
      s.wf = true ∧ twf BarEntry.init c.ents = true ∧ c.rst = none ∧ c.loadOpen = true ∧ c.manifest = some m) := by
  refine ⟨⟨{ loadS with net := [.loadMc [0] pkt0 0] }, ⟨0, 0⟩, pkt0, 0, ?_⟩, ⟨loadS, ⟨0, 0⟩, pkt0, ?_⟩, ⟨loadS, ⟨0,
    0⟩, { pkt0 with seq := 0xFFFFFFFF }, ?_⟩, ⟨loadS, ⟨0, 0⟩, 255, ?_⟩, ⟨loadS.updCsn 0 (fun x =>
    { x with manifest := some man0 }), ⟨0, 0⟩, man0, ?_⟩⟩
  all_goals ((try dsimp only [AtHome, PortFree, Calm, Still, Quiet, Started, keyOf, entOf]) <;> decide +kernel)

theorem met_RepairAndBootLoad :
    (∃ (s : State) (hub : Field),
      let h := hub.val
      s.wf = true ∧ ((∀ g, s.stopped (.mgmt h (s.hubAt h).epoch g) = false)) ∧ (s.hubAt h).muz = false) ∧
    (∃ (s : State) (hub : Field) (d : Loc) (m : Manifest),
      let h := hub.val
      s.wf = true ∧ ((∀ g, s.stopped (.mgmt h (s.hubAt h).epoch g) = false)) ∧ (s.hubAt h).muz = false ∧ (s.csnAt (h *
        128 + d.val)).manifest = some m) ∧
    (∃ (s : State) (l : Load),
      let r := s.precAt 65535
      s.wf = true ∧ s.bru.load = some l ∧ l.begun = true ∧ l.checking = false ∧ r.st = .gather ∧ r.early = false ∧
        r.farr ≠ r.fexp) ∧
    (∃ (s : State),
      let f := s.bru.func.val
      s.wf = true ∧ s.bru.step = 15 ∧ s.bru.go = true ∧ s.bru.op = 7 ∧ s.bru.load = none ∧ (s.fnAt f).members = []) ∧
    (∃ (s : State),
      let f := s.bru.func.val
      s.wf = true ∧ s.bru.step = 15 ∧ s.bru.go = true ∧ s.bru.op = 7 ∧ s.bru.load = none ∧ (s.fnAt f).members ≠ []) := by
  refine ⟨⟨R.updCsn 0 (fun x => { x with nrcv := 4 }), 0, ?_⟩, ⟨R.updCsn 0 (fun x =>
    { x with manifest := some man0 }), 0, 0, man0, ?_⟩,
    ⟨{ (R.updPrec 65535 (fun r => { r with st := .gather, fexp := 1, farr := 0, mfs := 1 })).updFrec 65535 (fun r => { r with st := .gather, mem := 1, exp := 1 }) with bru := { R.bru with load := some load0 } },
    load0, ?_⟩, ⟨{ R with bru := { R.bru with step := 15, go := true, op := 7, func := 1 } }, ?_⟩,
    ⟨{ R.updFn 1 (fun x => { x with members := [0] }) with bru := { R.bru with step := 15, go := true, op := 7, func := 1 } },
    ?_⟩⟩
  all_goals ((try dsimp only [Arrives, AtHome, keyOf]) <;> repeat' apply And.intro) <;>
    first | (intro x; cases x <;> rfl) | decide +kernel

theorem met_AbortsAndNotes :
    (∃ (s : State) (hub : Field) (m : AbortMsg) (tep : Epoch),
      let h := hub.val
      s.wf = true ∧ 3 < m.reason.toNat ∧ s.stopped (.abort h none tep m) = false) ∧
    (∃ (s : State) (hub : Field) (l : Loc) (m : AbortMsg) (tep : Epoch),
      let h := hub.val
      s.wf = true ∧ 3 < m.reason.toNat ∧ s.stopped (.abort h (some l.val) tep m) = false) ∧
    (∃ (s : State) (hub : Field) (m : AbortMsg),
      let h := hub.val
      let f := m.func.val
      s.wf = true ∧ m.reason = 0 ∧ s.stopped (.abort h none (s.fnAt f).pepoch m) = false ∧ (s.hubAt h).muz = false ∧
        s.ken = [] ∧ s.barsOf f = [] ∧ s.err.abort = false) ∧
    (∃ (s : State) (hub : Field) (l : Loc) (m : AbortMsg) (ix : Nat) (b : BarEntry),
      let h := hub.val
      let cl := h * 128 + l.val
      s.wf = true ∧ m.reason = 0 ∧ s.stopped (.abort h (some l.val) (s.csnAt cl).pepoch m) = false ∧ (s.csnAt cl).rst
        = none ∧ (s.csnAt cl).ents = [(ix, b)] ∧ b.mode = 1 ∧ b.waitm = 0 ∧ Calm s cl ∧ ((∀ i ∈ s.coresOf cl,
        (s.coreAt i).reqs = []))) ∧
    (∃ (s : State) (hub : Field) (l : Loc) (m : AbortMsg),
      let h := hub.val
      let cl := h * 128 + l.val
      s.wf = true ∧ m.reason = 1 ∧ s.stopped (.abort h (some l.val) (s.csnAt cl).pepoch m) = false ∧ (s.csnAt cl).rst
        = none) ∧
    (∃ (s : State) (hub : Field) (n : ResetNote) (k : Nat) (e : KEntry),
      let h := hub.val
      s.wf = true ∧ s.stopped (.resetNote (some h) n) = false ∧ (s.hubAt h).muz = false ∧ s.ken = [(k, e)] ∧ homeHub k
        = h ∧ e.kind = .lock ∧ e.st = .held ∧ e.owner = n.master ∧ e.queue = [] ∧ e.leash = .none ∧ n.kind = .core) ∧
    (∃ (s : State) (n : ResetNote), s.wf = true ∧ n.kind ≠ .contain ∧ s.stopped (.resetNote none n) = false ∧
      s.span.st = .none) ∧
    (∃ (s : State) (n : ResetNote), s.wf = true ∧ n.kind = .contain ∧ s.stopped (.resetNote none n) = false ∧ ((n.cls
      = 0x05 ∨ n.cls = 0x0B)) ∧ (s.fnAt n.func.val).rst = none) ∧
    (∃ (s : State) (n : ResetNote), s.wf = true ∧ n.kind = .contain ∧ s.stopped (.resetNote none n) = false ∧ ((n.cls
      = 0x06 ∨ n.cls = 0x0A ∧ n.shared = true))) := by
  refine ⟨⟨R, 0, ⟨1, 4, .aborted⟩, 0, ?_⟩, ⟨R, 0, 0, ⟨1, 4, .aborted⟩, 0, ?_⟩, ⟨R.updFn 1 (fun x =>
    { x with members := [0, 1, 200] }), 0, ⟨1, 0, .aborted⟩, ?_⟩, ⟨R.updCsn 0 (fun x =>
    { x with ents := [(3, { BarEntry.init with mode := 1, exp := 4, arr := 2, gen := 3, rgen := 2 })] }), 0, 0, ⟨1, 0,
    .aborted⟩, 3, { BarEntry.init with mode := 1, exp := 4, arr := 2, gen := 3, rgen := 2 }, ?_⟩, ⟨R.updCsn 0 (fun x
    => { x with loadOpen := true }), 0, 0, ⟨1, 1, .aborted⟩, ?_⟩, ⟨kenS .lock (fun e =>
    { e with st := .held, owner := 5 }), 0, rnote0, 0, { KEntry.init with kind := .lock, st := .held, owner := 5 },
    ?_⟩, ⟨R, rnote0, ?_⟩, ⟨R, ⟨.contain, 0, 0x0B, 2, false, 0⟩, ?_⟩, ⟨R, ⟨.contain, 0, 0x06, 2, false, 0⟩, ?_⟩⟩
  all_goals ((try dsimp only [AtHome, PortFree, Calm, Still, Quiet, Started, keyOf, entOf]) <;> decide +kernel)

theorem met_CoreResets :
    (∃ (s : State) (c : CoreRef) (cl : Cluster),
      let x := s.coreAt c.id
      s.wf = true ∧ x.rst = none ∧ x.bwait = none ∧ ((∀ n ∈ c.id :: s.coresOf c.cl.id, (s.coreAt n).reqs = [] ∧
        (s.coreAt n).stall = none)) ∧ (s.csnAt c.cl.id).phaseTodo = []) ∧
    (∃ (s : State) (c : CoreRef) (cl : Cluster) (since : Nat),
      let x := s.coreAt c.id
      s.wf = true ∧ x.rst = some since ∧ (s.csnAt c.cl.id).rst = none ∧ x.epochAt = none ∧ x.reqs = []) ∧
    (∃ (s : State) (c : CoreRef) (cl : Cluster) (since : Nat),
      let x := s.coreAt c.id
      s.wf = true ∧ x.rst = some since ∧ (s.csnAt c.cl.id).rst = none ∧ x.epochAt = none ∧ since + 6300000 ≤ s.now) ∧
    (∃ (s : State) (cl : Cluster),
      let y := s.csnAt cl.id
      s.wf = true ∧ y.epochDue = true ∧ y.epochAt = none ∧ ((∀ n ∈ s.coresOf cl.id, (s.coreAt n).epochAt = none))) := by
  refine ⟨⟨R.updCore c0.id (fun x => { x with go := true, armed := true, epoch := 4 }), c0, ⟨0, 0⟩, ?_⟩,
    ⟨{ R.updCore c0.id (fun x => { x with go := true, rst := some 5, epoch := 4 }) with now := 6300005 }, c0, ⟨0, 0⟩,
    5, ?_⟩, ⟨{ R.updCore c0.id (fun x => { x with rst := some 5, epoch := 4, reqs := [req0] }) with now := 6300005 },
    c0, ⟨0, 0⟩, 5, ?_⟩, ⟨R.updCsn 0 (fun x => { x with epochDue := true, epoch := 4 }), ⟨0, 0⟩, ?_⟩⟩
  all_goals ((try dsimp only [AtHome, PortFree, Calm, Still, Quiet, Started, keyOf, entOf]) <;> decide +kernel)

theorem met_PartitionResets :
    (∃ (s : State) (fn : Func),
      let f := fn.val
      let x := s.fnAt f
      s.wf = true ∧ x.rst = none) ∧
    (∃ (s : State) (fn : Func) (r : ResetRun),
      let f := fn.val
      let x := s.fnAt f
      s.wf = true ∧ x.rst = some r) ∧
    (∃ (s : State) (fn : Func),
      let f := fn.val
      let x := s.fnAt f
      s.wf = true ∧ x.rst = none ∧ s.kat.cur = none ∧ x.run = none ∧ x.choice = none ∧ x.job = false ∧ x.rings = [] ∧
        s.barsOf f = [] ∧ s.span.relays = [] ∧ s.bru.load = none) ∧
    (∃ (s : State) (fn : Func) (r : ResetRun),
      let f := fn.val
      let x := s.fnAt f
      s.wf = true ∧ x.rst = some r ∧ r.begun = true ∧ x.members.all s.clusterRetired = true ∧ s.fnRetired f r.since =
        true ∧ x.epochAt = none ∧ s.barsOf f = [] ∧ s.bru.load = none) ∧
    (∃ (s : State) (fn : Func) (r : ResetRun),
      let f := fn.val
      let x := s.fnAt f
      s.wf = true ∧ x.rst = some r ∧ r.since + 30000000 ≤ s.now) := by
  refine ⟨⟨R, 2, ?_⟩, ⟨R.updFn 2 (fun x => { x with rst := some ⟨0x0B, false, 4, true⟩ }), 2, ⟨0x0B, false, 4, true⟩,
    ?_⟩, ⟨R.updFn 2 (fun x => { x with members := [0], cst := .suspect, pepoch := 3 }), 2, ?_⟩,
    ⟨{ (R.updFn 2 (fun x => { x with members := [0], rst := some ⟨0x0B, false, 4, true⟩, ckpt := 5, cep := 7 })).updCsn 0 (fun x => { x with rst := some 4 }) with now := 4 },
    2, ⟨0x0B, false, 4, true⟩, ?_⟩,
    ⟨{ (R.updFn 2 (fun x => { x with members := [0], rst := some ⟨0x0B, false, 4, true⟩ })) with now := 30000004 }, 2,
    ⟨0x0B, false, 4, true⟩, ?_⟩⟩
  all_goals ((try dsimp only [AtHome, PortFree, Calm, Still, Quiet, Started, keyOf, entOf]) <;> decide +kernel)

theorem met_ErrorCommands :
    (∃ (s : State) (v : Reg),
      let n := v.toNat
      s.wf = true ∧ s.bru.step = 15 ∧ s.err.reinit = false ∧ s.err.abort = false ∧ bit n 23 = true ∧ bit n 22 = false
        ∧ bit n 21 = false ∧ bits n 24 8 = 0x5A) ∧
    (∃ (s : State) (v : Reg),
      let n := v.toNat
      s.wf = true ∧ s.bru.step = 15 ∧ s.err.reinit = false ∧ s.err.abort = false ∧ bit n 23 = true ∧ bit n 22 = false
        ∧ bit n 21 = false ∧ bits n 24 8 ≠ 0x5A) ∧
    (∃ (s : State) (v : Reg),
      let n := v.toNat
      let fn := fnOfNat (bits n 0 6)
      let f := fn.val
      let x := s.fnAt f
      s.wf = true ∧ s.bru.step = 15 ∧ s.err.reinit = false ∧ s.err.abort = false ∧ bit n 22 = true ∧ bit n 23 = false
        ∧ bit n 21 = false ∧ x.rst = none) ∧
    (∃ (s : State) (v : Reg),
      let n := v.toNat
      let fn := fnOfNat (bits n 0 6)
      let f := fn.val
      let x := s.fnAt f
      s.wf = true ∧ s.bru.step = 15 ∧ s.err.reinit = false ∧ s.err.abort = false ∧ bit n 21 = true ∧ bit n 22 = false
        ∧ bit n 23 = false ∧ s.kat.cur = none ∧ x.run = none ∧ x.choice = none ∧ x.job = false ∧ s.barsOf f = [] ∧
        s.span.relays = []) ∧
    (∃ (s : State) (v : Reg),
      let n := v.toNat
      s.wf = true ∧ s.bru.step = 15 ∧ bit n 31 = true) ∧
    (∃ (s : State), s.wf = true ∧ s.err.ppHalt = [false, false] ∧ s.err.ppExp = [none, none]) ∧
    (∃ (s : State), s.wf = true ∧ s.err.ppMuz = [false, false] ∧ s.err.ppHalt.length = 2) ∧
    (∃ (s : State) (m : LogMsg) (ms : List LogMsg) (a : BitVec 7), s.wf = true ∧ s.bru.i3c = some a ∧ s.err.aon = [] ∧
      s.err.cper = m :: ms) ∧
    (∃ (s : State), s.wf = true ∧ s.err.pwrcyc = true ∧ s.bru.aonPg = true ∧ s.err.pwrcycAt + 30000000000 ≤ s.now ∧
      s.err.aon.length < 16) := by
  refine ⟨⟨upS, 0x5A800003, ?_⟩, ⟨upS, 0x59800003, ?_⟩, ⟨upS, 0x004000C3, ?_⟩, ⟨upS.updFn 3 (fun x =>
    { x with cst := .suspect, pepoch := 3 }), 0x00200003, ?_⟩, ⟨{ upS with err := { R.err with hist := [hist0] } },
    0x80000007, ?_⟩, ⟨R, ?_⟩, ⟨{ R with err := { R.err with ppHalt := [true, true] } }, ?_⟩,
    ⟨{ R with err := { R.err with cper := [log0] }, bru := { R.bru with i3c := some 9 } }, log0, [], 9, ?_⟩,
    ⟨{ R with err := { R.err with pwrcyc := true }, bru := { R.bru with aonPg := true }, now := 30000000000 }, ?_⟩⟩
  all_goals ((try dsimp only [AtHome, PortFree, Calm, Still, Quiet, Started, keyOf, entOf]) <;> decide +kernel)

theorem met_HubsThatDisagree :
    (∃ (s : State) (hub : Field) (tep : Epoch) (a : CArrive),
      let h := hub.val
      (s.hubAt h).muz = false ∧ tep = (s.hubAt h).epoch ∧ s.stopped (.arrive h tep a) = false ∧ a.bar.toNat < 65520) ∧
    (∃ (s : State) (hub : Field) (tep : Epoch) (m : PitchMsg),
      let h := hub.val
      (s.hubAt h).muz = false ∧ tep = (s.hubAt h).epoch ∧ s.stopped (.pitch h tep m) = false ∧ m.plid.toNat < 2032) ∧
    (∃ (s : State) (hub : Field) (tep : Epoch) (p : Proxy),
      let h := hub.val
      (s.hubAt h).muz = false ∧ tep = (s.hubAt h).epoch ∧ s.stopped (.proxy h tep p) = false) ∧
    (∃ (s : State) (hub : Field) (tep : Epoch) (r : Release),
      let h := hub.val
      (s.hubAt h).muz = false ∧ s.stopped (.release h tep r) = false ∧ r.bar.toNat < 65520 ∧ tep = s.barEpoch
        r.bar.toNat) ∧
    (∃ (s : State) (hub : Field) (x : Release) (q : List Release),
      let h := hub.val
      (s.hubAt h).muz = false ∧ (s.hubAt h).mayBegin s.now = true ∧ (s.hubAt h).waveQ = x :: q) := by
  refine ⟨⟨R, 0, 0, arr0, ?_⟩, ⟨R, 0, 0, pitch0, ?_⟩, ⟨R, 0, 0, proxy0, ?_⟩, ⟨R, 0, 0, rel0, ?_⟩, ⟨R.updHub 0 (fun x
    => { x with waveQ := [rel0] }), 0, rel0, [], ?_⟩⟩
  all_goals ((try dsimp only [AtHome, PortFree, Calm, Still, Quiet, Started, keyOf, entOf]) <;> decide +kernel)

theorem met_LogsAndScrubbing :
    (∃ (s : State) (m : LogMsg), s.wf = true ∧ ((4 < m.sev.toNat ∨ m.perm = 3 ∨ 9 < m.act.toNat)) ∧ s.stopped (.log m)
      = false) ∧
    (∃ (s : State) (m : LogMsg) (uid : UnitId), s.wf = true ∧ s.stopped (.log m) = false ∧ m.sev = 2 ∧ m.perm ≠ 3 ∧
      m.act.toNat ≤ 9 ∧ threshRow m.uid.kind = none ∧ s.err.cper.length < 256) ∧
    (∃ (s : State) (m : LogMsg) (uid : UnitId), s.wf = true ∧ s.stopped (.log m) = false ∧ m.sev = 2 ∧ m.perm ≠ 3 ∧
      m.act.toNat ≤ 9 ∧ m.uid.kind = .hubMash ∧ m.perm = 1 ∧ m.cls ≠ 0x14 ∧ s.err.hist = []) ∧
    (∃ (s : State), s.wf = true) ∧
    (∃ (s : State) (n : BitVec 4), s.wf = true ∧ ((n = 1 ∨ n = 2)) ∧ s.err.corr = [] ∧ s.err.ce = []) ∧
    (∃ (s : State) (n : BitVec 4) (c : Cluster) (f : Nat), s.wf = true ∧ 2 < n.toNat ∧ s.fnOf c.id = some f) ∧
    (∃ (s : State) (n : BitVec 4), s.wf = true ∧ 2 < n.toNat) ∧
    (∃ (s : State) (uid : UnitId) (r : HistRec), s.wf = true ∧ s.err.hist = [r] ∧ r.uid = uid ∧ r.st = .watch ∧
      r.events = []) := by
  refine ⟨⟨R, { log0 with sev := 5 }, ?_⟩, ⟨R, { log0 with sev := 2, uid := ⟨.wafer, 0⟩ }, uid0, ?_⟩, ⟨R,
    { log0 with sev := 2, perm := 1, uid := ⟨.hubMash, 9⟩ }, uid0, ?_⟩,
    ⟨{ R with err := { R.err with rebuilt := [(uid0, 0)] } }, ?_⟩, ⟨R, 2, ?_⟩, ⟨R.updFn 2 (fun x =>
    { x with members := [0] }), 3, ⟨0, 0⟩, 2, ?_⟩, ⟨R, 3, ?_⟩,
    ⟨{ R with err := { R.err with hist := [{ hist0 with st := .watch }] } }, uid0, { hist0 with st := .watch }, ?_⟩⟩
  all_goals ((try dsimp only [AtHome, PortFree, Calm, Still, Quiet, Started, keyOf, entOf]) <;> decide +kernel)

theorem met_Doorbells :
    (∃ (s : State) (f : Func) (r : RingIx), s.wf = true ∧ s.bru.step = 15 ∧ ¬ r.val ∈ (s.fnAt f.val).rings) ∧
    (∃ (s : State) (f : Func) (r : RingIx) (p : BitVec 16),
      let x := s.ringAt r.val
      s.wf = true ∧ s.bru.step = 15 ∧ r.val ∈ (s.fnAt f.val).rings ∧ x.badPi p.toNat = true) ∧
    (∃ (s : State) (f : Func) (r : RingIx) (p : BitVec 16),
      let x := s.ringAt r.val
      s.wf = true ∧ s.bru.step = 15 ∧ r.val ∈ (s.fnAt f.val).rings ∧ x.badHead p.toNat = true) ∧
    (∃ (s : State) (f : Func) (r : RingIx) (p : BitVec 16) (n : Nat),
      let x := s.ringAt r.val
      s.wf = true ∧ s.bru.step = 15 ∧ r.val ∈ (s.fnAt f.val).rings ∧ x.badPi p.toNat = false ∧ x.st = .run ∧ s.ringFn
        r.val = some f.val ∧ (s.fnAt f.val).hold = false ∧ (s.fnAt f.val).rst = none ∧ 0 < n ∧ n ≤ 8 ∧ x.asked + n =
        p.toNat) ∧
    (∃ (s : State) (f : Func) (r : RingIx) (p : BitVec 16),
      let x := s.ringAt r.val
      s.wf = true ∧ s.bru.step = 15 ∧ r.val ∈ (s.fnAt f.val).rings ∧ x.badHead p.toNat = false ∧ x.st ≠ .off) := by
  refine ⟨⟨upS, 0, 0, ?_⟩, ⟨ringS [] id, 1, 5, 64, ?_⟩, ⟨ringS [] id, 1, 5, 1, ?_⟩, ⟨ringS [] id, 1, 5, 8, 8, ?_⟩,
    ⟨ringS [] (fun x => { x with cqp := 3, unack := 3 }), 1, 5, 3, ?_⟩⟩
  all_goals ((try dsimp only [AtHome, PortFree, Calm, Still, Quiet, Started, keyOf, entOf]) <;> decide +kernel)

theorem met_FetchAndPost :
    (∃ (s : State) (r : RingIx) (f : Nat) (d : BitVec 512) (c : Rec),
      let x := s.ringAt r.val
      let e : Desc := ⟨BitVec.ofNat 16 (x.sqc % x.size), d⟩
      s.wf = true ∧ x.st = .run ∧ (x.asked + x.size - x.sqc) % x.size ≠ 0 ∧ s.ringFn r.val = some f ∧ (s.fnAt f).rst =
        none ∧ (s.fnAt f).hold = false ∧ x.fetched = [] ∧ s.mayStart r.val e = true ∧ x.started.all (fun c => c.d.sqi
        != e.sqi) = true) ∧
    (∃ (s : State) (r : RingIx) (f : Nat) (d : BitVec 512) (c : Rec) (rest : List Rec),
      let x := s.ringAt r.val
      s.wf = true ∧ s.ringFn r.val = some f ∧ x.canPost = true ∧ (s.fnAt f).hold = false ∧ (s.fnAt f).dlEn = false ∧
        x.ready = c :: rest ∧ c.note = false ∧ ((x.old ≠ 0 ∨ ∀ d ∈ rest, c.rank ≤ d.rank))) ∧
    (∃ (s : State) (r : RingIx) (f : Nat) (d : BitVec 512) (c : Rec),
      let x := s.ringAt r.val
      s.wf = true ∧ s.ringFn r.val = some f ∧ x.canPost = true ∧ (s.fnAt f).hold = false ∧ (s.fnAt f).dlEn = false ∧
        x.old = 0 ∧ c ∈ x.ready ∧ c.note = false ∧ ((∀ d ∈ x.ready, d ≠ c → c.rank < d.rank))) ∧
    (∃ (s : State) (r : RingIx) (f : Nat) (since : Nat),
      let x := s.ringAt r.val
      s.wf = true ∧ s.ringFn r.val = some f ∧ x.firstAt = some since ∧ since + 750 * x.timOf ≤ s.now ∧ (s.fnAt f).hold
        = false ∧ (s.fnAt f).mskd = []) ∧
    (∃ (s : State) (fn : Func) (v : BitVec 11), s.wf = true ∧ (s.fnAt fn.val).pend = [v] ∧ (s.fnAt fn.val).mskd = [v]
      ∧ (s.fnAt fn.val).hold = false) ∧
    (∃ (s : State) (fn : Func) (v : BitVec 11), s.wf = true ∧ (s.fnAt fn.val).pend = [v] ∧ (s.fnAt fn.val).mskd = [v]
      ∧ (s.fnAt fn.val).hold = true) := by
  refine ⟨⟨ringS [] (fun x => { x with pi := 3, asked := 3 }), 5, 1, desc 1 0x1E 0, rec0, ?_⟩, ⟨ringS [] (fun x =>
    { x with ready := [rec0], cqp := 63 }), 5, 1, 0, rec0, [], ?_⟩, ⟨ringS [] (fun x =>
    { x with ready := [distGenRec 3, rec0] }), 5, 1, 0, rec0, ?_⟩,
    ⟨{ ringS [] (fun x => { x with rmodF := 0x01000002, firstAt := some 4, cnt := 1 }) with now := 1504 }, 5, 1, 4,
    ?_⟩, ⟨R.updFn 2 (fun x => { x with pend := [7], mskd := [7] }), 2, 7, ?_⟩, ⟨R.updFn 2 (fun x =>
    { x with pend := [7], mskd := [7], hold := true }), 2, 7, ?_⟩⟩
  all_goals ((try dsimp only [AtHome, PortFree, Calm, Still, Quiet, Started, keyOf, entOf]) <;> decide +kernel)

theorem met_RingControl :
    (∃ (s : State) (f : Func) (r : RingIx),
      let x := s.ringAt r.val
      s.wf = true ∧ s.bru.step = 15 ∧ r.val ∈ (s.fnAt f.val).rings ∧ x.st = .off) ∧
    (∃ (s : State) (f : Func) (r : RingIx),
      let x := s.ringAt r.val
      s.wf = true ∧ s.bru.step = 15 ∧ r.val ∈ (s.fnAt f.val).rings ∧ x.st = .run ∧ x.waits = [] ∧ (s.fnAt f.val).cask
        = none) ∧
    (∃ (s : State) (f : Func) (r : RingIx),
      let x := s.ringAt r.val
      s.wf = true ∧ s.bru.step = 15 ∧ r.val ∈ (s.fnAt f.val).rings ∧ x.st = .drained) ∧
    (∃ (s : State) (f : Func) (r : RingIx),
      let x := s.ringAt r.val
      s.wf = true ∧ s.bru.step = 15 ∧ r.val ∈ (s.fnAt f.val).rings ∧ x.st = .sparge ∧ x.started = [] ∧ x.ready = []) := by
  refine ⟨⟨ringS [] (fun x => { x with st := .off, cqp := 4, phase := false }), 1, 5, ?_⟩, ⟨ringS [desc 6 1 (64 * 2 ^
    256)] (fun x => { x with en := true, fetched := [⟨4, desc 6 1 0⟩], sqc := 4, pi := 9, asked := 5 }), 1, 5, ?_⟩,
    ⟨ringS [] (fun x => { x with st := .drained, en := true }), 1, 5, ?_⟩, ⟨ringS [] (fun x =>
    { x with st := .sparge }), 1, 5, ?_⟩⟩
  all_goals ((try dsimp only [AtHome, PortFree, Calm, Still, Quiet, Started, keyOf, entOf]) <;> decide +kernel)

theorem met_DataCommands :
    (∃ (s : State) (r : RingIx) (i : BitVec 16) (c : Cmd) (f : Nat), Started s r i 0 0 c f) ∧
    (∃ (s : State) (r : RingIx) (i : BitVec 16) (c : Cmd) (f : Nat),
      let d := c.d.bits
      Started s r i 6 1 c f ∧ dLen d ≠ 0) ∧
    (∃ (s : State) (r : RingIx) (i : BitVec 16) (c : Cmd) (f : Nat),
      let d := c.d.bits
      Started s r i 6 1 c f ∧ dLen d = 0) ∧
    (∃ (s : State) (r : RingIx) (i : BitVec 16) (c : Cmd) (f : Nat),
      let d := c.d.bits
      Started s r i 6 2 c f ∧ dLen d ≠ 0) ∧
    (∃ (s : State) (r : RingIx) (i : BitVec 16) (c : Cmd) (f : Nat),
      let d := c.d.bits
      Started s r i 6 2 c f ∧ dLen d = 0) ∧
    (∃ (s : State) (r : RingIx) (i : BitVec 16) (c : Cmd) (f : Nat),
      let d := c.d.bits
      let len := Nat.min (dLen d) 3484048
      Started s r i 7 1 c f ∧ (s.fnAt f).dlEn = false ∧ 0 < len) ∧
    (∃ (s : State) (r : RingIx) (i : BitVec 16) (c : Cmd) (f : Nat), (s.ringAt r.val).dataCmd i = some c ∧ s.ringFn
      r.val = some f ∧ s.wf = true) ∧
    (∃ (s : State) (r : RingIx) (i : BitVec 16) (c : Cmd),
      let d := c.d.bits
      (s.ringAt r.val).cmdAt i = some c ∧ c.done = false ∧ usesHost c = true ∧ s.wf = true ∧ dFam d ≠ 6) ∧
    (∃ (s : State) (r : RingIx) (i : BitVec 16) (c : Cmd),
      let d := c.d.bits
      (s.ringAt r.val).cmdAt i = some c ∧ c.done = false ∧ usesHost c = true ∧ s.wf = true ∧ dFam d = 6) := by
  refine ⟨⟨ringS [desc 0 0 0] id, 5, 3, cmd0 (desc 0 0 0), 1, ?_⟩, ⟨ringS [desc 6 1 (64 * 2 ^ 256)] id, 5, 3, cmd0
    (desc 6 1 (64 * 2 ^ 256)), 1, ?_⟩, ⟨ringS [desc 6 1 0] id, 5, 3, cmd0 (desc 6 1 0), 1, ?_⟩, ⟨ringS [desc 6 2 (64 *
    2 ^ 256)] id, 5, 3, cmd0 (desc 6 2 (64 * 2 ^ 256)), 1, ?_⟩, ⟨ringS [desc 6 2 0] id, 5, 3, cmd0 (desc 6 2 0), 1,
    ?_⟩, ⟨ringS [desc 7 1 (64 * 2 ^ 256)] id, 5, 3, cmd0 (desc 7 1 (64 * 2 ^ 256)), 1, ?_⟩, ⟨ringS [] (fun x =>
    { x with started := [{ cmd0 (desc 6 2 (64 * 2 ^ 256)) with begun := true }] }), 5, 3,
    { cmd0 (desc 6 2 (64 * 2 ^ 256)) with begun := true }, 1, ?_⟩, ⟨ringS [desc 4 1 0] id, 5, 3, cmd0 (desc 4 1 0),
    ?_⟩, ⟨ringS [] (fun x => { x with started := [{ cmd0 (desc 6 2 (64 * 2 ^ 256)) with begun := true }] }), 5, 3,
    { cmd0 (desc 6 2 (64 * 2 ^ 256)) with begun := true }, ?_⟩⟩
  all_goals ((try dsimp only [AtHome, PortFree, Calm, Still, Quiet, Started, keyOf, entOf]) <;> decide +kernel)

theorem met_CommitAndKennelDescriptors :
    (∃ (s : State) (r : RingIx) (i : BitVec 16) (c : Cmd) (f : Nat) (img : List Byte),
      let x := s.fnAt f
      Started s r i 3 1 c f ∧ ((∀ m ∈ imgMembers img, m.1 ∈ x.members ∧ s.inService m.1 = true))) ∧
    (∃ (s : State) (r : RingIx) (i : BitVec 16) (c : Cmd) (f : Nat) (img : List Byte),
      let x := s.fnAt f
      Started s r i 3 1 c f ∧ ((∃ m ∈ imgMembers img, ¬ m.1 ∈ x.members ∨ s.inService m.1 = false))) ∧
    (∃ (s : State) (r : RingIx) (i : BitVec 16) (c : Cmd) (f : Nat),
      let d := c.d.bits
      let x := s.fnAt f
      let e := BitVec.ofNat 32 (dField d 352 32)
      Started s r i 3 2 c f ∧ e.toNat ≤ x.ckpt.toNat) ∧
    (∃ (s : State) (r : RingIx) (i : BitVec 16) (c : Cmd) (f : Nat),
      let d := c.d.bits
      let x := s.fnAt f
      let e := BitVec.ofNat 32 (dField d 352 32)
      Started s r i 3 2 c f ∧ x.ckpt.toNat < e.toNat ∧ x.cask = none) ∧
    (∃ (s : State) (r : RingIx) (i : BitVec 16) (c : Cmd) (f : Nat),
      let d := c.d.bits
      let x := s.fnAt f
      let e := BitVec.ofNat 32 (dField d 352 32)
      Started s r i 3 2 c f ∧ x.ckpt.toNat < e.toNat ∧ x.cask ≠ none) ∧
    (∃ (s : State) (r : RingIx) (i : BitVec 16) (c : Cmd),
      let d := c.d.bits
      (s.ringAt r.val).kenToRun i = some c ∧ s.wf = true ∧ ((kopOf (dOp d) = none ∨ dScope d = 3 ∨ 2 < dField d 380
        4))) ∧
    (∃ (s : State) (r : RingIx) (i : BitVec 16) (c : Cmd) (f : Nat) (op : KOp),
      let d := c.d.bits
      let e := BitVec.ofNat 32 (dField d 352 32)
      let q := dKen d
      let h := homeHub (kennelIndex q.cls.toNat q.index.toNat)
      (s.ringAt r.val).kenToRun i = some c ∧ s.wf = true ∧ (s.ringAt r.val).started.all (fun e => e.d.sqi == i ||
        e.done || !e.begun || dFam e.d.bits != 1 || e.tag.isSome || e.inv.isSome) ∧ (s.ringAt r.val).behind c = false
        ∧ kopOf (dOp d) = some op ∧ op ≠ .withdraw ∧ s.ringFn r.val = some f ∧ ((dScope d = 0 ∨ dScope d = 1)) ∧
        dField d 380 4 ≤ 1 ∧ q.index.toNat < classRange q.cls.toNat ∧ (s.hubAt h).muz = false ∧ dPub d = false) := by
  refine ⟨⟨ringS [desc 3 1 0] id, 5, 3, cmd0 (desc 3 1 0), 1, [0, 1], ?_⟩, ⟨ringS [desc 3 1 0] id, 5, 3, cmd0 (desc 3
    1 0), 1, [0, 0, 1], ?_⟩, ⟨(ringS [desc 3 2 (5 * 2 ^ 352)] id).updFn 1 (fun x => { x with ckpt := 5 }), 5, 3, cmd0
    (desc 3 2 (5 * 2 ^ 352)), 1, ?_⟩, ⟨(ringS [desc 3 2 (6 * 2 ^ 352)] id).updFn 1 (fun x => { x with ckpt := 5 }), 5,
    3, cmd0 (desc 3 2 (6 * 2 ^ 352)), 1, ?_⟩, ⟨(ringS [desc 3 2 (6 * 2 ^ 352)] id).updFn 1 (fun x =>
    { x with ckpt := 5, cask := some ⟨5, 1, 6, 0⟩ }), 5, 3, cmd0 (desc 3 2 (6 * 2 ^ 352)), 1, ?_⟩, ⟨ringS [desc 1 5 (3
    * 2 ^ 499)] id, 5, 3, cmd0 (desc 1 5 (3 * 2 ^ 499)), ?_⟩, ⟨ringS [desc 1 5 (2 ^ 499 + 2 ^ 380 + 9 * 2 ^ 360)] id,
    5, 3, cmd0 (desc 1 5 (2 ^ 499 + 2 ^ 380 + 9 * 2 ^ 360)), 1, .add, ?_⟩⟩
  all_goals ((try dsimp only [AtHome, PortFree, Calm, Still, Quiet, Started, keyOf, entOf]) <;> decide +kernel)

theorem met_Packs :
    (∃ (s : State) (r : RingIx) (i : BitVec 16) (c : Cmd) (f : Nat),
      let d := c.d.bits
      let pay := BitVec.ofNat 32 (dField d 288 32)
      Started s r i 2 1 c f ∧ ((dScope d = 0 ∨ dScope d = 3 ∨ 4 < dHandle d / 2 ^ 20 ∨ pdReserved pay = true))) ∧
    (∃ (s : State) (r : RingIx) (i : BitVec 16) (c : Cmd) (f : Nat),
      let d := c.d.bits
      let pay := BitVec.ofNat 32 (dField d 288 32)
      Started s r i 2 1 c f ∧ ((dScope d = 1 ∨ dScope d = 2)) ∧ dHandle d / 2 ^ 20 ≤ 4 ∧ pdReserved pay = false ∧
        s.heldBar f (dHandle d) = none) ∧
    (∃ (s : State) (r : RingIx) (i : BitVec 16) (c : Cmd) (f : Nat) (b : Nat),
      let d := c.d.bits
      let pay := BitVec.ofNat 32 (dField d 288 32)
      let p := s.precAt b
      Started s r i 2 1 c f ∧ ((dScope d = 1 ∨ dScope d = 2)) ∧ dHandle d / 2 ^ 20 ≤ 4 ∧ pdReserved pay = false ∧
        s.heldBar f (dHandle d) = some b ∧ ((p.st ≠ .idle ∨ p.join ≠ none ∨ pdOutside pay = true))) ∧
    (∃ (s : State) (r : RingIx) (i : BitVec 16) (c : Cmd) (f : Nat) (img : List Byte) (b : Nat) (cl : Nat) (n : Byte),
      let d := c.d.bits
      let pay := BitVec.ofNat 32 (dField d 288 32)
      let p := s.precAt b
      Started s r i 2 1 c f ∧ ((dScope d = 1 ∨ dScope d = 2)) ∧ dHandle d / 2 ^ 20 ≤ 4 ∧ pdReserved pay = false ∧
        s.heldBar f (dHandle d) = some b ∧ p.st = .idle ∧ p.join = none ∧ pdOutside pay = false ∧ dScope d = 1 ∧
        imgMembers img = [(cl, n)] ∧ fieldOf cl < 84 ∧ s.packCheck f d b (imgMembers img) = none) ∧
    (∃ (s : State) (r : RingIx) (i : BitVec 16) (c : Cmd) (f : Nat),
      let d := c.d.bits
      Started s r i 2 2 c f ∧ 4 < dHandle d / 2 ^ 20) ∧
    (∃ (s : State) (r : RingIx) (i : BitVec 16) (c : Cmd) (f : Nat),
      let d := c.d.bits
      Started s r i 2 2 c f ∧ dHandle d / 2 ^ 20 ≤ 4 ∧ s.heldBar f (dHandle d) = none) ∧
    (∃ (s : State) (r : RingIx) (i : BitVec 16) (c : Cmd) (f : Nat) (b : Nat),
      let d := c.d.bits
      let p := s.precAt b
      Started s r i 2 2 c f ∧ dHandle d / 2 ^ 20 ≤ 4 ∧ s.heldBar f (dHandle d) = some b ∧ p.join = none ∧ s.wavesLeft
        b = false ∧ p.st = .idle) ∧
    (∃ (s : State) (r : RingIx) (i : BitVec 16) (c : Cmd) (f : Nat) (b : Nat),
      let d := c.d.bits
      let p := s.precAt b
      Started s r i 2 2 c f ∧ dHandle d / 2 ^ 20 ≤ 4 ∧ s.heldBar f (dHandle d) = some b ∧ p.join = none ∧ s.wavesLeft
        b = false ∧ ((p.st = .gather ∨ p.st = .armed)) ∧ p.scope ≠ 2 ∧ s.legClusters b = []) := by
  refine ⟨⟨ringS [desc 2 1 0] id, 5, 3, cmd0 (desc 2 1 0), 1, ?_⟩, ⟨ringS [packD 0] id, 5, 3, cmd0 (packD 0), 1, ?_⟩,
    ⟨(ringS [packD 0] id).updPrec 6 (fun p => { p with st := .armed, func := 1 }), 5, 3, cmd0 (packD 0), 1, 6, ?_⟩,
    ⟨(ringS [packD (2 ^ 359 + 7 * 2 ^ 344)] id).updPrec 6 (fun p => { p with st := .idle, func := 1, gen := 4 }), 5,
    3, cmd0 (packD (2 ^ 359 + 7 * 2 ^ 344)), 1, [0, 48], 6, 1, 48, ?_⟩, ⟨ringS [desc 2 2 (0x500006 * 2 ^ 360)] id, 5,
    3, cmd0 (desc 2 2 (0x500006 * 2 ^ 360)), 1, ?_⟩, ⟨ringS [clearD] id, 5, 3, cmd0 clearD, 1, ?_⟩, ⟨(ringS [clearD]
    id).updPrec 6 (fun p => { p with st := .idle, func := 1, gen := 4 }), 5, 3, cmd0 clearD, 1, 6, ?_⟩, ⟨(ringS
    [clearD] id).updPrec 6 (fun p => { p with st := .armed, func := 1, gen := 4 }), 5, 3, cmd0 clearD, 1, 6, ?_⟩⟩
  all_goals ((try dsimp only [AtHome, PortFree, Calm, Still, Quiet, Started, keyOf, entOf]) <;> decide +kernel)

theorem met_PitchLists :
    (∃ (s : State) (r : RingIx) (i : BitVec 16) (c : Cmd) (f : Nat),
      let d := c.d.bits
      Started s r i 4 1 c f ∧ dLen d = 0) ∧
    (∃ (s : State) (r : RingIx) (i : BitVec 16) (c : Cmd) (f : Nat) (img : List Byte),
      let d := c.d.bits
      Started s r i 4 1 c f ∧ dLen d ≠ 0 ∧ ((dLen d < 64 ∨ dLen d < pitchSize img))) ∧
    (∃ (s : State) (r : RingIx) (i : BitVec 16) (c : Cmd) (f : Nat) (img : List Byte),
      let d := c.d.bits
      let m := pitchImage img
      let id := dId d
      Started s r i 4 1 c f ∧ 64 ≤ dLen d ∧ pitchSize img ≤ dLen d ∧ id = 0xFFFF ∧ s.pitchFenced f m = false ∧
        s.pitchFaulty f id m = true) ∧
    (∃ (s : State) (r : RingIx) (i : BitVec 16) (c : Cmd) (f : Nat) (p : Nat) (img : List Byte),
      let d := c.d.bits
      let m := pitchImage img
      let id := dId d
      Started s r i 4 1 c f ∧ 64 ≤ dLen d ∧ pitchSize img ≤ dLen d ∧ id = 0xFFFF ∧ s.pitchFenced f m = false ∧
        s.pitchFaulty f id m = false ∧ s.freePlid f = some p ∧ s.cmtRoom f (s.plAt p) m = true) ∧
    (∃ (s : State) (r : RingIx) (i : BitVec 16) (c : Cmd) (f : Nat),
      let d := c.d.bits
      let id := dId d
      Started s r i 4 2 c f ∧ s.ownsPl f id = false) ∧
    (∃ (s : State) (r : RingIx) (i : BitVec 16) (c : Cmd) (f : Nat),
      let d := c.d.bits
      let id := dId d
      Started s r i 4 2 c f ∧ s.ownsPl f id = true ∧ (s.plAt id).st = .running ∧ (s.plAt id).retire = none) ∧
    (∃ (s : State) (r : RingIx) (i : BitVec 16) (c : Cmd) (f : Nat),
      let d := c.d.bits
      let id := dId d
      Started s r i 4 2 c f ∧ s.ownsPl f id = true ∧ (s.plAt id).st ≠ .running) := by
  refine ⟨⟨ringS [desc 4 1 0] id, 5, 3, cmd0 (desc 4 1 0), 1, ?_⟩, ⟨ringS [desc 4 1 (63 * 2 ^ 256)] id, 5, 3, cmd0
    (desc 4 1 (63 * 2 ^ 256)), 1, [], ?_⟩, ⟨pitchS, 5, 3, cmd0 pitchD, 1, pitchI 6, ?_⟩, ⟨pitchS, 5, 3, cmd0 pitchD,
    1, 0, pitchI 7, ?_⟩, ⟨ringS [desc 4 2 0] id, 5, 3, cmd0 (desc 4 2 0), 1, ?_⟩, ⟨(ringS [desc 4 2 0] id).updPl 0
    (fun p => { p with st := .running, func := 1 }), 5, 3, cmd0 (desc 4 2 0), 1, ?_⟩, ⟨((ringS [desc 4 2 0] id).updPl
    0 (fun p => { p with st := .held, func := 1 })).updFn 1 (fun x => { x with order := [0] }), 5, 3, cmd0 (desc 4 2
    0), 1, ?_⟩⟩
  all_goals ((try dsimp only [AtHome, PortFree, Calm, Still, Quiet, Started, keyOf, entOf]) <;> decide +kernel)

theorem met_Slots :
    (∃ (s : State) (r : RingIx) (i : BitVec 16) (c : Cmd) (f : Nat) (img : List Byte),
      let d := c.d.bits
      let k := dId d
      let y := slotOf f img
      Started s r i 5 1 c f ∧ s.seqFenced f k y = true) ∧
    (∃ (s : State) (r : RingIx) (i : BitVec 16) (c : Cmd) (f : Nat) (img : List Byte),
      let d := c.d.bits
      let k := dId d
      let x := s.slotAt k
      let y := slotOf f img
      Started s r i 5 1 c f ∧ s.seqFenced f k y = false ∧ x.st ≠ .free) ∧
    (∃ (s : State) (r : RingIx) (i : BitVec 16) (c : Cmd) (f : Nat) (img : List Byte),
      let d := c.d.bits
      let k := dId d
      let x := s.slotAt k
      let y := slotOf f img
      let b := kennelIndex 2 k
      Started s r i 5 1 c f ∧ s.seqFenced f k y = false ∧ x.st = .free ∧ y.pos = 0 ∧ (s.kenAt b).queue = []) ∧
    (∃ (s : State) (r : RingIx) (i : BitVec 16) (c : Cmd) (f : Nat),
      let d := c.d.bits
      let k := dId d
      Started s r i 5 2 c f ∧ s.ownsSlot f k = true ∧ (s.fnAt f).dlEn = false) ∧
    (∃ (s : State) (r : RingIx) (i : BitVec 16) (c : Cmd) (f : Nat),
      let d := c.d.bits
      let k := dId d
      Started s r i 5 2 c f ∧ s.ownsSlot f k = false) ∧
    (∃ (s : State) (r : RingIx) (i : BitVec 16) (c : Cmd) (f : Nat),
      let d := c.d.bits
      let k := dId d
      let x := s.slotAt k
      let act := dField d 364 4
      Started s r i 5 3 c f ∧ s.ownsSlot f k = true ∧ act = 0 ∧ x.st = .active ∧ x.dec = none) ∧
    (∃ (s : State) (r : RingIx) (i : BitVec 16) (c : Cmd) (f : Nat),
      let d := c.d.bits
      let k := dId d
      let x := s.slotAt k
      let act := dField d 364 4
      Started s r i 5 3 c f ∧ s.ownsSlot f k = true ∧ act = 0 ∧ x.st = .active ∧ x.dec ≠ none) ∧
    (∃ (s : State) (r : RingIx) (i : BitVec 16) (c : Cmd) (f : Nat),
      let d := c.d.bits
      let k := dId d
      let x := s.slotAt k
      let act := dField d 364 4
      Started s r i 5 3 c f ∧ s.ownsSlot f k = true ∧ act = 1 ∧ x.st = .paused ∧ x.pos = 0) ∧
    (∃ (s : State) (r : RingIx) (i : BitVec 16) (c : Cmd) (f : Nat),
      let d := c.d.bits
      let k := dId d
      let x := s.slotAt k
      let act := dField d 364 4
      Started s r i 5 3 c f ∧ s.ownsSlot f k = true ∧ act = 2 ∧ x.st = .active ∧ x.dec = none ∧ x.shv = false) ∧
    (∃ (s : State) (r : RingIx) (i : BitVec 16) (c : Cmd) (f : Nat),
      let d := c.d.bits
      let k := dId d
      let x := s.slotAt k
      let b := kennelIndex 2 k
      let act := dField d 364 4
      Started s r i 5 3 c f ∧ s.ownsSlot f k = true ∧ act = 3 ∧ x.st = .active ∧ s.poolOk x.func.val b = true ∧
        (s.kenAt b).queue = []) ∧
    (∃ (s : State) (r : RingIx) (i : BitVec 16) (c : Cmd) (f : Nat),
      let d := c.d.bits
      let k := dId d
      let x := s.slotAt k
      let act := dField d 364 4
      Started s r i 5 3 c f ∧ s.ownsSlot f k = true ∧ act = 3 ∧ x.st = .free) := by
  refine ⟨⟨ringS [desc 5 1 (32 * 2 ^ 368)] id, 5, 3, cmd0 (desc 5 1 (32 * 2 ^ 368)), 1, [], ?_⟩, ⟨(slotS (desc 5 1 (31
    * 2 ^ 368))).updSlot 31 (fun k => { k with st := .active }), 5, 3, cmd0 (desc 5 1 (31 * 2 ^ 368)), 1, slotI, ?_⟩,
    ⟨slotS (desc 5 1 (31 * 2 ^ 368 + 9 * 2 ^ 320)), 5, 3, cmd0 (desc 5 1 (31 * 2 ^ 368 + 9 * 2 ^ 320)), 1, slotI, ?_⟩,
    ⟨slotS (desc 5 2 (31 * 2 ^ 368)), 5, 3, cmd0 (desc 5 2 (31 * 2 ^ 368)), 1, ?_⟩, ⟨slotS (desc 5 2 (32 * 2 ^ 368)),
    5, 3, cmd0 (desc 5 2 (32 * 2 ^ 368)), 1, ?_⟩, ⟨(slotS (ctlD 0)).updSlot 31 (fun k =>
    { k with st := .active, plid := 2, cring := 5, func := 1 }), 5, 3, cmd0 (ctlD 0), 1, ?_⟩, ⟨(slotS (ctlD
    0)).updSlot 31 (fun k => { k with st := .active, plid := 2, cring := 5, func := 1, dec := some ⟨0, 0, none⟩ }), 5,
    3, cmd0 (ctlD 0), 1, ?_⟩, ⟨(slotS (ctlD 1)).updSlot 31 (fun k =>
    { k with st := .paused, plid := 2, cring := 5, func := 1 }), 5, 3, cmd0 (ctlD 1), 1, ?_⟩, ⟨(slotS (ctlD
    2)).updSlot 31 (fun k => { k with st := .active, plid := 2, cring := 5, func := 1 }), 5, 3, cmd0 (ctlD 2), 1, ?_⟩,
    ⟨((slotS (ctlD 3)).updSlot 31 (fun k => { k with st := .active, plid := 2, cring := 5, func := 1 })).updKen
    (kennelIndex 2 31) (fun e => { e with kind := .tokenPool, func := 1, limit := 20, count := 19 }), 5, 3, cmd0 (ctlD
    3), 1, ?_⟩, ⟨slotS (ctlD 3), 5, 3, cmd0 (ctlD 3), 1, ?_⟩⟩
  all_goals ((try dsimp only [AtHome, PortFree, Calm, Still, Quiet, Started, keyOf, entOf]) <;> decide +kernel)

theorem met_ManagerGrants :
    (∃ (s : State) (b : BitVec 512), s.wf = true ∧ s.bru.step = 15 ∧ s.mgr.go = true ∧ mOp b = 3) ∧
    (∃ (s : State) (b : BitVec 512),
      let c := mCls b
      s.wf = true ∧ s.bru.step = 15 ∧ s.mgr.go = true ∧ unitCount c = none ∧ mOp b = 4) ∧
    (∃ (s : State) (b : BitVec 512),
      let c := mCls b
      s.wf = true ∧ s.bru.step = 15 ∧ s.mgr.go = true ∧ unitCount c = none ∧ mOp b = 5) ∧
    (∃ (s : State) (b : BitVec 512) (n : Nat),
      let c := mCls b
      s.wf = true ∧ s.bru.step = 15 ∧ s.mgr.go = true ∧ unitCount c = some n ∧ 0 < mCnt b ∧ n < mFirst b + mCnt b ∧
        mOp b = 4) ∧
    (∃ (s : State) (b : BitVec 512) (n : Nat),
      let c := mCls b
      s.wf = true ∧ s.bru.step = 15 ∧ s.mgr.go = true ∧ unitCount c = some n ∧ 0 < mCnt b ∧ n < mFirst b + mCnt b ∧
        mOp b = 5) ∧
    (∃ (s : State) (b : BitVec 512) (n : Nat) (us : List Nat),
      let f := s.mgr.func.val
      let c := mCls b
      s.wf = true ∧ s.bru.step = 15 ∧ s.mgr.go = true ∧ unitCount c = some n ∧ unitsNamed b n = some us ∧ mOp b = 4 ∧
        ((∃ u ∈ us, s.heldElsewhere f c u = true))) ∧
    (∃ (s : State) (b : BitVec 512) (n : Nat) (us : List Nat),
      let f := s.mgr.func.val
      let c := mCls b
      s.wf = true ∧ s.bru.step = 15 ∧ s.mgr.go = true ∧ unitCount c = some n ∧ unitsNamed b n = some us ∧ mOp b = 4 ∧
        ((∀ u ∈ us, s.heldElsewhere f c u = false)) ∧ c ≠ 9) ∧
    (∃ (s : State) (b : BitVec 512) (n : Nat) (r : Nat) (us : List Nat),
      let f := s.mgr.func.val
      let x := s.fnAt f
      let c := mCls b
      s.wf = true ∧ s.bru.step = 15 ∧ s.mgr.go = true ∧ unitCount c = some n ∧ unitsNamed b n = some us ∧ mOp b = 4 ∧
        us = [r] ∧ s.heldElsewhere f c r = false ∧ c = 9 ∧ x.rings = []) ∧
    (∃ (s : State) (b : BitVec 512) (n : Nat) (us : List Nat),
      let c := mCls b
      s.wf = true ∧ s.bru.step = 15 ∧ s.mgr.go = true ∧ unitCount c = some n ∧ unitsNamed b n = some us ∧ mOp b = 5 ∧
        c = 8) ∧
    (∃ (s : State) (b : BitVec 512) (n : Nat) (r : Nat) (us : List Nat),
      let f := s.mgr.func.val
      let x := s.fnAt f
      let c := mCls b
      s.wf = true ∧ s.bru.step = 15 ∧ s.mgr.go = true ∧ unitCount c = some n ∧ unitsNamed b n = some us ∧ mOp b = 5 ∧
        c = 3 ∧ r / 16 ∈ us ∧ r / 16 ∈ x.blk3 ∧ (s.precAt r).st ≠ .free ∧ s.barBusy r = true) ∧
    (∃ (s : State) (b : BitVec 512) (n : Nat) (r : Nat) (us : List Nat),
      let f := s.mgr.func.val
      let x := s.fnAt f
      let c := mCls b
      s.wf = true ∧ s.bru.step = 15 ∧ s.mgr.go = true ∧ unitCount c = some n ∧ unitsNamed b n = some us ∧ mOp b = 5 ∧
        c = 3 ∧ r / 16 ∈ us ∧ r / 16 ∈ x.blk3 ∧ (s.precAt r).st ≠ .free ∧ ((∀ k ∈ s.revokeBars f b us, s.barBusy k =
        false))) := by
  refine ⟨⟨mgrS, mblk 3 (9000 * 2 ^ 370 + 2000 * 2 ^ 359 + 9 * 2 ^ 350 + 3 * 2 ^ 340 + 4000 * 2 ^ 328), ?_⟩, ⟨mgrS,
    mblk 4 (2 * 2 ^ 492), ?_⟩, ⟨mgrS, mblk 5 (2 * 2 ^ 492), ?_⟩, ⟨mgrS, mblk 4 (3 * 2 ^ 492 + 4095 * 2 ^ 448 + 2 ^
    416), 4095, ?_⟩, ⟨mgrS, mblk 5 (3 * 2 ^ 492 + 4095 * 2 ^ 448 + 2 ^ 416), 4095, ?_⟩, ⟨mgrS.updFn 2 (fun x =>
    { x with blk0 := [4095] }), mblk 4 (4094 * 2 ^ 448 + 2 * 2 ^ 416), 4096, [4094, 4095], ?_⟩, ⟨mgrS.updFn 1 (fun x
    => { x with blk0 := [4095] }), mblk 4 (4094 * 2 ^ 448 + 2 * 2 ^ 416), 4096, [4094, 4095], ?_⟩, ⟨mgrS, mblk 4 (9 *
    2 ^ 492 + 4095 * 2 ^ 448 + 2 ^ 416), 4096, 4095, [4095], ?_⟩, ⟨(mgrS.updFn 1 (fun x =>
    { x with slotBlk := [0, 1] })).updSlot 33 (fun k => { k with st := .active, func := 1 }), mblk 5 (8 * 2 ^ 492 + 1
    * 2 ^ 448 + 2 ^ 416), 32, [1], ?_⟩, ⟨(mgrS.updFn 1 (fun x => { x with blk3 := [0] })).updPrec 6 (fun p =>
    { p with st := .deciding, func := 1 }), mblk 5 (3 * 2 ^ 492 + 2 ^ 416), 4095, 6, [0], ?_⟩, ⟨(mgrS.updFn 1 (fun x
    => { x with blk3 := [0] })).updPrec 6 (fun p => { p with st := .idle, func := 1 }), mblk 5 (3 * 2 ^ 492 + 2 ^
    416), 4095, 6, [0], ?_⟩⟩
  all_goals ((try dsimp only [AtHome, PortFree, Calm, Still, Quiet, Started, keyOf, entOf]) <;> decide +kernel)

theorem met_Partitions :
    (∃ (s : State) (b : BitVec 512) (img : List Byte) (c : Nat) (n : Byte), s.wf = true ∧ s.bru.step = 15 ∧ s.mgr.go =
      true ∧ s.mgr.erasing = false ∧ mOp b = 1 ∧ s.mgr.destroying = false ∧ imgMembers img = [(c, n)] ∧ s.inService c
      = false) ∧
    (∃ (s : State) (b : BitVec 512) (img : List Byte) (c : Nat) (n : Byte),
      let f := s.mgr.func.val
      let x := s.fnAt f
      s.wf = true ∧ s.bru.step = 15 ∧ s.mgr.go = true ∧ s.mgr.erasing = false ∧ mOp b = 1 ∧ s.mgr.destroying = false ∧
        imgMembers img = [(c, n)] ∧ s.inService c = true ∧ ((x.members ≠ [] ∨ s.fnOf c ≠ none))) ∧
    (∃ (s : State) (b : BitVec 512) (img : List Byte) (c : Nat) (n : Byte),
      let f := s.mgr.func.val
      let x := s.fnAt f
      s.wf = true ∧ s.bru.step = 15 ∧ s.mgr.go = true ∧ s.mgr.erasing = false ∧ mOp b = 1 ∧ s.mgr.destroying = false ∧
        imgMembers img = [(c, n)] ∧ s.inService c = true ∧ x.members = [] ∧ s.fnOf c = none ∧ x.epochAt = none ∧ bit
        b.toNat 503 = true ∧ ((∀ k ∈ s.kat.cur, k.owner ≠ none)) ∧ (s.csnAt c).epochAt = none ∧ ((∀ i ∈ s.coresOf c,
        (s.coreAt i).epochAt = none ∧ (s.coreAt i).rst ≠ none))) ∧
    (∃ (s : State),
      let f := s.mgr.func.val
      let x := s.fnAt f
      s.wf = true ∧ s.bru.step = 15 ∧ s.mgr.go = true ∧ s.mgr.erasing = false ∧ x.members = [] ∧ s.mgr.destroying =
        false) ∧
    (∃ (s : State),
      let f := s.mgr.func.val
      let x := s.fnAt f
      s.wf = true ∧ s.bru.step = 15 ∧ s.mgr.go = true ∧ s.mgr.erasing = false ∧ s.mgr.destroying = true ∧ x.rst = none
        ∧ x.blk0 = [] ∧ x.blk1 = [] ∧ x.blk3 = [] ∧ x.slotBlk = [] ∧ x.rings = []) := by
  refine ⟨⟨mgrS.updHub 0 (fun h => { h with muz := true }), mblk 1 0, [1], 0, 1, ?_⟩, ⟨mgrS.updFn 2 (fun x =>
    { x with members := [0] }), mblk 1 0, [1], 0, 1, ?_⟩, ⟨(List.range 48).foldl (fun s i => s.updCore i (fun x =>
    { x with rst := some 0 })) mgrS, mblk 1 (2 ^ 503), [1], 0, 1, ?_⟩, ⟨mgrS, ?_⟩,
    ⟨{ mgrS.updFn 1 (fun x => { x with members := [0], hold := true, qwait := 4 }) with mgr := { mgrS.mgr with destroying := true } },
    ?_⟩⟩
  all_goals ((try dsimp only [AtHome, PortFree, Calm, Still, Quiet, Started, keyOf, entOf]) <;> decide +kernel)

theorem met_ManagerServices :
    (∃ (s : State) (b : BitVec 512),
      let f := s.mgr.func.val
      s.wf = true ∧ s.bru.step = 15 ∧ s.mgr.go = true ∧ mOp b = 6 ∧ f = 0) ∧
    (∃ (s : State) (b : BitVec 512),
      let f := s.mgr.func.val
      s.wf = true ∧ s.bru.step = 15 ∧ s.mgr.go = true ∧ mOp b = 6 ∧ f ≠ 0) ∧
    (∃ (s : State),
      let f := s.mgr.func.val
      let x := s.fnAt f
      s.wf = true ∧ s.bru.step = 15 ∧ s.mgr.go = true ∧ f ≠ 0 ∧ x.hold = false ∧ x.mskd = [] ∧ x.mbxSt ≠ .forwarded) ∧
    (∃ (s : State),
      let f := s.mgr.func.val
      let x := s.fnAt f
      s.wf = true ∧ s.bru.step = 15 ∧ s.mgr.go = true ∧ f ≠ 0 ∧ x.hold = false ∧ x.mskd = [] ∧ x.mbxSt = .forwarded) ∧
    (∃ (s : State),
      let f := s.mgr.func.val
      let x := s.fnAt f
      s.wf = true ∧ s.bru.step = 15 ∧ s.mgr.go = true ∧ f ≠ 0 ∧ x.hold = false ∧ x.mskd = [] ∧ x.npend = true) ∧
    (∃ (s : State),
      let f := s.mgr.func.val
      let x := s.fnAt f
      s.wf = true ∧ s.bru.step = 15 ∧ s.mgr.go = true ∧ f ≠ 0 ∧ x.hold = false ∧ x.mskd = [] ∧ x.npend = false) ∧
    (∃ (s : State) (b : BitVec 512), s.wf = true ∧ s.bru.step = 15 ∧ s.mgr.go = true ∧ mOp b = 9) ∧
    (∃ (s : State) (a0 : BitVec 64) (a1 : BitVec 64) (w : BitVec 64) (k : BitVec 32),
      let f := s.mgr.func.val
      let x := s.fnAt f
      s.wf = true ∧ s.bru.step = 15 ∧ s.mgr.go = true ∧ x.dlBuf = some (a0, a1, w, k)) ∧
    (∃ (s : State) (b : BitVec 512), s.wf = true ∧ s.bru.step = 15 ∧ s.mgr.go = true ∧ mOp b = 11 ∧ bit b.toNat 502 =
      true) ∧
    (∃ (s : State) (b : BitVec 512),
      let f := s.mgr.func.val
      let x := s.fnAt f
      s.wf = true ∧ s.bru.step = 15 ∧ s.mgr.go = true ∧ mOp b = 11 ∧ bit b.toNat 502 = false ∧ x.mskd = [] ∧ x.rings =
        []) ∧
    (∃ (s : State) (g : Func), s.wf = true ∧ s.bru.step = 15 ∧ s.mgr.go = true ∧ (s.fnAt g.val).hold = true ∧ ((∀ r ∈
      (s.fnAt g.val).rings, (s.ringAt r).asked = (s.ringAt r).sqc ∧ (s.ringAt r).started = []))) ∧
    (∃ (s : State) (g : Func), s.wf = true ∧ s.bru.step = 15 ∧ s.mgr.go = true ∧ (s.fnAt g.val).hold = true ∧ ((∃ r ∈
      (s.fnAt g.val).rings, (s.ringAt r).asked ≠ (s.ringAt r).sqc))) := by
  refine ⟨⟨{ mgrS with mgr := { mgrS.mgr with func := 0 } }, mblk 6 0, ?_⟩, ⟨mgrS, mblk 6 (0x5000 * 2 ^ 256 + 2 ^
    414), ?_⟩, ⟨mgrS, ?_⟩,
    ⟨{ mgrS.updFn 1 (fun x => { x with mbxSt := .forwarded, mbxVec := 4 }) with mgr := { mgrS.mgr with fwd := 6 } },
    ?_⟩, ⟨mgrS.updFn 1 (fun x => { x with npend := true }), ?_⟩, ⟨mgrS, ?_⟩, ⟨mgrS.updFn 1 (fun x =>
    { x with dlBits := [3] }), mblk 9 (0x5000 * 2 ^ 256 + 0x6000 * 2 ^ 192 + 0x7001 * 2 ^ 128 + 64 * 2 ^ 96), ?_⟩,
    ⟨mgrS.updFn 1 (fun x => { x with dlBits := [3], dlBuf := some (0x5000, 0x6000, 0x7000, 64) }), 0x5000, 0x6000,
    0x7000, 64, ?_⟩, ⟨mgrS, mblk 11 (2 ^ 502), ?_⟩, ⟨mgrS.updFn 1 (fun x =>
    { x with hold := true, held := true, pend := [3, 4] }), mblk 11 0, ?_⟩,
    ⟨{ (ringS [] (fun x => { x with sqc := 3, asked := 3 })).updFn 1 (fun x => { x with hold := true }) with mgr := mgrS.mgr },
    1, ?_⟩,
    ⟨{ (ringS [] (fun x => { x with sqc := 3, asked := 4 })).updFn 1 (fun x => { x with hold := true }) with mgr := mgrS.mgr },
    1, ?_⟩⟩
  all_goals ((try dsimp only [AtHome, PortFree, Calm, Still, Quiet, Started, keyOf, entOf]) <;> decide +kernel)

theorem met_Mailbox :
    (∃ (s : State) (f : Func),
      let x := s.fnAt f.val
      s.bru.step = 15 ∧ f.val ≠ 0 ∧ x.frozen = false ∧ ((x.mbxSt = .idle ∨ x.mbxSt = .done))) ∧
    (∃ (s : State) (f : Func) (hdr : BitVec 128), s.wf = true ∧ s.mbxTurn f.val = true ∧ mbxBad hdr = true) ∧
    (∃ (s : State) (f : Func) (hdr : BitVec 128) (pay : BitVec 128) (a : BitVec 64) (l : BitVec 2),
      let x := s.fnAt f.val
      let cls := bits pay.toNat 124 4
      let kind := bits pay.toNat 120 4
      s.wf = true ∧ s.mbxTurn f.val = true ∧ mbxBad hdr = false ∧ x.mbxPage = some (a, l) ∧ x.dlEn = false ∧ x.mskd =
        [] ∧ hType hdr = 1 ∧ allocOk cls kind (bits pay.toNat 118 2) = false) ∧
    (∃ (s : State) (f : Func) (hdr : BitVec 128) (pay : BitVec 128) (a : BitVec 64) (l : BitVec 2),
      let x := s.fnAt f.val
      let cls := bits pay.toNat 124 4
      let kind := bits pay.toNat 120 4
      s.wf = true ∧ s.mbxTurn f.val = true ∧ mbxBad hdr = false ∧ x.mbxPage = some (a, l) ∧ x.dlEn = false ∧ x.mskd =
        [] ∧ hType hdr = 1 ∧ cls ≤ 1 ∧ bits pay.toNat 118 2 ≠ 0 ∧ allocOk cls kind (bits pay.toNat 118 2) = true ∧
        ((83 < bits pay.toNat 104 7 ∨ (s.hubAt (bits pay.toNat 104 7)).muz = true))) ∧
    (∃ (s : State) (f : Func) (hdr : BitVec 128) (pay : BitVec 128) (a : BitVec 64) (l : BitVec 2) (i : Nat) (rest :
      List Nat),
      let x := s.fnAt f.val
      let cls := bits pay.toNat 124 4
      let kind := bits pay.toNat 120 4
      s.wf = true ∧ s.mbxTurn f.val = true ∧ mbxBad hdr = false ∧ x.mbxPage = some (a, l) ∧ x.dlEn = false ∧ x.mskd =
        [] ∧ hType hdr = 1 ∧ cls ≤ 1 ∧ bits pay.toNat 118 2 = 0 ∧ allocOk cls kind 0 = true ∧ s.freeKens f.val cls = i
        :: rest) ∧
    (∃ (s : State) (f : Func) (hdr : BitVec 128) (pay : BitVec 128) (a : BitVec 64) (l : BitVec 2),
      let x := s.fnAt f.val
      let cls := bits pay.toNat 124 4
      let kind := bits pay.toNat 120 4
      s.wf = true ∧ s.mbxTurn f.val = true ∧ mbxBad hdr = false ∧ x.mbxPage = some (a, l) ∧ x.dlEn = false ∧ x.mskd =
        [] ∧ hType hdr = 1 ∧ cls ≤ 1 ∧ bits pay.toNat 118 2 = 0 ∧ allocOk cls kind 0 = true ∧ s.freeKens f.val cls =
        []) ∧
    (∃ (s : State) (f : Func) (hdr : BitVec 128) (pay : BitVec 128) (a : BitVec 64) (l : BitVec 2) (i : Nat) (rest :
      List Nat),
      let x := s.fnAt f.val
      let cls := bits pay.toNat 124 4
      let kind := bits pay.toNat 120 4
      s.wf = true ∧ s.mbxTurn f.val = true ∧ mbxBad hdr = false ∧ x.mbxPage = some (a, l) ∧ x.dlEn = false ∧ x.mskd =
        [] ∧ hType hdr = 1 ∧ cls = 3 ∧ kind = 0 ∧ s.freeBars f.val = i :: rest) ∧
    (∃ (s : State) (f : Func) (hdr : BitVec 128) (h : BitVec 64) (a : BitVec 64) (l : BitVec 2),
      let x := s.fnAt f.val
      s.wf = true ∧ s.mbxTurn f.val = true ∧ mbxBad hdr = false ∧ x.mbxPage = some (a, l) ∧ x.dlEn = false ∧ x.mskd =
        [] ∧ hType hdr = 2 ∧ 4 < bits h.toNat 0 24 / 2 ^ 20) ∧
    (∃ (s : State) (f : Func) (hdr : BitVec 128) (h : BitVec 64) (a : BitVec 64) (l : BitVec 2) (k : Nat),
      let x := s.fnAt f.val
      s.wf = true ∧ s.mbxTurn f.val = true ∧ mbxBad hdr = false ∧ x.mbxPage = some (a, l) ∧ x.dlEn = false ∧ x.mskd =
        [] ∧ hType hdr = 2 ∧ s.heldKen f.val (bits h.toNat 0 24) = some k ∧ (s.kenAt k).queue = [] ∧ (s.kenAt k).leash
        = .none) ∧
    (∃ (s : State) (f : Func) (hdr : BitVec 128) (h : BitVec 64) (a : BitVec 64) (l : BitVec 2) (k : Nat),
      let x := s.fnAt f.val
      s.wf = true ∧ s.mbxTurn f.val = true ∧ mbxBad hdr = false ∧ x.mbxPage = some (a, l) ∧ x.dlEn = false ∧ x.mskd =
        [] ∧ hType hdr = 2 ∧ s.heldBar f.val (bits h.toNat 0 24) = some k ∧ s.barBusy k = true) ∧
    (∃ (s : State) (f : Func) (hdr : BitVec 128) (h : BitVec 64) (a : BitVec 64) (l : BitVec 2) (k : Nat),
      let x := s.fnAt f.val
      s.wf = true ∧ s.mbxTurn f.val = true ∧ mbxBad hdr = false ∧ x.mbxPage = some (a, l) ∧ x.dlEn = false ∧ x.mskd =
        [] ∧ hType hdr = 2 ∧ s.heldBar f.val (bits h.toNat 0 24) = some k ∧ s.barBusy k = false) ∧
    (∃ (s : State) (f : Func) (hdr : BitVec 128) (h : BitVec 64) (a : BitVec 64) (l : BitVec 2),
      let x := s.fnAt f.val
      s.wf = true ∧ s.mbxTurn f.val = true ∧ mbxBad hdr = false ∧ x.mbxPage = some (a, l) ∧ x.dlEn = false ∧ x.mskd =
        [] ∧ hType hdr = 2 ∧ bits h.toNat 0 24 / 2 ^ 20 ≤ 4 ∧ s.heldKen f.val (bits h.toNat 0 24) = none ∧ s.heldBar
        f.val (bits h.toNat 0 24) = none) ∧
    (∃ (s : State) (f : Func) (hdr : BitVec 128) (a : BitVec 64) (l : BitVec 2),
      let x := s.fnAt f.val
      s.wf = true ∧ s.mbxTurn f.val = true ∧ mbxBad hdr = false ∧ x.mbxPage = some (a, l) ∧ x.dlEn = false ∧ x.mskd =
        [] ∧ hType hdr = 3) ∧
    (∃ (s : State) (f : Func) (hdr : BitVec 128) (a : BitVec 64) (l : BitVec 2),
      let x := s.fnAt f.val
      s.wf = true ∧ s.mbxTurn f.val = true ∧ mbxBad hdr = false ∧ x.mbxPage = some (a, l) ∧ x.dlEn = false ∧ x.mskd =
        [] ∧ hType hdr = 0x10) := by
  refine ⟨⟨upS, 63, ?_⟩, ⟨mbxS id, 1, hdr0 4 0, ?_⟩, ⟨mbxS id, 1, hdr0 1 16, pay0 2 0 0, 0x5000, 0, ?_⟩, ⟨mbxS id, 1,
    hdr0 1 16, pay0 0 1 (2 ^ 118 + 84 * 2 ^ 104), 0x5000, 0, ?_⟩, ⟨(mbxS (fun x => { x with blk0 := [2] })).updKen 512
    (fun e => { e with kind := .lock }), 1, hdr0 1 16, pay0 0 1 0x0000000500000009, 0x5000, 0, 513, (List.range
    254).map (fun i => 514 + i), ?_⟩, ⟨mbxS id, 1, hdr0 1 16, pay0 1 4 0, 0x5000, 0, ?_⟩, ⟨mbxS (fun x =>
    { x with blk3 := [1] }), 1, hdr0 1 16, pay0 3 0 0, 0x5000, 0, 16, (List.range 15).map (fun i => 17 + i), ?_⟩,
    ⟨mbxS id, 1, hdr0 2 8, 0x500000, 0x5000, 0, ?_⟩, ⟨(mbxS (fun x => { x with blk0 := [2] })).updKen 512 (fun e =>
    { e with kind := .lock, func := 1 }), 1, hdr0 2 8, 0x000200, 0x5000, 0, 512, ?_⟩, ⟨(mbxS (fun x =>
    { x with blk3 := [0] })).updPrec 6 (fun p => { p with st := .deciding, func := 1 }), 1, hdr0 2 8, 0x300006,
    0x5000, 0, 6, ?_⟩, ⟨(mbxS (fun x => { x with blk3 := [0] })).updPrec 6 (fun p =>
    { p with st := .idle, func := 1 }), 1, hdr0 2 8, 0x300006, 0x5000, 0, 6, ?_⟩, ⟨mbxS id, 1, hdr0 2 8, 0x400006,
    0x5000, 0, ?_⟩, ⟨mbxS (fun x => { x with blk0 := [2], members := [0] }), 1, hdr0 3 0, 0x5000, 0, ?_⟩, ⟨mbxS id, 1,
    hdr0 0x10 1008, 0x5000, 0, ?_⟩⟩
  all_goals ((try dsimp only [AtHome, PortFree, Calm, Still, Quiet, Started, keyOf, entOf]) <;> decide +kernel)

theorem met_SpanTicks :
    (∃ (s : State) (g : BitVec 16), s.wf = true ∧ s.span.forming = none ∧ g ≠ s.span.sgen) ∧
    (∃ (s : State) (g : BitVec 16) (tick : BitVec 48),
      let k := s.tick
      s.wf = true ∧ s.span.forming = none ∧ g = s.span.sgen ∧ s.span.st = .member ∧ k.st = .follow) ∧
    (∃ (s : State) (g : BitVec 16) (tick : BitVec 48) (m : SbTick),
      let k := s.tick
      s.wf = true ∧ s.span.forming = none ∧ g = s.span.sgen ∧ s.span.st = .member ∧ k.st = .follow ∧ k.lead ≠ none ∧
        s.now ≤ s.localTime m.etime) ∧
    (∃ (s : State) (g : BitVec 16) (tick : BitVec 48) (e : Nat),
      let k := s.tick
      s.wf = true ∧ s.span.forming = none ∧ g = s.span.sgen ∧ s.span.st = .member ∧ k.st = .follow ∧ Quiet s ∧ k.late
        = [] ∧ s.span.leaving = false ∧ s.now % 3 = 0 ∧ k.etime = some e ∧ e ≤ s.now) ∧
    (∃ (s : State) (g : BitVec 16) (tick : BitVec 48) (m : SbTick),
      let k := s.tick
      s.wf = true ∧ s.span.forming = none ∧ g = s.span.sgen ∧ s.span.st = .member ∧ k.st = .follow ∧ Quiet s ∧ k.late
        = [] ∧ s.span.leaving = false ∧ s.now % 3 = 0 ∧ k.lead ≠ none ∧ s.localTime m.etime < s.now) ∧
    (∃ (s : State) (g : BitVec 16) (tick : BitVec 48) (p : SbPitch),
      let k := s.tick
      let f := p.func.val
      let c := s.followChoice p
      s.wf = true ∧ s.span.forming = none ∧ g = s.span.sgen ∧ s.span.st = .member ∧ k.st = .follow ∧ k.lead ≠ none ∧
        (s.fnAt f).job = true ∧ (s.fnAt f).broken = false ∧ (s.fnAt f).choice = none ∧ c.replay = false ∧ (s.plAt
        c.plid).st = .queued) ∧
    (∃ (s : State) (g : BitVec 16) (src : Wafer) (tick : BitVec 48),
      let k := s.tick
      s.wf = true ∧ s.span.forming = none ∧ g = s.span.sgen ∧ s.span.st = .lead ∧ tick = k.nextNum ∧ ¬ src.val ∈
        s.span.holds) ∧
    (∃ (s : State) (g : BitVec 16) (tick : BitVec 48),
      let k := s.tick
      s.wf = true ∧ s.span.forming = none ∧ g = s.span.sgen ∧ s.span.st = .lead ∧ tick = k.nextNum) ∧
    (∃ (s : State) (g : BitVec 16), s.wf = true ∧ s.span.forming = none ∧ g = s.span.sgen ∧ s.span.st = .lead) := by
  refine ⟨⟨spS .member, 4, ?_⟩, ⟨folS id, 5, 0, ?_⟩, ⟨folS (fun k => { k with lead := some sbt0 }), 5, 0, sbt0, ?_⟩,
    ⟨folS (fun k => { k with lead := some sbt0, etime := some 0, perNext := 400000, num := 7 }), 5, 0, 0, ?_⟩,
    ⟨{ folS (fun k => { k with lead := some sbt0, perNext := 400000, num := 7 }) with now := 9000 }, 5, 0, sbt0, ?_⟩,
    ⟨((folS (fun k => { k with lead := some sbt0, perNext := 500000 })).updFn 1 (fun x =>
    { x with job := true, members := [0] })).updPl 2 (fun p =>
    { p with st := .queued, func := 1, img := { PitchImage.init with phases := [⟨1, 5, []⟩] } }), 5, 0, sbp0, ?_⟩,
    ⟨{ spS .lead with tick := { R.tick with num := 7, any := true, st := .running } }, 5, 1, 8, ?_⟩,
    ⟨{ spS .lead with tick := { R.tick with num := 7, any := true, st := .running }, span := { (spS .lead).span with holds := [1] } },
    5, 8, ?_⟩, ⟨(spS .lead).updFn 1 (fun x => { x with job := true, members := [0] }), 5, ?_⟩⟩
  all_goals ((try dsimp only [AtHome, PortFree, Calm, Still, Quiet, Started, keyOf, entOf]) <;> decide +kernel)

theorem met_SpanBarriers :
    (∃ (s : State) (g : BitVec 16) (f : Func) (bar : BarIx) (pay : BitVec 32),
      let r := s.srecAt bar.toNat
      s.wf = true ∧ twf SpanRec.init s.span.recs = true ∧ g = s.span.sgen ∧ s.span.st = .lead ∧ r.open_ = false ∧
        ((pdLanes pay = 0 ∨ s.rootRoom f.val 1 = true))) ∧
    (∃ (s : State) (g : BitVec 16) (f : Func) (bar : BarIx) (pay : BitVec 32),
      let r := s.srecAt bar.toNat
      s.wf = true ∧ twf SpanRec.init s.span.recs = true ∧ g = s.span.sgen ∧ s.span.st = .lead ∧ r.open_ = false ∧
        pdLanes pay ≠ 0 ∧ s.rootRoom f.val 1 = false) ∧
    (∃ (s : State) (g : BitVec 16) (src : Wafer) (bar : BarIx) (ep : Epoch),
      let r := s.srecAt bar.toNat
      s.wf = true ∧ twf SpanRec.init s.span.recs = true ∧ g = s.span.sgen ∧ s.span.st = .lead ∧ r.members = [(src.val,
        ep)] ∧ r.wexp = 1) ∧
    (∃ (s : State) (g : BitVec 16) (a : SbArrive) (src : Wafer) (bar : BarIx) (gen : Byte) (pay : BitVec 32),
      let r := s.srecAt bar.toNat
      s.wf = true ∧ twf SpanRec.init s.span.recs = true ∧ g = s.span.sgen ∧ s.span.st = .lead ∧ a.bar = bar ∧ r.open_
        = true ∧ r.deciding = false ∧ a.gen = r.gen ∧ (a.src.val, a.pepoch) ∈ r.members ∧ ((∀ m ∈ r.members, m.1 =
        a.src.val → m.2 = a.pepoch)) ∧ ¬ a.src.val ∈ r.arrived ∧ r.early = false ∧ pdLanes r.pay ≠ 0 ∧
        s.span.wid.toNat ≠ a.src.val ∧ s.rfolds.length < 128) ∧
    (∃ (s : State) (g : BitVec 16) (a : SbArrive) (src : Wafer) (bar : BarIx) (gen : Byte) (pay : BitVec 32),
      let r := s.srecAt bar.toNat
      let b := bar.toNat
      s.wf = true ∧ twf SpanRec.init s.span.recs = true ∧ g = s.span.sgen ∧ s.span.st = .lead ∧ a.bar = bar ∧ r.open_
        = true ∧ r.deciding = false ∧ a.gen = r.gen ∧ (a.src.val, a.pepoch) ∈ r.members ∧ ((∀ m ∈ r.members, m.1 =
        a.src.val → m.2 = a.pepoch)) ∧ ¬ a.src.val ∈ r.arrived ∧ r.early = false ∧ pdLanes r.pay = 0 ∧ ((∀ q ∈
        s.rfolds, q.ofWafer b = false)) ∧ a.stat ≠ .timeout ∧ a.stat ≠ .fenced) ∧
    (∃ (s : State) (g : BitVec 16) (a : SbArrive) (bar : BarIx) (gen : Byte),
      let r := s.srecAt bar.toNat
      let b := bar.toNat
      s.wf = true ∧ twf SpanRec.init s.span.recs = true ∧ g = s.span.sgen ∧ s.span.st = .lead ∧ a.bar = bar ∧ r.open_
        = true ∧ a.gen ≠ r.gen ∧ (s.precAt b).st ≠ .free ∧ b < 65520) ∧
    (∃ (s : State) (g : BitVec 16) (bar : BarIx) (j : JoinWait) (c : Cmd),
      let b := bar.toNat
      s.wf = true ∧ twf SpanRec.init s.span.recs = true ∧ g = s.span.sgen ∧ s.span.st = .member ∧ s.waitingJoin b =
        some (j, c)) ∧
    (∃ (s : State) (g : BitVec 16) (bar : BarIx) (j : JoinWait) (c : Cmd) (cl : Nat) (n : Byte),
      let r := s.srecAt bar.toNat
      let b := bar.toNat
      s.wf = true ∧ twf SpanRec.init s.span.recs = true ∧ g = s.span.sgen ∧ s.span.st = .member ∧ s.waitingJoin b =
        some (j, c) ∧ imgMembers j.img = [(cl, n)] ∧ fieldOf cl < 84 ∧ (s.updPrec b (fun r =>
        { r with join := none })).packCheck (s.precAt b).func.val c.d.bits b [(cl, n)] = none) ∧
    (∃ (s : State) (g : BitVec 16) (x : SbRelease) (bar : BarIx) (gen : Byte),
      let b := bar.toNat
      let p := s.precAt b
      s.wf = true ∧ twf SpanRec.init s.span.recs = true ∧ g = s.span.sgen ∧ s.span.st = .member ∧ x.rel.bar = bar ∧
        p.st ≠ .idle ∧ p.st ≠ .free ∧ p.gen = x.rel.gen ∧ s.runOf (s.walkerOf b) = none ∧ p.held = false ∧ ((∃ h ∈
        mfsFields p.mfs, (s.frecOf h b).mem ≠ 0))) := by
  refine ⟨⟨(spS .lead).updFn 1 (fun x => { x with qpr := 1 }), 5, 1, 6, 0, ?_⟩, ⟨spS .lead, 5, 1, 6, 0x90010000, ?_⟩,
    ⟨recS (fun r => r), 5, 1, 6, 3, ?_⟩, ⟨recS (fun r => { r with pay := 0x90010000 }), 5, sba0, 1, 6, 0, 0, ?_⟩,
    ⟨recS (fun r => { r with warr := 1, wexp := 2, members := [(1, 3), (2, 9)], arrived := [2] }), 5, sba0, 1, 6, 0,
    0, ?_⟩, ⟨(recS (fun r => { r with gen := 5 })).updPrec 6 (fun p => { p with st := .idle, func := 1 }), 5, sba0, 6,
    0, ?_⟩, ⟨joinS, 5, 6, jw0, cmd0 joinD, ?_⟩, ⟨joinS, 5, 6, jw0, cmd0 joinD, 1, 48, ?_⟩, ⟨((spS .member).updPrec 6
    (fun r =>
    { r with st := .deciding, scope := 2, gen := 4, mfs := 1, fexp := 1, farr := 1, awaitLead := true })).updFrec 6
    (fun r => { r with mem := 3 }), 5, sbr0, 6, 0, ?_⟩⟩
  all_goals ((try dsimp only [AtHome, PortFree, Calm, Still, Quiet, Started, keyOf, entOf]) <;> decide +kernel)

theorem met_SpanFrames :
    (∃ (s : State) (g : BitVec 16) (code : BitVec 4), s.wf = true ∧ g = s.span.sgen ∧ 2 < code.toNat) ∧
    (∃ (s : State) (g : BitVec 16) (r : KRsp), s.wf = true ∧ g = s.span.sgen ∧ s.span.st = .member ∧ Master.isFn
      r.master = false) ∧
    (∃ (s : State) (g : BitVec 16) (f : Func),
      let x := s.fnAt f.val
      s.wf = true ∧ g = s.span.sgen ∧ s.span.st = .member ∧ x.job = true ∧ x.broken = false) ∧
    (∃ (s : State) (g : BitVec 16) (rt : BitVec 12) (y : Relay), s.wf = true ∧ g = s.span.sgen ∧ s.span.st = .member ∧
      s.span.relays = [y] ∧ y.rtag = rt ∧ rt ≠ 0xFFF) ∧
    (∃ (s : State) (g : BitVec 16) (rt : BitVec 12) (y : Relay), s.wf = true ∧ g = s.span.sgen ∧ s.span.st = .member ∧
      s.span.relays = [y] ∧ y.rtag = rt ∧ rt ≠ 0xFFF ∧ Master.isFn y.master = false) ∧
    (∃ (s : State) (g : BitVec 16) (src : Wafer), s.wf = true ∧ g = s.span.sgen ∧ s.span.st = .lead ∧ inMask
      s.span.reach src.val = true) ∧
    (∃ (s : State) (g : BitVec 16), s.wf = true ∧ g = s.span.sgen ∧ s.span.st = .lead) ∧
    (∃ (s : State) (g : BitVec 16) (f : Func) (q : KMsg), s.wf = true ∧ g = s.span.sgen ∧ s.span.st = .lead ∧
      q.args.cls.toNat ≤ 1 ∧ q.args.index.toNat < classRange q.args.cls.toNat ∧ (s.kenAt (keyOf q)).kind ≠ .free ∧
      (s.kenAt (keyOf q)).func.val = f.val ∧ (s.hubAt (homeHub (keyOf q))).muz = false) ∧
    (∃ (s : State) (g : BitVec 16) (src : Wafer) (f : Func) (ep : BitVec 32),
      let x := s.fnAt f.val
      s.wf = true ∧ g = s.span.sgen ∧ s.span.st = .lead ∧ x.job = true ∧ x.cst = .suspect ∧ ep = x.cep + 1 ∧ ¬ src.val
        ∈ x.readyFrom) := by
  refine ⟨⟨spS .member, 5, 3, ?_⟩, ⟨spS .member, 5, rsp0, ?_⟩, ⟨(spS .member).updFn 1 (fun x =>
    { x with job := true, members := [0] }), 5, 1, ?_⟩,
    ⟨{ spS .member with span := { (spS .member).span with relays := [rel1] } }, 5, 9, rel1, ?_⟩,
    ⟨{ spS .member with span := { (spS .member).span with relays := [rel1] } }, 5, 9, rel1, ?_⟩, ⟨spS .lead, 5, 1,
    ?_⟩, ⟨spS .lead, 5, ?_⟩, ⟨(spS .lead).updKen 0 (fun e => { e with kind := .atomicWord, func := 1 }), 5, 1, q0,
    ?_⟩, ⟨(spS .lead).updFn 1 (fun x => { x with job := true, cst := .suspect, cep := 6 }), 5, 1, 1, 7, ?_⟩⟩
  all_goals ((try dsimp only [AtHome, PortFree, Calm, Still, Quiet, Started, keyOf, entOf]) <;> decide +kernel)

theorem met_Formation :
    (∃ (s : State) (img : List Byte) (links : List UpLink) (a : Bool) (b : Bool) (st : _), s.wf = true ∧ s.bru.step =
      15 ∧ s.span.go = true ∧ s.span.op = 1 ∧ s.span.forming = none ∧ s.formCheck img links a b = some st) ∧
    (∃ (s : State) (img : List Byte) (links : List UpLink) (a : Bool) (b : Bool), s.wf = true ∧ s.bru.step = 15 ∧
      s.span.go = true ∧ s.span.op = 1 ∧ s.span.forming = none ∧ s.formCheck img links a b = none ∧ s.span.joins = []) ∧
    (∃ (s : State), s.wf = true ∧ s.span.forming = none) ∧
    (∃ (s : State) (src : Wafer) (x : Forming), s.wf = true ∧ s.span.forming = some x ∧ ¬ src.val ∈ x.joined) ∧
    (∃ (s : State) (x : Forming), s.wf = true ∧ s.span.forming = some x ∧ x.allJoined = false ∧ x.switch = none ∧
      x.since + 30000000 ≤ s.now) ∧
    (∃ (s : State) (x : Forming), s.wf = true ∧ s.span.forming = some x) ∧
    (∃ (s : State) (c : FormCarry) (e : _), s.wf = true ∧ s.span.st ≠ .none ∧ c.entries = [e] ∧ c.recs = [] ∧ c.hist =
      []) ∧
    (∃ (s : State), s.wf = true ∧ s.bru.step = 15 ∧ s.span.go = true ∧ s.span.op = 2 ∧ s.span.leaving = false ∧
      s.span.st = .none) ∧
    (∃ (s : State), s.wf = true ∧ s.bru.step = 15 ∧ s.span.go = true ∧ s.span.op = 2 ∧ s.span.leaving = false ∧
      s.span.st = .lead) ∧
    (∃ (s : State), s.wf = true ∧ s.bru.step = 15 ∧ s.span.go = true ∧ s.span.op = 2 ∧ s.span.leaving = false ∧
      s.span.st = .member) := by
  refine ⟨⟨{ upS with span := { R.span with go := true, op := 1, ident := 4 } }, formI, [], false, false, .fenced,
    ?_⟩, ⟨{ upS with span := { R.span with go := true, op := 1, ident := 7 } }, formI, [⟨0, 0, 1, 0⟩], true, true,
    ?_⟩, ⟨{ upS with span := { R.span with joins := [(1, 4)] } }, ?_⟩,
    ⟨{ upS with span := { R.span with forming := some fm0 } }, 1, fm0, ?_⟩,
    ⟨{ upS with span := { R.span with forming := some fm0, go := true }, now := 30000000 }, fm0, ?_⟩,
    ⟨{ upS with span := { R.span with forming := some fm0 } }, fm0, ?_⟩,
    ⟨{ spS .lead with span := { (spS .lead).span with carryWait := true } },
    { fcar0 with entries := [⟨3, 0x10000000000000000000000900000004#128⟩] }, ⟨3,
    0x10000000000000000000000900000004#128⟩, ?_⟩, ⟨{ upS with span := { R.span with go := true, op := 2 } }, ?_⟩,
    ⟨{ spS .lead with span := { (spS .lead).span with go := true, op := 2 } }, ?_⟩,
    ⟨{ spS .member with span := { (spS .member).span with go := true, op := 2 } }, ?_⟩⟩
  all_goals ((try dsimp only [AtHome, PortFree, Calm, Still, Quiet, Started, keyOf, entOf]) <;> decide +kernel)

theorem met_SpanLinks :
    (∃ (s : State) (port : PortIx),
      let p := port.val
      let x := s.portAt p
      s.wf = true ∧ twf Port.init s.span.ports = true ∧ x.nelUp = false) ∧
    (∃ (s : State), s.wf = true ∧ twf Port.init s.span.ports = true) ∧
    (∃ (s : State) (port : PortIx) (h : Nat),
      let p := port.val
      let x := s.portAt p
      s.wf = true ∧ twf Port.init s.span.ports = true ∧ s.span.st = .none ∧ x.nelUp = true ∧ x.up = false ∧ x.muz =
        false ∧ x.helloAt = some h ∧ h + 300000 ≤ s.now ∧ x.upAt + 300000 ≤ s.now) ∧
    (∃ (s : State) (port : PortIx),
      let p := port.val
      let x := s.portAt p
      s.wf = true ∧ twf Port.init s.span.ports = true ∧ s.span.st = .none ∧ x.up = true) ∧
    (∃ (s : State) (port : PortIx),
      let p := port.val
      let x := s.portAt p
      s.wf = true ∧ twf Port.init s.span.ports = true ∧ s.span.st = .none ∧ x.up = true ∧ x.recvAt + 24000 ≤ s.now) ∧
    (∃ (s : State) (port : PortIx) (l : BitVec 12),
      let p := port.val
      let x := s.portAt p
      s.wf = true ∧ twf Port.init s.span.ports = true ∧ s.span.st = .none ∧ x.up = true ∧ x.nakSeq = l ∧ 4 ≤ x.fails) ∧
    (∃ (s : State) (port : PortIx) (l : BitVec 12),
      let p := port.val
      let x := s.portAt p
      s.wf = true ∧ twf Port.init s.span.ports = true ∧ x.nakSeq = l ∧ x.fails < 4) ∧
    (∃ (s : State) (port : PortIx),
      let p := port.val
      let x := s.portAt p
      s.wf = true ∧ twf Port.init s.span.ports = true ∧ x.up = true ∧ x.sentAt + 3000 ≤ s.now) := by
  refine ⟨⟨upS, 15, ?_⟩, ⟨upS, ?_⟩,
    ⟨{ upS.updPort 15 (fun p => { p with nelUp := true, helloAt := some 5, upAt := 4 }) with now := 300005 }, 15, 5,
    ?_⟩, ⟨upS.updPort 15 (fun p => { p with nelUp := true, up := true }), 15, ?_⟩,
    ⟨{ upS.updPort 15 (fun p => { p with nelUp := true, up := true }) with now := 24000 }, 15, ?_⟩, ⟨upS.updPort 15
    (fun p => { p with nelUp := true, up := true, nakSeq := 8, fails := 4 }), 15, 8, ?_⟩, ⟨upS.updPort 15 (fun p =>
    { p with nelUp := true, up := true, nakSeq := 8, fails := 3 }), 15, 8, ?_⟩,
    ⟨{ upS.updPort 15 (fun p => { p with nelUp := true, up := true }) with now := 3000 }, 15, ?_⟩⟩
  all_goals ((try dsimp only [AtHome, PortFree, Calm, Still, Quiet, Started, keyOf, entOf]) <;> decide +kernel)

theorem met_Elections :
    (∃ (s : State),
      let x := s.span
      s.wf = true ∧ x.st = .electing) ∧
    (∃ (s : State) (fo : BitVec 32),
      let x := s.span
      s.wf = true ∧ x.st = .electing ∧ fo ≠ x.formed) ∧
    (∃ (s : State) (r : BitVec 32) (fo : BitVec 32),
      let x := s.span
      let m := setBits ((x.reach ||| r) &&& x.formed) x.lead.toNat 1 0
      s.wf = true ∧ x.st = .electing ∧ fo = x.formed ∧ m ≠ x.reach) ∧
    (∃ (s : State),
      let x := s.span
      s.wf = true ∧ x.st = .electing ∧ s.now < x.reachAt + 30000) ∧
    (∃ (s : State),
      let x := s.span
      let w := ((maskWs x.reach).head?).getD 0
      s.wf = true ∧ x.st = .electing ∧ x.reachAt + 30000 ≤ s.now ∧ maskCount x.formed < 2 * maskCount x.reach ∧ w =
        x.wid.toNat ∧ maskOf ((spanTree x.reach w x.links).map Prod.fst) = x.reach) ∧
    (∃ (s : State),
      let x := s.span
      s.wf = true ∧ x.st = .electing ∧ x.reachAt + 30000 ≤ s.now ∧ 2 * maskCount x.reach ≤ maskCount x.formed) := by
  refine ⟨⟨elS 14, ?_⟩, ⟨elS 14, 30, ?_⟩, ⟨elS 6, 8, 15, ?_⟩, ⟨{ elS 14 with now := 29999 }, ?_⟩,
    ⟨{ elS 14 with now := 30000 }, ?_⟩, ⟨{ elS 6 with now := 30000 }, ?_⟩⟩
  all_goals ((try dsimp only [AtHome, PortFree, Calm, Still, Quiet, Started, keyOf, entOf]) <;> decide +kernel)

theorem met_ResetsAndBringUp :
    (∃ (s : State), s.err.resetDue = false) ∧
    (∃ (s : State) (b : BringUp), s.err.resetDue = true ∧ s.bru.step ≠ 14 ∧ b.firmwareValid = false) ∧
    (∃ (s : State), s.bru.aonPg = true) ∧
    (∃ (s : State) (b : BringUp), s.bru.aonPg = false ∧ b.firmwareValid = false) := by
  refine ⟨⟨R, ?_⟩,
    ⟨{ (upS.updCsn 3 (fun x => { x with epoch := 255 })) with err := { R.err with resetDue := true, byError := true } },
    bup0, ?_⟩, ⟨{ upS with bru := { upS.bru with aonPg := true } }, ?_⟩, ⟨R, bup0, ?_⟩⟩
  all_goals ((try dsimp only [AtHome, PortFree, Calm, Still, Quiet, Started, keyOf, entOf]) <;> decide +kernel)

theorem met_MemoryTestAndMap :
    (∃ (s : State) (c : Cluster), s.wf = true ∧ s.bru.mtest = true ∧ ¬ c.id ∈ s.bru.mtestSeen) ∧
    (∃ (s : State) (c : Cluster), s.wf = true ∧ s.bru.mtest = true ∧ ¬ c.id ∈ s.bru.mtestSeen ∧ twf (0 : BitVec 6)
      s.mesh.why = true ∧ bit (tget (0 : BitVec 6) s.mesh.why c.id).toNat 5 = false) ∧
    (∃ (s : State), s.wf = true ∧ s.bru.mtest = true) ∧
    (∃ (s : State), s.wf = true ∧ s.bru.mtest = true ∧ s.bru.mtestAt + 1971000000000 ≤ s.now) ∧
    (∃ (s : State), s.wf = true ∧ s.bru.mtest = true ∧ s.bruRuns 6 = true) := by
  refine ⟨⟨mtS, ⟨0, 0⟩, ?_⟩, ⟨mtS, ⟨0, 0⟩, ?_⟩, ⟨mtS, ?_⟩, ⟨{ mtS with now := 1971000000000 }, ?_⟩,
    ⟨{ mtS with bru := { mtS.bru with step := 15, go := true, op := 6 } }, ?_⟩⟩
  all_goals ((try dsimp only [AtHome, PortFree, Calm, Still, Quiet, Started, keyOf, entOf]) <;> decide +kernel)

theorem met_RecipeCommands :
    (∃ (s : State) (img : List Byte), s.bruRuns 1 = true ∧ s.bru.caskQ = [] ∧ recipeErr img ≠ 0) ∧
    (∃ (s : State) (img : List Byte), s.bruRuns 1 = true ∧ s.bru.caskQ = [] ∧ recipeErr img = 0) ∧
    (∃ (s : State), s.bruRuns 3 = true ∧ s.bru.caskQ = []) ∧
    (∃ (s : State) (r : RecipeSlot), s.bruRuns 2 = true ∧ s.bru.rcp = 1 ∧ s.cask.rcp0 = some r) := by
  refine ⟨⟨bruS 1 (fun b => b), [], ?_⟩, ⟨bruS 1 (fun b => b), rcpI, ?_⟩, ⟨bruS 3 (fun b => b), ?_⟩,
    ⟨{ bruS 2 (fun b => { b with rcp := 1 }) with cask := { R.cask with rcp0 := some ⟨1, rcpI⟩ } }, ⟨1, rcpI⟩, ?_⟩⟩
  all_goals ((try dsimp only [AtHome, PortFree, Calm, Still, Quiet, Started, keyOf, entOf]) <;> decide +kernel)

theorem met_FirmwareUpdate :
    (∃ (s : State),
      let x := s.bru
      s.bruRuns 4 = true ∧ x.stg = false ∧ x.sess = .idle) ∧
    (∃ (s : State),
      let x := s.bru
      s.bruRuns 5 = true ∧ x.caskQ = [] ∧ x.stg = false) ∧
    (∃ (s : State),
      let x := s.bru
      s.bruRuns 5 = true ∧ x.caskQ = [] ∧ x.stg = true) ∧
    (∃ (s : State),
      let x := s.bru
      x.sess = .idle ∧ x.stg = false) ∧
    (∃ (s : State),
      let x := s.bru
      x.sess = .requested) ∧
    (∃ (s : State),
      let x := s.bru
      x.sess = .offered) ∧
    (∃ (s : State) (c : FwChunk),
      let x := s.bru
      x.sess = .transfer ∧ x.stg = false ∧ c.offset.toNat = x.stage.length ∧ c.data.length ≤ 1024 ∧ x.stage.length +
        c.data.length < x.sessLen.toNat) ∧
    (∃ (s : State) (c : FwChunk),
      let x := s.bru
      x.sess = .transfer ∧ x.stg = false ∧ c.offset.toNat = x.stage.length ∧ c.data.length ≤ 1024 ∧ x.stage.length +
        c.data.length = x.sessLen.toNat ∧ x.caskQ = []) ∧
    (∃ (s : State),
      let x := s.bru
      x.sess = .applied) ∧
    (∃ (s : State),
      let x := s.bru
      x.sess ≠ .idle) := by
  refine ⟨⟨bruS 4 (fun b => b), ?_⟩, ⟨bruS 5 (fun b => b), ?_⟩, ⟨bruS 5 (fun b =>
    { b with stg := true, stage := [1, 2] }), ?_⟩, ⟨bruS 0 (fun b => b), ?_⟩, ⟨bruS 0 (fun b =>
    { b with sess := .requested }), ?_⟩, ⟨bruS 0 (fun b => { b with sess := .offered, stage := [3] }), ?_⟩, ⟨bruS 0
    (fun b => { b with sess := .transfer, stage := [3], sessLen := 9 }), ⟨1, [4, 5]⟩, ?_⟩, ⟨bruS 0 (fun b =>
    { b with sess := .transfer, stage := [3], sessLen := 3 }), ⟨1, [4, 5]⟩, ?_⟩, ⟨bruS 0 (fun b =>
    { b with sess := .applied }), ?_⟩, ⟨bruS 0 (fun b => { b with sess := .transfer, stage := [3], stg := true }),
    ?_⟩⟩
  all_goals ((try dsimp only [AtHome, PortFree, Calm, Still, Quiet, Started, keyOf, entOf]) <;> decide +kernel)

theorem met_CaskStore :
    (∃ (s : State) (f : Func) (k : CaskReq),
      let x := s.fnAt f.val
      s.wf = true ∧ twf none s.cask.recs = true ∧ x.cask = some k ∧ k.epoch.toNat ≤ x.cep.toNat ∧ s.bru.caskQ = []) ∧
    (∃ (s : State) (f : Func) (k : CaskReq),
      let x := s.fnAt f.val
      s.wf = true ∧ twf none s.cask.recs = true ∧ x.cask = some k ∧ x.cep.toNat < k.epoch.toNat) ∧
    (∃ (s : State) (f : Func) (k : CaskReq) (r : CaskRec) (c : Cmd) (q : List CaskJob),
      let x := s.fnAt f.val
      let done (t : State) (st : Status) : Prop := Recorded s t k.ring c st false 0 ∧ (t.fnAt f.val).cask = none
      s.wf = true ∧ twf none s.cask.recs = true ∧ s.bru.caskQ = .record f r :: q ∧ x.cask = some k ∧ k.epoch = r.cep ∧
        (s.ringAt k.ring).cmdAt k.sqi = some c ∧ c.done = false ∧ s.holdupGood = true) ∧
    (∃ (s : State) (f : Func) (k : CaskReq) (r : CaskRec) (c : Cmd) (q : List CaskJob),
      let x := s.fnAt f.val
      let done (t : State) (st : Status) : Prop := Recorded s t k.ring c st false 0 ∧ (t.fnAt f.val).cask = none
      s.wf = true ∧ twf none s.cask.recs = true ∧ s.bru.caskQ = .record f r :: q ∧ x.cask = some k ∧ k.epoch = r.cep ∧
        (s.ringAt k.ring).cmdAt k.sqi = some c ∧ c.done = false ∧ 100 ≤ s.bru.deferred) ∧
    (∃ (s : State), s.wf = true ∧ twf none s.cask.recs = true ∧ s.bru.caskQ ≠ [] ∧ s.holdupGood = false) ∧
    (∃ (s : State), s.wf = true ∧ twf none s.cask.recs = true) := by
  refine ⟨⟨(ringS [desc 3 2 0] id).updFn 1 (fun x => { x with cask := some ck0, cep := 6 }), 1, ck0, ?_⟩, ⟨(ringS
    [desc 3 2 0] id).updFn 1 (fun x => { x with cask := some ck0, cep := 5 }), 1, ck0, ?_⟩, ⟨caskS 0 true, 1, ck0,
    cr0, cmd0 (desc 3 2 0), [], ?_⟩, ⟨caskS 100 false, 1, ck0, cr0, cmd0 (desc 3 2 0), [], ?_⟩, ⟨caskS 0 false, ?_⟩,
    ⟨caskS 0 true, ?_⟩⟩
  all_goals ((try dsimp only [AtHome, PortFree, Calm, Still, Quiet, Started, keyOf, entOf]) <;> decide +kernel)

theorem met_RegisterWrites :
    (∃ (s : State) (off : BitVec 20) (be : BitVec 4),
      let n := off.toNat
      s.wf = true ∧ ((be ≠ 0xF ∨ n % 4 ≠ 0))) ∧
    (∃ (s : State) (off : BitVec 20),
      let n := off.toNat
      s.wf = true ∧ s.bru.step ≠ 15 ∧ s.bru.step ≠ 14 ∧ 0x40C ≤ n) ∧
    (∃ (s : State) (f : Func) (off : BitVec 20) (be : BitVec 4),
      let n := off.toNat
      s.wf = true ∧ s.bru.step = 15 ∧ be = 0xF ∧ f.val ≠ 0 ∧ ((n < 0x1000 ∨ (0x2000 ≤ n ∧ n < 0x6000) ∨ n = 0x1010 ∨ n
        = 0x1020))) ∧
    (∃ (s : State) (f : Func) (g : Func) (off : BitVec 20) (be : BitVec 4),
      let n := off.toNat
      s.wf = true ∧ s.bru.step = 15 ∧ be = 0xF ∧ f.val = 0 ∧ n = 0x2000 + 0x100 * g.val + 0x10) ∧
    (∃ (s : State) (f : Func) (g : Func) (off : BitVec 20) (be : BitVec 4),
      let n := off.toNat
      s.wf = true ∧ s.bru.step = 15 ∧ be = 0xF ∧ f.val = 0 ∧ n = 0x2000 + 0x100 * g.val + 0x34) ∧
    (∃ (s : State) (f : Func) (off : BitVec 20) (be : BitVec 4),
      let n := off.toNat
      s.wf = true ∧ s.bru.step = 15 ∧ be = 0xF ∧ f.val = 0 ∧ n = 0x000) ∧
    (∃ (s : State) (f : Func) (off : BitVec 20) (be : BitVec 4),
      let n := off.toNat
      s.wf = true ∧ s.bru.step = 15 ∧ be = 0xF ∧ f.val = 0 ∧ n = 0x108 ∧ s.mgr.go = true) ∧
    (∃ (s : State) (f : Func) (off : BitVec 20) (be : BitVec 4),
      let n := off.toNat
      s.wf = true ∧ s.bru.step = 15 ∧ be = 0xF ∧ f.val = 0 ∧ n = 0x108 ∧ s.mgr.go = false) ∧
    (∃ (s : State) (f : Func) (off : BitVec 20) (be : BitVec 4),
      let n := off.toNat
      s.wf = true ∧ s.bru.step = 15 ∧ be = 0xF ∧ f.val = 0 ∧ n = 0x304) ∧
    (∃ (s : State) (f : Func) (off : BitVec 20) (be : BitVec 4),
      let n := off.toNat
      s.wf = true ∧ s.bru.step = 15 ∧ be = 0xF ∧ f.val ≠ 0 ∧ n = 0x1034 ∧ (s.fnAt f.val).frozen = false) ∧
    (∃ (s : State) (f : Func) (off : BitVec 20) (be : BitVec 4) (r : RingIx),
      let n := off.toNat
      s.wf = true ∧ s.bru.step = 15 ∧ be = 0xF ∧ n = 0x10000 + 64 * r.val ∧ ¬ r.val ∈ (s.fnAt f.val).rings) ∧
    (∃ (s : State) (f : Func) (off : BitVec 20) (be : BitVec 4) (r : RingIx),
      let n := off.toNat
      s.wf = true ∧ s.bru.step = 15 ∧ be = 0xF ∧ n = 0x10000 + 64 * r.val ∧ r.val ∈ (s.fnAt f.val).rings ∧ (s.ringAt
        r.val).st = .off) ∧
    (∃ (s : State) (f : Func) (off : BitVec 20) (be : BitVec 4) (r : RingIx),
      let n := off.toNat
      s.wf = true ∧ s.bru.step = 15 ∧ be = 0xF ∧ n = 0x10000 + 64 * r.val ∧ r.val ∈ (s.fnAt f.val).rings ∧ (s.ringAt
        r.val).st ≠ .off) := by
  refine ⟨⟨upS, 0, 3, ?_⟩, ⟨R, 0x40C, ?_⟩, ⟨upS, 63, 0x5FFC, 15, ?_⟩, ⟨upS, 0, 63, 0x5F10, 15, ?_⟩, ⟨upS, 0, 63,
    0x5F34, 15, ?_⟩, ⟨upS, 0, 0, 15, ?_⟩, ⟨mgrS, 0, 0x108, 15, ?_⟩, ⟨upS, 0, 0x108, 15, ?_⟩,
    ⟨{ upS with err := { upS.err with bits := 63 } }, 0, 0x304, 15, ?_⟩, ⟨upS, 63, 0x1034, 15, ?_⟩, ⟨ringS [] id, 1,
    0x4FFC0, 15, 4095, ?_⟩, ⟨(ringS [] id).updRing 5 (fun x => { x with st := .off }), 1, 0x10140, 15, 5, ?_⟩, ⟨ringS
    [] id, 1, 0x10140, 15, 5, ?_⟩⟩
  all_goals ((try dsimp only [AtHome, PortFree, Calm, Still, Quiet, Started, keyOf, entOf]) <;> decide +kernel)

theorem met_RegisterReads :
    (∃ (s : State) (f : Func) (off : Nat), s.wf = true ∧ s.bru.step = 15 ∧ f.val ≠ 0 ∧ ((off < 0x1000 ∨ (0x2000 ≤ off
      ∧ off < 0x6000)))) ∧
    (∃ (s : State) (f : Func), s.wf = true ∧ s.bru.step = 15 ∧ f.val ≠ 0 ∧ (s.fnAt f.val).frozen = false) ∧
    (∃ (s : State), s.wf = true ∧ s.bru.step = 15) ∧
    (∃ (s : State), s.wf = true ∧ s.bru.step = 15) ∧
    (∃ (s : State) (f : Func) (r : RingIx), s.wf = true ∧ s.bru.step = 15 ∧ ¬ r.val ∈ (s.fnAt f.val).rings) := by
  refine ⟨⟨upS, 1, 0, ?_⟩, ⟨upS, 1, ?_⟩, ⟨upS, ?_⟩, ⟨upS, ?_⟩, ⟨upS, 0, 0, ?_⟩⟩
  all_goals ((try dsimp only [AtHome, PortFree, Calm, Still, Quiet, Started, keyOf, entOf]) <;> decide +kernel)

theorem met_LoadEnds :
    (∃ (s : State) (l : Load),
      let p := s.precAt 65535
      s.wf = true ∧ p.st = .deciding ∧ p.scope ≠ 2 ∧ p.wstat ≠ .fenced ∧ p.masks = [] ∧ ((∀ h, (s.frecOf h 65535).mem
        = 0)) ∧ s.bru.load = some l ∧ l.func = none ∧ s.bru.step = 8) ∧
    (∃ (s : State) (l : Load) (f : Nat),
      let p := s.precAt 65535
      s.wf = true ∧ p.st = .deciding ∧ p.scope ≠ 2 ∧ p.wstat ≠ .fenced ∧ p.masks = [] ∧ ((∀ h, (s.frecOf h 65535).mem
        = 0)) ∧ s.bru.load = some l ∧ l.func = some f) := by
  refine ⟨⟨lendS none 8 1, { load0 with checking := true }, ?_⟩, ⟨lendS (some 1) 15 1,
    { load0 with checking := true, func := some 1 }, 1, ?_⟩⟩
  · exact ⟨by decide +kernel, rfl, by decide, by decide, rfl, fun _ => rfl, rfl, rfl, rfl⟩
  · exact ⟨by decide +kernel, rfl, by decide, by decide, rfl, fun _ => rfl, rfl, rfl⟩

end Sys2Proof.Tests
end

section
/-! PROOF of O8 (R86). A request that passes the checks of its home hub is applied to its entry (`AtHome.atHome_eq`). On a
lock that its master does not hold, each operation of the owner answers NOT_OWNER (`relAct_of_not_owned` and its like), and
the two that give a lock up count it. -/

namespace Sys2Proof.Machine

open Sys2Proof

/-! ### The home hub: its checks and its answer -/

/-- None of the checks refuses a request that `AtHome` describes. -/
theorem AtHome.homeCheck_eq_none {s : State} {hub : Field} {tep : Epoch} {q : KMsg} {kind : Kind}
    (h : AtHome s hub tep q kind) : s.homeCheck hub.val tep q = none := by
  obtain ⟨hmuz, hcls, hix, hhome, hkind, hfree, hmine, htep⟩ := h
  have hlisted : (s.kenAt (keyOf q)).kind ≠ .free := hkind ▸ hfree
  have hissuer : ¬ q.args.cls.toNat = 2 → Master.wafer q.master = s.span.wid.toNat →
      s.masterFn q.master = some (s.kenAt (keyOf q)).func.val := by
    rcases hmine with hcls2 | hforeign | hown
    · exact fun hne => absurd (congrArg BitVec.toNat hcls2) hne
    · exact fun _ hwafer => absurd hwafer hforeign
    · exact fun _ _ => hown
  unfold keyOf at hhome hlisted hissuer
  simpa [State.homeCheck, hmuz, hcls, hix, hhome, hlisted, htep] using hissuer

/-- A request that the checks let through is applied to the entry it names. -/
theorem State.homeDo_of_homeCheck_eq_none {s : State} {hub : Nat} {tep : Epoch} {q : KMsg}
    (h : s.homeCheck hub tep (s.renewed q) = none) (op : KOp) (act : KMsg → State → Nat → KEntry → State) :
    s.homeDo hub tep op q act = act (s.renewed q) s (keyOf (s.renewed q)) (s.kenAt (keyOf (s.renewed q))) := by
  simp only [State.homeDo, h, keyOf]

/-- A request that arrives and passes the checks is taken off the mesh and applied to its entry. -/
theorem AtHome.atHome_eq {s : State} {hub : Field} {tep : Epoch} {q : KMsg} {kind : Kind}
    (h : AtHome s hub tep (s.renewed q) kind) (harr : Arrives s hub tep q) (op : KOp)
    (act : KMsg → State → Nat → KEntry → State) :
    atHome s hub tep op q kind act =
      .next (act (s.renewed q) (begun s hub tep op q) (keyOf (s.renewed q)) (s.kenAt (keyOf (s.renewed q)))) := by
  -- Taking a message off the mesh changes nothing that the checks read.
  have hcheck : (begun s hub tep op q).homeCheck hub.val tep ((begun s hub tep op q).renewed q) = none :=
    h.homeCheck_eq_none
  obtain ⟨-, -, -, -, hkind, -⟩ := h
  calc atHome s hub tep op q kind act
    _ = .next ((begun s hub tep op q).homeDo hub.val tep op q
          (fun q s k e => if e.kind = kind then act q s k e else s.anyAnswer op q)) := by
      simp [atHome, harr op, begun]
    _ = _ := by
      rw [State.homeDo_of_homeCheck_eq_none hcheck]
      exact congrArg _ (if_pos hkind)

/-- An operation on a lock that leaves the state u with the entry's queue as it was, and answers from it: the reply that the
home hub sends, its AUX being WAITERS (R78). -/
theorem AtHome.atHome_lockAnswer {s u : State} {hub : Field} {tep : Epoch} {q : KMsg} {op : KOp} {st : Status}
    {act : KMsg → State → Nat → KEntry → State}
    (h : AtHome s hub tep (s.renewed q) .lock) (harr : Arrives s hub tep q)
    (hact : act (s.renewed q) (begun s hub tep op q) (keyOf (s.renewed q)) (s.kenAt (keyOf (s.renewed q))) =
      u.lockAnswer op (s.renewed q) (keyOf (s.renewed q)) st)
    (hentry : u.kenAt (keyOf (s.renewed q)) = s.kenAt (keyOf (s.renewed q)))
    (haux : ∀ e, auxOf op e = BitVec.ofNat 32 e.queue.length) :
    atHome s hub tep op q .lock act = .next (u.send (answer hub op (s.renewed q) st false 0
      (BitVec.ofNat 32 (s.kenAt (keyOf (s.renewed q))).queue.length) 0)) := by
  rw [h.atHome_eq harr, hact, State.lockAnswer, hentry, haux]
  obtain ⟨-, -, -, hhome, -⟩ := h
  rw [State.kenAnswer, answer, answerOf, ← hhome, keyOf]

/-! ### A lock and a master that does not hold it -/

/-- A free lock is held by no master, a lock in use by its OWNER alone (R85). -/
theorem ownedBy_eq_false {e : KEntry} {m : Master} (h : e.st = .free ∨ e.owner ≠ m) : ownedBy e m = false := by
  rcases h with hfree | hother
  · simp [ownedBy, hfree]
  · simp [ownedBy, hother]

section NotOwner

variable {q : KMsg} {s : State} {k : Nat} {e : KEntry}

theorem State.countNown_of_not_ret (hret : q.args.ret = false) :
    s.countNown e q = s.updFn e.func.val (fun x => { x with nown := satInc x.nown }) := by
  simp [State.countNown, hret]

theorem relAct_of_not_owned (h : ownedBy e q.master = false) (hret : q.args.ret = false) :
    relAct q s k e =
      (s.updFn e.func.val (fun x => { x with nown := satInc x.nown })).lockAnswer .lockRel q k .notOwner := by
  simp [relAct, h, State.countNown_of_not_ret hret]

theorem cancelAct_of_not_owned (h : ownedBy e q.master = false) (hret : q.args.ret = false) :
    cancelAct q s k e =
      (s.updFn e.func.val (fun x => { x with nown := satInc x.nown })).lockAnswer .lockCancel q k .notOwner := by
  simp [cancelAct, h, State.countNown_of_not_ret hret]

theorem confirmAct_of_not_owned (h : ownedBy e q.master = false) :
    confirmAct q s k e = s.lockAnswer .lockConfirm q k .notOwner := by
  simp [confirmAct, h]

theorem renewAct_of_not_owned (h : ownedBy e q.master = false) :
    renewAct q s k e = s.lockAnswer .lockRenew q k .notOwner := by
  simp [renewAct, h]

end NotOwner

/-- Settles O8: the request reaches an entry that its master does not hold, and the answer leaves the entry as it was. -/
theorem notOwnerCounting : Obligations.NotOwnerCounting := by
  intro s hub tep q r e harr hhome hother hret no counted
  have hnot : ownedBy e r.master = false := ownedBy_eq_false hother
  refine ⟨?rel, ?cancel, ?confirm, ?renew⟩
  case rel => exact hhome.atHome_lockAnswer harr (relAct_of_not_owned hnot hret) (by simp [begun]) (fun _ => rfl)
  case cancel => exact hhome.atHome_lockAnswer harr (cancelAct_of_not_owned hnot hret) (by simp [begun]) (fun _ => rfl)
  case confirm => exact hhome.atHome_lockAnswer harr (confirmAct_of_not_owned hnot) (by simp [begun]) (fun _ => rfl)
  case renew => exact hhome.atHome_lockAnswer harr (renewAct_of_not_owned hnot) (by simp [begun]) (fun _ => rfl)

end Sys2Proof.Machine
end

section
/-! PROOF of O40 (R154). The accumulator of a lane adds up through any tree of folds (`Folds.acc_eq_sum`), so that an integer
SUM is exact before its clamp; the clamp, and the flags of every lane of an integer result, are `laneRes`'s alone. -/

namespace Sys2Proof.Machine

open Sys2Proof

/-! ### Folds: the lanes of a partial, and what their accumulators add up to -/

theorem leafPartial_lanes_length (d : BitVec 32) (p : List Byte) (pois : Bool) :
    (leafPartial d p pois).lanes.length = pdLanes d := by
  simp [leafPartial]

/-- Two partials of one number of lanes fold lane by lane; one without lanes leaves the other as it is, which has none
either. -/
theorem foldPartial_lanes {d : BitVec 32} {a b : Partial} (h : a.lanes.length = b.lanes.length) :
    (foldPartial d a b).lanes = (a.lanes.zip b.lanes).map (fun p => foldLane d p.1 p.2) := by
  by_cases ha : a.lanes = []
  · have hb : b.lanes = [] := List.length_eq_zero_iff.mp (by simp [← h, ha])
    simp [foldPartial, ha, hb]
  · have hb : b.lanes ≠ [] := fun hb => ha (List.length_eq_zero_iff.mp (by simp [h, hb]))
    simp [foldPartial, ha, hb]

theorem Folds.lanes_length {d : BitVec 32} {ps : List (List Byte)} {a : Partial} (h : Folds d ps a) :
    a.lanes.length = pdLanes d := by
  induction h with
  | leaf p => exact leafPartial_lanes_length d p false
  | node ps qs a b _ _ iha ihb => simp [foldPartial_lanes (iha.trans ihb.symm), iha, ihb]

theorem foldLane_acc {d : BitVec 32} (h : pdOp d ≠ 3) (a b : Lane) : (foldLane d a b).acc = a.acc + b.acc := by
  simp [foldLane, h]

/-- No fold loses a unit of an accumulator: a lane holds the sum of what each payload brought to it, in whatever order and
grouping they were folded (R145). -/
theorem Folds.acc_eq_sum {d : BitVec 32} {ps : List (List Byte)} {a : Partial} {i : Nat} {l : Lane} (h : Folds d ps a)
    (hop : pdOp d ≠ 3) (hl : a.lanes[i]? = some l) : l.acc = (ps.map (fun p => (leafLane d p i).acc)).sum := by
  induction h generalizing l with
  | leaf p =>
    obtain ⟨hi, rfl⟩ : i < pdLanes d ∧ { leafLane d p i with psn := false } = l := by
      simpa [leafPartial, List.getElem?_eq_some_iff] using hl
    simp
  | node ps qs a b ha hb iha ihb =>
    rw [foldPartial_lanes (ha.lanes_length.trans hb.lanes_length.symm), List.getElem?_map] at hl
    obtain ⟨⟨la, lb⟩, hab, rfl⟩ := Option.map_eq_some_iff.mp hl
    obtain ⟨hla, hlb⟩ := List.getElem?_zip_eq_some.mp hab
    rw [foldLane_acc hop, iha hla, ihb hlb, List.map_append, List.sum_append]

/-! ### Integer lanes -/

section SumLanes

variable {d : BitVec 32} (hop : pdOp d = 0)
include hop

theorem leafLane_acc_of_i32 (hfmt : pdFmt d = 9) (p : List Byte) (i : Nat) :
    (leafLane d p i).acc = (BitVec.ofNat 32 (elemAt 9 p i)).toInt := by
  simp [leafLane, hop, sumLane, hfmt]

theorem leafLane_acc_of_u64 (hfmt : pdFmt d = 10) (p : List Byte) (i : Nat) :
    (leafLane d p i).acc = (elemAt 10 p i : Int) := by
  simp [leafLane, hop, sumLane, hfmt]

theorem laneRes_of_sum (key : BitVec 64) (i : Nat) (l : Lane) : laneRes d key i l = sumRes d key i l := by
  simp [laneRes, hop]

/-- An I32 SUM is clamped to the range of I32, and sets OVF where the clamp changed it (R154). -/
theorem laneRes_of_i32 (hfmt : pdFmt d = 9) (key : BitVec 64) (i : Nat) (l : Lane) :
    laneRes d key i l = ⟨(BitVec.ofInt 32 (max (-2 ^ 31) (min (2 ^ 31 - 1) l.acc))).toNat,
      if l.acc < -2 ^ 31 ∨ 2 ^ 31 - 1 < l.acc then fOVF else 0⟩ := by
  rw [laneRes_of_sum hop, sumRes, hfmt, if_pos rfl]
  split
  next hlow =>
    rw [min_eq_right (by omega), max_eq_left (by omega), if_pos (.inl hlow)]
    rfl
  next hlow =>
    split
    next hhigh =>
      rw [min_eq_left (by omega), if_pos (.inr hhigh)]
      rfl
    next hhigh =>
      rw [min_eq_right (by omega), max_eq_right (by omega), if_neg (by omega)]

/-- A U64 SUM, which is never negative, is clamped to the greatest U64, and sets OVF where the clamp changed it (R154). -/
theorem laneRes_of_u64 (hfmt : pdFmt d = 10) (key : BitVec 64) (i : Nat) {l : Lane} {v : Nat} (hacc : l.acc = (v : Int)) :
    laneRes d key i l = ⟨min v (2 ^ 64 - 1), if 2 ^ 64 - 1 < v then fOVF else 0⟩ := by
  rw [laneRes_of_sum hop, sumRes, hfmt, if_neg (by decide), if_pos rfl, hacc, Int.toNat_natCast]
  by_cases hover : 2 ^ 64 - 1 < v
  · rw [if_pos (Int.ofNat_lt.mpr hover), if_pos hover, min_eq_right hover.le]
  · rw [if_neg (mt Int.ofNat_lt.mp hover), if_neg hover, min_eq_left (not_lt.mp hover)]

end SumLanes

/-- Only a SUM rounds and clamps: the lanes of another operation set no flag but NAN and EMPTY (R153). -/
theorem laneRes_flags_of_not_sum {d : BitVec 32} (hop : pdOp d ≠ 0) (key : BitVec 64) (i : Nat) (l : Lane) :
    (laneRes d key i l).flags ∈ [0, fNAN, fEMPTY] := by
  unfold laneRes
  split
  · contradiction
  · split_ifs <;> simp
  · split_ifs <;> simp
  · split_ifs <;> simp
  · simp

/-- A lane of an integer result sets no flag, or one of OVF, NAN and EMPTY. -/
theorem laneRes_flags_of_integer {d : BitVec 32} (h : pdFmt d = 9 ∨ pdFmt d = 10 ∨ pdOp d = 7) (key : BitVec 64) (i : Nat)
    (l : Lane) : (laneRes d key i l).flags ∈ [0, fOVF, fNAN, fEMPTY] := by
  by_cases hop : pdOp d = 0
  · rcases h with hi32 | hu64 | hcount
    · rw [laneRes_of_i32 hop hi32]
      dsimp only
      split_ifs <;> simp
    · rw [laneRes_of_sum hop, sumRes, hu64, if_neg (by decide), if_pos rfl]
      split_ifs <;> simp
    · omega
  · have := laneRes_flags_of_not_sum hop key i l
    simp only [List.mem_cons] at this ⊢
    tauto

/-- Settles O40: the accumulator is the exact sum of the payloads' elements, and the lane's result is its clamp. -/
theorem integerSums : Obligations.IntegerSums := by
  refine ⟨fun d key ps a i l hfolds hop hl => ?sum, fun d key i l hint => ?flags⟩
  case sum =>
    have hacc := hfolds.acc_eq_sum (by omega) hl
    refine ⟨fun hfmt => ?i32, fun hfmt => ?u64⟩
    case i32 =>
      simp only [leafLane_acc_of_i32 hop hfmt] at hacc
      exact ⟨hacc, hacc ▸ laneRes_of_i32 hop hfmt key i l⟩
    case u64 =>
      have hsum : l.acc = ((ps.map (fun p => elemAt 10 p i)).sum : Nat) := by
        simpa [leafLane_acc_of_u64 hop hfmt, Function.comp_def] using hacc
      exact ⟨hsum, laneRes_of_u64 hop hfmt key i hsum⟩
  case flags =>
    have noInxUnf : ∀ n ∈ [0, fOVF, fNAN, fEMPTY], bit n 0 = false ∧ bit n 2 = false := by decide
    exact noInxUnf _ (laneRes_flags_of_integer hint key i l)

end Sys2Proof.Machine
end

section
/-! PROOF of O38 (R212). The SUS bit of a verdict flit is the disjunction of its own NBAD, NANR, LOST and LOW fields
(`State.verdictOf_sus`), and LOW compares the tile count with the function's TMIN (`State.verdictOf_low_iff`). -/

namespace Sys2Proof.Machine

open Sys2Proof

/-- R214: LOW reports that fewer tiles were counted than the function's TMIN. -/
theorem State.verdictOf_low_iff (s : State) (cl : Nat) :
    (s.verdictOf cl).low = true ↔ (s.csnAt cl).ntile.toNat < s.tminOf cl :=
  decide_eq_true_iff

/-- SUS is a function of the other fields of the same flit. -/
theorem State.verdictOf_sus (s : State) (cl : Nat) :
    (s.verdictOf cl).sus = ((s.csnAt cl).nbad != 0 || (s.csnAt cl).nanr || (s.csnAt cl).lost || (s.verdictOf cl).low) :=
  rfl

/-- Settles O38: each disjunct of the SUS bit is one condition of R212. -/
theorem clusterVerdict : Obligations.ClusterVerdict := by
  intro s cl c
  rw [s.verdictOf_sus]
  simp only [Bool.or_eq_true, bne_iff_ne, s.verdictOf_low_iff, or_assoc, c]

end Sys2Proof.Machine
end

section
/-! PROOF of O3, O4 and O6. `exec` calls one meaning for each command, and what that meaning keeps is proved in the files
Keeps*; `exec_keeps` gathers it over the commands. Every meaning answers a next state (`exec_next`). -/

namespace Sys2Proof.Machine

open Sys2Proof

/-- Every command keeps the queue and the canonical form of the unit tables. -/
theorem exec_keeps (c : Instr) (s : State) : KeepsOut s (exec c s) := by
  cases c with
  | kenIssue => exact execKenIssue_keeps (.refl s)
  | load => exact execLoad_keeps (.refl s)
  | store => exact execStore_keeps (.refl s)
  | swap => exact execSwap_keeps (.refl s)
  | cas => exact execCas_keeps (.refl s)
  | add => exact execAdd_keeps (.refl s)
  | and => exact execAnd_keeps (.refl s)
  | or => exact execOr_keeps (.refl s)
  | xor => exact execXor_keeps (.refl s)
  | umax => exact execUmax_keeps (.refl s)
  | umin => exact execUmin_keeps (.refl s)
  | smax => exact execSmax_keeps (.refl s)
  | smin => exact execSmin_keeps (.refl s)
  | semWait => exact execSemWait_keeps (.refl s)
  | semSignal => exact execSemSignal_keeps (.refl s)
  | semSet => exact execSemSet_keeps (.refl s)
  | semRead => exact execSemRead_keeps (.refl s)
  | tokTake => exact execTokTake_keeps (.refl s)
  | tokReturn => exact execTokReturn_keeps (.refl s)
  | tokSet => exact execTokSet_keeps (.refl s)
  | tokRead => exact execTokRead_keeps (.refl s)
  | lockAcq => exact execLockAcq_keeps (.refl s)
  | lockRel => exact execLockRel_keeps (.refl s)
  | lockConfirm => exact execLockConfirm_keeps (.refl s)
  | lockCancel => exact execLockCancel_keeps (.refl s)
  | lockRenew => exact execLockRenew_keeps (.refl s)
  | lockRead => exact execLockRead_keeps (.refl s)
  | withdraw => exact execWithdraw_keeps (.refl s)
  | leashExpiry => exact execLeashExpiry_keeps (.refl s)
  | waitTimeout => exact execWaitTimeout_keeps (.refl s)
  | kenRsp => exact execKenRsp_keeps (.refl s)
  | whistle => exact execWhistle_keeps (.refl s)
  | kenReqSpan => exact execKenReqSpan_keeps (.refl s)
  | barInit => exact execBarInit_keeps (.refl s)
  | barFree => exact execBarFree_keeps (.refl s)
  | barArrive => exact execBarArrive_keeps (.refl s)
  | barWait => exact execBarWait_keeps (.refl s)
  | barSync => exact execBarSync_keeps (.refl s)
  | barRead => exact execBarRead_keeps (.refl s)
  | tickArm => exact execTickArm_keeps (.refl s)
  | tickRead => exact execTickRead_keeps (.refl s)
  | cmtRead => exact execCmtRead_keeps (.refl s)
  | coreDistRead => exact execCoreDistRead_keeps (.refl s)
  | syncFence => exact execSyncFence_keeps (.refl s)
  | fenceComplete => exact execFenceComplete_keeps (.refl s)
  | broadcastRead => exact execBroadcastRead_keeps (.refl s)
  | cmWriteSnoop => exact execCmWriteSnoop_keeps (.refl s)
  | abftRecord => exact execAbftRecord_keeps (.refl s)
  | droopEvent => exact execDroopEvent_keeps (.refl s)
  | cinvAck => exact execCinvAck_keeps (.refl s)
  | invAck => exact execInvAck_keeps (.refl s)
  | invTimeout => exact execInvTimeout_keeps (.refl s)
  | tickNote => exact execTickNote_keeps (.refl s)
  | edge => exact execEdge_keeps (.refl s)
  | tickEdge => exact execTickEdge_keeps (.refl s)
  | spineEdgeMissing => exact execSpineEdgeMissing_keeps (.refl s)
  | abort => exact execAbort_keeps (.refl s)
  | resetNote => exact execResetNote_keeps (.refl s)
  | resetNoteAtRoot => exact execResetNoteAtRoot_keeps (.refl s)
  | resetNoteContain => exact execResetNoteContain_keeps (.refl s)
  | alertNote => exact execAlertNote_keeps (.refl s)
  | linkNote => exact execLinkNote_keeps (.refl s)
  | arrive => exact execArrive_keeps (.refl s)
  | fieldArrive => exact execFieldArrive_keeps (.refl s)
  | mashFold => exact execMashFold_keeps (.refl s)
  | barrierResultReady => exact execBarrierResultReady_keeps (.refl s)
  | release => exact execRelease_keeps (.refl s)
  | releaseBegin => exact execReleaseBegin_keeps (.refl s)
  | releaseWave => exact execReleaseWave_keeps (.refl s)
  | releaseAtCsn => exact execReleaseAtCsn_keeps (.refl s)
  | barrierTimeout => exact execBarrierTimeout_keeps (.refl s)
  | pitch => exact execPitch_keeps (.refl s)
  | proxyRecord => exact execProxyRecord_keeps (.refl s)
  | loadMc => exact execLoadMc_keeps (.refl s)
  | loadUc => exact execLoadUc_keeps (.refl s)
  | mcBranchDrop => exact execMcBranchDrop_keeps (.refl s)
  | telem => exact execTelem_keeps (.refl s)
  | telemIntervalEnd => exact execTelemIntervalEnd_keeps (.refl s)
  | telemLoss => exact execTelemLoss_keeps (.refl s)
  | telemMissed => exact execTelemMissed_keeps (.refl s)
  | alertForceLift => exact execAlertForceLift_keeps (.refl s)
  | thermalForceLift => exact execThermalForceLift_keeps (.refl s)
  | droopLimitExpiry => exact execDroopLimitExpiry_keeps (.refl s)
  | alertCeilExpiry => exact execAlertCeilExpiry_keeps (.refl s)
  | log => exact execLog_keeps (.refl s)
  | mgmt => exact execMgmt_keeps (.refl s)
  | routeLoad => exact execRouteLoad_keeps (.refl s)
  | linkRetry => exact execLinkRetry_keeps (.refl s)
  | routeReload => exact execRouteReload_keeps (.refl s)
  | rdDrp => exact execRdDrp_keeps (.refl s)
  | loadOpen => exact execLoadOpen_keeps (.refl s)
  | loadCheck => exact execLoadCheck_keeps (.refl s)
  | loadSend => exact execLoadSend_keeps (.refl s)
  | legBind => exact execLegBind_keeps (.refl s)
  | legFree => exact execLegFree_keeps (.refl s)
  | epochLoad => exact execEpochLoad_keeps (.refl s)
  | runWrite => exact execRunWrite_keeps (.refl s)
  | tickNowLatch => exact execTickNowLatch_keeps (.refl s)
  | dispatchCut => exact execDispatchCut_keeps (.refl s)
  | tickNoteInject => exact execTickNoteInject_keeps (.refl s)
  | holdPoint => exact execHoldPoint_keeps (.refl s)
  | heldEdge => exact execHeldEdge_keeps (.refl s)
  | tickDeadline => exact execTickDeadline_keeps (.refl s)
  | followEdge => exact execFollowEdge_keeps (.refl s)
  | opChangeComplete => exact execOpChangeComplete_keeps (.refl s)
  | avsRead => exact execAvsRead_keeps (.refl s)
  | thermalRead => exact execThermalRead_keeps (.refl s)
  | pmbusRead => exact execPmbusRead_keeps (.refl s)
  | fclkAck => exact execFclkAck_keeps (.refl s)
  | fclkOpRepeat => exact execFclkOpRepeat_keeps (.refl s)
  | regAlertAssert => exact execRegAlertAssert_keeps (.refl s)
  | regAlertDeassert => exact execRegAlertDeassert_keeps (.refl s)
  | kilnReportSend => exact execKilnReportSend_keeps (.refl s)
  | substituteBind => exact execSubstituteBind_keeps (.refl s)
  | replayReadyTimeout => exact execReplayReadyTimeout_keeps (.refl s)
  | caskRecordWrite => exact execCaskRecordWrite_keeps (.refl s)
  | caskUnitWrite => exact execCaskUnitWrite_keeps (.refl s)
  | caskDefer => exact execCaskDefer_keeps (.refl s)
  | holdupLoss => exact execHoldupLoss_keeps (.refl s)
  | viewSend => exact execViewSend_keeps (.refl s)
  | vsfHifDbSq => exact execVsfHifDbSq_keeps (.refl s)
  | vsfHifDbCq => exact execVsfHifDbCq_keeps (.refl s)
  | descFetchDone => exact execDescFetchDone_keeps (.refl s)
  | nop => exact execNop_keeps (.refl s)
  | kennelDesc => exact execKennelDesc_keeps (.refl s)
  | packSet => exact execPackSet_keeps (.refl s)
  | packClear => exact execPackClear_keeps (.refl s)
  | cmtSet => exact execCmtSet_keeps (.refl s)
  | caskBar => exact execCaskBar_keeps (.refl s)
  | pitchAdmit => exact execPitchAdmit_keeps (.refl s)
  | pitchRetire => exact execPitchRetire_keeps (.refl s)
  | seqAdmit => exact execSeqAdmit_keeps (.refl s)
  | seqRead => exact execSeqRead_keeps (.refl s)
  | seqCtlPause => exact execSeqCtlPause_keeps (.refl s)
  | seqCtlResume => exact execSeqCtlResume_keeps (.refl s)
  | seqCtlCancel => exact execSeqCtlCancel_keeps (.refl s)
  | seqCtlBudget => exact execSeqCtlBudget_keeps (.refl s)
  | copyIn => exact execCopyIn_keeps (.refl s)
  | copyOut => exact execCopyOut_keeps (.refl s)
  | distRead => exact execDistRead_keeps (.refl s)
  | dmaDone => exact execDmaDone_keeps (.refl s)
  | dmaErr => exact execDmaErr_keeps (.refl s)
  | hostBusError => exact execHostBusError_keeps (.refl s)
  | completionPost => exact execCompletionPost_keeps (.refl s)
  | msixTimeout => exact execMsixTimeout_keeps (.refl s)
  | ringEnable => exact execRingEnable_keeps (.refl s)
  | ringDisable => exact execRingDisable_keeps (.refl s)
  | ringSparge => exact execRingSparge_keeps (.refl s)
  | spargeDrained => exact execSpargeDrained_keeps (.refl s)
  | partCreate => exact execPartCreate_keeps (.refl s)
  | partDestroy => exact execPartDestroy_keeps (.refl s)
  | quotaSet => exact execQuotaSet_keeps (.refl s)
  | grant => exact execGrant_keeps (.refl s)
  | revoke => exact execRevoke_keeps (.refl s)
  | mbxSet => exact execMbxSet_keeps (.refl s)
  | mbxReply => exact execMbxReply_keeps (.refl s)
  | note => exact execNote_keeps (.refl s)
  | dlogSet => exact execDlogSet_keeps (.refl s)
  | dlogSwap => exact execDlogSwap_keeps (.refl s)
  | hold => exact execHold_keeps (.refl s)
  | hostHeld => exact execHostHeld_keeps (.refl s)
  | mbxReq => exact execMbxReq_keeps (.refl s)
  | objAlloc => exact execObjAlloc_keeps (.refl s)
  | objFree => exact execObjFree_keeps (.refl s)
  | poolQuery => exact execPoolQuery_keeps (.refl s)
  | ask => exact execAsk_keeps (.refl s)
  | form => exact execForm_keeps (.refl s)
  | leave => exact execLeave_keeps (.refl s)
  | formJoinTimeout => exact execFormJoinTimeout_keeps (.refl s)
  | sbTickCut => exact execSbTickCut_keeps (.refl s)
  | sbTickEdge => exact execSbTickEdge_keeps (.refl s)
  | sbHold => exact execSbHold_keeps (.refl s)
  | sbThrot => exact execSbThrot_keeps (.refl s)
  | sbPitch => exact execSbPitch_keeps (.refl s)
  | sbAbort => exact execSbAbort_keeps (.refl s)
  | sbResetn sgen src m => exact execSbResetn_keeps (a1 := src) (.refl s)
  | sbArrive => exact execSbArrive_keeps (.refl s)
  | sbRelease => exact execSbRelease_keeps (.refl s)
  | sbKreq sgen src f rtag op q => exact execSbKreq_keeps (a1 := src) (.refl s)
  | sbKrsp => exact execSbKrsp_keeps (.refl s)
  | sbCmt sgen src f epoch nsub => exact execSbCmt_keeps (a4 := nsub) (.refl s)
  | sbPackJoin => exact execSbPackJoin_keeps (.refl s)
  | sbPackLeave sgen src f bar => exact execSbPackLeave_keeps (a2 := f) (.refl s)
  | sbPackAck => exact execSbPackAck_keeps (.refl s)
  | sbPackNack => exact execSbPackNack_keeps (.refl s)
  | sbKiln => exact execSbKiln_keeps (.refl s)
  | sbFormJoin => exact execSbFormJoin_keeps (.refl s)
  | sbFormSwitch => exact execSbFormSwitch_keeps (.refl s)
  | sbFormCarry => exact execSbFormCarry_keeps (.refl s)
  | sbTsync => exact execSbTsync_keeps (.refl s)
  | tsyncInterval => exact execTsyncInterval_keeps (.refl s)
  | sbHello => exact execSbHello_keeps (.refl s)
  | sbElect src reach formed => exact execSbElect_keeps (a0 := src) (.refl s)
  | electFlood => exact execElectFlood_keeps (.refl s)
  | electStable => exact execElectStable_keeps (.refl s)
  | sbLive => exact execSbLive_keeps (.refl s)
  | sbLiveSend => exact execSbLiveSend_keeps (.refl s)
  | sbNak => exact execSbNak_keeps (.refl s)
  | sbFrameError => exact execSbFrameError_keeps (.refl s)
  | sbLinkSilent => exact execSbLinkSilent_keeps (.refl s)
  | nelUpDeassert => exact execNelUpDeassert_keeps (.refl s)
  | nelLinkUp => exact execNelLinkUp_keeps (.refl s)
  | scrubPass => exact execScrubPass_keeps (.refl s)
  | partitionReset => exact execPartitionReset_keeps (.refl s)
  | partitionResetComplete => exact execPartitionResetComplete_keeps (.refl s)
  | resetEscalate => exact execResetEscalate_keeps (.refl s)
  | epochAdvance => exact execEpochAdvance_keeps (.refl s)
  | coreReset => exact execCoreReset_keeps (.refl s)
  | coreRetireDone => exact execCoreRetireDone_keeps (.refl s)
  | coreRetireTimeout => exact execCoreRetireTimeout_keeps (.refl s)
  | functionLevelReset => exact execFunctionLevelReset_keeps (.refl s)
  | vrst => exact execVrst_keeps (.refl s)
  | varvoReset => exact execVarvoReset_keeps (.refl s)
  | reinit => exact execReinit_keeps (.refl s)
  | managerAbort => exact execManagerAbort_keeps (.refl s)
  | historyClear => exact execHistoryClear_keeps (.refl s)
  | ppWatchdogExpiry => exact execPpWatchdogExpiry_keeps (.refl s)
  | ppSelfCheckPass => exact execPpSelfCheckPass_keeps (.refl s)
  | cperPost => exact execCperPost_keeps (.refl s)
  | pwrcycRepeat => exact execPwrcycRepeat_keeps (.refl s)
  | powerGood => exact execPowerGood_keeps (.refl s)
  | mtestRes => exact execMtestRes_keeps (.refl s)
  | mtestDone => exact execMtestDone_keeps (.refl s)
  | mtestTimeout => exact execMtestTimeout_keeps (.refl s)
  | repairRoundDone => exact execRepairRoundDone_keeps (.refl s)
  | recipeWrite => exact execRecipeWrite_keeps (.refl s)
  | recipeRead => exact execRecipeRead_keeps (.refl s)
  | recipeClear => exact execRecipeClear_keeps (.refl s)
  | fwStage => exact execFwStage_keeps (.refl s)
  | fwCommit => exact execFwCommit_keeps (.refl s)
  | mapRead => exact execMapRead_keeps (.refl s)
  | bootLoad => exact execBootLoad_keeps (.refl s)
  | requestUpdate => exact execRequestUpdate_keeps (.refl s)
  | passComponentTable => exact execPassComponentTable_keeps (.refl s)
  | updateComponent => exact execUpdateComponent_keeps (.refl s)
  | firmwareData => exact execFirmwareData_keeps (.refl s)
  | activateFirmware => exact execActivateFirmware_keeps (.refl s)
  | cancelUpdate => exact execCancelUpdate_keeps (.refl s)
  | entdaa => exact execEntdaa_keeps (.refl s)
  | regWrite => exact execRegWrite_keeps (.refl s)
  | whistleCauseWrite => exact execWhistleCauseWrite_keeps (.refl s)
  | cmRsp => exact execCmRsp_keeps (.refl s)
  | storeCountsZero => exact execStoreCountsZero_keeps (.refl s)
  | msixUnmask => exact execMsixUnmask_keeps (.refl s)
  | aonPgDeassert => exact execAonPgDeassert_keeps (.refl s)
  | nelUpAssert => exact execNelUpAssert_keeps (.refl s)
  | watchWindowExpiry => exact execWatchWindowExpiry_keeps (.refl s)
  | csnSpineInputFail => exact execCsnSpineInputFail_keeps (.refl s)

/-- A step keeps the canonical form, with or without a command in the queue. -/
theorem step_canon {s t : State} (hwf : s.wf = true) (h : step s = .next t) : t.wf = true := by
  unfold step at h
  split at h
  next =>
    cases h
    exact (s.cycleEnd_keeps (.refl s)).canon hwf
  next c rest _ => exact ((exec_keeps c { s with pending := rest }).next t h).canon hwf

/-- Settles O3: every meaning keeps the queue. -/
theorem commandsLeaveQueue : Obligations.CommandsLeaveQueue :=
  fun c s t h => ((exec_keeps c s).next t h).queue

/-- Settles O4: every meaning, and the passing of a cycle, keeps the tables canonical. -/
theorem stepKeepsCanonicalForm : Obligations.StepKeepsCanonicalForm :=
  fun _ _ hwf h => step_canon hwf h

/-! ### Every command answers -/

theorem execPackSet_next (r : RingIx) (sqi : BitVec 16) (img : List Byte) (s : State) :
    ∃ t, execPackSet r sqi img s = .next t := by
  unfold execPackSet
  split
  next c f _ _ =>
    dsimp only
    split_ifs
    · exact ⟨_, rfl⟩
    · split
      · exact ⟨_, rfl⟩
      · split_ifs <;> exact ⟨_, rfl⟩
  next => exact ⟨_, rfl⟩

theorem execPackClear_next (r : RingIx) (sqi : BitVec 16) (s : State) : ∃ t, execPackClear r sqi s = .next t := by
  unfold execPackClear
  split
  next c f _ _ =>
    split_ifs
    · exact ⟨_, rfl⟩
    · split <;> exact ⟨_, rfl⟩
  next => exact ⟨_, rfl⟩

theorem execSbAbort_next (sgen : BitVec 16) (src : Wafer) (f : Func) (code : BitVec 4) (waf : Wafer) (s : State) :
    ∃ t, execSbAbort sgen src f code waf s = .next t := by
  unfold execSbAbort
  split <;> exact ⟨_, rfl⟩

theorem execPartitionResetComplete_next (f : Func) (s : State) : ∃ t, execPartitionResetComplete f s = .next t := by
  unfold execPartitionResetComplete
  dsimp only
  split
  · split_ifs <;> exact ⟨_, rfl⟩
  · exact ⟨_, rfl⟩

theorem execRepairRoundDone_next (s : State) : ∃ t, execRepairRoundDone s = .next t := by
  unfold execRepairRoundDone
  split
  · split_ifs <;> exact ⟨_, rfl⟩
  · exact ⟨_, rfl⟩

/-- No command stops and none is refused: a meaning is a next state, chosen by cases in the five commands above. -/
theorem exec_next (c : Instr) (s : State) : ∃ t, exec c s = .next t := by
  cases c
  case packSet r sqi img => exact execPackSet_next r sqi img s
  case packClear r sqi => exact execPackClear_next r sqi s
  case sbAbort g src f code waf => exact execSbAbort_next g src f code waf s
  case partitionResetComplete f => exact execPartitionResetComplete_next f s
  case repairRoundDone => exact execRepairRoundDone_next s
  all_goals exact ⟨_, rfl⟩

theorem step_next (s : State) : ∃ t, step s = .next t := by
  unfold step
  split
  · exact ⟨_, rfl⟩
  · exact exec_next _ _

/-- Settles O6: a step is the passing of a cycle or a command, and every command answers a next state. -/
theorem noStepIsRefused : Obligations.NoStepIsRefused :=
  ⟨exec_next, fun s => ⟨.inl (step_next s), step_next s⟩⟩

end Sys2Proof.Machine
end

section
/-! PROOF of O39 (R145, R157). A tree of folds leaves of each lane what the multiset of its payloads determines
(`Folds.measure_eq_of_perm`): sums, and's, or's, and for MAX, MIN and ARGMAX the extreme of the order of R153. That order
tells any two elements apart but NaNs (`ordKey_inj`), whose result is the canonical NaN whichever of them was kept. -/

namespace Sys2Proof.Machine

open Sys2Proof

/-! ### Elements and their order -/

theorem leNat_lt (bs : List Byte) : leNat bs < 256 ^ bs.length := by
  induction bs with
  | nil => simp [leNat]
  | cons b t ih =>
    have hb := b.isLt
    simp only [leNat, List.length_cons, pow_succ]
    omega

theorem fieldAt_lt (img : List Byte) (off n : Nat) : fieldAt img off n < 256 ^ n := by
  have hlen : (sliceAt img off n).length = n := by simp [sliceAt]
  simpa [fieldAt, hlen] using leNat_lt (sliceAt img off n)

/-- An element has the bits of its format. -/
theorem elemAt_lt {f : Nat} (hf : f ≤ 10) (p : List Byte) (i : Nat) : elemAt f p i < 2 ^ fmtBits f := by
  unfold elemAt
  split
  next h =>
    rw [h]
    exact Nat.mod_lt _ (by decide)
  next h =>
    refine (fieldAt_lt p _ _).trans_eq ?_
    interval_cases f <;> simp_all [fmtBits]

/-- A number below 2^(e+m+1) is spelled by its sign, its exponent and its fraction. -/
theorem eq_of_fields_eq {e m a b : Nat} (ha : a < 2 ^ (e + m + 1)) (hb : b < 2 ^ (e + m + 1))
    (hs : bit a (e + m) = bit b (e + m)) (he : bits a m e = bits b m e) (hf : bits a 0 m = bits b 0 m) : a = b := by
  have split : ∀ n, n < 2 ^ (e + m + 1) →
      n = 2 ^ (e + m) * b2n (bit n (e + m)) + (2 ^ m * bits n m e + bits n 0 m) := by
    intro n hn
    have htop : n / 2 ^ (e + m) < 2 := Nat.div_lt_of_lt_mul (by rwa [← pow_succ])
    have hbit : b2n (bit n (e + m)) = n / 2 ^ (e + m) := by
      unfold bit b2n
      interval_cases n / 2 ^ (e + m) <;> rfl
    have hmid : n % 2 ^ (e + m) = n % 2 ^ m + 2 ^ m * (n / 2 ^ m % 2 ^ e) := by
      rw [add_comm e m, pow_add, Nat.mod_mul]
    rw [hbit]
    conv_lhs => rw [← Nat.div_add_mod n (2 ^ (e + m)), hmid]
    simp only [bits, pow_zero, Nat.div_one]
    omega
  rw [split a ha, split b hb, hs, he, hf]

/-- Two magnitudes with the leading one of their significands in place are equal in significand and exponent. -/
theorem normal_inj {m x y u v : Nat} (hu : u < 2 ^ m) (hv : v < 2 ^ m) (h : (2 ^ m + u) * 2 ^ x = (2 ^ m + v) * 2 ^ y) :
    x = y ∧ u = v := by
  have below : ∀ {x y u v : Nat}, u < 2 ^ m → x < y → (2 ^ m + u) * 2 ^ x < (2 ^ m + v) * 2 ^ y := by
    intro x y u v hu hxy
    calc (2 ^ m + u) * 2 ^ x
      _ < (2 ^ m * 2) * 2 ^ x := Nat.mul_lt_mul_of_pos_right (by omega) (by positivity)
      _ = 2 ^ m * 2 ^ (x + 1) := by ring
      _ ≤ (2 ^ m + v) * 2 ^ y := Nat.mul_le_mul (by omega) (Nat.pow_le_pow_right (by decide) hxy)
  have hxy : x = y := by
    rcases lt_trichotomy x y with hlt | heq | hgt
    · exact absurd h (below hu hlt).ne
    · exact heq
    · exact absurd h (below hv hgt).ne'
  subst hxy
  have := Nat.eq_of_mul_eq_mul_right (by positivity) h
  exact ⟨rfl, by omega⟩

/-- An infinity has the exponent of all ones and a fraction of 0. -/
theorem decodeF_eq_inf {f n : Nat} {neg : Bool} (h : decodeF f n = .inf neg) :
    neg = bit n (fmtE f + fmtM f) ∧ bits n (fmtM f) (fmtE f) = 2 ^ fmtE f - 1 ∧ bits n 0 (fmtM f) = 0 := by
  simp only [decodeF] at h
  split_ifs at h with hieee hfr
  simp only [Bool.and_eq_true, beq_iff_eq] at hieee
  exact ⟨(FVal.inf.inj h).symm, hieee.2, hfr⟩

/-- A finite element is subnormal, its fraction its magnitude, or normal, with the leading one of its significand. -/
theorem decodeF_eq_fin {f n : Nat} {neg : Bool} {u : Nat} (h : decodeF f n = .fin neg u) :
    neg = bit n (fmtE f + fmtM f) ∧
    (bits n (fmtM f) (fmtE f) = 0 ∧ u = bits n 0 (fmtM f) ∨
      bits n (fmtM f) (fmtE f) ≠ 0 ∧ u = (2 ^ fmtM f + bits n 0 (fmtM f)) * 2 ^ (bits n (fmtM f) (fmtE f) - 1)) := by
  simp only [decodeF] at h
  split_ifs at h with _ _ _ hex
  · obtain ⟨rfl, rfl⟩ := FVal.fin.inj h
    exact ⟨rfl, .inl ⟨hex, rfl⟩⟩
  · obtain ⟨rfl, rfl⟩ := FVal.fin.inj h
    exact ⟨rfl, .inr ⟨hex, rfl⟩⟩

/-- Decoding tells apart any two elements of a floating-point format but NaNs. -/
theorem decodeF_inj {f a b : Nat} (ha : a < 2 ^ (fmtE f + fmtM f + 1)) (hb : b < 2 ^ (fmtE f + fmtM f + 1))
    (h : decodeF f a = decodeF f b) (hnan : decodeF f a ≠ .nan) : a = b := by
  have hfa : bits a 0 (fmtM f) < 2 ^ fmtM f := Nat.mod_lt _ (by positivity)
  have hfb : bits b 0 (fmtM f) < 2 ^ fmtM f := Nat.mod_lt _ (by positivity)
  have normal_ge (u x : Nat) : 2 ^ fmtM f ≤ (2 ^ fmtM f + u) * 2 ^ x :=
    (Nat.le_add_right _ _).trans (Nat.le_mul_of_pos_right _ (by positivity))
  cases hd : decodeF f a with
  | nan => exact absurd hd hnan
  | inf neg =>
    obtain ⟨hsa, hea, hua⟩ := decodeF_eq_inf hd
    obtain ⟨hsb, heb, hub⟩ := decodeF_eq_inf (h ▸ hd)
    exact eq_of_fields_eq ha hb (hsa ▸ hsb) (hea.trans heb.symm) (hua.trans hub.symm)
  | fin neg u =>
    obtain ⟨hsa, hma⟩ := decodeF_eq_fin hd
    obtain ⟨hsb, hmb⟩ := decodeF_eq_fin (h ▸ hd)
    rcases hma with ⟨hea, hua⟩ | ⟨hea, hua⟩ <;> rcases hmb with ⟨heb, hub⟩ | ⟨heb, hub⟩
    · exact eq_of_fields_eq ha hb (hsa ▸ hsb) (hea.trans heb.symm) (hua.symm.trans hub)
    · have := normal_ge (bits b 0 (fmtM f)) (bits b (fmtM f) (fmtE f) - 1)
      omega
    · have := normal_ge (bits a 0 (fmtM f)) (bits a (fmtM f) (fmtE f) - 1)
      omega
    · obtain ⟨hex, hfr⟩ := normal_inj hfa hfb (hua.symm.trans hub)
      exact eq_of_fields_eq ha hb (hsa ▸ hsb) (by omega) hfr

/-- A floating-point format has a sign, its exponent and its fraction. -/
theorem fmtBits_of_isFloat {f : Nat} (hf : isFloat f = true) : fmtBits f = fmtE f + fmtM f + 1 := by
  have hle : f ≤ 8 := by simpa [isFloat] using hf
  interval_cases f <;> rfl

/-- Whether an element of a format is a NaN. -/
def isNaN (f n : Nat) : Bool := isFloat f && (decodeF f n == .nan)

/-- The order of R153 tells apart any two elements of a format but NaNs. -/
theorem ordKey_inj {f a b : Nat} (hf : f ≤ 10) (ha : a < 2 ^ fmtBits f) (hb : b < 2 ^ fmtBits f)
    (h : ordKey f a = ordKey f b) (hnan : isNaN f a = false) : a = b := by
  by_cases h9 : f = 9
  · subst h9
    have : (BitVec.ofNat 32 a) = BitVec.ofNat 32 b := BitVec.eq_of_toInt_eq (by simpa [ordKey] using h)
    have hmod : a % 2 ^ 32 = b % 2 ^ 32 := by simpa using congrArg BitVec.toNat this
    exact (Nat.mod_eq_of_lt ha).symm.trans (hmod.trans (Nat.mod_eq_of_lt hb))
  by_cases h10 : f = 10
  · subst h10
    simpa [ordKey] using h
  have hfloat : isFloat f = true := by simp [isFloat]; omega
  have hna : decodeF f a ≠ .nan := by simpa [isNaN, hfloat] using hnan
  rw [fmtBits_of_isFloat hfloat] at ha hb
  refine decodeF_inj ha hb ?_ hna
  simp only [ordKey, h9, h10, if_false] at h
  -- Only NaN has the first place 3, and an element's magnitude is read off its second place.
  cases hda : decodeF f a with
  | nan => exact absurd hda hna
  | inf s =>
    rw [hda] at h
    cases s <;> cases hdb : decodeF f b with
    | nan => simp [hdb] at h
    | inf t => cases t <;> simp_all
    | fin t v => cases t <;> simp [hdb] at h
  | fin s u =>
    rw [hda] at h
    cases s <;> cases hdb : decodeF f b with
    | nan => simp [hdb] at h
    | inf t => cases t <;> simp [hdb] at h
    | fin t v =>
      rw [hdb] at h
      cases t
      all_goals
        simp only [Prod.mk.injEq, true_and] at h
        simp only [FVal.fin.injEq, reduceCtorEq, true_and, false_and]
        omega

/-- NaN stands at a place of its own in the order. -/
theorem isNaN_eq_of_ordKey_eq {f a b : Nat} (h : ordKey f a = ordKey f b) : isNaN f a = isNaN f b := by
  have place (n : Nat) (hf : isFloat f = true) : (decodeF f n = .nan) ↔ (ordKey f n).1 = 3 := by
    have hle : f ≤ 8 := by simpa [isFloat] using hf
    simp only [ordKey, show f ≠ 9 by omega, show f ≠ 10 by omega, if_false]
    split <;> simp_all
  by_cases hf : isFloat f = true
  · have : (decodeF f a = .nan) ↔ (decodeF f b = .nan) := by rw [place a hf, place b hf, h]
    simp only [isNaN, hf, Bool.true_and]
    exact Bool.eq_iff_iff.mpr (by simpa using this)
  · simp [isNaN, hf]

/-! ### What a tree of folds leaves of a lane -/

/-- The contribution of a payload to lane i, without poison. -/
def leafOf (d : BitVec 32) (i : Nat) (p : List Byte) : Lane := { leafLane d p i with psn := false }

section Lanes

variable {d : BitVec 32} {ps qs : List (List Byte)} {a b : Partial} {i : Nat} {la lb : Lane}

/-- A property of a lane that every contribution has and every fold hands on. -/
theorem Folds.lane_induction {P : List (List Byte) → Lane → Prop} (leaf : ∀ p, P [p] (leafOf d i p))
    (node : ∀ ps qs la lb, P ps la → P qs lb → P (ps ++ qs) (foldLane d la lb))
    (h : Folds d ps a) (hl : a.lanes[i]? = some la) : P ps la := by
  induction h generalizing la with
  | leaf p =>
    obtain ⟨-, rfl⟩ : i < pdLanes d ∧ leafOf d i p = la := by
      simpa [leafPartial, leafOf, List.getElem?_eq_some_iff] using hl
    exact leaf p
  | node ps qs a b ha hb iha ihb =>
    rw [foldPartial_lanes (ha.lanes_length.trans hb.lanes_length.symm), List.getElem?_map] at hl
    obtain ⟨⟨la, lb⟩, hab, rfl⟩ := Option.map_eq_some_iff.mp hl
    obtain ⟨hla, hlb⟩ := List.getElem?_zip_eq_some.mp hab
    exact node ps qs la lb (iha hla) (ihb hlb)

section Measure

variable {β : Type} {op : β → β → β} [Std.Commutative op] [Std.Associative op] {e : β} {f : Lane → β}

/-- A measure that folding combines by an operation is that operation's total over the contributions. -/
theorem Folds.measure_eq (hid : ∀ x, op e x = x) (hf : ∀ a b, f (foldLane d a b) = op (f a) (f b))
    (h : Folds d ps a) (hl : a.lanes[i]? = some la) : f la = (ps.map (fun p => f (leafOf d i p))).foldr op e := by
  have append (xs ys : List β) : (xs ++ ys).foldr op e = op (xs.foldr op e) (ys.foldr op e) := by
    induction xs with
    | nil => exact (hid _).symm
    | cons x xs ih => rw [List.cons_append, List.foldr_cons, ih, List.foldr_cons, Std.Associative.assoc (op := op)]
  refine h.lane_induction (P := fun ps l => f l = (ps.map (fun p => f (leafOf d i p))).foldr op e)
    (fun p => ?leaf) (fun ps qs la lb iha ihb => ?node) hl
  case leaf => exact (hid _).symm.trans (Std.Commutative.comm (op := op) _ _)
  case node => rw [hf, iha, ihb, List.map_append, append]

/-- Such a measure does not depend on the order of the folds (R145). -/
theorem Folds.measure_eq_of_perm (hid : ∀ x, op e x = x) (hf : ∀ a b, f (foldLane d a b) = op (f a) (f b))
    (hperm : ps.Perm qs) (ha : Folds d ps a) (hb : Folds d qs b) (hla : a.lanes[i]? = some la)
    (hlb : b.lanes[i]? = some lb) : f la = f lb := by
  rw [ha.measure_eq hid hf hla, hb.measure_eq hid hf hlb]
  exact (hperm.map _).foldr_op_eq

end Measure

/-! ### Operations other than ARGMAX -/

section Fields

variable (hop : pdOp d ≠ 3) (hperm : ps.Perm qs) (ha : Folds d ps a) (hb : Folds d qs b)
  (hla : a.lanes[i]? = some la) (hlb : b.lanes[i]? = some lb)
include hop hperm ha hb hla hlb

/-- The accumulators and the side bits of a lane are sums, and's and or's of those of the contributions. -/
theorem Folds.sides_eq_of_perm :
    la.acc = lb.acc ∧ la.psn = lb.psn ∧ la.negz = lb.negz ∧ la.ninf = lb.ninf ∧ la.pinf = lb.pinf ∧ la.nan = lb.nan :=
  ⟨ha.measure_eq_of_perm (op := (· + ·)) (f := Lane.acc) zero_add (by simp [foldLane, hop]) hperm hb hla hlb,
    ha.measure_eq_of_perm (op := or) (f := Lane.psn) Bool.false_or (by simp [foldLane, hop]) hperm hb hla hlb,
    ha.measure_eq_of_perm (op := and) (f := Lane.negz) Bool.true_and (by simp [foldLane, hop]) hperm hb hla hlb,
    ha.measure_eq_of_perm (op := or) (f := Lane.ninf) Bool.false_or (by simp [foldLane, hop]) hperm hb hla hlb,
    ha.measure_eq_of_perm (op := or) (f := Lane.pinf) Bool.false_or (by simp [foldLane, hop]) hperm hb hla hlb,
    ha.measure_eq_of_perm (op := or) (f := Lane.nan) Bool.false_or (by simp [foldLane, hop]) hperm hb hla hlb⟩

end Fields

/-- A SUM's contribution is its accumulator and its side bits alone. -/
theorem sumLane_elem_idx_nocand (p : List Byte) :
    (sumLane d p i).elem = 0 ∧ (sumLane d p i).idx = 0 ∧ (sumLane d p i).nocand = false := by
  unfold sumLane
  dsimp only
  repeat' split
  all_goals exact ⟨rfl, rfl, rfl⟩

/-- Only ARGMAX has indices and lanes without a candidate. -/
theorem Folds.idx_nocand (hop : pdOp d ≠ 3) (h : Folds d ps a) (hl : a.lanes[i]? = some la) :
    la.idx = 0 ∧ la.nocand = false := by
  refine h.lane_induction (P := fun _ l => l.idx = 0 ∧ l.nocand = false) (fun p => ?leaf) (fun _ _ _ _ _ _ => ?node) hl
  case leaf =>
    unfold leafOf leafLane
    dsimp only
    split
    · exact (sumLane_elem_idx_nocand p).2
    · contradiction
    · exact ⟨rfl, rfl⟩
    · exact ⟨rfl, rfl⟩
    · exact ⟨rfl, rfl⟩
    · exact ⟨rfl, rfl⟩
  case node => simp [foldLane, hop]

/-- A SUM's lane carries no element beside its accumulator. -/
theorem Folds.elem_of_sum (hop : pdOp d = 0) (h : Folds d ps a) (hl : a.lanes[i]? = some la) : la.elem = 0 := by
  refine h.lane_induction (P := fun _ l => l.elem = 0) (fun p => ?leaf) (fun _ _ la lb iha _ => ?node) hl
  case leaf =>
    simp only [leafOf, leafLane, hop]
    exact (sumLane_elem_idx_nocand p).1
  case node => simpa [foldLane, foldElem, hop] using iha

/-- The elements of AND, OR, XOR and COUNT_NZ fold as words. -/
theorem Folds.elem_eq_of_word (h4 : pdOp d = 4 ∨ pdOp d = 5 ∨ pdOp d = 6 ∨ pdOp d = 7) (hperm : ps.Perm qs)
    (ha : Folds d ps a) (hb : Folds d qs b) (hla : a.lanes[i]? = some la) (hlb : b.lanes[i]? = some lb) :
    la.elem = lb.elem := by
  rcases h4 with hop | hop | hop | hop
  · exact ha.measure_eq_of_perm (op := fun x y : BitVec 64 => x &&& y) (f := Lane.elem) (e := BitVec.allOnes 64)
      (fun _ => BitVec.allOnes_and)
      (by simp [foldLane, foldElem, hop]) hperm hb hla hlb
  · exact ha.measure_eq_of_perm (op := fun x y : BitVec 64 => x ||| y) (f := Lane.elem) (e := 0) (by simp)
      (by simp [foldLane, foldElem, hop]) hperm hb hla hlb
  · exact ha.measure_eq_of_perm (op := fun x y : BitVec 64 => x ^^^ y) (f := Lane.elem) (e := 0) (by simp)
      (by simp [foldLane, foldElem, hop]) hperm hb hla hlb
  · exact ha.measure_eq_of_perm (op := fun x y : BitVec 64 => x + y) (f := Lane.elem) (e := 0) (by simp)
      (by simp [foldLane, foldElem, hop]) hperm hb hla hlb

/-- But for MAX, MIN and ARGMAX, the whole lane is the same in every order of the folds. -/
theorem Folds.lane_eq_of_perm (h1 : pdOp d ≠ 1) (h2 : pdOp d ≠ 2) (h3 : pdOp d ≠ 3) (hperm : ps.Perm qs)
    (ha : Folds d ps a) (hb : Folds d qs b) (hla : a.lanes[i]? = some la) (hlb : b.lanes[i]? = some lb) : la = lb := by
  have helem : la.elem = lb.elem := by
    by_cases h0 : pdOp d = 0
    · rw [ha.elem_of_sum h0 hla, hb.elem_of_sum h0 hlb]
    · have hlt : pdOp d < 8 := Nat.mod_lt _ (by decide)
      exact ha.elem_eq_of_word (by omega) hperm hb hla hlb
  obtain ⟨hacc, hpsn, hnegz, hninf, hpinf, hnan⟩ := ha.sides_eq_of_perm h3 hperm hb hla hlb
  obtain ⟨hidxa, hnoca⟩ := ha.idx_nocand h3 hla
  obtain ⟨hidxb, hnocb⟩ := hb.idx_nocand h3 hlb
  cases la
  cases lb
  simp_all

/-! ### MAX, MIN and ARGMAX -/

/-- The place of a lane's element in the order of R153. -/
def laneKey (f : Nat) (l : Lane) : ℕ ×ₗ ℤ := toLex (ordKey f l.elem.toNat)

theorem ordLt_iff_key_lt {f : Nat} {x y : Lane} : ordLt f x.elem.toNat y.elem.toNat = true ↔ laneKey f x < laneKey f y := by
  simp [ordLt, laneKey, Prod.Lex.toLex_lt_toLex]

theorem foldLane_elem (hop : pdOp d ≠ 3) (x y : Lane) : (foldLane d x y).elem = foldElem d x y := by
  simp [foldLane, hop]

theorem laneKey_foldLane_max (hop : pdOp d = 1) (x y : Lane) :
    laneKey (pdFmt d) (foldLane d x y) = max (laneKey (pdFmt d) x) (laneKey (pdFmt d) y) := by
  have helem := foldLane_elem (show pdOp d ≠ 3 by omega) x y
  by_cases h : laneKey (pdFmt d) x < laneKey (pdFmt d) y
  · rw [max_eq_right h.le, laneKey, helem]
    simp only [foldElem, hop, ordLt_iff_key_lt.mpr h, if_true, laneKey]
  · rw [max_eq_left (not_lt.mp h), laneKey, helem]
    simp only [foldElem, hop, mt ordLt_iff_key_lt.mp h, Bool.false_eq_true, if_false, laneKey]

theorem laneKey_foldLane_min (hop : pdOp d = 2) (x y : Lane) :
    laneKey (pdFmt d) (foldLane d x y) = min (laneKey (pdFmt d) x) (laneKey (pdFmt d) y) := by
  have helem := foldLane_elem (show pdOp d ≠ 3 by omega) x y
  by_cases h : laneKey (pdFmt d) y < laneKey (pdFmt d) x
  · rw [min_eq_right h.le, laneKey, helem]
    simp only [foldElem, hop, ordLt_iff_key_lt.mpr h, if_true, laneKey]
  · rw [min_eq_left (not_lt.mp h), laneKey, helem]
    simp only [foldElem, hop, mt ordLt_iff_key_lt.mp h, Bool.false_eq_true, if_false, laneKey]

/-- MAX and MIN keep an element at the greatest, the least place of those contributed. -/
theorem Folds.key_eq_of_perm (hop : pdOp d = 1 ∨ pdOp d = 2) (hperm : ps.Perm qs) (ha : Folds d ps a)
    (hb : Folds d qs b) (hla : a.lanes[i]? = some la) (hlb : b.lanes[i]? = some lb) :
    laneKey (pdFmt d) la = laneKey (pdFmt d) lb := by
  rcases hop with hop | hop
  · have hf (x y : Lane) : (laneKey (pdFmt d) (foldLane d x y) : WithBot (ℕ ×ₗ ℤ)) =
        max ↑(laneKey (pdFmt d) x) ↑(laneKey (pdFmt d) y) := by
      rw [laneKey_foldLane_max hop, WithBot.coe_max]
    exact WithBot.coe_injective (ha.measure_eq_of_perm (op := max) (e := ⊥)
      (f := fun l => (laneKey (pdFmt d) l : WithBot (ℕ ×ₗ ℤ))) bot_sup_eq hf hperm hb hla hlb)
  · have hf (x y : Lane) : (laneKey (pdFmt d) (foldLane d x y) : WithTop (ℕ ×ₗ ℤ)) =
        min ↑(laneKey (pdFmt d) x) ↑(laneKey (pdFmt d) y) := by
      rw [laneKey_foldLane_min hop, WithTop.coe_min]
    exact WithTop.coe_injective (ha.measure_eq_of_perm (op := min) (e := ⊤)
      (f := fun l => (laneKey (pdFmt d) l : WithTop (ℕ ×ₗ ℤ))) top_inf_eq hf hperm hb hla hlb)

/-- The element that a MAX or a MIN keeps is that of one of the contributions, and NaN is never lost. -/
theorem Folds.elem_of_minmax (hop : pdOp d = 1 ∨ pdOp d = 2) (hfmt : pdFmt d ≤ 10) (h : Folds d ps a)
    (hl : a.lanes[i]? = some la) :
    la.elem.toNat < 2 ^ fmtBits (pdFmt d) ∧ (la.nan = false → isNaN (pdFmt d) la.elem.toNat = false) := by
  have hsmall : fmtBits (pdFmt d) ≤ 64 := by interval_cases pdFmt d <;> decide
  refine h.lane_induction (P := fun _ l => l.elem.toNat < 2 ^ fmtBits (pdFmt d) ∧
    (l.nan = false → isNaN (pdFmt d) l.elem.toNat = false)) (fun p => ?leaf) (fun _ _ la lb iha ihb => ?node) hl
  case leaf =>
    have hlt := elemAt_lt hfmt p i
    have hmod : elemAt (pdFmt d) p i % 2 ^ 64 = elemAt (pdFmt d) p i :=
      Nat.mod_eq_of_lt (hlt.trans_le (Nat.pow_le_pow_right (by decide) hsmall))
    rcases hop with hop | hop <;>
    · simp only [leafOf, leafLane, hop, BitVec.toNat_ofNat, hmod]
      exact ⟨hlt, id⟩
  case node =>
    have kept : (foldLane d la lb).elem = la.elem ∨ (foldLane d la lb).elem = lb.elem := by
      rw [foldLane_elem (by omega)]
      rcases hop with hop | hop <;>
      · simp only [foldElem, hop]
        split <;> simp
    have hnan : (foldLane d la lb).nan = (la.nan || lb.nan) := by rcases hop with hop | hop <;> simp [foldLane, hop]
    rw [hnan, Bool.or_eq_false_iff]
    rcases kept with heq | heq <;> rw [heq]
    · exact ⟨iha.1, fun hn => iha.2 hn.1⟩
    · exact ⟨ihb.1, fun hn => ihb.2 hn.2⟩

/-- What an ARGMAX compares: a lane without a candidate below all others, then the order of the elements, then the lower
index (R153). -/
def laneRank (f : Nat) (l : Lane) : WithBot ((ℕ ×ₗ ℤ) ×ₗ ℕᵒᵈ) :=
  if l.nocand then ⊥ else (toLex (laneKey f l, OrderDual.toDual l.idx.toNat) : (ℕ ×ₗ ℤ) ×ₗ ℕᵒᵈ)

theorem argBeats_iff_rank_lt {f : Nat} {x y : Lane} (hx : x.nocand = false) (hy : y.nocand = false) :
    argBeats f x y = true ↔ laneRank f x < laneRank f y := by
  simp [argBeats, laneRank, hx, hy, Prod.Lex.toLex_lt_toLex, ordLt_iff_key_lt, laneKey]

theorem laneRank_foldLane (hop : pdOp d = 3) (x y : Lane) :
    laneRank (pdFmt d) (foldLane d x y) = max (laneRank (pdFmt d) x) (laneRank (pdFmt d) y) := by
  cases hx : x.nocand with
  | true => simp [foldLane, hop, laneRank, hx, laneKey]
  | false =>
    cases hy : y.nocand with
    | true => simp [foldLane, hop, laneRank, hx, hy, laneKey]
    | false =>
      have hfold : foldLane d x y = { (if argBeats (pdFmt d) x y then y else x) with psn := x.psn || y.psn } := by
        simp [foldLane, hop, hx, hy]
      by_cases h : laneRank (pdFmt d) x < laneRank (pdFmt d) y
      · rw [hfold, max_eq_right h.le, if_pos ((argBeats_iff_rank_lt hx hy).mpr h)]
        rfl
      · rw [hfold, max_eq_left (not_lt.mp h), if_neg (mt (argBeats_iff_rank_lt hx hy).mp h)]
        rfl

/-- The lane that an ARGMAX keeps is that of one of the contributions. -/
theorem Folds.lane_of_argmax (hop : pdOp d = 3) (h : Folds d ps a) (hl : a.lanes[i]? = some la) :
    ∃ p, la = leafOf d i p := by
  refine h.lane_induction (P := fun _ l => ∃ p, l = leafOf d i p) (fun p => ⟨p, rfl⟩) (fun _ _ la lb iha ihb => ?_) hl
  obtain ⟨p, rfl⟩ := iha
  obtain ⟨q, rfl⟩ := ihb
  have unpoisoned (r : List Byte) : { leafOf d i r with psn := false } = leafOf d i r := rfl
  simp only [foldLane, hop, if_true, show (leafOf d i p).psn = false from rfl, show (leafOf d i q).psn = false from rfl,
    Bool.or_self]
  split_ifs
  · exact ⟨q, unpoisoned q⟩
  · exact ⟨p, unpoisoned p⟩
  · exact ⟨q, unpoisoned q⟩
  · exact ⟨p, unpoisoned p⟩

/-! ### The result -/

/-- The result and the flags of a MAX's or a MIN's lane: the element kept, but the canonical NaN where any contributed. -/
theorem Folds.laneRes_eq_of_minmax (hop : pdOp d = 1 ∨ pdOp d = 2) (hfmt : pdFmt d ≤ 10) (hperm : ps.Perm qs)
    (ha : Folds d ps a) (hb : Folds d qs b) (hla : a.lanes[i]? = some la) (hlb : b.lanes[i]? = some lb)
    (key : BitVec 64) : laneRes d key i la = laneRes d key i lb := by
  have hnan : la.nan = lb.nan := (ha.sides_eq_of_perm (by omega) hperm hb hla hlb).2.2.2.2.2
  obtain ⟨hlta, hna⟩ := ha.elem_of_minmax hop hfmt hla
  obtain ⟨hltb, -⟩ := hb.elem_of_minmax hop hfmt hlb
  have helem : la.nan = false → la.elem.toNat = lb.elem.toNat := fun hn =>
    ordKey_inj hfmt hlta hltb (toLex.injective (ha.key_eq_of_perm hop hperm hb hla hlb)) (hna hn)
  cases hn : la.nan with
  | true => rcases hop with hop | hop <;> simp [laneRes, hop, ← hnan, hn]
  | false => rcases hop with hop | hop <;> simp [laneRes, hop, ← hnan, hn, helem hn]

/-- The contributions to an ARGMAX: no candidate, or an element of the format and its index. -/
theorem leafOf_of_argmax (hop : pdOp d = 3) (hfmt : pdFmt d ≤ 10) (p : List Byte) :
    leafOf d i p = { Lane.zero with nocand := true, idx := 0xFFFFFFFF } ∨
    ((leafOf d i p).nocand = false ∧ (leafOf d i p).elem.toNat < 2 ^ fmtBits (pdFmt d) ∧
      (leafOf d i p).nan = isNaN (pdFmt d) (leafOf d i p).elem.toNat) := by
  have hsmall : fmtBits (pdFmt d) ≤ 64 := by interval_cases pdFmt d <;> decide
  have hlt := elemAt_lt hfmt p i
  have hmod : elemAt (pdFmt d) p i % 2 ^ 64 = elemAt (pdFmt d) p i :=
    Nat.mod_eq_of_lt (hlt.trans_le (Nat.pow_le_pow_right (by decide) hsmall))
  simp only [leafOf, leafLane, hop]
  split_ifs
  · exact .inl rfl
  · simp only [BitVec.toNat_ofNat, hmod]
    exact .inr ⟨rfl, hlt, rfl⟩

/-- An ARGMAX's result, its flags and its index: those of the lane of the greatest rank, but for which of the NaNs it is. -/
theorem Folds.laneRes_eq_of_argmax (hop : pdOp d = 3) (hfmt : pdFmt d ≤ 10) (hperm : ps.Perm qs)
    (ha : Folds d ps a) (hb : Folds d qs b) (hla : a.lanes[i]? = some la) (hlb : b.lanes[i]? = some lb)
    (key : BitVec 64) : laneRes d key i la = laneRes d key i lb ∧ la.idx = lb.idx := by
  have hrank : laneRank (pdFmt d) la = laneRank (pdFmt d) lb :=
    ha.measure_eq_of_perm (op := max) (e := ⊥) bot_sup_eq (laneRank_foldLane hop) hperm hb hla hlb
  obtain ⟨p, rfl⟩ := ha.lane_of_argmax hop hla
  obtain ⟨q, rfl⟩ := hb.lane_of_argmax hop hlb
  rcases leafOf_of_argmax (i := i) hop hfmt p with hp | ⟨hcp, hltp, hnp⟩ <;>
    rcases leafOf_of_argmax (i := i) hop hfmt q with hq | ⟨hcq, hltq, hnq⟩
  · simp [hp, hq]
  · simp [laneRank, hp, hcq] at hrank
  · simp [laneRank, hq, hcp] at hrank
  · simp only [laneRank, hcp, hcq, Bool.false_eq_true, if_false, WithBot.coe_inj, EmbeddingLike.apply_eq_iff_eq,
      Prod.mk.injEq, laneKey] at hrank
    obtain ⟨hkey, hidx⟩ := hrank
    have hnan : (leafOf d i p).nan = (leafOf d i q).nan := by rw [hnp, hnq, isNaN_eq_of_ordKey_eq hkey]
    refine ⟨?_, BitVec.eq_of_toNat_eq hidx⟩
    cases hn : (leafOf d i p).nan with
    | true => simp [laneRes, hop, hcp, hcq, ← hnan, hn]
    | false => simp [laneRes, hop, hcp, hcq, ← hnan, hn, ordKey_inj hfmt hltp hltq hkey (hnp ▸ hn)]

end Lanes

section Result

variable {d : BitVec 32} {ps qs : List (List Byte)} {a b : Partial}

/-- The side word is the OR of the side words contributed. -/
theorem Folds.side_eq (hn : 0 < pdLanes d) (h : Folds d ps a) :
    a.side = (ps.map (fun p => (leafPartial d p false).side)).foldr (fun x y : BitVec 64 => x ||| y) 0 := by
  have nonempty {ps : List (List Byte)} {a : Partial} (h : Folds d ps a) : a.lanes ≠ [] :=
    fun h0 => hn.ne' (by simpa [h0] using h.lanes_length.symm)
  have append (xs ys : List (BitVec 64)) : (xs ++ ys).foldr (fun x y : BitVec 64 => x ||| y) 0 =
      xs.foldr (fun x y : BitVec 64 => x ||| y) 0 ||| ys.foldr (fun x y : BitVec 64 => x ||| y) 0 := by
    induction xs with
    | nil => simp
    | cons x xs ih => simp only [List.cons_append, List.foldr_cons, ih, BitVec.or_assoc]
  induction h with
  | leaf p => simp
  | node ps qs a b ha hb iha ihb =>
    rw [List.map_append, append, ← iha, ← ihb, foldPartial, if_neg (nonempty ha), if_neg (nonempty hb)]

theorem Folds.side_eq_of_perm (hn : 0 < pdLanes d) (hperm : ps.Perm qs) (ha : Folds d ps a) (hb : Folds d qs b) :
    a.side = b.side := by
  rw [ha.side_eq hn, hb.side_eq hn]
  exact (hperm.map _).foldr_op_eq

/-- Lists of lanes whose entries agree lane by lane have the same results. -/
theorem zipIdx_laneRes_eq {key : BitVec 64} {xs ys : List Lane} (hlen : xs.length = ys.length)
    (h : ∀ i la lb, xs[i]? = some la → ys[i]? = some lb → laneRes d key i la = laneRes d key i lb) :
    xs.zipIdx.map (fun p => laneRes d key p.2 p.1) = ys.zipIdx.map (fun p => laneRes d key p.2 p.1) := by
  refine List.ext_getElem (by simp [hlen]) fun i hi hi' => ?_
  have hx : i < xs.length := by simpa using hi
  have hy : i < ys.length := by simpa using hi'
  simpa using h i xs[i] ys[i] (List.getElem?_eq_getElem hx) (List.getElem?_eq_getElem hy)

/-- An MX format is legal with SUM alone (R143). -/
theorem isMx_eq_false (hn : 0 < pdLanes d) (hres : pdReserved d = false) (hop : pdOp d ≠ 0) : isMx (pdFmt d) = false := by
  by_contra hmx
  simp [pdReserved, maxLanes, hn.ne', hmx, hop] at hres

/-- A legal format is one of the eleven (R143). -/
theorem pdFmt_le (hn : 0 < pdLanes d) (hres : pdReserved d = false) : pdFmt d ≤ 10 := by
  by_contra hfmt
  simp [pdReserved, maxLanes, hn.ne', show pdFmt d > 10 by omega] at hres

/-- The results of the lanes do not depend on the order of the folds; neither do the indices of an ARGMAX. -/
theorem Folds.laneResults_eq_of_perm (key : BitVec 64) (hn : 0 < pdLanes d) (hres : pdReserved d = false)
    (hperm : ps.Perm qs) (ha : Folds d ps a) (hb : Folds d qs b) :
    laneResults d key a.lanes = laneResults d key b.lanes ∧
    (pdOp d = 3 → a.lanes.map Lane.idx = b.lanes.map Lane.idx) := by
  have hlen : a.lanes.length = b.lanes.length := ha.lanes_length.trans hb.lanes_length.symm
  have hfmt := pdFmt_le hn hres
  by_cases hextreme : pdOp d = 1 ∨ pdOp d = 2 ∨ pdOp d = 3
  · have hmx := isMx_eq_false hn hres (by omega)
    refine ⟨?_, fun hop => ?_⟩
    · simp only [laneResults, hmx, Bool.false_eq_true, if_false]
      refine congrArg (·, []) (zipIdx_laneRes_eq hlen fun i la lb hla hlb => ?_)
      by_cases hop : pdOp d = 3
      · exact (ha.laneRes_eq_of_argmax hop hfmt hperm hb hla hlb key).1
      · exact ha.laneRes_eq_of_minmax (by omega) hfmt hperm hb hla hlb key
    · refine List.ext_getElem (by simp [hlen]) fun i hi hi' => ?_
      rw [List.length_map] at hi hi'
      simpa using (ha.laneRes_eq_of_argmax hop hfmt hperm hb (List.getElem?_eq_getElem hi)
        (List.getElem?_eq_getElem hi') key).2
  · have hlanes : a.lanes = b.lanes := List.ext_getElem hlen fun i hi hi' =>
      ha.lane_eq_of_perm (by omega) (by omega) (by omega) hperm hb (List.getElem?_eq_getElem hi)
        (List.getElem?_eq_getElem hi')
    rw [hlanes]
    exact ⟨rfl, fun _ => rfl⟩

end Result

/-- Settles O39: the result region is made of the lanes' results, the indices of an ARGMAX and the side word. -/
theorem mashOrderIndependence : Obligations.MashOrderIndependence := by
  intro d key ps qs a b hn hres _ hperm ha hb
  obtain ⟨hresults, hidx⟩ := ha.laneResults_eq_of_perm key hn hres hperm hb
  have hempty : a.lanes = [] ↔ b.lanes = [] := by
    rw [← List.length_eq_zero_iff, ← List.length_eq_zero_iff, ha.lanes_length, hb.lanes_length]
  have hindices (hop : pdOp d = 3) : a.lanes.flatMap (fun l => leBytes 4 l.idx.toNat) =
      b.lanes.flatMap (fun l => leBytes 4 l.idx.toNat) := by
    have := congrArg (List.flatMap (fun x : BitVec 32 => leBytes 4 x.toNat)) (hidx hop)
    simpa [List.flatMap_map] using this
  by_cases hop : pdOp d = 3
  · simp [resultOf, hperm.length_eq, hempty, hresults, ha.side_eq_of_perm hn hperm hb, hindices hop]
  · simp [resultOf, hperm.length_eq, hempty, hresults, ha.side_eq_of_perm hn hperm hb, hop]

end Sys2Proof.Machine
end

section
/-! SUPPORT. The canonical form after each primitive update, as rewriting rules, and the writes that a read meets. -/

namespace Sys2Proof.Machine

open Sys2Proof

variable {s : State}

/-! ### Canonical form -/

@[simp] theorem State.wf_updCsn {k g} (h : s.wf = true) : (s.updCsn k g).wf = true := (State.updCsn_keeps (.refl s)).canon h
@[simp] theorem State.wf_setCsn {k v} (h : s.wf = true) : (s.setCsn k v).wf = true := (State.setCsn_keeps (.refl s)).canon h
@[simp] theorem State.wf_updCore {k g} (h : s.wf = true) : (s.updCore k g).wf = true := (State.updCore_keeps (.refl s)).canon h
@[simp] theorem State.wf_setCore {k v} (h : s.wf = true) : (s.setCore k v).wf = true := (State.setCore_keeps (.refl s)).canon h
@[simp] theorem State.wf_updHub {k g} (h : s.wf = true) : (s.updHub k g).wf = true := (State.updHub_keeps (.refl s)).canon h
@[simp] theorem State.wf_setHub {k v} (h : s.wf = true) : (s.setHub k v).wf = true := (State.setHub_keeps (.refl s)).canon h
@[simp] theorem State.wf_updKen {k g} (h : s.wf = true) : (s.updKen k g).wf = true := (State.updKen_keeps (.refl s)).canon h
@[simp] theorem State.wf_setKen {k v} (h : s.wf = true) : (s.setKen k v).wf = true := (State.setKen_keeps (.refl s)).canon h
@[simp] theorem State.wf_updFrec {k g} (h : s.wf = true) : (s.updFrec k g).wf = true := (State.updFrec_keeps (.refl s)).canon h
@[simp] theorem State.wf_setFrec {k v} (h : s.wf = true) : (s.setFrec k v).wf = true := (State.setFrec_keeps (.refl s)).canon h
@[simp] theorem State.wf_updPrec {k g} (h : s.wf = true) : (s.updPrec k g).wf = true := (State.updPrec_keeps (.refl s)).canon h
@[simp] theorem State.wf_setPrec {k v} (h : s.wf = true) : (s.setPrec k v).wf = true := (State.setPrec_keeps (.refl s)).canon h
@[simp] theorem State.wf_updFn {k g} (h : s.wf = true) : (s.updFn k g).wf = true := (State.updFn_keeps (.refl s)).canon h
@[simp] theorem State.wf_setFn {k v} (h : s.wf = true) : (s.setFn k v).wf = true := (State.setFn_keeps (.refl s)).canon h
@[simp] theorem State.wf_updPl {k g} (h : s.wf = true) : (s.updPl k g).wf = true := (State.updPl_keeps (.refl s)).canon h
@[simp] theorem State.wf_setPl {k v} (h : s.wf = true) : (s.setPl k v).wf = true := (State.setPl_keeps (.refl s)).canon h
@[simp] theorem State.wf_updSlot {k g} (h : s.wf = true) : (s.updSlot k g).wf = true := (State.updSlot_keeps (.refl s)).canon h
@[simp] theorem State.wf_setSlot {k v} (h : s.wf = true) : (s.setSlot k v).wf = true := (State.setSlot_keeps (.refl s)).canon h
@[simp] theorem State.wf_updRing {k g} (h : s.wf = true) : (s.updRing k g).wf = true := (State.updRing_keeps (.refl s)).canon h
@[simp] theorem State.wf_setRing {k v} (h : s.wf = true) : (s.setRing k v).wf = true := (State.setRing_keeps (.refl s)).canon h

@[simp] theorem State.wf_send {m} : (s.send m).wf = s.wf := rfl
@[simp] theorem State.wf_sendAll {ms} : (s.sendAll ms).wf = s.wf := rfl
@[simp] theorem State.wf_taken {m} : (s.taken m).wf = s.wf := rfl
@[simp] theorem State.wf_emit {g} : (s.emit g).wf = s.wf := rfl
@[simp] theorem State.wf_emitAll {gs} : (s.emitAll gs).wf = s.wf := rfl
@[simp] theorem State.wf_drawn : s.drawn.wf = s.wf := rfl
@[simp] theorem State.wf_updKf {k g} : (s.updKf k g).wf = s.wf := rfl
@[simp] theorem State.wf_updPort {k g} : (s.updPort k g).wf = s.wf := rfl
@[simp] theorem State.wf_updSrec {k g} : (s.updSrec k g).wf = s.wf := rfl
@[simp] theorem State.wf_updLink {k g} : (s.updLink k g).wf = s.wf := rfl

end Sys2Proof.Machine
end

section
/-! PROOF of O7, O10 and O43. A request that passes the checks of its home hub is applied to its entry (`AtHome.atHome_eq`),
whose answer is the `answer` of the statements (`State.kenAnswer_eq`). What each operation leaves of the entry is said once;
the statements read it off. -/

namespace Sys2Proof.Machine

open Sys2Proof

/-! ### Answers -/

/-- The answer that the home hub of a request sends. -/
theorem State.kenAnswer_eq {hub : Field} {q : KMsg} (hhome : homeHub (keyOf q) = hub.val) (s : State) (op : KOp)
    (st : Status) (flag : Bool) (grant : BitVec 16) (aux : BitVec 32) (res : BitVec 64) :
    s.kenAnswer op q st flag grant aux res = s.send (answer hub op q st flag grant aux res) := by
  rw [State.kenAnswer, answer, answerOf, ← hhome, keyOf]

section KenAnswer

variable {s : State} {op : KOp} {q : KMsg} {st : Status} {flag : Bool} {grant : BitVec 16} {aux : BitVec 32} {res : BitVec 64}

@[simp] theorem State.kenAnswer_ken : (s.kenAnswer op q st flag grant aux res).ken = s.ken := rfl
@[simp] theorem State.kenAnswer_kenAt {k : Nat} : (s.kenAnswer op q st flag grant aux res).kenAt k = s.kenAt k := rfl
@[simp] theorem State.lockAnswer_ken {k : Nat} : (s.lockAnswer op q k st).ken = s.ken := rfl
@[simp] theorem State.lockAnswer_kenAt {k l : Nat} : (s.lockAnswer op q k st).kenAt l = s.kenAt l := rfl

end KenAnswer

theorem AtHome.homeHub_eq {s : State} {hub : Field} {tep : Epoch} {q : KMsg} {kind : Kind} (h : AtHome s hub tep q kind) :
    homeHub (keyOf q) = hub.val := h.2.2.2.1

section Begun

variable {s : State} {hub : Field} {tep : Epoch} {op : KOp} {q : KMsg}

@[simp] theorem begun_ken : (begun s hub tep op q).ken = s.ken := rfl
@[simp] theorem begun_kenAt {k : Nat} : (begun s hub tep op q).kenAt k = s.kenAt k := rfl
@[simp] theorem begun_wf : (begun s hub tep op q).wf = s.wf := rfl

end Begun

/-! ### Atomic words -/

/-- An atomic operation at its home hub (R81). -/
theorem AtHome.atHome_atomic {s : State} {hub : Field} {tep : Epoch} {q : KMsg}
    (h : AtHome s hub tep (s.renewed q) .atomicWord) (harr : Arrives s hub tep q) (op : KOp)
    (new : KMsg → BitVec 64 → BitVec 64) (flag : KMsg → BitVec 64 → Bool) (ret : Bool) :
    let r := s.renewed q
    let v := (s.kenAt (keyOf r)).value
    atHome s hub tep op q .atomicWord (fun q => atomicAct op q (new q) (flag q) ret) =
      .next (((begun s hub tep op q).updKen (keyOf r) (fun e => { e with value := new r v })).send
        (answer hub op r .ok (flag r v) 0 0 (if ret then v else 0))) := by
  dsimp only
  rw [h.atHome_eq harr, atomicAct, State.kenAnswer_eq h.homeHub_eq]
  rfl

/-- Settles O7: each operation is `AtHome.atHome_atomic` at its own function of VALUE. -/
theorem atomicOperations : Obligations.AtomicOperations := by
  intro s hub tep q harr hhome r v a done
  refine ⟨?load, ?store, ?swap, ?cas, ?add, ?and, ?or, ?xor, ?umax, ?umin, ?smax, ?smin⟩
  case load => exact hhome.atHome_atomic harr .load (fun _ v => v) (fun _ _ => false) true
  case store => exact hhome.atHome_atomic harr .store (fun q _ => q.args.a) (fun _ _ => false) false
  case swap => exact hhome.atHome_atomic harr .swap (fun q _ => q.args.a) (fun _ _ => false) true
  case cas =>
    exact hhome.atHome_atomic harr .cas (fun q v => if v = q.args.a then q.args.b else v) (fun q v => v == q.args.a) true
  case add => exact hhome.atHome_atomic harr .add (fun q v => v + q.args.a) (fun _ _ => false) true
  case and => exact hhome.atHome_atomic harr .and (fun q v => v &&& q.args.a) (fun _ _ => false) true
  case or => exact hhome.atHome_atomic harr .or (fun q v => v ||| q.args.a) (fun _ _ => false) true
  case xor => exact hhome.atHome_atomic harr .xor (fun q v => v ^^^ q.args.a) (fun _ _ => false) true
  case umax =>
    exact hhome.atHome_atomic harr .umax (fun q v => if v.toNat < q.args.a.toNat then q.args.a else v) (fun _ _ => false) true
  case umin =>
    exact hhome.atHome_atomic harr .umin (fun q v => if q.args.a.toNat < v.toNat then q.args.a else v) (fun _ _ => false) true
  case smax =>
    exact hhome.atHome_atomic harr .smax (fun q v => if v.toInt < q.args.a.toInt then q.args.a else v) (fun _ _ => false) true
  case smin =>
    exact hhome.atHome_atomic harr .smin (fun q v => if q.args.a.toInt < v.toInt then q.args.a else v) (fun _ _ => false) true

/-! ### Semaphores and token pools with nobody waiting -/

section Units

variable {s : State} {k : Nat} {e : KEntry} {op : KOp} {q : KMsg}

theorem State.serve_of_queue_eq_nil (h : (s.kenAt k).queue = []) : s.serve k = s := by
  simp [State.serve, h, serveUnits]

/-- A write of an entry that leaves nobody waiting serves nobody. -/
theorem State.serve_updKen {g : KEntry → KEntry} (hwf : s.wf = true) (h : (g (s.kenAt k)).queue = []) :
    (s.updKen k g).serve k = s.updKen k g :=
  State.serve_of_queue_eq_nil (by rw [State.kenAt_updKen_same hwf, h])

/-- COUNT after a take that COUNT lets through: N less, or min(N, COUNT) for a pool (R83). -/
theorem takeAct_count (hwf : s.wf = true) (hk : s.kenAt k = e) (hq : e.queue = []) {tok : Bool}
    (hneed : (if tok then takeLeast q.args.n q.args.m else q.args.n.toNat) ≤ e.count.toNat) :
    ((takeAct op q tok s k e).kenAt k).count.toNat =
      e.count.toNat - (if tok then min q.args.n.toNat e.count.toNat else q.args.n.toNat) := by
  have hgot (g : Nat) (hg : g ≤ e.count.toNat) : (e.count - BitVec.ofNat 32 g).toNat = e.count.toNat - g := by
    rw [BitVec.toNat_sub_of_le] <;> simp [BitVec.le_def] <;> omega
  by_cases hn : q.args.n.toNat = 0
  · simp [takeAct, hn, hk]
  · simp only [takeAct, hn, if_false, hq, hneed, and_self, if_true, State.kenAnswer_kenAt, State.kenAt_updKen_same hwf]
    cases tok with
    | true => exact hgot _ (Nat.min_le_right _ _)
    | false => exact hgot _ (by simpa using hneed)

/-- COUNT after a give is clipped to LIMIT (R83). -/
theorem giveAct_count (hwf : s.wf = true) (hk : s.kenAt k = e) (hq : e.queue = []) :
    ((giveAct op q s k e).kenAt k).count.toNat = min (e.count.toNat + q.args.n.toNat) e.limit.toNat := by
  dsimp only [giveAct]
  rw [State.kenAnswer_kenAt, State.serve_updKen hwf (by rw [hk, hq]), State.kenAt_updKen_same hwf]
  dsimp only [addClip]
  have := e.limit.isLt
  split_ifs with hle
  · rw [min_eq_left hle, BitVec.toNat_ofNat, Nat.mod_eq_of_lt (by omega)]
  · rw [min_eq_right (by omega)]

/-- LIMIT and COUNT after a set (R83). -/
theorem setAct_count (hwf : s.wf = true) (hk : s.kenAt k = e) (hq : e.queue = []) :
    ((setAct op q s k e).kenAt k).limit = BitVec.ofNat 32 (q.args.a.toNat / 2 ^ 32) ∧
    ((setAct op q s k e).kenAt k).count.toNat =
      min (BitVec.ofNat 32 q.args.a.toNat).toNat (BitVec.ofNat 32 (q.args.a.toNat / 2 ^ 32)).toNat := by
  have hlim : BitVec.ofNat 32 (bits q.args.a.toNat 32 32) = BitVec.ofNat 32 (q.args.a.toNat / 2 ^ 32) :=
    BitVec.eq_of_toNat_eq (by simp [bits])
  dsimp only [setAct]
  rw [State.kenAnswer_kenAt, State.serve_updKen hwf (by rw [hk, hq]), State.kenAt_updKen_same hwf, hlim]
  dsimp only [setClip]
  refine ⟨rfl, ?_⟩
  split_ifs with hle
  · rw [min_eq_left hle]
  · rw [min_eq_right (by omega)]

/-- A read leaves every entry, and answers LIMIT and COUNT. -/
theorem readAct_eq {hub : Field} (hhome : homeHub (keyOf q) = hub.val) (hq : e.queue = []) (hop : op = .semRead ∨ op = .tokRead) :
    readAct op q s k e = s.send (answer hub op q .ok false 0 0 (e.limit ++ e.count)) := by
  rw [readAct, State.kenAnswer_eq hhome]
  rcases hop with rfl | rfl <;> simp [auxOf, hq]

end Units

/-! ### Locks and expiries with nobody waiting -/

section Locks

variable {s : State} {k : Nat} {e : KEntry} {op : KOp} {q : KMsg}

@[simp] theorem State.disarm_kenAt {h l : Nat} {loc : TimerLoc} {u : TimerOf} : (s.disarm h loc u).kenAt l = s.kenAt l := by
  cases loc <;> rfl

@[simp] theorem State.wf_disarm {h : Nat} {loc : TimerLoc} {u : TimerOf} (hwf : s.wf = true) :
    (s.disarm h loc u).wf = true := (State.disarm_keeps (.refl s)).canon hwf

/-- A lock that nobody waits for is free once it is released (R85). -/
theorem State.releaseLock_kenAt (hwf : s.wf = true) (hq : (s.kenAt k).queue = []) :
    (s.releaseLock k).kenAt k = { s.kenAt k with st := .free, owner := 0, leash := .none, deadline := 0 } := by
  simp [State.releaseLock, hq, serveLock, State.kenAt_updKen_same, hwf]

theorem State.armLeash_zero_kenAt (hwf : s.wf = true) :
    (s.armLeash k 0).kenAt k = { s.kenAt k with leash := .none, deadline := 0 } := by
  simp [State.armLeash, State.kenAt_updKen_same, hwf]

/-- A grant without a leash: STATE and OWNER, the flag that the grant reports cleared (R85, R87). -/
theorem State.grantLock_zero_kenAt {m : Master} {st : LockSt} (hwf : s.wf = true) :
    (s.grantLock k m st 0).kenAt k = { grantFlags (s.kenAt k) with st := st, owner := m, leash := .none, deadline := 0 } := by
  rw [State.grantLock, State.armLeash_zero_kenAt (State.wf_updKen hwf), State.kenAt_updKen_same hwf]

/-- A grant without a leash touches the entry alone. -/
theorem State.grantLock_zero_net {m : Master} {st : LockSt} : (s.grantLock k m st 0).net = s.net := by
  simp [State.grantLock, State.armLeash]

theorem ownedBy_of_owner {m : Master} (hst : e.st ≠ .free) (how : e.owner = m) : ownedBy e m = true := by
  simp [ownedBy, hst, how]

/-- A lock that is neither free nor held ahead is held. -/
theorem eq_held_of_ne {st : LockSt} (hfree : st ≠ .free) (hahead : st ≠ .heldAhead) : st = .held := by
  cases st
  · contradiction
  · rfl
  · contradiction

theorem acqAct_of_free (hst : e.st = .free) (hleash : q.args.leash = 0) :
    acqAct q s k e = (s.grantLock k q.master (if q.args.ahead then .heldAhead else .held) 0).kenAnswer .lockAcq q
      (grantCode e) false 0 (auxOf .lockAcq e) 0 := by
  simp [acqAct, hst, hleash]

section Owner

variable (hwf : s.wf = true) (hk : s.kenAt k = e) (hown : ownedBy e q.master = true)
include hwf hk hown

/-- LOCK_REL by the owner of a lock that nobody waits for; RET may add to the flags (R103). -/
theorem relAct_kenAt (hq : e.queue = []) :
    let u := (relAct q s k e).kenAt k
    u.st = .free ∧ (q.args.ret = false → u.abnd = e.abnd ∧ u.phn = e.phn) := by
  simp only [relAct, hown, if_true, State.lockAnswer_kenAt]
  split_ifs with hret
  · rw [State.releaseLock_kenAt (State.wf_updKen hwf) (by rw [State.kenAt_updKen_same hwf, hk, hq])]
    simp [hret]
  · rw [State.releaseLock_kenAt hwf (by rw [hk, hq]), hk]
    simp

theorem confirmAct_kenAt : (confirmAct q s k e).kenAt k = { e with st := .held } := by
  simp [confirmAct, hown, State.kenAt_updKen_same hwf, hk]

/-- LOCK_CANCEL by the owner: from HELD_AHEAD it frees the lock with PHN, on HELD it has no effect. -/
theorem cancelAct_kenAt (hq : e.queue = []) :
    (cancelAct q s k e).kenAt k =
      if e.st = .heldAhead then { e with phn := true, st := .free, owner := 0, leash := .none, deadline := 0 } else e := by
  simp only [cancelAct, hown, if_true]
  split_ifs with hst
  · rw [State.lockAnswer_kenAt, State.releaseLock_kenAt (State.wf_updKen hwf) (by rw [State.kenAt_updKen_same hwf, hk, hq]),
      State.kenAt_updKen_same hwf, hk]
  · exact hk

theorem renewAct_kenAt (hleash : q.args.leash = 0) : (renewAct q s k e).kenAt k = { e with leash := .none, deadline := 0 } := by
  simp only [renewAct, hown, if_true, hleash, ne_eq, not_true_eq_false, false_and, if_false, State.lockAnswer_kenAt]
  rw [State.armLeash_zero_kenAt (State.wf_disarm hwf), State.disarm_kenAt, hk]

end Owner

/-- A leash that has passed its deadline frees a lock that nobody waits for, with ABND (R85, R88). -/
theorem State.expireLeash_kenAt (hwf : s.wf = true) (hk : s.kenAt k = e) (hkind : e.kind = .lock) (hst : e.st ≠ .free)
    (hleash : e.leash ≠ .none) (hpast : passed s.units e.deadline = true) (hq : e.queue = []) :
    ((s.expireLeash k).kenAt k).st = .free ∧ ((s.expireLeash k).kenAt k).abnd = true := by
  have abandon {t : State} (hwft : t.wf = true) (hkt : t.kenAt k = e) :
      ((t.abandonLock k).kenAt k).st = .free ∧ ((t.abandonLock k).kenAt k).abnd = true := by
    rw [State.abandonLock, State.releaseLock_kenAt (State.wf_updKen hwft) (by rw [State.kenAt_updKen_same hwft, hkt, hq]),
      State.kenAt_updKen_same hwft]
    exact ⟨rfl, rfl⟩
  simp only [State.expireLeash, hk, hkind, hst, hleash, hpast, ne_eq, not_false_eq_true, and_self, if_true]
  split_ifs
  · exact abandon hwf hk
  · exact abandon hwf hk
  · exact abandon hwf hk

@[simp] theorem State.sendEnd_kenAt {w : Waiter} {st : Status} {grant : BitVec 16} {aux : BitVec 32} {l j : Nat} :
    (s.sendEnd j w st grant aux).kenAt l = s.kenAt l := by
  unfold State.sendEnd
  dsimp only
  split_ifs <;> rfl

theorem State.endWaiter_kenAt {w : Waiter} {st : Status} {grant : BitVec 16} (hwf : s.wf = true) :
    (s.endWaiter k w st grant).kenAt k = { s.kenAt k with queue := (s.kenAt k).queue.erase w } := by
  simp [State.endWaiter, State.dropWaiter, State.kenAt_updKen_same, hwf]

/-- Nobody is left to serve once the only waiter has gone. -/
theorem State.reserve_of_queue_eq_nil (h : (s.kenAt k).queue = []) : s.reserve k = s := by
  unfold State.reserve
  split
  · exact State.serve_of_queue_eq_nil h
  · exact State.serve_of_queue_eq_nil h
  · rfl

/-- A wait past its deadline leaves the queue (R89). -/
theorem State.expireWait_kenAt {w : Waiter} {d : BitVec 32} (hwf : s.wf = true) (hq : (s.kenAt k).queue = [w])
    (hd : w.deadline = some d) (hpast : passed s.units d = true) :
    (s.expireWait k w.master w.tag).kenAt k = { s.kenAt k with queue := [] } := by
  have hw : (s.kenAt k).waiterOf w.master w.tag = some w := by simp [KEntry.waiterOf, hq]
  have hend := State.endWaiter_kenAt (k := k) (w := w) (st := .timeout) (grant := 0) hwf
  simp only [hq, List.erase_cons_head] at hend
  simp only [State.expireWait, hw, State.waitOver, hd, hpast, if_true]
  rw [State.reserve_of_queue_eq_nil (by rw [hend]), hend]

/-- WITHDRAW where nothing is queued reports FLAG 1 and changes nothing (R100). -/
theorem withdrawAct_of_queue_eq_nil {hub : Field} (hhome : homeHub (keyOf q) = hub.val) (hq : e.queue = []) :
    withdrawAct q s k e = s.send (answer hub .withdraw q .ok true 0 0 0) := by
  simp [withdrawAct, KEntry.waiterOf, hq, State.kenAnswer_eq hhome]

end Locks

/-- WITHDRAW passes the checks of an entry of any KIND. -/
theorem AtHome.withdraw_eq {s : State} {hub : Field} {tep : Epoch} {q : KMsg} {kind : Kind}
    (h : AtHome s hub tep (s.renewed q) kind) (harr : Arrives s hub tep q) :
    exec (.withdraw hub tep q) s = .next (withdrawAct (s.renewed q) (begun s hub tep .withdraw q) (keyOf (s.renewed q))
      (s.kenAt (keyOf (s.renewed q)))) := by
  have hcheck : (begun s hub tep .withdraw q).homeCheck hub.val tep ((begun s hub tep .withdraw q).renewed q) = none :=
    h.homeCheck_eq_none
  simp only [exec, execWithdraw, harr .withdraw, Bool.false_eq_true, if_false]
  exact congrArg _ (State.homeDo_of_homeCheck_eq_none hcheck _ _)

/-- LOCK_READ leaves every entry, and answers the lock's word. -/
theorem AtHome.lockRead_eq {s : State} {hub : Field} {tep : Epoch} {q : KMsg} (h : AtHome s hub tep (s.renewed q) .lock)
    (harr : Arrives s hub tep q) (hq : (s.kenAt (keyOf (s.renewed q))).queue = []) :
    exec (.lockRead hub tep q) s = .next ((begun s hub tep .lockRead q).send
      (answer hub .lockRead (s.renewed q) .ok false 0 0 (lockWord (s.kenAt (keyOf (s.renewed q)))))) := by
  refine (h.atHome_eq harr .lockRead _).trans (congrArg _ ?_)
  rw [State.kenAnswer_eq h.homeHub_eq]
  simp [auxOf, hq]

/-- Settles O10: each operation's effect on its entry. -/
theorem kennelCommandsComplete : Obligations.KennelCommandsComplete := by
  intro s hub tep q r k e n lim cnt harr hwf hq
  have hbegun (op : KOp) : (begun s hub tep op q).wf = true := hwf
  refine ⟨fun h => ⟨fun hn => ?_, ?_, ?_, ?_⟩, fun h => ⟨fun hm hn => ?_, ?_, ?_, ?_⟩,
    fun h => ⟨fun hst hleash => ?_, ?_, fun hst how => ?_, fun hst hleash hpast i hi => ?_⟩, fun kind h => ?_,
    fun i w d hqi hd hpast => ?_⟩
  · exact ⟨_, h.atHome_eq harr .semWait _, takeAct_count (tok := false) (hbegun _) rfl hq hn⟩
  · exact ⟨_, h.atHome_eq harr .semSignal _, giveAct_count (hbegun _) rfl hq⟩
  · exact ⟨_, h.atHome_eq harr .semSet _, setAct_count (hbegun _) rfl hq⟩
  · exact ⟨_, (h.atHome_eq harr .semRead _).trans (congrArg _ (readAct_eq h.homeHub_eq hq (.inl rfl))), rfl, rfl⟩
  · refine ⟨_, (h.atHome_eq harr .tokTake _).trans (congrArg _ (if_neg (not_lt.mpr hm))), ?_⟩
    exact takeAct_count (tok := true) (hbegun _) rfl hq hn
  · exact ⟨_, h.atHome_eq harr .tokReturn _, giveAct_count (hbegun _) rfl hq⟩
  · exact ⟨_, h.atHome_eq harr .tokSet _, setAct_count (hbegun _) rfl hq⟩
  · exact ⟨_, (h.atHome_eq harr .tokRead _).trans (congrArg _ (readAct_eq h.homeHub_eq hq (.inr rfl))), rfl, rfl⟩
  · refine ⟨_, (h.atHome_eq harr .lockAcq _).trans (congrArg _ (acqAct_of_free hst hleash)), ?_⟩
    rw [State.kenAnswer_kenAt, State.grantLock_zero_kenAt (hbegun _)]
    exact ⟨rfl, rfl⟩
  · exact ⟨_, h.lockRead_eq harr hq, rfl, rfl⟩
  · have hown := ownedBy_of_owner hst how
    refine ⟨⟨_, h.atHome_eq harr .lockRel _, (relAct_kenAt (hbegun _) rfl hown hq).1⟩,
      ⟨_, h.atHome_eq harr .lockConfirm _, ?_⟩, ⟨_, h.atHome_eq harr .lockCancel _, ?_⟩,
      fun hleash => ⟨_, h.atHome_eq harr .lockRenew _, ?_⟩⟩
    · have hu : (confirmAct r (begun s hub tep .lockConfirm q) k e).kenAt k = _ := confirmAct_kenAt (hbegun _) rfl hown
      exact ⟨congrArg KEntry.st hu, (congrArg KEntry.owner hu).trans how⟩
    · have hu : (cancelAct r (begun s hub tep .lockCancel q) k e).kenAt k = _ := cancelAct_kenAt (hbegun _) rfl hown hq
      refine (congrArg KEntry.st hu).trans ?_
      split_ifs with hahead
      · rfl
      · exact eq_held_of_ne hst hahead
    · have hu : (renewAct r (begun s hub tep .lockRenew q) k e).kenAt k = _ := renewAct_kenAt (hbegun _) rfl hown hleash
      exact ⟨(congrArg KEntry.st hu).trans rfl, congrArg KEntry.leash hu⟩
  · obtain ⟨-, -, -, -, hkind, -⟩ := h
    refine ⟨_, rfl, ?_⟩
    rw [hi]
    exact State.expireLeash_kenAt hwf rfl hkind hst hleash hpast hq
  · exact ⟨_, (h.withdraw_eq harr).trans (congrArg _ (withdrawAct_of_queue_eq_nil h.homeHub_eq hq)), rfl, rfl⟩
  · refine ⟨_, rfl, ?_⟩
    rw [State.expireWait_kenAt hwf hqi hd hpast]

/-! ### A free lock acquired, and its owner's operations -/

theorem lockAcquireFree : Says.LockAcquireFree := by
  intro s hub tep q r e harr hwf h hst hleash
  refine ⟨_, (h.atHome_eq harr .lockAcq _).trans (congrArg _ (acqAct_of_free hst hleash)), ?_⟩
  have hu : ((begun s hub tep .lockAcq q).grantLock (keyOf r) r.master (if r.args.ahead then .heldAhead else .held) 0).kenAt
      (keyOf r) = _ := State.grantLock_zero_kenAt (show (begun s hub tep .lockAcq q).wf = true from hwf)
  refine ⟨congrArg KEntry.owner hu, congrArg KEntry.st hu, (congrArg KEntry.phn hu).trans ?_,
    (congrArg KEntry.abnd hu).trans ?_, ?_⟩
  · show (grantFlags e).phn = false
    unfold grantFlags
    split
    · rfl
    · next hp => exact Bool.eq_false_of_not_eq_true hp
  · show (grantFlags e).abnd = (e.phn && e.abnd)
    unfold grantFlags
    cases e.phn <;> rfl
  · rw [State.kenAnswer_eq h.homeHub_eq]
    exact congrArg (· ++ _) State.grantLock_zero_net

theorem lockOwnerOperations : Says.LockOwnerOperations := by
  intro s hub tep q r e harr hwf h hst how hq _
  have hown := ownedBy_of_owner hst how
  have hbegun (op : KOp) : (begun s hub tep op q).wf = true := hwf
  refine ⟨fun hret => ⟨_, h.atHome_eq harr .lockRel _, ?_⟩, ⟨_, h.atHome_eq harr .lockConfirm _, ?_⟩,
    fun hahead => ⟨_, h.atHome_eq harr .lockCancel _, ?_⟩, fun hleash => ⟨_, h.atHome_eq harr .lockRenew _, ?_⟩,
    ⟨_, h.lockRead_eq harr hq, rfl, rfl⟩⟩
  · obtain ⟨hfree, hflags⟩ := relAct_kenAt (e := e) (k := keyOf r) (hbegun .lockRel) rfl hown hq
    exact ⟨hfree, hflags hret⟩
  · have hu : (confirmAct r (begun s hub tep .lockConfirm q) (keyOf r) e).kenAt (keyOf r) = _ :=
      confirmAct_kenAt (hbegun _) rfl hown
    exact ⟨congrArg KEntry.st hu, (congrArg KEntry.owner hu).trans rfl⟩
  · have hu : (cancelAct r (begun s hub tep .lockCancel q) (keyOf r) e).kenAt (keyOf r) = _ :=
      cancelAct_kenAt (hbegun _) rfl hown hq
    rw [if_pos hahead] at hu
    exact ⟨congrArg KEntry.st hu, congrArg KEntry.phn hu⟩
  · have hu : (renewAct r (begun s hub tep .lockRenew q) (keyOf r) e).kenAt (keyOf r) = _ :=
      renewAct_kenAt (hbegun _) rfl hown hleash
    exact ⟨(congrArg KEntry.st hu).trans rfl, congrArg KEntry.leash hu⟩

/-- Settles O43: the acquisition of a free lock, and what its owner may do with it. -/
theorem locksHeld : Obligations.LocksHeld := ⟨lockAcquireFree, lockOwnerOperations⟩

end Sys2Proof.Machine
end

section
/-! SUPPORT. The sync port of a core: what settling leaves where no operation is held, and one operation that acts. -/

namespace Sys2Proof.Machine

open Sys2Proof

/-! ### Cores and clusters -/

@[simp] theorem clusterOf_coreRef (c : CoreRef) : clusterOf c.id = c.cl.id := by
  have := c.ix.isLt
  unfold clusterOf CoreRef.id
  omega

@[simp] theorem coreRef_mod (c : CoreRef) : c.id % 64 = c.ix.val := by
  have := c.ix.isLt
  unfold CoreRef.id
  omega

/-! ### A fold that changes nothing -/

theorem forAll_eq_self {α : Type} {l : List α} {g : State → α → State} {s : State} (h : ∀ x ∈ l, g s x = s) :
    forAll l g s = s := by
  unfold forAll
  induction l with
  | nil => rfl
  | cons x l ih =>
    rw [List.foldl_cons, h x List.mem_cons_self]
    exact ih fun y hy => h y (List.mem_cons_of_mem _ hy)

@[simp] theorem forAll_nil {α : Type} {g : State → α → State} {s : State} : forAll [] g s = s := rfl

@[simp] theorem forAll_singleton {α : Type} {x : α} {g : State → α → State} {s : State} : forAll [x] g s = g s x := rfl

@[simp] theorem State.emitAll_nil {s : State} : s.emitAll [] = s := by simp [State.emitAll]

/-! ### Two writes of one unit, and writes that agree -/

theorem State.updCsn_congr {s : State} {k : Nat} {g g' : Csn → Csn} (h : g (s.csnAt k) = g' (s.csnAt k)) :
    s.updCsn k g = s.updCsn k g' := by simp [State.updCsn, h]

theorem State.updCore_congr {s : State} {k : Nat} {g g' : Core → Core} (h : g (s.coreAt k) = g' (s.coreAt k)) :
    s.updCore k g = s.updCore k g' := by simp [State.updCore, h]

/-! ### Settling -/

/-- Nothing is held at a cluster that a state leaves its cores and its floor plan. -/
theorem Calm.of_core_eq {s t : State} {cl : Nat} (h : Calm s cl) (hcore : ∀ n, (t.coreAt n).stall = (s.coreAt n).stall)
    (hcask : t.cask = s.cask) : Calm t cl := by
  have hcores : t.coresOf cl = s.coresOf cl := by simp [State.coresOf, State.coreIxs, hcask]
  intro n hn
  rw [hcores] at hn
  rw [hcore, h n hn]

theorem State.coreAt_updCore {s : State} {k n : Nat} {g : Core → Core} (hwf : s.wf = true) :
    (s.updCore k g).coreAt n = if n = k then g (s.coreAt k) else s.coreAt n := by
  split_ifs with h
  · rw [h, State.coreAt_updCore_same hwf]
  · exact State.coreAt_updCore_other h

theorem Calm.updCore {s : State} {cl k : Nat} {g : Core → Core} (h : Calm s cl) (hwf : s.wf = true)
    (hg : (g (s.coreAt k)).stall = (s.coreAt k).stall) : Calm (s.updCore k g) cl := by
  refine h.of_core_eq (fun n => ?_) rfl
  rw [State.coreAt_updCore hwf]
  split_ifs with hn
  · rw [hn, hg]
  · rfl

theorem State.settle_of_calm {s : State} {cl : Nat} (h : Calm s cl) : s.settle cl = s := by
  unfold State.settle settleGo
  split
  · rfl
  · next n hn =>
    have hstalled := List.find?_some hn
    simp [h n (List.mem_of_find?_eq_some hn)] at hstalled

/-- An operation that acts at an open port leaves nothing to settle where nothing is held. -/
theorem PortFree.atPort_eq {s : State} {c : CoreRef} {o : PortOp} (h : PortFree s c) (hcan : s.canDo c.id o = true)
    (hcalm : Calm (s.doOp c.id o) c.cl.id) : s.atPort c.id o = s.doOp c.id o := by
  simp [State.atPort, h.1, hcan, State.settle_of_calm hcalm]

/-! ### Barrier entries of a CSN -/

theorem Csn.entAt_setEnt {x : Csn} {i j : Nat} {e : BarEntry} (h : twf BarEntry.init x.ents = true) :
    (x.setEnt i e).entAt j = if j = i then e else x.entAt j := by
  unfold Csn.entAt Csn.setEnt
  split_ifs with hj
  · rw [hj, tget_tset_same h]
  · exact tget_tset_other hj

@[simp] theorem Csn.twf_setEnt {x : Csn} {i : Nat} {e : BarEntry} (h : twf BarEntry.init x.ents = true) :
    twf BarEntry.init (x.setEnt i e).ents = true := tset_wf h

/-- Nobody waits at an entry whose mask is empty: ending its waits clears the mask alone. -/
theorem State.endWaits_of_waitm_eq_zero {s : State} {cl ix : Nat} {st : Status} {g : Byte} {res : BitVec 64}
    {c : Option Cause} (h : ((s.csnAt cl).entAt ix).waitm = 0) :
    s.endWaits cl ix st g res c = s.updCsn cl (fun x => x.setEnt ix { x.entAt ix with waitm := 0 }) := by
  have hnone : (List.range 48).filter (fun i => bit ((s.csnAt cl).entAt ix).waitm.toNat i) = [] := by
    simp [h, bit]
  simp only [State.endWaits, hnone, List.map_nil, forAll_nil, State.emitAll_nil]

end Sys2Proof.Machine
end

section
/-! PROOF of O11, O12 and O47 (R113-R120). An operation at the port of a core that names an entry of MODE 1 acts at once
where the entry has room; each leaves the entry as its definition says, and nothing is held at the cluster. -/

namespace Sys2Proof.Machine

open Sys2Proof

section Entry

variable {s : State} {c : CoreRef} {ix : Byte} (hwf : s.wf = true)
  (hents : twf BarEntry.init (s.csnAt c.cl.id).ents = true) (hfree : PortFree s c)

/-! ### Entries named -/

theorem Csn.namesOk_of_mode {x : Csn} (h : (x.entAt ix.toNat).mode = 1) : x.namesOk (.entry ix) = some ix.toNat := by
  simp [Csn.namesOk, h]

theorem Csn.namesOk_of_mode_ne {x : Csn} (h : (x.entAt ix.toNat).mode ≠ 1) : x.namesOk (.entry ix) = none := by
  unfold Csn.namesOk
  exact if_neg h

/-- The entry of a CSN once it is written. -/
theorem entAt_updCsn_setEnt {e : BarEntry} {g : Csn → BarEntry} {cl i : Nat} (hwf : s.wf = true)
    (hents : twf BarEntry.init (s.csnAt cl).ents = true) (hg : g (s.csnAt cl) = e) :
    ((s.updCsn cl (fun x => x.setEnt i (g x))).csnAt cl).entAt i = e := by
  rw [State.csnAt_updCsn_same hwf, Csn.entAt_setEnt hents, if_pos rfl, hg]

/-! ### Beginning and ending an entry -/

/-- A generation that ends on an entry with nobody waiting (R110). -/
theorem endGen_eq {cl i : Nat} {st : Status} {cause : Option Cause} (hwf : s.wf = true)
    (hents : twf BarEntry.init (s.csnAt cl).ents = true) (hwait : ((s.csnAt cl).entAt i).waitm = 0) :
    let e := (s.csnAt cl).entAt i
    let t := s.endGen cl i st cause
    (t.csnAt cl).entAt i = { e with rgen := e.gen, rstat := st, gen := e.gen + 1, res := 0, waitm := 0 } ∧
      twf BarEntry.init (t.csnAt cl).ents = true ∧ t.wf = true ∧ t.core = s.core ∧ t.cask = s.cask ∧ t.out = s.out := by
  have hended := entAt_updCsn_setEnt (i := i) (g := fun x => { x.entAt i with
      rgen := ((s.csnAt cl).entAt i).gen, rstat := st, gen := ((s.csnAt cl).entAt i).gen + 1, res := 0 }) hwf hents rfl
  have hwf' : (s.updCsn cl (fun x => x.setEnt i { x.entAt i with
      rgen := ((s.csnAt cl).entAt i).gen, rstat := st, gen := ((s.csnAt cl).entAt i).gen + 1, res := 0 })).wf = true :=
    State.wf_updCsn hwf
  have hents' : twf BarEntry.init ((s.updCsn cl (fun x => x.setEnt i { x.entAt i with
      rgen := ((s.csnAt cl).entAt i).gen, rstat := st, gen := ((s.csnAt cl).entAt i).gen + 1, res := 0 })).csnAt cl).ents =
      true := by
    rw [State.csnAt_updCsn_same hwf]
    exact Csn.twf_setEnt hents
  dsimp only [State.endGen]
  rw [State.endWaits_of_waitm_eq_zero (by rw [hended]; exact hwait)]
  refine ⟨?_, ?_, State.wf_updCsn hwf', rfl, rfl, rfl⟩
  · exact entAt_updCsn_setEnt hwf' hents' (by rw [hended])
  · rw [State.csnAt_updCsn_same hwf']
    exact Csn.twf_setEnt hents'

end Entry

theorem barrierInitAndFree : Says.BarrierInitAndFree := by
  intro s c ix exp hwf hents hfree hmode hwait
  obtain ⟨hent, hents', hwf', hcore, hcask, hout⟩ := endGen_eq (st := .aborted) (cause := some .bar) hwf hents hwait
  have hcalm {t : State} (hc : t.core = s.core) (hk : t.cask = s.cask) : Calm t c.cl.id :=
    hfree.2.of_core_eq (fun n => by simp only [State.coreAt, hc]) hk
  constructor
  · refine ⟨s.barInit c.id ix.toNat exp, ?_, ?_⟩
    · simp only [exec, execBarInit, hfree.1, Bool.not_true, Bool.false_eq_true, if_false]
      exact congrArg _ (if_neg hmode)
    · dsimp only [State.barInit, entOf]
      rw [clusterOf_coreRef, State.settle_of_calm (hcalm (by simpa using hcore) (by simpa using hcask))]
      have hu := entAt_updCsn_setEnt (i := ix.toNat) (g := fun x => { x.entAt ix.toNat with
        mode := 1, bar := 0, exp := exp, arr := 0, early := 0, psn := false, proxy := none }) hwf' hents' rfl
      rw [hent] at hu
      rw [State.emit_csnAt, hu]
      exact ⟨rfl, rfl, rfl, rfl, rfl, rfl, rfl, rfl, congrArg (· ++ _) hout⟩
  · refine ⟨s.barFree c.id ix.toNat, ?_, ?_⟩
    · simp only [exec, execBarFree, hfree.1, Bool.not_true, Bool.false_eq_true, if_false]
      exact congrArg _ (if_neg hmode)
    · dsimp only [State.barFree, entOf]
      rw [clusterOf_coreRef, State.settle_of_calm (hcalm (by simpa using hcore) (by simpa using hcask))]
      have hu := entAt_updCsn_setEnt (i := ix.toNat) (g := fun x => { x.entAt ix.toNat with mode := 0 }) hwf' hents' rfl
      rw [hent] at hu
      rw [State.emit_csnAt, hu]
      exact ⟨rfl, rfl, rfl, rfl, congrArg (· ++ _) hout⟩

/-- An operation that names no entry it may name ends at once, with some status. -/
theorem PortFree.atPort_anyEnd {s : State} {c : CoreRef} {o : PortOp} (h : PortFree s c) (hcan : s.canDo c.id o = true)
    (hdo : s.doOp c.id o = s.anyEnd c.id) : s.atPort c.id o = s.drawn.emit (.portAny c.id s.anyStatus) := by
  rw [h.atPort_eq hcan (by rw [hdo]; exact h.2), hdo]
  rfl

theorem barrierMisnamedEnds : Says.BarrierMisnamedEnds := by
  intro s c ix exp g w hfree ends
  refine ⟨fun hmode => ⟨⟨s.anyStatus, ?_⟩, ⟨s.anyStatus, ?_⟩⟩, fun hmode => ?_⟩
  · simp only [exec, execBarInit, hfree.1, Bool.not_true, Bool.false_eq_true, if_false]
    exact congrArg _ (if_pos hmode)
  · simp only [exec, execBarFree, hfree.1, Bool.not_true, Bool.false_eq_true, if_false]
    exact congrArg _ (if_pos hmode)
  · have hnone : (s.csnAt (clusterOf c.id)).namesOk (.entry ix) = none := by
      rw [clusterOf_coreRef]
      exact Csn.namesOk_of_mode_ne hmode
    exact ⟨⟨_, congrArg _ (hfree.atPort_anyEnd (by simp only [State.canDo, hnone]) (by simp only [State.doOp, hnone]))⟩,
      ⟨_, congrArg _ (hfree.atPort_anyEnd (by simp only [State.canDo, hnone]) (by simp only [State.doOp, hnone]))⟩,
      ⟨_, congrArg _ (hfree.atPort_anyEnd (by simp only [State.canDo, hnone]) (by simp only [State.doOp, hnone]))⟩⟩

/-- Settles O47: an entry begun and freed, and the wrong entry named. -/
theorem barrierEntries : Obligations.BarrierEntries := ⟨barrierInitAndFree, barrierMisnamedEnds⟩

end Sys2Proof.Machine
end

section
/-! PROOF of O11 and O12 (R116-R119). -/

namespace Sys2Proof.Machine

open Sys2Proof

/-! ### What acts at once -/

theorem storesDone_own {x : Core} (h : x.stOwn = 0) : storesDone x 0 = true := by simp [storesDone, h]

/-- An arrival is counted where the entry of MODE 1 has room and the core's own stores are complete (R117, R285). -/
theorem State.canArrive_of_room {s : State} {c : CoreRef} {ix : Byte} (hmode : (entOf s c ix).mode = 1)
    (hroom : (entOf s c ix).arr.toNat < (entOf s c ix).exp.toNat) (hown : (s.coreAt c.id).stOwn = 0) :
    s.canArrive c.id ix.toNat = true := by
  dsimp only [State.canArrive]
  rw [clusterOf_coreRef]
  change (storesDone _ (if (entOf s c ix).mode = 2 then _ else 0) &&
    (_ || decide ((entOf s c ix).arr.toNat < (entOf s c ix).exp.toNat) || _)) = true
  rw [if_neg (by rw [hmode]; decide), storesDone_own hown, decide_eq_true hroom]
  simp

/-- A release at an entry of MODE 1 on which nobody waits (R117, R120). -/
theorem relEnt_ok_eq {s : State} {cl i : Nat} (hwf : s.wf = true) (hents : twf BarEntry.init (s.csnAt cl).ents = true)
    (hmode : ((s.csnAt cl).entAt i).mode = 1) (hwait : ((s.csnAt cl).entAt i).waitm = 0) :
    let e := (s.csnAt cl).entAt i
    let t := s.relEnt cl i .ok 0
    (t.csnAt cl).entAt i = { e with
      rgen := e.gen, rstat := .ok, gen := e.gen + 1, arr := e.early, early := 0, psn := false, res := 0, waitm := 0 } ∧ t.core = s.core ∧ t.cask = s.cask ∧ t.out = s.out := by
  have hended := entAt_updCsn_setEnt (i := i) (g := fun _ => { (s.csnAt cl).entAt i with
    rgen := ((s.csnAt cl).entAt i).gen, rstat := .ok, gen := ((s.csnAt cl).entAt i).gen + 1,
    arr := ((s.csnAt cl).entAt i).nextArr .ok, early := 0, psn := false, res := 0 }) hwf hents rfl
  have hwf' := State.wf_updCsn (k := cl) (g := fun x => x.setEnt i { (s.csnAt cl).entAt i with
    rgen := ((s.csnAt cl).entAt i).gen, rstat := .ok, gen := ((s.csnAt cl).entAt i).gen + 1,
    arr := ((s.csnAt cl).entAt i).nextArr .ok, early := 0, psn := false, res := 0 }) hwf
  have hnext : ((s.csnAt cl).entAt i).nextArr .ok = ((s.csnAt cl).entAt i).early := by simp [BarEntry.nextArr]
  dsimp only [State.relEnt]
  rw [State.endWaits_of_waitm_eq_zero (by rw [hended]; exact hwait), if_neg (fun h => absurd (hmode.symm.trans h.2) (by decide))]
  refine ⟨?_, rfl, rfl, rfl⟩
  rw [State.csnAt_updCsn_same hwf', Csn.entAt_setEnt (by rw [State.csnAt_updCsn_same hwf]; exact Csn.twf_setEnt hents),
    if_pos rfl, hended, hnext]

section Arrivals

variable {s : State} {c : CoreRef} {ix : Byte} (hwf : s.wf = true)
  (hents : twf BarEntry.init (s.csnAt c.cl.id).ents = true)
  (hroom : (entOf s c ix).arr.toNat < (entOf s c ix).exp.toNat)
include hwf hents hroom

/-- An arrival that leaves ARR below EXP is counted (R117). -/
theorem arriveAt_of_below (hmore : (entOf s c ix).arr + 1 ≠ (entOf s c ix).exp) :
    let e := entOf s c ix
    s.arriveAt c.id ix.toNat =
        (s.updCsn c.cl.id (fun x => x.setEnt ix.toNat { e with arr := e.arr + 1 }), e.gen) ∧
      entOf (s.arriveAt c.id ix.toNat).1 c ix = { e with arr := e.arr + 1 } := by
  have hexp : ¬ (entOf s c ix).exp = 0 := by
    intro h
    rw [h] at hroom
    exact Nat.not_lt_zero _ hroom
  have heq : s.arriveAt c.id ix.toNat = (s.updCsn c.cl.id (fun x => x.setEnt ix.toNat
      { entOf s c ix with arr := (entOf s c ix).arr + 1 }), (entOf s c ix).gen) := by
    dsimp only [State.arriveAt]
    rw [clusterOf_coreRef]
    exact (if_neg hexp).trans ((if_pos hroom).trans (if_neg hmore))
  refine ⟨heq, ?_⟩
  rw [heq]
  exact entAt_updCsn_setEnt hwf hents rfl

/-- The arrival that reaches EXP releases the generation (R117). -/
theorem arriveAt_of_last (hmode : (entOf s c ix).mode = 1) (hlast : (entOf s c ix).arr + 1 = (entOf s c ix).exp) (hearly : (entOf s c ix).early = 0)
    (hwait : (entOf s c ix).waitm = 0) :
    let e := entOf s c ix
    let t := (s.arriveAt c.id ix.toNat).1
    (s.arriveAt c.id ix.toNat).2 = e.gen ∧
    entOf t c ix = { e with
      rgen := e.gen, rstat := .ok, gen := e.gen + 1, arr := 0, early := 0, psn := false, res := 0, waitm := 0 } ∧ t.core = s.core ∧ t.cask = s.cask ∧ t.out = s.out := by
  have hexp : ¬ (entOf s c ix).exp = 0 := by
    intro h
    rw [h] at hroom
    exact Nat.not_lt_zero _ hroom
  have hcount := entAt_updCsn_setEnt (i := ix.toNat) (g := fun _ => { entOf s c ix with arr := (entOf s c ix).arr + 1 })
    hwf hents rfl
  obtain ⟨hent, hcore, hcask, hout⟩ := relEnt_ok_eq (i := ix.toNat)
    (State.wf_updCsn (k := c.cl.id) (g := fun x => x.setEnt ix.toNat
      { entOf s c ix with arr := (entOf s c ix).arr + 1 }) hwf)
    (by rw [State.csnAt_updCsn_same hwf]; exact Csn.twf_setEnt hents) (by rw [hcount]; exact hmode)
    (by rw [hcount]; exact hwait)
  rw [hcount] at hent
  have heq : s.arriveAt c.id ix.toNat = ((s.updCsn c.cl.id (fun x => x.setEnt ix.toNat
      { entOf s c ix with arr := (entOf s c ix).arr + 1 })).relEnt c.cl.id ix.toNat .ok 0, (entOf s c ix).gen) := by
    dsimp only [State.arriveAt]
    rw [clusterOf_coreRef]
    refine (if_neg hexp).trans ((if_pos hroom).trans ((if_pos hlast).trans ?_))
    refine Prod.ext ((if_pos hmode).trans ?_) rfl
    dsimp only [State.relLocal]
    exact if_neg (by
      erw [hent]
      exact fun h => hexp (h.symm.trans hearly))
  rw [heq]
  refine ⟨rfl, ?_, hcore, hcask, hout⟩
  exact hent.trans (by rw [hearly])

end Arrivals

/-- Settles O11: an arrival counted, and the one that releases. -/
theorem barrierArrivals : Obligations.BarrierArrivals := by
  intro s c ix hwf hents hfree e hmode hroom hown
  have hnames : (s.csnAt (clusterOf c.id)).namesOk (.entry ix) = some ix.toNat := by
    rw [clusterOf_coreRef]
    exact Csn.namesOk_of_mode hmode
  have hcan : s.canDo c.id (.arrive (.entry ix)) = true := by
    simp only [State.canDo, hnames]
    exact State.canArrive_of_room hmode hroom hown
  have hdo : s.doOp c.id (.arrive (.entry ix)) = (s.arriveAt c.id ix.toNat).1.emit
      (.portGen c.id .ok (s.arriveAt c.id ix.toNat).2) := by simp only [State.doOp, hnames]
  have hacts (hcore : (s.arriveAt c.id ix.toNat).1.core = s.core) (hcask : (s.arriveAt c.id ix.toNat).1.cask = s.cask) :
      exec (.barArrive c (.entry ix)) s = .next ((s.arriveAt c.id ix.toNat).1.emit
        (.portGen c.id .ok (s.arriveAt c.id ix.toNat).2)) := by
    refine congrArg Host.Outcome.next (.trans (hfree.atPort_eq hcan ?_) hdo)
    rw [hdo]
    exact hfree.2.of_core_eq (fun n => by simp only [State.coreAt, State.emit_core, hcore]) hcask
  constructor
  · intro hmore
    obtain ⟨heq, hent⟩ := arriveAt_of_below hwf hents hroom hmore
    refine ⟨_, hacts (by rw [heq]; rfl) (by rw [heq]; rfl), (congrArg BarEntry.arr hent :), (congrArg BarEntry.gen hent :), ?_⟩
    rw [heq]
    rfl
  · intro hlast hearly hwait
    obtain ⟨hgen, hent, hcore, hcask, hout⟩ := arriveAt_of_last hwf hents hroom hmode hlast hearly hwait
    refine ⟨_, hacts hcore hcask, (congrArg BarEntry.gen hent :), (congrArg BarEntry.rgen hent :),
      (congrArg BarEntry.rstat hent :), (congrArg BarEntry.arr hent :), ?_⟩
    rw [hgen]
    exact congrArg (· ++ _) hout

/-! ### Waiting -/

theorem bit_toNat {n : Nat} (v : BitVec n) (i : Nat) : bit v.toNat i = v.getLsbD i := by
  rw [BitVec.getLsbD, Nat.testBit_eq_decide_div_mod_eq]
  rfl

/-- A bit just set reads 1. -/
theorem bit_setBits_one {n i : Nat} (v : BitVec n) (hi : i < n) : bit (setBits v i 1 1).toNat i = true := by
  rw [bit_toNat]
  simp [setBits, hi]

theorem succ_ne_of_lt {a b : Byte} (h : a.toNat + 1 < b.toNat) : a + 1 ≠ b := by bv_omega

theorem succ_ne_add_two (g : Byte) : g + 1 ≠ g + 2 := by bv_omega

/-- BAR_WAIT on the open generation waits (R118). -/
theorem State.waitAt_open {s : State} {c : CoreRef} {ix g : Byte} (hexp : (entOf s c ix).exp ≠ 0)
    (hg : g = (entOf s c ix).rgen + 1) :
    let e := entOf s c ix
    s.waitAt c.id ix.toNat g true = (s.updCsn c.cl.id (fun x => x.setEnt ix.toNat
      { e with waitm := setBits e.waitm c.ix.val 1 1 })).updCore c.id
        (fun x => { x with bwait := some (ix.toNat, g) }) := by
  dsimp only [State.waitAt]
  rw [clusterOf_coreRef, coreRef_mod]
  exact (if_neg (fun h => hexp h.2)).trans ((if_pos hg).trans (if_pos rfl))

theorem State.waitAt_open_effect {s : State} {c : CoreRef} {ix g : Byte} (hwf : s.wf = true)
    (hents : twf BarEntry.init (s.csnAt c.cl.id).ents = true) (hexp : (entOf s c ix).exp ≠ 0)
    (hg : g = (entOf s c ix).rgen + 1) :
    let e := entOf s c ix
    let t := s.waitAt c.id ix.toNat g true
    entOf t c ix = { e with waitm := setBits e.waitm c.ix.val 1 1 } ∧ (t.coreAt c.id).bwait = some (ix.toNat, g) ∧
      t.out = s.out ∧ (Calm s c.cl.id → Calm t c.cl.id) := by
  intro e t
  have hwait : t = _ := State.waitAt_open hexp hg
  rw [hwait]
  refine ⟨entAt_updCsn_setEnt (i := ix.toNat) (g := fun _ => { e with waitm := setBits e.waitm c.ix.val 1 1 }) hwf hents rfl,
    ?_, rfl, fun h => ?_⟩
  · rw [State.coreAt_updCore_same (State.wf_updCsn hwf)]
  · exact Calm.updCore h (State.wf_updCsn hwf) rfl

/-- A BAR_WAIT that names no generation beyond the next acts at once (R118, R119). -/
theorem State.canWait_of_ne {s : State} {c : CoreRef} {ix g : Byte} (hfree : (s.coreAt c.id).bwait = none)
    (hg : g ≠ (entOf s c ix).rgen + 2) : s.canWait c.id ix.toNat g = true := by
  dsimp only [State.canWait]
  rw [clusterOf_coreRef, hfree]
  change (true && (_ || g != (entOf s c ix).rgen + 2)) = true
  rw [bne_iff_ne.mpr hg, Bool.or_true, Bool.true_and]

section Waits

variable {s : State} {c : CoreRef} {ix : Byte} (hfree : PortFree s c) (hmode : (entOf s c ix).mode = 1)
include hfree hmode

/-- A BAR_WAIT that can act and leaves the ports alone. -/
theorem PortFree.exec_barWait {g : Byte} {w : Bool} (hcan : s.canWait c.id ix.toNat g = true)
    (hcalm : Calm (s.waitAt c.id ix.toNat g w) c.cl.id) :
    exec (.barWait c (.entry ix) g w) s = .next (s.waitAt c.id ix.toNat g w) := by
  have hnames : (s.csnAt (clusterOf c.id)).namesOk (.entry ix) = some ix.toNat := by
    rw [clusterOf_coreRef]
    exact Csn.namesOk_of_mode hmode
  have hdo : s.doOp c.id (.wait (.entry ix) g w) = s.waitAt c.id ix.toNat g w := by simp only [State.doOp, hnames]
  exact congrArg Host.Outcome.next (.trans (hfree.atPort_eq (by simp only [State.canDo, hnames, hcan]) (by rwa [hdo])) hdo)

end Waits

/-- Settles O12: waits given, held and ended, an arrival that waits, and the entry's word. -/
theorem barrierWaits : Obligations.BarrierWaits := by
  intro s c ix g w hwf hents hfree e hmode hexp hbwait
  have hcan : s.canWait c.id ix.toNat (e.rgen + 1) = true := State.canWait_of_ne hbwait (succ_ne_add_two _)
  refine ⟨fun hg1 hg2 => ?_, ?_, ?_, fun hbelow hgen hown => ?_, ?_⟩
  · have hwait : s.waitAt c.id ix.toNat g w = s.emit (.portBar c.id e.rstat e.rgen e.res) := by
      dsimp only [State.waitAt]
      rw [clusterOf_coreRef]
      exact (if_neg (fun h => hexp h.2)).trans (if_neg hg1)
    rw [hfree.exec_barWait hmode (State.canWait_of_ne hbwait hg2) (by rw [hwait]; exact hfree.2), hwait]
  · have hwait : s.waitAt c.id ix.toNat (e.rgen + 1) false = s.emit (.portBar c.id .timeout e.rgen 0) := by
      dsimp only [State.waitAt]
      rw [clusterOf_coreRef]
      exact (if_neg (fun h => hexp h.2)).trans ((if_pos rfl).trans (if_neg Bool.false_ne_true))
    rw [hfree.exec_barWait hmode hcan (by rw [hwait]; exact hfree.2), hwait]
  · obtain ⟨hent, hcore, hout, hcalm⟩ := State.waitAt_open_effect hwf hents hexp rfl
    refine ⟨_, hfree.exec_barWait hmode hcan (hcalm hfree.2), hcore, ?_, hout⟩
    rw [hent]
    exact bit_setBits_one _ c.ix.isLt
  · obtain ⟨heq, hent⟩ := arriveAt_of_below hwf hents (Nat.lt_of_succ_lt hbelow) (succ_ne_of_lt hbelow)
    have hnames : (s.csnAt (clusterOf c.id)).namesOk (.entry ix) = some ix.toNat := by
      rw [clusterOf_coreRef]
      exact Csn.namesOk_of_mode hmode
    have hcore : (s.arriveAt c.id ix.toNat).1.core = s.core := by rw [heq]; rfl
    have hrgen : e.gen = (entOf (s.arriveAt c.id ix.toNat).1 c ix).rgen + 1 := by rw [hent]; exact hgen
    have hgoes : (s.arriveAt c.id ix.toNat).1.canWait c.id ix.toNat e.gen = true :=
      State.canWait_of_ne (by rw [State.coreAt, hcore]; exact hbwait) (by rw [hrgen]; exact succ_ne_add_two _)
    have hdo : s.doOp c.id (.sync (.entry ix)) = (s.arriveAt c.id ix.toNat).1.waitAt c.id ix.toNat e.gen true := by
      simp only [State.doOp, hnames]
      rw [show (s.arriveAt c.id ix.toNat).2 = e.gen by rw [heq]]
      exact if_pos hgoes
    have hcan : s.canDo c.id (.sync (.entry ix)) = true := by
      simp only [State.canDo, hnames, hbwait]
      exact State.canArrive_of_room hmode (Nat.lt_of_succ_lt hbelow) hown
    obtain ⟨hent', hbw, hout, hcalm⟩ := State.waitAt_open_effect (s := (s.arriveAt c.id ix.toNat).1) (c := c)
      (by rw [heq]; exact State.wf_updCsn hwf)
      (by rw [heq, State.csnAt_updCsn_same hwf]; exact Csn.twf_setEnt hents) (by rw [hent]; exact hexp) hrgen
    rw [← hdo] at hent' hbw hout hcalm
    refine ⟨_, congrArg Host.Outcome.next (hfree.atPort_eq hcan (hcalm ?_)), ?_, hbw, ?_⟩
    · exact hfree.2.of_core_eq (fun n => by simp only [State.coreAt, hcore]) (by rw [heq]; rfl)
    · rw [hent', hent]
    · rw [hout, heq]
      rfl
  · simp only [exec, execBarRead, hfree.1]
    rfl

end Sys2Proof.Machine
end

section
/-! PROOF of O13, O14, O48 and O49: fences, invalidations, what a core reads and writes at its port, the traffic with cluster
memory. -/

namespace Sys2Proof.Machine

open Sys2Proof

/-! ### Fences (R282, R283) -/

theorem execSyncFence_eq {s : State} {c : CoreRef} {scope : BitVec 2} {w i : Bool} (hopen : portOpen (s.coreAt c.id) = true) :
    exec (.syncFence c scope w i) s = .next (
      if scope = 3 then s.drawn.emit (.fenceDone c.id (if s.peek % 2 = 0 then .ok else .spanLost))
      else if !w && !i then s.emit (.fenceDone c.id .ok)
      else
        let s := s.updCore c.id (fun x => { x with fence := some ⟨scope, w, i, i⟩ })
        if i then s.emit (.cinvReq c.id) else s) :=
  congrArg Host.Outcome.next (if_pos hopen)

theorem execFenceComplete_of_fence {s : State} {c : CoreRef} {lost : Bool} {f : Fence} (h : (s.coreAt c.id).fence = some f) :
    exec (.fenceComplete c lost) s = .next (
      if fenceReady (s.coreAt c.id) f then (s.updCore c.id (fun x => { x with fence := none })).emit (.fenceDone c.id .ok)
      else if lost && f.w && f.scope == 2 && (s.coreAt c.id).spnCut && !f.inv then
        (s.updCore c.id (fun x => { x with fence := none })).emit (.fenceDone c.id .spanLost)
      else s) := by
  change execFenceComplete c lost s = _
  simp only [execFenceComplete, h]

/-- A fence that waits for nothing more: its stores and the core's requests are complete (R282). -/
theorem fenceReady_of_done {x : Core} {f : Fence} (hinv : f.inv = false)
    (hdone : f.w = true → storesDone x f.scope.toNat = true ∧ ∀ q ∈ x.reqs, q.silent = true ∨ q.own = true) :
    fenceReady x f = true := by
  unfold fenceReady
  rw [hinv]
  cases hw : f.w with
  | false => rfl
  | true =>
    obtain ⟨hstores, hreqs⟩ := hdone hw
    have hall : x.reqs.all (fun r => r.silent || r.own) = true := by
      simpa [List.all_eq_true] using hreqs
    rw [hstores, hall]
    rfl

/-- A SPAN fence with stores to other wafers outstanding still waits. -/
theorem fenceReady_of_span_store {x : Core} {f : Fence} (hw : f.w = true) (hscope : f.scope = 2) (hspn : x.stSpn ≠ 0) :
    fenceReady x f = false := by
  have hstores : storesDone x 2 = false := by
    rw [storesDone, beq_eq_false_iff_ne.mpr hspn]
    exact Bool.and_false _
  unfold fenceReady
  rw [hw, hscope, show (2 : BitVec 2).toNat = 2 from rfl, hstores]
  rfl

/-- Settles O13: SYNC_FENCE and the ends of a fence. -/
theorem fences : Obligations.Fences := by
  intro s c scope w i f
  refine ⟨fun hopen hscope => ?_, fun hf hinv hdone => ?_, fun hf hinv hw hscope hcut hspn => ?_, fun hopen hscope => ?_⟩
  · refine ⟨?_, ?_, ?_⟩ <;> rw [execSyncFence_eq hopen, if_neg hscope]
    · rfl
    · rfl
    · cases w <;> rfl
  · rw [execFenceComplete_of_fence hf, fenceReady_of_done hinv hdone]
    rfl
  · rw [execFenceComplete_of_fence hf, fenceReady_of_span_store hw hscope hspn, hw, hscope, hcut, hinv]
    rfl
  · rw [execSyncFence_eq hopen, if_pos hscope]
    refine ⟨_, ?_, rfl⟩
    split <;> simp

/-! ### Invalidations (R280, R282, R286-R288) -/

theorem Core.reqOf_singleton {x : Core} {r : Req} (h : x.reqs = [r]) : x.reqOf r.tag = some r := by
  simp [Core.reqOf, h]

/-- With no request, nothing goes on. -/
theorem State.pushReqs_of_reqs_eq_nil {s : State} {n : Nat} (h : (s.coreAt n).reqs = []) : s.pushReqs n = s := by
  simp [State.pushReqs, h]

/-- With no request and nothing held, nothing goes on. -/
theorem State.goOn_eq {s : State} {n cl : Nat} (h : (s.coreAt n).reqs = []) (hcalm : Calm s cl) :
    (s.pushReqs n).settle cl = s := by rw [State.pushReqs_of_reqs_eq_nil h, State.settle_of_calm hcalm]

/-- A request that has left the CSN goes no further. -/
theorem State.pushReqs_of_sent {s : State} {n : Nat} {r : Req} (h : (s.coreAt n).reqs = [r]) (hsent : r.phase = .sent) :
    s.pushReqs n = s := by
  simp only [State.pushReqs, h, List.map_cons, List.map_nil, forAll_singleton, State.pushReq, Core.reqOf_singleton h, hsent]

/-- The acknowledgement that a core's fence waits for, where nothing else of its cluster waits for one. -/
theorem State.cinvAck_eq {s : State} {c : CoreRef} (hreqs : ∀ n ∈ s.coresOf c.cl.id, (s.coreAt n).reqs = [])
    (hinv : (s.csnAt c.cl.id).phaseInv = []) :
    s.cinvAck c.id = (s.updCore c.id (fun x => { x with fence := x.fence.map (fun f => { f with inv := false }) })).updCsn
      c.cl.id (fun x => { x with phaseInv := x.phaseInv.filter (fun n => n != c.id) }) := by
  dsimp only [State.cinvAck]
  rw [clusterOf_coreRef, forAll_eq_self (fun n hn => by simp [hreqs n hn])]
  exact if_neg (by simp [hinv])

/-- A request launched for its home hub: what the core then holds. -/
theorem State.reqs_launch {s : State} {n : Nat} {r : Req} (hwf : s.wf = true) (h : (s.coreAt n).reqs = [r]) :
    ((s.launch n r).coreAt n).reqs = [{ r with phase := .sent }] := by
  have hwf' : (s.sendKen n r.op r.args r.tag).wf = true := (State.sendKen_keeps (.refl s)).canon hwf
  have hcore : (s.sendKen n r.op r.args r.tag).coreAt n = s.coreAt n := by
    unfold State.sendKen
    dsimp only
    split <;> rfl
  rw [State.launch, State.coreAt_updCore_same hwf', hcore]
  simp [Core.setReq, h]

/-- INV_TIMEOUT of a core's one request, 50 microseconds after its invalidation was asked for (R286). -/
theorem State.invTimeout_eq {s : State} {c : CoreRef} {r : Req} {since : Nat} (hr : (s.coreAt c.id).reqs = [r])
    (hphase : r.phase = .inv since) (hsilent : r.silent = false) (hlate : since + 150000 ≤ s.now) :
    let u := (s.updCore c.id (fun x => x.dropReq r.tag)).report 0x12 (unitId .csn c.cl.id) 2 0 0 (s.fnOf c.cl.id)
    s.invTimeout (.core c r.tag) =
      ((u.emit (.portKen c.id (bareEnd c.cl.id false r.op .timeout (u.coreMaster c.id) r.tag))).pushReqs c.id).settle
        c.cl.id := by
  have hlate' : s.invLate since = true := decide_eq_true hlate
  simp only [State.invTimeout, Core.reqOf_singleton hr, hphase, hlate', if_true, hsilent, Bool.false_eq_true, if_false,
    clusterOf_coreRef]

/-- Settles O14: the acknowledgements of invalidations, and the end of one that never came. -/
theorem invalidations : Obligations.Invalidations := by
  intro s c f r since hwf
  refine ⟨fun hreqs hinv htodo hf => ?_, fun hr hphase hscope => ?_, fun hr hphase hsilent hlate hcalm => ?_⟩
  · refine ⟨s.cinvAck c.id, rfl, ?_, ?_, ?_⟩ <;> rw [State.cinvAck_eq hreqs hinv]
    · rw [State.updCsn_coreAt, State.coreAt_updCore_same hwf]
      simp [hf]
    · rfl
    · rfl
  · have hack : s.invAck (.core c r.tag) = s.launch c.id r := by
      simp only [State.invAck, Core.reqOf_singleton hr, hphase]
      exact State.pushReqs_of_sent (State.reqs_launch hwf hr) rfl
    refine ⟨s.launch c.id r, congrArg Host.Outcome.next hack, State.reqs_launch hwf hr, ?_⟩
    simp only [State.launch, State.updCore_net, State.sendKen, hscope, clusterOf_coreRef]
    rfl
  · have hdrop : ((s.coreAt c.id).dropReq r.tag).reqs = [] := by simp [Core.dropReq, hr]
    have hgone : ((s.updCore c.id (fun x => x.dropReq r.tag)).coreAt c.id).reqs = [] := by
      rw [State.coreAt_updCore_same hwf, hdrop]
    have htimeout := State.invTimeout_eq hr hphase hsilent hlate
    have hmaster : (s.updCore c.id (fun x => x.dropReq r.tag)).coreMaster c.id = s.coreMaster c.id := by
      simp only [State.coreMaster, State.coreAt_updCore_same hwf, Core.dropReq]
      rfl
    have hsettled := htimeout.trans (State.goOn_eq (by exact hgone)
      (by exact (Calm.updCore (k := c.id) (g := fun x => x.dropReq r.tag) hcalm hwf rfl).of_core_eq (fun _ => rfl) rfl))
    refine ⟨_, congrArg Host.Outcome.next hsettled, hgone, _, List.getLast?_concat, rfl, rfl, rfl, rfl, hmaster⟩

/-! ### What a core reads and writes at its port (R92, R171, R219) -/

theorem portReads : Says.PortReads := by
  intro s c entry hopen x
  refine ⟨congrArg Host.Outcome.next (if_pos hopen), congrArg Host.Outcome.next (if_pos hopen),
    congrArg Host.Outcome.next (if_pos hopen), fun hentry => ?_, fun hentry => ?_⟩
  · change execCoreDistRead c entry s = _
    rw [execCoreDistRead, hopen, if_neg (Nat.not_lt.mpr hentry)]
    rfl
  · refine ⟨BitVec.ofNat 64 s.peek, ?_⟩
    change execCoreDistRead c entry s = _
    rw [execCoreDistRead, hopen, if_pos hentry]
    rfl

theorem writeCause_eq (w v : Reg) : writeCause w v =
    (w &&& 0xFFFFF840#32) ||| (w &&& ~~~v &&& 0x0000003F#32) ||| (v &&& 0x00000780#32) := by
  have henables : BitVec.ofNat 32 (bits v.toNat 7 4) = (v >>> 7) &&& 0x0000000F#32 := by
    apply BitVec.eq_of_toNat_eq
    rw [BitVec.toNat_and, BitVec.toNat_ushiftRight, Nat.shiftRight_eq_div_pow]
    exact (Nat.mod_eq_of_lt (by unfold bits; omega)).trans (Nat.and_two_pow_sub_one_eq_mod _ 4).symm
  unfold writeCause setBits
  rw [henables]
  ext i hi
  interval_cases i <;> simp

theorem whistleCauseWrite : Says.WhistleCauseWrite := by
  intro s c v
  simp only [← writeCause_eq]
  rfl

theorem storeCounts : Says.StoreCounts := by
  intro s c a b d hcalm hwf hreqs
  refine congrArg Host.Outcome.next (State.goOn_eq ?_ ?_)
  · rw [State.coreAt_updCore_same hwf]
    exact hreqs
  · exact Calm.updCore (fun n hn => hcalm n (List.mem_cons_of_mem _ hn)) hwf rfl

/-- Settles O48: what a core reads and writes at its port. -/
theorem corePortRegisters : Obligations.CorePortRegisters := ⟨portReads, whistleCauseWrite, storeCounts⟩

/-! ### The traffic with cluster memory (R64, R211, R449) -/

theorem broadcastReads : Says.BroadcastReads := by
  intro s c cl addr bytes m
  refine ⟨fun h => ?_, fun h hline hsince hopn hlen => ?_, rfl, fun hreads h hline => ?_⟩
  · change execBroadcastRead c addr s = _
    simp [execBroadcastRead, h, State.updCsn]
  · have hjoins : mergeable m (addr.toNat / 64) s.now (s.hubAt (fieldOf c.cl.id)).op.toNat = true := by
      simp [mergeable, hline, hsince, hopn, hlen]
    change execBroadcastRead c addr s = _
    simp [execBroadcastRead, h, hjoins, State.updCsn]
  · change Host.Outcome.next (s.cmRsp cl.id addr.toNat bytes false) = _
    simp [State.cmRsp, hreads, h, hline, State.updCsn]

theorem residualsAndDroop : Says.ResidualsAndDroop := by
  intro s cl c zr zc hwf
  refine ⟨rfl, ⟨s.drawn.drawn.updCsn cl.id (fun x => x.abft zr zc (s.tolOf cl.id) (BitVec.ofNat 32 s.peek)
    (BitVec.ofNat 32 s.drawn.peek)), rfl, ?_⟩, rfl⟩
  beta_reduce
  rw [State.csnAt_updCsn_same (by exact hwf)]
  refine ⟨rfl, fun hz hrow => ?_, fun hz => ?_⟩
  · exact if_neg (by rw [hz, show f32Nan (s.drawn.drawn.csnAt cl.id).zrow = false from hrow]; decide)
  · simp [Csn.abft, hz]

/-- Settles O49: merged reads, residual records and droop events. -/
theorem clusterMemoryTraffic : Obligations.ClusterMemoryTraffic := ⟨broadcastReads, residualsAndDroop⟩

end Sys2Proof.Machine
end

section
/-! PROOF of O46: the end of a kennel request at its core (R49, R91, R103). -/

namespace Sys2Proof.Machine

open Sys2Proof

/-- At a CSN in service, an end under the core's epoch goes to its cause or to the request (R49). -/
theorem State.endAtCsn_eq {s : State} {c : CoreRef} {tep : Epoch} {cause : Option Cause} {e : KRsp}
    (hrst : (s.csnAt c.cl.id).rst = none) (htep : (s.coreAt c.id).epoch = tep)
    (hcause : cause = none ∨ cause = some .sem ∨ cause = some .lock) :
    s.endAtCsn c.id tep cause e = s.takeEnd c.id cause e := by
  unfold State.endAtCsn
  rw [clusterOf_coreRef, htep]
  dsimp only
  rw [if_neg (by simp [hrst]), if_neg (by simp)]
  rcases hcause with rfl | rfl | rfl <;> rfl

/-- A stale end is counted where a request waits for it, and a stale notice discarded (R49). -/
theorem State.endAtCsn_stale {s : State} {c : CoreRef} {cause : Cause} {tep : Epoch} {e : KRsp}
    (hrst : (s.csnAt c.cl.id).rst = none) (hstale : tep ≠ (s.coreAt c.id).epoch) :
    s.endAtCsn c.id tep (some cause) e =
      if cause = .lock ∨ cause = .sem then s.updCsn c.cl.id (fun x => { x with stale := x.stale + 1 }) else s := by
  unfold State.endAtCsn
  rw [clusterOf_coreRef]
  dsimp only
  rw [if_neg (by simp [hrst]), if_pos (bne_iff_ne.mpr hstale)]
  cases cause <;> rfl

/-- A core's request placed at its port: it is no longer the core's. -/
def State.placed (s : State) (c : CoreRef) (e : KRsp) : State :=
  (s.updCore c.id (fun x => x.dropReq e.tag)).emit (.portKen c.id e)

section Placed

variable {s : State} {c : CoreRef} {e : KRsp} {q : Req} (hwf : s.wf = true) (hq : (s.coreAt c.id).reqs = [q])
  (htag : q.tag = e.tag) (hcalm : Calm s c.cl.id)

include hwf in
theorem State.wf_placed : (s.placed c e).wf = true := by
  rw [State.placed, State.wf_emit]
  exact State.wf_updCore hwf

include hwf in
theorem State.coreAt_placed : (s.placed c e).coreAt c.id = (s.coreAt c.id).dropReq e.tag := by
  change (s.updCore c.id (fun x => x.dropReq e.tag)).coreAt c.id = _
  rw [State.coreAt_updCore_same hwf]

include hwf hq htag in
theorem State.reqs_placed : ((s.placed c e).coreAt c.id).reqs = [] := by
  rw [State.coreAt_placed hwf]
  simp [Core.dropReq, hq, htag]

include hwf hcalm in
theorem Calm.placed : Calm (s.placed c e) c.cl.id := by
  have hdrop := Calm.updCore (k := c.id) (g := fun x => x.dropReq e.tag) hcalm hwf rfl
  exact hdrop.of_core_eq (fun _ => rfl) rfl

variable (hsilent : q.silent = false) (hown : q.own = false)
include hwf hq htag hsilent hown hcalm

/-- A KEN_RSP for a core's one request is placed at its port. -/
theorem State.takeEnd_none : s.takeEnd c.id none e = s.placed c e := by
  unfold State.takeEnd
  rw [← htag, Core.reqOf_singleton hq]
  dsimp only
  rw [if_neg (by simp), hown, hsilent, htag, clusterOf_coreRef]
  exact State.goOn_eq (s := s.placed c e) (State.reqs_placed hwf hq htag) (hcalm.placed hwf)

/-- A WHISTLE for a core's one request is placed too, with KTAG, KSTAT and its cause. -/
theorem State.takeEnd_some {k : Cause} (hgiven : abortedEnd q e = false) : s.takeEnd c.id (some k) e =
    (s.placed c e).updCore c.id (fun x => { x with wcr := setCause (setKtag x.wcr e.tag e.status) k }) := by
  unfold State.takeEnd
  rw [← htag, Core.reqOf_singleton hq]
  dsimp only
  rw [if_neg (by simp [hgiven]), hown, hsilent, htag, clusterOf_coreRef]
  have hcalm' := Calm.updCore (k := c.id) (g := fun x => { x with wcr := setCause (setKtag x.wcr e.tag e.status) k })
    (hcalm.placed (e := e) hwf) (State.wf_placed hwf) rfl
  refine State.goOn_eq (s := (s.placed c e).updCore c.id
    (fun x => { x with wcr := setCause (setKtag x.wcr e.tag e.status) k })) ?_ hcalm'
  rw [State.coreAt_updCore_same (State.wf_placed hwf)]
  exact State.reqs_placed hwf hq htag

end Placed

/-- A KEN_RSP for a core of this wafer goes to its CSN (R50). -/
theorem State.kenRsp_eq {s : State} {c : CoreRef} {tep : Epoch} {r : KRsp}
    (hmaster : Master.core (s.newMaster r.master) = c.id) (hwafer : Master.wafer (s.newMaster r.master) = s.span.wid.toNat)
    (hfn : Master.isFn (s.newMaster r.master) = false) :
    s.kenRsp tep r =
      (s.taken (.kenRsp tep r)).endAtCsn c.id tep none { r with master := s.newMaster r.master } := by
  have hnew : (s.taken (.kenRsp tep r)).newMaster r.master = s.newMaster r.master := rfl
  have hwid : (s.taken (.kenRsp tep r)).span = s.span := rfl
  unfold State.kenRsp
  dsimp only
  rw [hnew, hwid, hmaster, if_neg (by simp [hwafer]), if_neg (by simp [hfn])]

theorem kennelResultReachesCore : Says.KennelResultReachesCore := by
  intro s c r q e hwf hrst hq htag hsilent hown hcalm hmaster hwafer hfn
  generalize htep : (s.coreAt c.id).epoch = tep
  refine ⟨fun hgoes => ?_, fun hgoes haborted hlost => ?_⟩
  · have hexec : exec (.kenRsp tep r) s = .next (s.kenRsp tep r) := congrArg Host.Outcome.next (if_neg (by simp [hgoes]))
    have hplaced : s.kenRsp tep r = (s.taken (.kenRsp tep r)).placed c e := by
      rw [State.kenRsp_eq hmaster hwafer hfn, State.endAtCsn_eq (by exact hrst) (by exact htep) (.inl rfl)]
      exact State.takeEnd_none (s := s.taken (.kenRsp tep r)) (e := e) hwf hq htag hcalm hsilent hown
    refine ⟨_, hexec.trans (congrArg _ hplaced), rfl, State.reqs_placed (s := s.taken (.kenRsp tep r)) (e := e) hwf hq htag, ?_⟩
    rw [State.coreAt_placed (by exact hwf)]
    rfl
  · have hexec : exec (.whistle c tep .sem r) s =
        .next ((s.taken (.whistle c.id tep .sem r)).endAtCsn c.id tep (some .sem) r) :=
      congrArg Host.Outcome.next (if_neg (by simp [hgoes]))
    have hwf' := State.wf_placed (s := s.taken (.whistle c.id tep .sem r)) (c := c) (e := r) hwf
    have htake := State.takeEnd_some (s := s.taken (.whistle c.id tep .sem r)) (k := .sem) (e := r)
      hwf hq htag hcalm hsilent hown (by simp [abortedEnd, haborted, hlost])
    rw [State.endAtCsn_eq (by exact hrst) (by exact htep) (.inr (.inl rfl)), htake] at hexec
    refine ⟨_, hexec, rfl, ?_, ?_⟩
    · rw [State.coreAt_updCore_same hwf']
      exact State.reqs_placed (s := s.taken (.whistle c.id tep .sem r)) (e := r) hwf hq htag
    · rw [State.coreAt_updCore_same hwf', State.coreAt_placed (by exact hwf)]
      rfl

theorem staleReplyIsCounted : Says.StaleReplyIsCounted := by
  intro s c tep cause r hrst hstale hgoes
  have hexec : exec (.whistle c tep cause r) s =
      .next ((s.taken (.whistle c.id tep cause r)).endAtCsn c.id tep (some cause) r) :=
    congrArg Host.Outcome.next (if_neg (by simp [hgoes]))
  have hstale' := State.endAtCsn_stale (s := s.taken (.whistle c.id tep cause r)) (c := c) (cause := cause) (e := r)
    hrst hstale
  refine ⟨fun h => ?_, fun hlock hsem => ?_⟩
  · rw [hexec, hstale', if_pos h]
  · rw [hexec, hstale', if_neg (by simp [hlock, hsem])]

/-- Settles O46: the end of a core's request at its port, and a stale one. -/
theorem kennelReplies : Obligations.KennelReplies := ⟨kennelResultReachesCore, staleReplyIsCounted⟩

end Sys2Proof.Machine
end

section
/-! REFUTATION of O45 (R79, R100). Its first clause speaks of every state, also of one whose tables are not canonical. -/

namespace Sys2Proof.Machine

open Sys2Proof

/-- Core 0 listed twice: as it is after reset, and behind that with a store of its own outstanding. -/
def twiceListed : State := { State.reset with core := [(0, Core.init), (0, { Core.init with stOwn := 1 })] }

def coreZero : CoreRef := ⟨⟨0, 0⟩, 0⟩

/-- The operands of a WITHDRAW of the word at INDEX 0. -/
def withdrawArgs : KArgs :=
  { scope := 0, pub := false, ret := false, cls := 0, index := 0, n := 0, m := 0, leash := 0, tmo := 0, wait := false,
    ahead := false, ctag := 0, a := 0, b := 0 }

/-- The WITHDRAW as the core holds it until its stores are complete. -/
def heldWithdraw (t : Tag) : Req :=
  { tag := t, op := .withdraw, args := withdrawArgs, phase := .stores, silent := false, back := false, own := false,
    wd := false, gone := false }

/-- What the issue leaves: the second listing, with the request. -/
def withdrawHeld (t : Tag) : State :=
  { twiceListed.drawn.emit (.portTag 0 t) with core := [(0, { Core.init with stOwn := 1, reqs := [heldWithdraw t] })] }

theorem coreAt_withdrawHeld (t : Tag) (n : Nat) : (withdrawHeld t).coreAt n =
    if 0 = n then { Core.init with stOwn := 1, reqs := [heldWithdraw t] } else Core.init := rfl

theorem calm_withdrawHeld (t : Tag) : Calm (withdrawHeld t) 0 := by
  intro n _
  rw [coreAt_withdrawHeld]
  split_ifs <;> rfl

theorem portFree_twiceListed : PortFree twiceListed coreZero := by
  refine ⟨by decide, fun n _ => ?_⟩
  have hcore : twiceListed.coreAt n = Core.init := by
    simp only [State.coreAt, twiceListed, tget]
    split_ifs <;> rfl
  rw [hcore]
  rfl

/-- A request behind a store of the core's own does not leave the CSN (R284). -/
theorem pushReqs_withdrawHeld (t : Tag) : (withdrawHeld t).pushReqs 0 = withdrawHeld t := by
  have hreq : ((withdrawHeld t).coreAt 0).reqOf t = some (heldWithdraw t) := Core.reqOf_singleton (r := heldWithdraw t) rfl
  change (withdrawHeld t).pushReq 0 t = _
  unfold State.pushReq
  dsimp only
  rw [hreq]
  rfl

/-- The mark that a WITHDRAW leaves on the request it names drops the first listing, and the second one's store holds the
request back. -/
theorem withdraw_twiceListed : exec (.kenIssue coreZero 0x1E withdrawArgs) twiceListed =
    .next (withdrawHeld (twiceListed.pickTag 0)) := by
  have hissue : twiceListed.issueKen 0 .withdraw withdrawArgs = (withdrawHeld (twiceListed.pickTag 0)).pushReqs 0 := rfl
  have hdo : twiceListed.doOp 0 (.ken .withdraw withdrawArgs) = withdrawHeld (twiceListed.pickTag 0) :=
    hissue.trans (pushReqs_withdrawHeld _)
  have hat : twiceListed.atPort coreZero.id (.ken .withdraw withdrawArgs) = withdrawHeld (twiceListed.pickTag 0) :=
    (portFree_twiceListed.atPort_eq rfl (by rw [show coreZero.id = 0 from rfl, hdo]; exact calm_withdrawHeld _)).trans hdo
  exact congrArg Host.Outcome.next hat

/-- Refutes O45: the first listing of a core hides a second one with a store outstanding. -/
theorem not_kennelRequests : ¬ Obligations.KennelRequests := by
  intro ⟨hissue, _, _⟩
  obtain ⟨t, hexec, tag, _, hnet⟩ := hissue twiceListed coreZero 0x1E .withdraw withdrawArgs rfl (.inl rfl) (by decide)
    (by decide) (by decide) rfl portFree_twiceListed rfl rfl
  cases hexec.symm.trans withdraw_twiceListed
  exact List.cons_ne_nil _ _ hnet.symm

end Sys2Proof.Machine
end

section
/-! PROOF of O15 (R117, R121): a leg of a barrier without a payload counts its arrivals, and the last one sends its ARRIVE. -/

namespace Sys2Proof.Machine

open Sys2Proof

/-- The ARRIVE of a leg of a plain barrier (R121): nothing is read from the window, nothing snapshotted. -/
theorem State.legDone_plain {s : State} {cl i : Nat} (hrole : (s.precAt ((s.csnAt cl).entAt i).bar.toNat).role ≠ 1)
    (hlanes : pdLanes (s.precAt ((s.csnAt cl).entAt i).bar.toNat).payload = 0) :
    s.legDone cl i = s.sendArrive cl i ((s.csnAt cl).entAt i).gen [] false .none := by
  dsimp only [State.legDone]
  rw [if_neg hrole, if_neg hrole, if_pos hlanes]

/-- The ARRIVE that a leg sends once an arrival is counted at its CSN. -/
theorem State.sendArrive_net {s : State} {cl i : Nat} {e' : BarEntry} {g : Byte} {body : List Byte} {v : CsnVerdict}
    (hwf : s.wf = true) :
    let t := s.updCsn cl (fun x => x.setEnt i e')
    let e := (t.csnAt cl).entAt i
    (t.sendArrive cl i g body false v).net = s.net ++ [.arrive (legHub cl e) (s.epTab cl (legHub cl e))
      ⟨cl, e.proxy, e.bar, g, (s.csnAt cl).pepoch, e.psn, body, v⟩] := by
  intro t e
  have hcsn : t.csnAt cl = (s.csnAt cl).setEnt i e' := State.csnAt_updCsn_same hwf
  have hepoch : (t.csnAt cl).pepoch = (s.csnAt cl).pepoch := by rw [hcsn]; rfl
  have htab (h : Nat) : t.epTab cl h = s.epTab cl h := by rw [State.epTab, hcsn]; rfl
  dsimp only [State.sendArrive]
  rw [hepoch, htab]
  rfl

section Leg

variable {s : State} {c : CoreRef} {b : BarIx} {ix : Nat} (hent : (s.csnAt c.cl.id).findEnt (.handle b) = some ix)
  (hmode : ((s.csnAt c.cl.id).entAt ix).mode = 2) (hbar : ((s.csnAt c.cl.id).entAt ix).bar = b)
  (hroom : ((s.csnAt c.cl.id).entAt ix).arr.toNat < ((s.csnAt c.cl.id).entAt ix).exp.toNat)

include hmode hbar hroom in
/-- An arrival is counted at a leg with room once the core's stores in the leg's scope are complete (R140). -/
theorem State.canArrive_leg (hstored : storesDone (s.coreAt c.id) (s.precAt b.toNat).scope.toNat = true) :
    s.canArrive c.id ix = true := by
  dsimp only [State.canArrive]
  rw [clusterOf_coreRef, if_pos hmode, hbar, hstored, decide_eq_true hroom]
  simp

include hent in
/-- An arrival at a leg that can be counted, and leaves the ports of the cluster alone. -/
theorem PortFree.exec_barArrive_leg (hfree : PortFree s c) (hcan : s.canArrive c.id ix = true)
    (hcore : (s.arriveAt c.id ix).1.core = s.core) (hcask : (s.arriveAt c.id ix).1.cask = s.cask) :
    exec (.barArrive c (.handle b)) s =
      .next ((s.arriveAt c.id ix).1.emit (.portGen c.id .ok (s.arriveAt c.id ix).2)) := by
  have hnames : (s.csnAt (clusterOf c.id)).namesOk (.handle b) = some ix := by
    rw [clusterOf_coreRef]
    exact hent
  have hdo : s.doOp c.id (.arrive (.handle b)) =
      (s.arriveAt c.id ix).1.emit (.portGen c.id .ok (s.arriveAt c.id ix).2) := by simp only [State.doOp, hnames]
  refine congrArg Host.Outcome.next (.trans (hfree.atPort_eq ?_ ?_) hdo)
  · simp only [State.canDo, hnames, hcan]
  · rw [hdo]
    exact hfree.2.of_core_eq (fun n => by simp only [State.coreAt, State.emit_core, hcore]) hcask

include hmode hroom in
/-- One arrival at a leg: counted, and where it is the last the leg is done (R117). -/
theorem State.arriveAt_leg :
    let e := (s.csnAt c.cl.id).entAt ix
    let t := s.updCsn c.cl.id (fun x => x.setEnt ix { e with arr := e.arr + 1 })
    s.arriveAt c.id ix = (if e.arr + 1 = e.exp then t.legDone c.cl.id ix else t, e.gen) := by
  have hexp : ¬ ((s.csnAt c.cl.id).entAt ix).exp = 0 := by
    intro h
    rw [h] at hroom
    exact Nat.not_lt_zero _ hroom
  have hmode' : ¬ ((s.csnAt c.cl.id).entAt ix).mode = 1 := by rw [hmode]; decide
  dsimp only [State.arriveAt]
  rw [clusterOf_coreRef, if_neg hexp, if_pos hroom, if_neg hmode']
  split_ifs <;> rfl

end Leg

/-- Settles O15: arrivals at a leg named by its handle. -/
theorem legArrivals : Obligations.LegArrivals := by
  intro s c b x
  refine ⟨fun hnone hfree => ?_, fun ix e hent he hwf hents hmode hbar hproxy hroom hfree hstored hrole hlanes => ?_⟩
  · have hnames : (s.csnAt (clusterOf c.id)).namesOk (.handle b) = none := by
      rw [clusterOf_coreRef]
      exact hnone
    refine ⟨⟨_, congrArg _ (hfree.atPort_anyEnd (by simp only [State.canDo, hnames]) (by simp only [State.doOp, hnames]))⟩,
      ⟨s.anyStatus, ?_⟩⟩
    change execBarRead c (.handle b) s = _
    simp only [execBarRead, hfree.1, show (s.csnAt c.cl.id).findEnt (.handle b) = none from hnone]
    rfl
  · subst he
    have hcan := State.canArrive_leg hmode hbar hroom hstored
    have hexec := PortFree.exec_barArrive_leg hent hfree hcan
    rw [State.arriveAt_leg hmode hroom] at hexec
    have hcount := entAt_updCsn_setEnt (i := ix) (g := fun _ => { x.entAt ix with arr := (x.entAt ix).arr + 1 }) hwf hents rfl
    refine ⟨fun hmore => ?_, fun hlast => ?_⟩
    · rw [if_neg hmore] at hexec
      exact ⟨_, hexec rfl rfl, (congrArg BarEntry.arr hcount :), rfl, rfl⟩
    · rw [if_pos hlast, State.legDone_plain (by rw [hcount, hbar]; exact hrole) (by rw [hcount, hbar]; exact hlanes)] at hexec
      refine ⟨_, hexec rfl rfl, (congrArg BarEntry.arr hcount).trans hlast, rfl, ?_⟩
      rw [State.emit_net, State.sendArrive_net hwf, hcount, hbar, legHub, hproxy]
      rfl

end Sys2Proof.Machine
end

section
/-! PROOF of O16 and O51 (R111, R112, R121, R145, R147): what a field's hub and the root gather. -/

namespace Sys2Proof.Machine

open Sys2Proof

theorem Completes.of_exec {c : Instr} {s t : State} {P : State → Prop} (h : exec c s = .next t) (hp : P t) : Completes c s P :=
  ⟨t, h, hp⟩

/-! ### A hub's records -/

theorem State.wf_updFr {s : State} {h b : Nat} {g : FieldRec → FieldRec} (hwf : s.wf = true) : (s.updFr h b g).wf = true :=
  State.wf_updFrec hwf

theorem State.frecOf_updFr {s : State} {h b : Nat} {g : FieldRec → FieldRec} (hwf : s.wf = true) :
    (s.updFr h b g).frecOf h b = g (s.frecOf h b) := State.frecAt_updFrec_same hwf

@[simp] theorem State.updFr_hubAt {s : State} {h b k : Nat} {g : FieldRec → FieldRec} :
    (s.updFr h b g).hubAt k = s.hubAt k := rfl

/-- Disarming a timer touches its hub alone. -/
theorem State.disarm_frame {s : State} {h : Nat} {l : TimerLoc} {u : TimerOf} :
    (s.disarm h l u).frec = s.frec ∧ (s.disarm h l u).prec = s.prec ∧ (s.disarm h l u).net = s.net ∧
      (s.disarm h l u).mesh = s.mesh ∧ (s.disarm h l u).fn = s.fn := by
  cases l <;> exact ⟨rfl, rfl, rfl, rfl, rfl⟩

theorem State.wf_stopBarrier {s : State} {h b : Nat} (hwf : s.wf = true) : (s.stopBarrier h b).wf = true :=
  (State.stopBarrier_keeps (.refl s)).canon hwf

/-- Ending a hub's barrier timer touches the hub and the record's timer. -/
theorem State.stopBarrier_effect {s : State} {h b : Nat} (hwf : s.wf = true) :
    let t := s.stopBarrier h b
    t.frecOf h b = { s.frecOf h b with timer := .none } ∧ t.prec = s.prec ∧ t.net = s.net ∧ t.mesh = s.mesh ∧ t.fn = s.fn := by
  obtain ⟨hfrec, hprec, hnet, hmesh, hfn⟩ := State.disarm_frame (s := s) (h := h) (l := (s.frecOf h b).timer) (u := .barrier b)
  refine ⟨?_, hprec, hnet, hmesh, hfn⟩
  unfold State.stopBarrier
  rw [State.frecOf_updFr ((State.disarm_keeps (.refl s)).canon hwf), State.frecOf, State.frecAt, hfrec]
  rfl

/-- The ARRIVE that a field's record sends (R121). -/
def State.fieldMsg (s : State) (h b : Nat) (r : FieldRec) (why : Option Status) : Msg :=
  .fieldArrive h s.rootEpoch
    { bar := BitVec.ofNat 16 b, gen := r.gen, ncl := r.arr, nlost := r.lostGen, pepoch := s.barEpoch b,
      stat := why.getD (if r.psn then .poison else .ok), pois := r.psn, part := r.part, verd := r.ver }

theorem State.fieldMsg_congr {s t : State} {h b : Nat} {r : FieldRec} {why : Option Status} (hmesh : t.mesh = s.mesh)
    (hprec : t.prec = s.prec) (hfn : t.fn = s.fn) : t.fieldMsg h b r why = s.fieldMsg h b r why := by
  simp only [State.fieldMsg, State.rootEpoch, State.barEpoch, State.precAt, State.fnAt, hmesh, hprec, hfn]

/-- The field's ARRIVE is sent: the record is SENT (R112). -/
theorem State.sendField_effect {s : State} {h b : Nat} {why : Option Status} (hwf : s.wf = true) :
    let t := s.sendField h b why
    (t.frecOf h b).st = .sent ∧ t.net = s.net ++ [s.fieldMsg h b (s.frecOf h b) why] := by
  obtain ⟨hrec, hprec, hnet, hmesh, hfn⟩ := State.stopBarrier_effect (h := h) (b := b) hwf
  have hsent := State.frecOf_updFr (h := h) (b := b) (g := fun r => { r with st := .sent }) (State.wf_stopBarrier (h := h) (b := b) hwf)
  generalize hu : (s.stopBarrier h b).updFr h b (fun r => { r with st := .sent }) = u at hsent
  have huNet : u.net = s.net := by rw [← hu]; exact hnet
  have heq : s.sendField h b why = (u.updHub h (fun x =>
      { x with masks := tset 0 x.masks b ((s.stopBarrier h b).frecOf h b).ver.mask })).send
        ((u.updHub h (fun x => { x with masks := tset 0 x.masks b ((s.stopBarrier h b).frecOf h b).ver.mask })).fieldMsg h b
          ((s.stopBarrier h b).frecOf h b) why) := by
    rw [← hu]
    rfl
  intro t
  constructor
  · rw [show t = _ from heq]
    exact congrArg FieldRec.st hsent
  · rw [show t = _ from heq, State.fieldMsg_congr (s := s) (by rw [State.updHub_mesh, ← hu]; exact hmesh)
      (by rw [State.updHub_prec, ← hu]; exact hprec) (by rw [State.updHub_fn, ← hu]; exact hfn), hrec]
    change u.net ++ _ = _
    rw [huNet]
    rfl

/-- One contribution counted at a hub, before the field's ARRIVE (R117, R145). -/
def State.hubFold (s : State) (h : Nat) (a : CArrive) (r : FieldRec) : FieldRec :=
  let d := (s.precAt a.bar.toNat).payload
  { r with
    arr := r.arr + 1, psn := r.psn || a.pois
    ver := foldVerdict r.ver (localOf (s.standsFor h a)) a.verd (BitVec.ofNat 16 s.peek) (BitVec.ofNat 16 s.drawn.peek)
    part := if pdLanes d = 0 then r.part else foldPartial d r.part (leafPartial d a.body a.pois) }

theorem State.hubCount_eq {s : State} {h : Nat} {a : CArrive} (hwf : s.wf = true) :
    let r := s.frecOf h a.bar.toNat
    let t := s.drawn.drawn.updFr h a.bar.toNat (s.hubFold h a)
    s.hubCount h a = if r.exp ≤ r.arr + 1 then t.sendField h a.bar.toNat none else t := by
  have hrec : (s.drawn.drawn.updFr h a.bar.toNat (s.hubFold h a)).frecOf h a.bar.toNat =
      s.hubFold h a (s.frecOf h a.bar.toNat) := State.frecOf_updFr (s := s.drawn.drawn) hwf
  change (if ((s.drawn.drawn.updFr h a.bar.toNat (s.hubFold h a)).frecOf h a.bar.toNat).exp ≤
    ((s.drawn.drawn.updFr h a.bar.toNat (s.hubFold h a)).frecOf h a.bar.toNat).arr then _ else _) = _
  rw [hrec]
  rfl

/-- A contribution that leaves ARR below EXP. -/
theorem State.hubCount_below {s : State} {h : Nat} {a : CArrive} (hwf : s.wf = true)
    (hbelow : (s.frecOf h a.bar.toNat).arr + 1 < (s.frecOf h a.bar.toNat).exp) :
    s.hubCount h a = s.drawn.drawn.updFr h a.bar.toNat (s.hubFold h a) ∧
      (s.hubCount h a).frecOf h a.bar.toNat = s.hubFold h a (s.frecOf h a.bar.toNat) := by
  have heq := (State.hubCount_eq (h := h) (a := a) hwf).trans (if_neg (Nat.not_le.mpr hbelow))
  exact ⟨heq, heq ▸ State.frecOf_updFr (s := s.drawn.drawn) hwf⟩

section Hub

variable {s : State} {hub : Field} {tep : Epoch} {a : CArrive} (hmuz : (s.hubAt hub.val).muz = false)
  (hopen : (s.frecOf hub.val a.bar.toNat).st = .gather ∨ (s.frecOf hub.val a.bar.toNat).st = .armed)
  (hgen : a.gen = (s.frecOf hub.val a.bar.toNat).gen) (htep : tep = (s.hubAt hub.val).epoch)
  (hep : a.pepoch = s.barEpoch a.bar.toNat) (hgoes : s.stopped (.arrive hub.val tep a) = false)
include hmuz hopen hgen htep hep hgoes

/-- An ARRIVE that no check discards (R49, R124, R147). -/
theorem exec_arrive : exec (.arrive ⟨hub, false⟩ tep a) s = .next (
    let s1 := s.taken (.arrive hub.val tep a)
    if pdLanes (s.precAt a.bar.toNat).payload = 0 then s1.hubCount hub.val a
    else if (s.hubAt hub.val).folds.length < 64 then
      s1.updHub hub.val (fun x => { x with folds := x.folds ++ [⟨s.foldClass a.bar, a⟩] })
    else s) := by
  have hidle : ¬ ((s.frecOf hub.val a.bar.toNat).st = .idle ∨ a.gen ≠ (s.frecOf hub.val a.bar.toNat).gen ∨
      (!noFnBar a.bar.toNat ∧ a.pepoch ≠ s.barEpoch a.bar.toNat)) := by
    rcases hopen with h | h <;> simp [h, hgen, hep]
  have hsent : ¬ (s.frecOf hub.val a.bar.toNat).st = .sent := by rcases hopen with h | h <;> simp [h]
  refine congrArg Host.Outcome.next ((if_neg (by simp [hgoes])).trans ?_)
  dsimp only [State.arriveHub]
  rw [if_neg (by simp [hmuz, htep]), if_neg Bool.false_ne_true, if_neg hidle, if_neg hsent]

end Hub

/-- The one contribution in a hub's fold queue is folded (R145, R147). -/
theorem State.foldHub_singleton {s : State} {h k : Nat} {a : CArrive} {bad : Bool} (hfolds : (s.hubAt h).folds = [⟨k, a⟩])
    (hgen : a.gen = (s.frecOf h a.bar.toNat).gen)
    (hopen : (s.frecOf h a.bar.toNat).st = .gather ∨ (s.frecOf h a.bar.toNat).st = .armed) :
    s.foldHub h bad = (s.updHub h (fun x => { x with folds := [] })).hubCount h { a with pois := a.pois || bad } := by
  have hnext : nextFold (·.cls) [(⟨k, a⟩ : HubFold)] = some ⟨k, a⟩ := by
    unfold nextFold
    by_cases h0 : k = 0 <;> by_cases h1 : k = 1 <;> simp [h0, h1]
  have hqueue : (s.updHub h (fun x => { x with folds := x.folds.erase ⟨k, a⟩ })) =
      s.updHub h (fun x => { x with folds := [] }) := by simp [State.updHub, hfolds]
  unfold State.foldHub
  rw [hfolds, hnext]
  dsimp only
  rw [hqueue]
  exact if_pos ⟨hgen, hopen⟩

/-- Settles O16: arrivals at a hub, their folds, and the timeout. -/
theorem fieldGathering : Obligations.FieldGathering := by
  intro s hub tep a
  dsimp only
  intro hwf hmuz hopen hgen
  refine ⟨fun htep hep hgoes => ?_, fun k hfolds hbelow => ?_, fun i x harmed hbelow htimer hcmp huse hpassed => ?_⟩
  · have hexec := exec_arrive hmuz hopen hgen htep hep hgoes
    refine ⟨fun hlanes hbelow => ?_, fun hlanes hlast => ?_, fun hlanes hroom => ?_⟩
    · rw [if_pos hlanes] at hexec
      obtain ⟨heq, hrec⟩ := State.hubCount_below (s := s.taken (.arrive hub.val tep a)) hwf hbelow
      refine .of_exec hexec ?_
      rw [hrec, heq]
      exact ⟨rfl, rfl, rfl, rfl, rfl⟩
    · rw [if_pos hlanes, State.hubCount_eq (by exact hwf), if_pos (by exact hlast.ge)] at hexec
      obtain ⟨hsent, hnet⟩ := State.sendField_effect (h := hub.val) (b := a.bar.toNat) (why := none)
        (State.wf_updFr (h := hub.val) (b := a.bar.toNat) (g := (s.taken (.arrive hub.val tep a)).hubFold hub.val a)
          (s := (s.taken (.arrive hub.val tep a)).drawn.drawn) hwf)
      rw [State.frecOf_updFr (by exact hwf)] at hnet
      exact .of_exec hexec ⟨hsent, _, hnet, (by simp), rfl, rfl, rfl, rfl⟩
    · rw [hexec, if_neg hlanes, if_pos hroom]
  · have hfold := State.foldHub_singleton (bad := false) hfolds hgen hopen
    have hexec : exec (.mashFold (some hub) false) s = .next (s.foldHub hub.val false) :=
      congrArg Host.Outcome.next (if_neg (by simp [hfolds]))
    obtain ⟨heq, hrec⟩ := State.hubCount_below (s := s.updHub hub.val (fun x => { x with folds := [] }))
      (a := { a with pois := a.pois || false }) (h := hub.val) (State.wf_updHub hwf) hbelow
    rw [hfold] at hexec
    refine .of_exec hexec ⟨?_, ?_, ?_, ?_⟩
    · rw [heq, State.updFr_hubAt, State.drawn_hubAt, State.drawn_hubAt, State.hubAt_updHub_same hwf]
    · rw [hrec]
      rfl
    · rw [hrec]
      exact congrArg (_ || ·) (Bool.or_false a.pois)
    · rw [heq]
      rfl
  · have hlate : s.expireBarrier hub.val a.bar.toNat = s.sendField hub.val a.bar.toNat (some .timeout) := by
      simp only [State.expireBarrier, htimer, hcmp, huse, hpassed, harmed, hbelow]
      simp
    have hexec : exec (.barrierTimeout hub a.bar) s = .next _ := congrArg Host.Outcome.next hlate
    obtain ⟨hsent, hnet⟩ := State.sendField_effect (h := hub.val) (b := a.bar.toNat) (why := some .timeout) hwf
    exact .of_exec hexec ⟨hsent, _, hnet, (by simp), rfl, rfl, rfl⟩

/-! ### The root's records (R111) -/

/-- A partial that does not end its generation early (R121, R126). -/
def State.rootTaken (s : State) (h : Nat) (a : FArrive) (r : RootRec) : RootRec :=
  { r with
    farr := r.farr + 1, ncl := r.ncl + a.ncl, arrived := setBits r.arrived h 1 1
    wstat := worseOf r.wstat (if a.pois then worseOf a.stat .poison else a.stat), pois := r.pois || a.pois
    part := if pdLanes r.payload = 0 then r.part else foldPartial r.payload r.part a.part
    masks := tset 0 r.masks h a.verd.mask, zrow := zMax r.zrow a.verd.zrow (BitVec.ofNat 16 s.peek)
    zcol := zMax r.zcol a.verd.zcol (BitVec.ofNat 16 s.drawn.peek), firstAt := some (r.firstAt.getD s.now), lastAt := s.now }

theorem State.rootAdd_eq {s : State} {h : Nat} {a : FArrive} (htimeout : a.stat ≠ .timeout) (hfenced : a.stat ≠ .fenced) :
    s.rootAdd h a = s.drawn.drawn.updPrec a.bar.toNat (s.rootTaken h a) := by
  simp only [State.rootAdd, beq_eq_false_iff_ne.mpr htimeout, beq_eq_false_iff_ne.mpr hfenced, Bool.or_false]
  rfl

/-- A record that still waits for a field is left ARMED. -/
theorem State.rootSettle_of_waiting {s : State} {b : Nat} (hearly : (s.precAt b).early = false)
    (hmore : (s.precAt b).farr < (s.precAt b).fexp) : s.rootSettle b = s := by
  have hwaits : (s.precAt b).complete = false := by
    rw [RootRec.complete, hearly, beq_eq_false_iff_ne.mpr (by omega)]
    rfl
  exact if_neg (by simp [hwaits])

/-- A record that has every field is decided. -/
theorem State.rootSettle_of_complete {s : State} {b : Nat} (harmed : (s.precAt b).st = .armed)
    (hall : (s.precAt b).farr = (s.precAt b).fexp) : s.rootSettle b = s.toDeciding b :=
  if_pos ⟨harmed, by simp [RootRec.complete, hall]⟩

/-- With no partial of the barrier in the fold queue, a wafer's own record is DECIDING, and nothing is sent (R111, R158). -/
theorem State.toDeciding_wafer {s : State} {b : Nat} (hwf : s.wf = true) (hscope : (s.precAt b).scope ≠ 2)
    (hfolds : ∀ q ∈ s.rfolds, q.ofField b = false) :
    (s.toDeciding b).precAt b = { s.precAt b with st := .deciding } ∧ (s.toDeciding b).net = s.net := by
  have hnone : s.rfolds.filter (fun q => q.ofField b && s.foldLive q) = [] := by
    rw [List.filter_eq_nil_iff]
    intro q hq
    simp [hfolds q hq]
  have hsame : s.rfolds.filter (fun q => !q.ofField b) = s.rfolds := by
    rw [List.filter_eq_self]
    intro q hq
    simp [hfolds q hq]
  have hflush : s.flushFolds (RootFold.ofField b) = s := by
    rw [State.flushFolds, hnone, hsame]
    rfl
  have hrec := State.precAt_updPrec_same (k := b) (g := fun r => { r with st := .deciding }) hwf
  generalize hu : s.updPrec b (fun r => { r with st := .deciding }) = u at hrec
  have hkeep {c : Bool} {f : Nat} {g : Fn → Fn} : (if c then u.updFn f g else u).precAt b = u.precAt b := by cases c <;> rfl
  have hnet {c : Bool} {f : Nat} {g : Fn → Fn} : (if c then u.updFn f g else u).net = u.net := by cases c <;> rfl
  unfold State.toDeciding
  rw [hflush, hu]
  dsimp only
  rw [if_neg (by rw [hkeep, hrec]; exact hscope), hkeep, hnet, hrec, ← hu]
  exact ⟨rfl, rfl⟩

section Root

variable {s : State} {hub : Field} {a : FArrive} (hgoes : s.stopped (.fieldArrive hub.val s.rootEpoch a) = false)
include hgoes

theorem exec_fieldArrive (harmed : (s.precAt a.bar.toNat).st = .armed) (hgen : a.gen = (s.precAt a.bar.toNat).gen) (hep : a.pepoch = (s.precAt a.bar.toNat).pepoch)
    (hfirst : bit (s.precAt a.bar.toNat).arrived.toNat hub.val = false)
    (hfield : bit (s.precAt a.bar.toNat).mfs.toNat hub.val = true) :
    exec (.fieldArrive hub s.rootEpoch a) s = .next (
      let s1 := s.taken (.fieldArrive hub.val s.rootEpoch a)
      if pdLanes (s.precAt a.bar.toNat).payload = 0 then (s1.rootAdd hub.val a).rootSettle a.bar.toNat
      else if s.rfolds.length < 128 then { s1 with rfolds := s1.rfolds ++ [⟨s.foldClass a.bar, .field hub.val a⟩] }
      else s) := by
  refine congrArg Host.Outcome.next ((if_neg (by simp [hgoes])).trans ?_)
  dsimp only [State.arriveRoot]
  rw [if_neg (by simp), if_neg (by simp [harmed, hgen, hep]), if_neg (by simp [harmed, hfirst, hfield])]

theorem exec_fieldArrive_stale (hgen : a.gen ≠ (s.precAt a.bar.toNat).gen) :
    exec (.fieldArrive hub s.rootEpoch a) s =
      .next ((s.taken (.fieldArrive hub.val s.rootEpoch a)).countStaleBar a.bar.toNat) := by
  refine congrArg Host.Outcome.next ((if_neg (by simp [hgoes])).trans ?_)
  dsimp only [State.arriveRoot]
  rw [if_neg (by simp), if_pos (by simp [hgen])]

end Root

/-- The one partial in the root's fold queue is folded (R145, R147). -/
theorem State.foldRoot_singleton {s : State} {h k : Nat} {a : FArrive} {bad : Bool} (hfolds : s.rfolds = [⟨k, .field h a⟩])
    (hgen : a.gen = (s.precAt a.bar.toNat).gen)
    (hopen : (s.precAt a.bar.toNat).st = .gather ∨ (s.precAt a.bar.toNat).st = .armed) :
    s.foldRoot bad =
      (({ s with rfolds := [] } : State).rootAdd h { a with pois := a.pois || bad }).rootSettle a.bar.toNat := by
  have hnext : nextFold (·.cls) [(⟨k, .field h a⟩ : RootFold)] = some ⟨k, .field h a⟩ := by
    unfold nextFold
    by_cases h0 : k = 0 <;> by_cases h1 : k = 1 <;> simp [h0, h1]
  unfold State.foldRoot
  rw [hfolds, hnext]
  dsimp only
  rw [List.erase_cons_head, if_neg (by simp [State.foldLive, hgen, State.precAt])]
  exact if_pos hopen

theorem rootGathering : Says.RootGathering := by
  intro s hub a
  dsimp only
  intro hwf harmed hscope hearly htimeout hfenced hgoes
  refine ⟨fun hgen hep hfirst hfield => ?_, fun k hfolds hgen hmore => ?_, fun hfn hgen => ?_⟩
  · have hexec := exec_fieldArrive hgoes harmed hgen hep hfirst hfield
    refine ⟨fun hlanes hmore => ?_, fun hlanes hlast hnone => ?_, fun hlanes hroom => ?_⟩
    · rw [if_pos hlanes, State.rootAdd_eq htimeout hfenced] at hexec
      have hrec := State.precAt_updPrec_same (s := (s.taken (.fieldArrive hub.val s.rootEpoch a)).drawn.drawn)
        (k := a.bar.toNat) (g := (s.taken (.fieldArrive hub.val s.rootEpoch a)).rootTaken hub.val a) hwf
      rw [State.rootSettle_of_waiting (by rw [hrec]; exact hearly) (by rw [hrec]; exact hmore)] at hexec
      refine .of_exec hexec ?_
      rw [hrec]
      exact ⟨rfl, rfl, harmed, rfl⟩
    · rw [if_pos hlanes, State.rootAdd_eq htimeout hfenced] at hexec
      have hrec := State.precAt_updPrec_same (s := (s.taken (.fieldArrive hub.val s.rootEpoch a)).drawn.drawn)
        (k := a.bar.toNat) (g := (s.taken (.fieldArrive hub.val s.rootEpoch a)).rootTaken hub.val a) hwf
      have hwf' := State.wf_updPrec (s := (s.taken (.fieldArrive hub.val s.rootEpoch a)).drawn.drawn)
        (k := a.bar.toNat) (g := (s.taken (.fieldArrive hub.val s.rootEpoch a)).rootTaken hub.val a) hwf
      rw [State.rootSettle_of_complete (by rw [hrec]; exact harmed) (by rw [hrec]; exact hlast)] at hexec
      obtain ⟨hdec, hnet⟩ := State.toDeciding_wafer hwf' (by rw [hrec]; exact hscope) hnone
      refine .of_exec hexec ?_
      rw [hdec, hrec, hnet]
      exact ⟨rfl, rfl, rfl, rfl⟩
    · rw [hexec, if_neg hlanes, if_pos hroom]
      rfl
  · have hexec : exec (.mashFold none false) s = .next (s.foldRoot false) :=
      congrArg Host.Outcome.next (if_neg (by simp [hfolds]))
    have hrec := State.precAt_updPrec_same (s := ({ s with rfolds := [] } : State).drawn.drawn) (k := a.bar.toNat)
      (g := ({ s with rfolds := [] } : State).rootTaken hub.val { a with pois := a.pois || false }) hwf
    rw [State.foldRoot_singleton hfolds hgen (.inr harmed),
      State.rootAdd_eq (a := { a with pois := a.pois || false }) htimeout hfenced,
      State.rootSettle_of_waiting (by rw [hrec]; exact hearly) (by rw [hrec]; exact hmore)] at hexec
    refine .of_exec hexec ?_
    rw [hrec]
    exact ⟨rfl, rfl, rfl⟩
  · rw [exec_fieldArrive_stale hgoes hgen]
    refine congrArg Host.Outcome.next (if_neg ?_)
    simp [hfn, harmed]

/-! ### The release of a wafer's barrier (R110, R111) -/

section Release

variable {s : State} {b : Nat} (hstill : s.runOf (s.walkerOf b) = none)
include hstill

theorem State.latchFor_of_still {st : Status} {w : WinRes} : s.latchFor b st w = s := by
  simp only [State.latchFor, hstill, ite_self]

theorem State.skewFor_of_still : s.skewFor b = s := by simp only [State.skewFor, hstill, ite_self]

end Release

theorem State.walkRelease_of_still {s : State} {w b : Nat} {rel : Release} {c : CommitIn} (h : s.runOf w = none) :
    s.walkRelease w b rel c = s := by
  unfold State.walkRelease
  rw [h]

/-- One more release within the step, in a record whose other fields stand. -/
theorem State.seqMore_precAt {s : State} {b : Nat} (hwf : s.wf = true) :
    (s.seqMore b).precAt b = { s.precAt b with seq := s.srSeq b + 1, seqStep := s.srStep b } := State.precAt_updPrec_same hwf

/-- The next generation of a barrier that keeps a member, with no open held (R110, R111). -/
theorem State.nextGen_effect {s : State} {b : Nat} (hwf : s.wf = true) (hheld : (s.precAt b).held = false)
    (hmember : ∃ h ∈ mfsFields (s.precAt b).mfs, (s.frecOf h b).mem ≠ 0) :
    let p := s.precAt b
    let t := s.nextGen b
    (t.precAt b).gen = p.gen + 1 ∧ (t.precAt b).seq = p.seq ∧ (t.precAt b).farr = 0 ∧
      (t.precAt b).st = (if p.auto then .armed else .gather) ∧ t.net = s.net ∧ t.fn = s.fn ∧ t.kat = s.kat := by
  obtain ⟨h, hmem, hlive⟩ := hmember
  have hleft : (mfsFields (s.precAt b).mfs).filter (fun h => (s.frecOf h b).mem != 0) ≠ [] :=
    List.ne_nil_of_mem (List.mem_filter.mpr ⟨hmem, bne_iff_ne.mpr hlive⟩)
  dsimp only [State.nextGen]
  rw [if_neg hleft, hheld, if_neg (by simp), State.precAt_updPrec_same hwf]
  exact ⟨rfl, rfl, rfl, rfl, rfl, rfl, rfl⟩

theorem State.runOf_congr {s t : State} {w : Nat} (hfn : t.fn = s.fn) (hkat : t.kat = s.kat) : t.runOf w = s.runOf w := by
  simp only [State.runOf, State.fnAt, hfn, hkat]

/-- The release of a wafer-scope barrier (R111, R122). -/
def State.waferRelease (s : State) (b : Nat) : Release :=
  let p := s.precAt b
  { bar := BitVec.ofNat 16 b, gen := p.gen, nlost := p.nlost, stat := s.decideStatus b p.wstat (p.masks != []),
    pois := p.pois, res := s.winRes b p.payload p.part p.ncl p.pois }

/-- A barrier that belongs to no running step is released: the root's record is all that moves, and RELEASE goes to the hubs. -/
theorem State.releaseHere_of_still {s : State} {b : Nat} {rel : Release} {c : CommitIn} (hwf : s.wf = true)
    (hstill : s.runOf (s.walkerOf b) = none) (hheld : (s.precAt b).held = false)
    (hmember : ∃ h ∈ mfsFields (s.precAt b).mfs, (s.frecOf h b).mem ≠ 0) :
    let p := s.precAt b
    let t := s.releaseHere b rel c
    (t.precAt b).gen = p.gen + 1 ∧ (t.precAt b).seq = s.srSeq b + 1 ∧ (t.precAt b).farr = 0 ∧
      (t.precAt b).st = (if p.auto then .armed else .gather) ∧
      t.net = s.net ++ (mfsFields p.mfs).map (fun h => .release h p.pepoch rel) := by
  have hrec := State.seqMore_precAt (b := b) hwf
  have hwf' : (s.seqMore b).wf = true := (State.seqMore_keeps (.refl s)).canon hwf
  generalize hv : s.seqMore b = v at hrec hwf'
  generalize hu : v.sendAll ((mfsFields (v.precAt b).mfs).map (fun h => .release h (v.precAt b).pepoch rel)) = u
  have hurec : u.precAt b = v.precAt b := by rw [← hu, State.sendAll_precAt]
  have hfrec (h : Nat) : u.frecOf h b = s.frecOf h b := by rw [← hu, ← hv]; rfl
  have hgone : s.runOf (s.walkerOf b) = u.runOf (s.walkerOf b) :=
    (State.runOf_congr (by rw [← hu, ← hv]; rfl) (by rw [← hu, ← hv]; rfl)).symm
  obtain ⟨hgen, hseq, hfarr, hst, hnet, hfn, hkat⟩ := State.nextGen_effect (s := u) (b := b)
    (by rw [← hu, State.wf_sendAll]; exact hwf') (by rw [hurec, hrec]; exact hheld) (by simpa only [hurec, hrec, hfrec] using hmember)
  have hready : s.releaseHere b rel c = u.nextGen b := by
    unfold State.releaseHere
    rw [State.latchFor_of_still hstill, State.skewFor_of_still hstill, hv, State.walkRelease_of_still]
    · rw [← hu]
      rfl
    · rw [← hstill, hgone]
      refine State.runOf_congr ?_ ?_
      · rw [← hfn, ← hu]
        rfl
      · rw [← hkat, ← hu]
        rfl
  dsimp only
  rw [hready, hgen, hseq, hfarr, hst, hnet, hurec, ← hu, State.sendAll, hrec]
  refine ⟨rfl, rfl, rfl, rfl, ?_⟩
  rw [← hv]
  rfl

theorem rootReleases : Says.RootReleases := by
  intro s bar
  dsimp only
  intro hwf hscope hdec hloader hstill hheld hmember
  have hbar : ¬ bar.toNat = 65535 := fun h => hloader (BitVec.eq_of_toNat_eq h)
  have hexec : exec (.barrierResultReady bar) s = .next (s.waferReady bar.toNat) :=
    congrArg Host.Outcome.next ((if_neg hscope).trans ((if_pos hdec).trans (if_neg hbar)))
  obtain ⟨hgen, hseq, hfarr, hst, hnet⟩ := State.releaseHere_of_still (rel := s.waferRelease bar.toNat)
    (c := ⟨(s.precAt bar.toNat).masks, (s.precAt bar.toNat).masks != [], none⟩) hwf hstill hheld hmember
  refine .of_exec hexec ⟨hgen, hseq, hfarr, hst, _, ?_, rfl, rfl, rfl, fun hrole => ?_, hnet⟩
  · exact (BitVec.ofNat_toNat 16 bar).trans (BitVec.setWidth_eq bar)
  · exact if_neg (fun h => hrole h.1)

/-- Settles O51: arrivals, folds and the release at the root. -/
theorem rootBarriers : Obligations.RootBarriers := ⟨rootGathering, rootReleases⟩

end Sys2Proof.Machine
end

section
/-! SUPPORT. Canonical tables are determined by what they hold; writes of one unit follow each other. -/

namespace Sys2Proof.Machine

open Sys2Proof

section Table

variable {α : Type} {d : α}

theorem tget_head {k : Nat} {v : α} {t : Tbl α} : tget d ((k, v) :: t) k = v := if_pos rfl

theorem tget_tail {k l : Nat} {v : α} {t : Tbl α} (h : k ≠ l) : tget d ((k, v) :: t) l = tget d t l := if_neg h

variable [DecidableEq α]

/-- Two canonical tables that hold the same are the same. -/
theorem twf_ext : ∀ {t u : Tbl α}, twf d t = true → twf d u = true → (∀ k, tget d t k = tget d u k) → t = u
  | [], [], _, _, _ => rfl
  | [], (k, v) :: u, _, hu, h => by
    obtain ⟨hv, hk, -⟩ := twf_cons_iff.mp hu
    exact absurd ((h k).trans tget_head).symm hv
  | (k, v) :: t, [], ht, _, h => by
    obtain ⟨hv, hk, ht'⟩ := twf_cons_iff.mp ht
    exact absurd (tget_head.symm.trans (h k)) hv
  | (k, v) :: t, (l, w) :: u, ht, hu, h => by
    obtain ⟨hv, hk, ht'⟩ := twf_cons_iff.mp ht
    obtain ⟨hw, hl, hu'⟩ := twf_cons_iff.mp hu
    rcases lt_trichotomy k l with hlt | rfl | hlt
    · exact absurd (tget_head.symm.trans ((h k).trans (tget_above (hl.mono hlt.le |>.cons hlt)))) hv
    · have htails : ∀ m, tget d t m = tget d u m := by
        intro m
        rcases le_or_gt m k with hm | hm
        · rw [tget_above (hk.mono hm), tget_above (hl.mono hm)]
        · have := h m
          rwa [tget_tail hm.ne, tget_tail hm.ne] at this
      have hvw : v = w := tget_head.symm.trans ((h k).trans tget_head)
      rw [hvw, twf_ext ht' hu' htails]
    · exact absurd (tget_head.symm.trans ((h l).symm.trans (tget_above (hk.mono hlt.le |>.cons hlt)))) hw

/-- Writing what a canonical table holds leaves it as it is. -/
theorem tset_tget {t : Tbl α} {k : Nat} (h : twf d t = true) : tset d t k (tget d t k) = t := by
  refine twf_ext (tset_wf h) h fun l => ?_
  by_cases hl : l = k
  · rw [hl, tget_tset_same h]
  · exact tget_tset_other hl

/-- Of two writes of one key the second stands. -/
theorem tset_tset {t : Tbl α} {k : Nat} {v w : α} (h : twf d t = true) : tset d (tset d t k v) k w = tset d t k w := by
  refine twf_ext (tset_wf (tset_wf h)) (tset_wf h) fun l => ?_
  by_cases hl : l = k
  · rw [hl, tget_tset_same (tset_wf h), tget_tset_same h]
  · rw [tget_tset_other hl, tget_tset_other hl, tget_tset_other hl]

end Table

/-! ### Two writes of one unit, and a write that changes nothing -/

section Units

variable {s : State} {k : Nat} (hwf : s.wf = true)
include hwf

theorem State.twf_csn : twf Csn.init s.csn = true := by
  obtain ⟨hcsn, -, -, -, -, -, -, -, -, -⟩ := State.wf_iff.mp hwf
  exact hcsn

theorem State.updCsn_updCsn {g g' : Csn → Csn} : (s.updCsn k g).updCsn k g' = s.updCsn k (fun x => g' (g x)) := by
  have hread := State.csnAt_updCsn_same (k := k) (g := g) hwf
  change (s.updCsn k g).setCsn k (g' ((s.updCsn k g).csnAt k)) = _
  rw [hread]
  exact congrArg (fun t => ({ s with csn := t } : State)) (tset_tset (State.twf_csn hwf))

theorem State.updCsn_of_eq {g : Csn → Csn} (h : g (s.csnAt k) = s.csnAt k) : s.updCsn k g = s := by
  rw [State.updCsn, h]
  exact congrArg (fun t => ({ s with csn := t } : State)) (tset_tget (State.twf_csn hwf))

theorem State.twf_core : twf Core.init s.core = true := by
  obtain ⟨-, hcore, -, -, -, -, -, -, -, -⟩ := State.wf_iff.mp hwf
  exact hcore

theorem State.updCore_updCore {g g' : Core → Core} : (s.updCore k g).updCore k g' = s.updCore k (fun x => g' (g x)) := by
  have hread := State.coreAt_updCore_same (k := k) (g := g) hwf
  change (s.updCore k g).setCore k (g' ((s.updCore k g).coreAt k)) = _
  rw [hread]
  exact congrArg (fun t => ({ s with core := t } : State)) (tset_tset (State.twf_core hwf))

theorem State.updCore_of_eq {g : Core → Core} (h : g (s.coreAt k) = s.coreAt k) : s.updCore k g = s := by
  rw [State.updCore, h]
  exact congrArg (fun t => ({ s with core := t } : State)) (tset_tget (State.twf_core hwf))

theorem State.twf_hub : twf Hub.init s.hub = true := by
  obtain ⟨-, -, hhub, -, -, -, -, -, -, -⟩ := State.wf_iff.mp hwf
  exact hhub

theorem State.updHub_updHub {g g' : Hub → Hub} : (s.updHub k g).updHub k g' = s.updHub k (fun x => g' (g x)) := by
  have hread := State.hubAt_updHub_same (k := k) (g := g) hwf
  change (s.updHub k g).setHub k (g' ((s.updHub k g).hubAt k)) = _
  rw [hread]
  exact congrArg (fun t => ({ s with hub := t } : State)) (tset_tset (State.twf_hub hwf))

theorem State.updHub_of_eq {g : Hub → Hub} (h : g (s.hubAt k) = s.hubAt k) : s.updHub k g = s := by
  rw [State.updHub, h]
  exact congrArg (fun t => ({ s with hub := t } : State)) (tset_tget (State.twf_hub hwf))

theorem State.twf_ken : twf KEntry.init s.ken = true := by
  obtain ⟨-, -, -, hken, -, -, -, -, -, -⟩ := State.wf_iff.mp hwf
  exact hken

theorem State.updKen_updKen {g g' : KEntry → KEntry} : (s.updKen k g).updKen k g' = s.updKen k (fun x => g' (g x)) := by
  have hread := State.kenAt_updKen_same (k := k) (g := g) hwf
  change (s.updKen k g).setKen k (g' ((s.updKen k g).kenAt k)) = _
  rw [hread]
  exact congrArg (fun t => ({ s with ken := t } : State)) (tset_tset (State.twf_ken hwf))

theorem State.updKen_of_eq {g : KEntry → KEntry} (h : g (s.kenAt k) = s.kenAt k) : s.updKen k g = s := by
  rw [State.updKen, h]
  exact congrArg (fun t => ({ s with ken := t } : State)) (tset_tget (State.twf_ken hwf))

theorem State.twf_frec : twf FieldRec.init s.frec = true := by
  obtain ⟨-, -, -, -, hfrec, -, -, -, -, -⟩ := State.wf_iff.mp hwf
  exact hfrec

theorem State.updFrec_updFrec {g g' : FieldRec → FieldRec} : (s.updFrec k g).updFrec k g' = s.updFrec k (fun x => g' (g x)) := by
  have hread := State.frecAt_updFrec_same (k := k) (g := g) hwf
  change (s.updFrec k g).setFrec k (g' ((s.updFrec k g).frecAt k)) = _
  rw [hread]
  exact congrArg (fun t => ({ s with frec := t } : State)) (tset_tset (State.twf_frec hwf))

theorem State.updFrec_of_eq {g : FieldRec → FieldRec} (h : g (s.frecAt k) = s.frecAt k) : s.updFrec k g = s := by
  rw [State.updFrec, h]
  exact congrArg (fun t => ({ s with frec := t } : State)) (tset_tget (State.twf_frec hwf))

theorem State.twf_prec : twf RootRec.init s.prec = true := by
  obtain ⟨-, -, -, -, -, hprec, -, -, -, -⟩ := State.wf_iff.mp hwf
  exact hprec

theorem State.updPrec_updPrec {g g' : RootRec → RootRec} : (s.updPrec k g).updPrec k g' = s.updPrec k (fun x => g' (g x)) := by
  have hread := State.precAt_updPrec_same (k := k) (g := g) hwf
  change (s.updPrec k g).setPrec k (g' ((s.updPrec k g).precAt k)) = _
  rw [hread]
  exact congrArg (fun t => ({ s with prec := t } : State)) (tset_tset (State.twf_prec hwf))

theorem State.updPrec_of_eq {g : RootRec → RootRec} (h : g (s.precAt k) = s.precAt k) : s.updPrec k g = s := by
  rw [State.updPrec, h]
  exact congrArg (fun t => ({ s with prec := t } : State)) (tset_tget (State.twf_prec hwf))

theorem State.twf_fn : twf Fn.init s.fn = true := by
  obtain ⟨-, -, -, -, -, -, hfn, -, -, -⟩ := State.wf_iff.mp hwf
  exact hfn

theorem State.updFn_updFn {g g' : Fn → Fn} : (s.updFn k g).updFn k g' = s.updFn k (fun x => g' (g x)) := by
  have hread := State.fnAt_updFn_same (k := k) (g := g) hwf
  change (s.updFn k g).setFn k (g' ((s.updFn k g).fnAt k)) = _
  rw [hread]
  exact congrArg (fun t => ({ s with fn := t } : State)) (tset_tset (State.twf_fn hwf))

theorem State.updFn_of_eq {g : Fn → Fn} (h : g (s.fnAt k) = s.fnAt k) : s.updFn k g = s := by
  rw [State.updFn, h]
  exact congrArg (fun t => ({ s with fn := t } : State)) (tset_tget (State.twf_fn hwf))

theorem State.twf_pl : twf PitchList.init s.pl = true := by
  obtain ⟨-, -, -, -, -, -, -, hpl, -, -⟩ := State.wf_iff.mp hwf
  exact hpl

theorem State.updPl_updPl {g g' : PitchList → PitchList} : (s.updPl k g).updPl k g' = s.updPl k (fun x => g' (g x)) := by
  have hread := State.plAt_updPl_same (k := k) (g := g) hwf
  change (s.updPl k g).setPl k (g' ((s.updPl k g).plAt k)) = _
  rw [hread]
  exact congrArg (fun t => ({ s with pl := t } : State)) (tset_tset (State.twf_pl hwf))

theorem State.updPl_of_eq {g : PitchList → PitchList} (h : g (s.plAt k) = s.plAt k) : s.updPl k g = s := by
  rw [State.updPl, h]
  exact congrArg (fun t => ({ s with pl := t } : State)) (tset_tget (State.twf_pl hwf))

theorem State.twf_slot : twf Slot.init s.slot = true := by
  obtain ⟨-, -, -, -, -, -, -, -, hslot, -⟩ := State.wf_iff.mp hwf
  exact hslot

theorem State.updSlot_updSlot {g g' : Slot → Slot} : (s.updSlot k g).updSlot k g' = s.updSlot k (fun x => g' (g x)) := by
  have hread := State.slotAt_updSlot_same (k := k) (g := g) hwf
  change (s.updSlot k g).setSlot k (g' ((s.updSlot k g).slotAt k)) = _
  rw [hread]
  exact congrArg (fun t => ({ s with slot := t } : State)) (tset_tset (State.twf_slot hwf))

theorem State.updSlot_of_eq {g : Slot → Slot} (h : g (s.slotAt k) = s.slotAt k) : s.updSlot k g = s := by
  rw [State.updSlot, h]
  exact congrArg (fun t => ({ s with slot := t } : State)) (tset_tget (State.twf_slot hwf))

theorem State.twf_ring : twf Ring.init s.ring = true := by
  obtain ⟨-, -, -, -, -, -, -, -, -, hring⟩ := State.wf_iff.mp hwf
  exact hring

theorem State.updRing_updRing {g g' : Ring → Ring} : (s.updRing k g).updRing k g' = s.updRing k (fun x => g' (g x)) := by
  have hread := State.ringAt_updRing_same (k := k) (g := g) hwf
  change (s.updRing k g).setRing k (g' ((s.updRing k g).ringAt k)) = _
  rw [hread]
  exact congrArg (fun t => ({ s with ring := t } : State)) (tset_tset (State.twf_ring hwf))

theorem State.updRing_of_eq {g : Ring → Ring} (h : g (s.ringAt k) = s.ringAt k) : s.updRing k g = s := by
  rw [State.updRing, h]
  exact congrArg (fun t => ({ s with ring := t } : State)) (tset_tget (State.twf_ring hwf))

end Units

end Sys2Proof.Machine
end

section
/-! PROOF of O52 (R110, R120, R128-R130): a release at its hubs and at its CSNs. -/

namespace Sys2Proof.Machine

open Sys2Proof

/-! ### A release at a hub -/

/-- What two hubs share while a release runs there. -/
def Hub.SameRelease (x y : Hub) : Prop := y.waveQ = x.waveQ ∧ y.run = x.run ∧ y.allow = x.allow

theorem State.hubAt_updHub {s : State} {k n : Nat} {g : Hub → Hub} (hwf : s.wf = true) :
    (s.updHub k g).hubAt n = if n = k then g (s.hubAt k) else s.hubAt n := by
  split_ifs with h
  · rw [h, State.hubAt_updHub_same hwf]
  · exact State.hubAt_updHub_other h

theorem State.updHub_sameRelease {s : State} {h : Nat} {g : Hub → Hub} (hwf : s.wf = true)
    (hg : (s.hubAt h).SameRelease (g (s.hubAt h))) : (s.hubAt h).SameRelease ((s.updHub h g).hubAt h) := by
  rwa [State.hubAt_updHub_same hwf]

theorem State.disarm_sameRelease {s : State} {h : Nat} {l : TimerLoc} {u : TimerOf} (hwf : s.wf = true) :
    (s.hubAt h).SameRelease ((s.disarm h l u).hubAt h) := by
  cases l with
  | none => exact ⟨rfl, rfl, rfl⟩
  | comparator i => exact State.updHub_sameRelease hwf ⟨rfl, rfl, rfl⟩
  | scan => exact State.updHub_sameRelease hwf ⟨rfl, rfl, rfl⟩

/-- A kennel timer that gives way touches the kennel alone. -/
theorem State.relocate_frame {s : State} {u : TimerOf} :
    (s.relocate u).hub = s.hub ∧ (s.relocate u).frec = s.frec ∧ (s.relocate u).net = s.net ∧ (s.relocate u).now = s.now := by
  cases u <;> exact ⟨rfl, rfl, rfl, rfl⟩

@[simp] theorem State.relocate_hubAt {s : State} {u : TimerOf} {k : Nat} : (s.relocate u).hubAt k = s.hubAt k := by
  rw [State.hubAt, State.relocate_frame.1]
  rfl

/-- Arming a hub's barrier timer touches timers alone. -/
theorem State.armBarrier_effect {s : State} {h b : Nat} (hwf : s.wf = true) :
    let t := s.armBarrier h b
    (s.hubAt h).SameRelease (t.hubAt h) ∧ (∃ m, t.frecOf h b = { s.frecOf h b with timer := m }) ∧ t.net = s.net ∧
      t.now = s.now := by
  have htimed {u : State} {l : TimerLoc} (hwf' : u.wf = true) (hhub : (s.hubAt h).SameRelease (u.hubAt h))
      (hfrec : u.frec = s.frec) (hnet : u.net = s.net) (hnow : u.now = s.now) :
      let t := u.updFr h b (fun r => { r with timer := l })
      (s.hubAt h).SameRelease (t.hubAt h) ∧ (∃ m, t.frecOf h b = { s.frecOf h b with timer := m }) ∧ t.net = s.net ∧
      t.now = s.now := by
    refine ⟨hhub, ⟨l, ?_⟩, hnet, hnow⟩
    rw [State.frecOf_updFr hwf', State.frecOf, State.frecAt, hfrec]
    rfl
  unfold State.armBarrier
  dsimp only
  split
  · exact ⟨⟨rfl, rfl, rfl⟩, ⟨_, rfl⟩, rfl, rfl⟩
  · split
    · exact htimed (State.wf_updHub hwf) (State.updHub_sameRelease hwf ⟨rfl, rfl, rfl⟩) rfl rfl rfl
    · split
      · next k _ =>
        obtain ⟨_, hfrec', hnet', hnow'⟩ := State.relocate_frame (u := k.use)
        refine htimed ((State.relocate_keeps (.refl _)).canon (State.wf_updHub hwf)) ?_
          hfrec' hnet' hnow'
        rw [State.relocate_hubAt]
        exact State.updHub_sameRelease hwf ⟨rfl, rfl, rfl⟩
      · split
        · exact htimed (State.wf_updHub hwf) (State.updHub_sameRelease hwf ⟨rfl, rfl, rfl⟩) rfl rfl rfl
        · exact ⟨⟨rfl, rfl, rfl⟩, ⟨_, rfl⟩, rfl, rfl⟩

theorem Hub.SameRelease.trans {x y z : Hub} (h : x.SameRelease y) (h' : y.SameRelease z) : x.SameRelease z := by
  obtain ⟨hq, hr, ha⟩ := h
  obtain ⟨hq', hr', ha'⟩ := h'
  exact ⟨hq'.trans hq, hr'.trans hr, ha'.trans ha⟩

/-- A hub's record begins its next generation (R112): its waves are still to come. -/
theorem State.hubNextGen_effect {s : State} {h b : Nat} (hwf : s.wf = true) :
    let t := s.hubNextGen h b
    (s.hubAt h).SameRelease (t.hubAt h) ∧ (t.frecOf h b).gen = (s.frecOf h b).gen + 1 ∧ (t.frecOf h b).arr = 0 ∧
      t.net = s.net ∧ t.now = s.now := by
  obtain ⟨hrec, hprec, hnet, hmesh, hfn⟩ := State.stopBarrier_effect (h := h) (b := b) hwf
  have hsame : (s.hubAt h).SameRelease ((s.stopBarrier h b).hubAt h) := State.disarm_sameRelease hwf
  have hwf' := State.wf_stopBarrier (h := h) (b := b) hwf
  have hnow : (s.stopBarrier h b).now = s.now := by
    unfold State.stopBarrier
    cases (s.frecOf h b).timer <;> rfl
  have hnext (g : FieldRec → FieldRec) :
      let u := (s.stopBarrier h b).updFr h b g
      let t := if (u.frecOf h b).st = .armed then u.armBarrier h b else u
      (s.hubAt h).SameRelease (t.hubAt h) ∧ (t.frecOf h b).gen = (g ((s.stopBarrier h b).frecOf h b)).gen ∧
        (t.frecOf h b).arr = (g ((s.stopBarrier h b).frecOf h b)).arr ∧ t.net = s.net ∧ t.now = s.now := by
    have hwf'' := State.wf_updFr (h := h) (b := b) (g := g) hwf'
    obtain ⟨hhub, ⟨m, hfrec⟩, hsent, hsame'⟩ := State.armBarrier_effect (h := h) (b := b) hwf''
    dsimp only
    split
    · rw [hfrec, hsent, hsame', State.frecOf_updFr hwf']
      exact ⟨hsame.trans hhub, rfl, rfl, hnet, hnow⟩
    · rw [State.frecOf_updFr hwf']
      exact ⟨hsame, rfl, rfl, hnet, hnow⟩
  obtain ⟨hhub, hgen, harr, hsent⟩ := hnext _
  exact ⟨hhub, hgen.trans (by rw [hrec]), harr, hsent⟩

/-- A release that begins no phase begins its waves at an idle hub (R130). -/
theorem State.beginRelease_eq {s : State} {h : Nat} {r : Release} (hidle : (s.hubAt h).run = none)
    (hqueue : (s.hubAt h).waveQ = [r]) (hphase : s.phaseBegun r = none) (hst : (s.frecOf h r.bar.toNat).st ≠ .idle)
    (hgen : r.gen = (s.frecOf h r.bar.toNat).gen) (hmem : memLocals (s.frecOf h r.bar.toNat).mem ≠ []) :
    let u := (s.updHub h (fun x => { x with waveQ := [] })).hubNextGen h r.bar.toNat
    s.beginRelease h false = u.updHub h (fun x => { x with
      run := some ⟨r, wavesOf x.allow (memLocals (s.frecOf h r.bar.toNat).mem), 0, spcOf x.allow, u.now⟩ }) := by
  intro u
  have hphase' : (s.updHub h (fun x => { x with waveQ := [] })).phaseBegun r = none := hphase
  have hmay : (s.hubAt h).mayBegin s.now = true := by simp [Hub.mayBegin, hidle]
  unfold State.beginRelease
  dsimp only
  rw [hmay, hqueue]
  dsimp only
  rw [hphase', if_neg (by simp), if_neg (by simp)]
  dsimp only
  have hgo : ((s.updHub h (fun x => { x with waveQ := [] })).frecOf h r.bar.toNat).st != .idle &&
      r.gen == ((s.updHub h (fun x => { x with waveQ := [] })).frecOf h r.bar.toNat).gen := by
    change ((s.frecOf h r.bar.toNat).st != .idle && r.gen == (s.frecOf h r.bar.toNat).gen) = true
    simp [hst, hgen]
  rw [if_pos hgo]
  exact if_neg hmem

/-- What every step of a fold keeps, the fold keeps. -/
theorem forAll_induct {α : Type} {P : State → Prop} {l : List α} {g : State → α → State} {s : State} (h : P s)
    (hstep : ∀ t x, P t → P (g t x)) : P (forAll l g s) := by
  unfold forAll
  induction l generalizing s with
  | nil => exact h
  | cons x l ih => exact ih (hstep s x h)

/-- A change of a field's point disturbs the functions alone (R193). -/
theorem State.disturb_frame {s : State} {h : Nat} {f : Option Nat} :
    (s.disturb h f).hub = s.hub ∧ (s.disturb h f).net = s.net :=
  forAll_induct (P := fun t => t.hub = s.hub ∧ t.net = s.net) ⟨rfl, rfl⟩ (fun _ _ h => h)

@[simp] theorem State.disturb_hubAt {s : State} {h k : Nat} {f : Option Nat} : (s.disturb h f).hubAt k = s.hubAt k := by
  rw [State.hubAt, State.disturb_frame.1]
  rfl

/-- Moving a field's operating point sends no message, and leaves a hub's release alone. -/
theorem State.setPoint_effect {s : State} {h : Nat} {f : Option Nat} (hwf : s.wf = true) :
    (s.hubAt h).SameRelease ((s.setPoint h f).hubAt h) ∧ (s.setPoint h f).net = s.net := by
  unfold State.setPoint
  dsimp only
  split_ifs
  · exact ⟨State.updHub_sameRelease hwf ⟨rfl, rfl, rfl⟩, rfl⟩
  · refine ⟨?_, State.disturb_frame.2⟩
    rw [State.disturb_hubAt, State.emit_hubAt]
    exact State.updHub_sameRelease hwf ⟨rfl, rfl, rfl⟩
  · exact ⟨⟨rfl, rfl, rfl⟩, rfl⟩
  · refine ⟨?_, rfl⟩
    rw [State.emit_hubAt]
    exact State.updHub_sameRelease hwf ⟨rfl, rfl, rfl⟩

/-- Phase 0 begins at a hub without a message, and leaves its release alone. -/
theorem State.hubStart_effect {s : State} {h : Nat} (hwf : s.wf = true) :
    (s.hubAt h).SameRelease ((s.hubStart h).hubAt h) ∧ (s.hubStart h).net = s.net := by
  unfold State.hubStart
  dsimp only
  split_ifs
  · exact ⟨⟨rfl, rfl, rfl⟩, rfl⟩
  · obtain ⟨hhub, hnet⟩ := State.setPoint_effect (h := h) (State.wf_updHub hwf)
    exact ⟨(State.updHub_sameRelease hwf ⟨rfl, rfl, rfl⟩).trans hhub, hnet⟩

/-- A wave at its slot reaches its clusters, and the next one is due SPC later (R129). -/
theorem State.releaseWave_effect {s : State} {h : Nat} {v : WaveRun} {w : List Nat} {ws : List (List Nat)} (hwf : s.wf = true)
    (hrun : (s.hubAt h).run = some v) (hwaves : v.waves = w :: ws) (hdue : v.nextAt ≤ s.now) :
    (s.releaseWave h).net = s.net ++ ((s.hubAt h).waveTargets h w).map
        (fun c => .releaseCsn c (s.precAt v.rel.bar.toNat).pepoch v.k v.rel) ∧
      ((s.releaseWave h).hubAt h).run = some { v with
        waves := ws, k := v.k + 1, nextAt := if ws.isEmpty then v.nextAt else v.nextAt + cyc v.spc } := by
  generalize hu : s.sendAll (((s.hubAt h).waveTargets h w).map
    (fun c => .releaseCsn c (s.precAt v.rel.bar.toNat).pepoch v.k v.rel)) = u
  have hwfu : u.wf = true := by rwa [← hu, State.wf_sendAll]
  have hwave : s.releaseWave h = (u.updHub h (fun x => { x with run := some { v with
      waves := ws, k := v.k + 1, nextAt := if ws.isEmpty then v.nextAt else v.nextAt + cyc v.spc } })).hubStart h := by
    unfold State.releaseWave
    rw [hrun]
    dsimp only
    rw [hwaves]
    dsimp only
    rw [if_neg (Nat.not_lt.mpr hdue), hu]
  obtain ⟨⟨_, hr, _⟩, hnet⟩ := State.hubStart_effect (h := h) (State.wf_updHub (k := h) (g := fun x => { x with
    run := some { v with waves := ws, k := v.k + 1, nextAt := if ws.isEmpty then v.nextAt else v.nextAt + cyc v.spc } }) hwfu)
  rw [hwave, hnet, hr, State.hubAt_updHub_same hwfu, ← hu]
  exact ⟨rfl, rfl⟩

theorem hubReleaseWaves : Says.HubReleaseWaves := by
  intro s hub r
  dsimp only
  intro hwf
  refine ⟨fun tep hmuz htep hroom hclaim hgoes => ?_, fun hidle hqueue hst hgen hmem hphase => ?_,
    fun v w ws hrun hrel hwaves hdue => ?_⟩
  · refine congrArg Host.Outcome.next ((if_neg (by simp [hgoes])).trans ?_)
    dsimp only [State.releaseHub]
    rw [if_neg (by simp [hmuz, htep]), if_neg Bool.false_ne_true, if_neg (Nat.not_le.mpr hroom), if_neg (by simp [hclaim])]
  · have hexec : exec (.releaseBegin ⟨hub, false⟩) s = .next _ :=
      congrArg Host.Outcome.next (State.beginRelease_eq hidle hqueue hphase hst hgen hmem)
    have hwf' := State.wf_updHub (k := hub.val) (g := fun x => { x with waveQ := [] }) hwf
    obtain ⟨⟨hq, hr, ha⟩, hg, harr, hnet, hnow⟩ := State.hubNextGen_effect (h := hub.val) (b := r.bar.toNat) hwf'
    have hwf'' := (State.hubNextGen_keeps (a1 := hub.val) (a2 := r.bar.toNat) (.refl _)).canon hwf'
    rw [State.hubAt_updHub_same hwf] at hq ha
    dsimp only at hexec
    generalize (s.updHub hub.val (fun x => { x with waveQ := [] })).hubNextGen hub.val r.bar.toNat = u at *
    refine .of_exec hexec ⟨?_, ?_, hg, harr, hnet⟩
    · rw [State.hubAt_updHub_same hwf'', hq]
    · rw [State.hubAt_updHub_same hwf'', ha, hnow]
      rfl
  · subst hrel
    obtain ⟨hnet, hr⟩ := State.releaseWave_effect hwf hrun hwaves hdue
    refine .of_exec rfl ⟨hnet, hr.trans ?_⟩
    cases ws <;> rfl

/-! ### A release at a CSN -/

theorem Csn.setEnt_setEnt {x : Csn} {i : Nat} {e e' : BarEntry} (h : twf BarEntry.init x.ents = true) :
    (x.setEnt i e).setEnt i e' = x.setEnt i e' := by simp only [Csn.setEnt, tset_tset h]

/-- The one release that waits at a CSN goes on where it begins no phase. -/
theorem phaseGo_singleton {s : State} {cl : Nat} {r : Release} {go : Release → State → State}
    (htodo : (s.csnAt cl).phaseTodo = [some r]) (hphase : s.phaseOf cl (some r) = none) :
    phaseGo cl go 1 s = go r (s.updCsn cl (fun c => { c with phaseTodo := [] })) := by
  simp only [phaseGo, htodo, hphase, State.phaseDo]

/-- A release that begins no phase, at a CSN where nothing waits, goes on at once (R280). -/
theorem State.startRelease_eq {s : State} {cl : Nat} {r : Release} (hwf : s.wf = true) (hinv : (s.csnAt cl).phaseInv = [])
    (htodo : (s.csnAt cl).phaseTodo = []) (hphase : s.phaseBegun r = none) : s.startRelease cl r = s.applyRelease cl r := by
  have hput := State.csnAt_updCsn_same (k := cl) (g := fun c => { c with phaseTodo := c.phaseTodo ++ [some r] }) hwf
  have hback : (s.updCsn cl (fun c => { c with phaseTodo := c.phaseTodo ++ [some r] })).updCsn cl
      (fun c => { c with phaseTodo := [] }) = s := by
    rw [State.updCsn_updCsn hwf]
    exact State.updCsn_of_eq hwf (by rw [← htodo])
  have hphase' : (s.updCsn cl (fun c => { c with phaseTodo := c.phaseTodo ++ [some r] })).phaseOf cl (some r) = none := hphase
  unfold State.startRelease State.phasePut
  generalize s.updCsn cl (fun c => { c with phaseTodo := c.phaseTodo ++ [some r] }) = v at hput hback hphase' ⊢
  have hone : (v.csnAt cl).phaseTodo = [some r] := by rw [hput, htodo]; rfl
  dsimp only
  rw [if_neg (by rw [hput, hinv]; decide), hone, List.length_singleton, phaseGo_singleton hone hphase', hback]

/-- A release at an entry on which nobody waits and which it does not complete again (R120). -/
theorem State.relEnt_effect {s : State} {cl i : Nat} {st : Status} {res : BitVec 64} (hwf : s.wf = true)
    (hents : twf BarEntry.init (s.csnAt cl).ents = true) (hwait : ((s.csnAt cl).entAt i).waitm = 0)
    (hnext : ((s.csnAt cl).entAt i).nextArr st ≠ ((s.csnAt cl).entAt i).exp) :
    let e := (s.csnAt cl).entAt i
    s.relEnt cl i st res = s.updCsn cl (fun x => x.setEnt i
      { e with rgen := e.gen, rstat := st, gen := e.gen + 1, arr := e.nextArr st, early := 0, psn := false, res := res }) ∧
      ((s.relEnt cl i st res).csnAt cl).entAt i =
        { e with rgen := e.gen, rstat := st, gen := e.gen + 1, arr := e.nextArr st, early := 0, psn := false, res := res } := by
  intro e
  generalize he' : ({ e with
    rgen := e.gen, rstat := st, gen := e.gen + 1, arr := e.nextArr st, early := 0, psn := false, res := res } : BarEntry) = e'
  have hset := entAt_updCsn_setEnt (i := i) (g := fun _ => e') hwf hents rfl
  have hwaits : e'.waitm = 0 := by rw [← he']; exact hwait
  have heq : s.relEnt cl i st res = s.updCsn cl (fun x => x.setEnt i e') := by
    unfold State.relEnt
    dsimp only
    rw [if_neg (fun h => hnext h.1)]
    change (s.updCsn cl (fun x => x.setEnt i _)).endWaits cl i st e.gen res (some .bar) = _
    rw [he', State.endWaits_of_waitm_eq_zero (by rw [hset]; exact hwaits), State.updCsn_updCsn hwf]
    refine State.updCsn_congr ?_
    have hread : ((s.csnAt cl).setEnt i e').entAt i = e' := (Csn.entAt_setEnt hents).trans (if_pos rfl)
    dsimp only
    rw [hread, Csn.setEnt_setEnt hents, show ({ e' with waitm := 0 } : BarEntry) = e' by rw [← hwaits]]
  exact ⟨heq, heq ▸ hset⟩

theorem releaseAtCsn : Says.ReleaseAtCsn := by
  intro s cl tep r ix
  dsimp only
  intro hwf hents hnet hgoes
  have hmsg : s.relMsg cl.id tep r = .releaseCsn cl.id tep 0 r := by simp [State.relMsg, hnet]
  have hexec : exec (.releaseAtCsn cl tep r) s = .next (({ s with net := [] } : State).releaseCsn cl.id tep r) := by
    change Host.Outcome.next _ = _
    rw [hmsg, if_neg (by simp [hgoes]), State.taken, hnet, List.erase_cons_head]
  have hcsn : ({ s with net := [] } : State).csnAt cl.id = s.csnAt cl.id := rfl
  have hfnOf : ({ s with net := [] } : State).fnOf cl.id = s.fnOf cl.id := rfl
  unfold State.releaseCsn at hexec
  rw [hcsn] at hexec
  dsimp only at hexec
  refine ⟨fun hrst htep hlegs hlanes hinv htodo hphase hwait hnext hedge hcalm => ?_, fun f hrst hfn hlegs hf => ?_,
    fun hrst => ?_⟩
  · rw [if_neg (by simp [hrst]), if_neg (by simp [hlegs]), if_neg (by simp [htep])] at hexec
    generalize hu : ({ s with net := [] } : State) = u at hexec
    have hwfu : u.wf = true := by rw [← hu]; exact hwf
    have hcsnu : u.csnAt cl.id = s.csnAt cl.id := by rw [← hu, hcsn]
    have hlanes' : pdLanes (u.precAt r.bar.toNat).payload = 0 := by rw [← hu]; exact hlanes
    have hcalm' : Calm u cl.id := hcalm.of_core_eq (fun n => by rw [← hu]; rfl) (by rw [← hu])
    obtain ⟨hrel, hent⟩ := State.relEnt_effect (s := u) (cl := cl.id) (i := ix) (st := r.stat) (res := 0) hwfu
      (by rw [hcsnu]; exact hents) (by rw [hcsnu]; exact hwait) (by rw [hcsnu]; exact hnext)
    have hlegsRel : u.legsRelease cl.id r = u.relEnt cl.id ix r.stat 0 := by
      unfold State.legsRelease
      rw [hcsnu, hlegs]
      dsimp only
      rw [hlanes', if_pos rfl, if_pos (Or.inl rfl), forAll_singleton, State.settle_of_calm]
      rw [hrel]
      exact hcalm'.of_core_eq (fun _ => rfl) rfl
    have hstays : (u.relEnt cl.id ix r.stat 0).edgeDue cl.id = u.relEnt cl.id ix r.stat 0 := by
      refine if_neg ?_
      rw [hrel, State.csnAt_updCsn_same hwfu, hcsnu]
      simp [Csn.setEnt, hedge]
    rw [State.startRelease_eq hwfu (by rw [hcsnu]; exact hinv) (by rw [hcsnu]; exact htodo) (by rw [← hu]; exact hphase),
      State.applyRelease, hlegsRel, hstays] at hexec
    refine .of_exec hexec ?_
    rw [hent, hcsnu, hrel, ← hu]
    exact ⟨rfl, rfl, rfl, rfl, rfl, rfl, rfl⟩
  · rw [if_neg (by simp [hrst]), if_pos hlegs, if_neg (by simp [hfn]), hfnOf, hf] at hexec
    exact hexec
  · rw [if_pos (Option.isSome_iff_ne_none.mpr hrst)] at hexec
    exact hexec

/-- Settles O52: releases at hubs and CSNs. -/
theorem releaseWaves : Obligations.ReleaseWaves := ⟨hubReleaseWaves, releaseAtCsn⟩

end Sys2Proof.Machine
end

section
/-! PROOF of O17 (R50, R63, R65, R107, R108, R110, R449): the orders over the status path. -/

namespace Sys2Proof.Machine

open Sys2Proof

/-- A CSN in service acts on a status command at once (R67). -/
theorem State.onStatus_eq {s : State} {cl : Nat} {cmd : StatusCmd} (h : (s.csnAt cl).rst = none) :
    s.onStatus cl cmd = s.statusDo cl cmd := if_neg (by simp [h])

/-! ### A unit's LOG (R401): it goes to the root, and draws free values -/

section Report

variable {s : State} {cls sev perm act cnt : Nat} {u : UnitId} {f : Option Nat}

@[simp] theorem State.report_now : (s.report cls u sev perm act f cnt).now = s.now := rfl
@[simp] theorem State.report_pending : (s.report cls u sev perm act f cnt).pending = s.pending := rfl
@[simp] theorem State.report_out : (s.report cls u sev perm act f cnt).out = s.out := rfl
@[simp] theorem State.report_csn : (s.report cls u sev perm act f cnt).csn = s.csn := rfl
@[simp] theorem State.report_core : (s.report cls u sev perm act f cnt).core = s.core := rfl
@[simp] theorem State.report_hub : (s.report cls u sev perm act f cnt).hub = s.hub := rfl
@[simp] theorem State.report_ken : (s.report cls u sev perm act f cnt).ken = s.ken := rfl
@[simp] theorem State.report_frec : (s.report cls u sev perm act f cnt).frec = s.frec := rfl
@[simp] theorem State.report_prec : (s.report cls u sev perm act f cnt).prec = s.prec := rfl
@[simp] theorem State.report_rfolds : (s.report cls u sev perm act f cnt).rfolds = s.rfolds := rfl
@[simp] theorem State.report_tick : (s.report cls u sev perm act f cnt).tick = s.tick := rfl
@[simp] theorem State.report_kiln : (s.report cls u sev perm act f cnt).kiln = s.kiln := rfl
@[simp] theorem State.report_fn : (s.report cls u sev perm act f cnt).fn = s.fn := rfl
@[simp] theorem State.report_pl : (s.report cls u sev perm act f cnt).pl = s.pl := rfl
@[simp] theorem State.report_slot : (s.report cls u sev perm act f cnt).slot = s.slot := rfl
@[simp] theorem State.report_ring : (s.report cls u sev perm act f cnt).ring = s.ring := rfl
@[simp] theorem State.report_mgr : (s.report cls u sev perm act f cnt).mgr = s.mgr := rfl
@[simp] theorem State.report_mesh : (s.report cls u sev perm act f cnt).mesh = s.mesh := rfl
@[simp] theorem State.report_span : (s.report cls u sev perm act f cnt).span = s.span := rfl
@[simp] theorem State.report_err : (s.report cls u sev perm act f cnt).err = s.err := rfl
@[simp] theorem State.report_bru : (s.report cls u sev perm act f cnt).bru = s.bru := rfl
@[simp] theorem State.report_cask : (s.report cls u sev perm act f cnt).cask = s.cask := rfl
@[simp] theorem State.report_kat : (s.report cls u sev perm act f cnt).kat = s.kat := rfl
@[simp] theorem State.report_csnAt {k : Nat} : (s.report cls u sev perm act f cnt).csnAt k = s.csnAt k := rfl
@[simp] theorem State.report_coreAt {k : Nat} : (s.report cls u sev perm act f cnt).coreAt k = s.coreAt k := rfl
@[simp] theorem State.report_hubAt {k : Nat} : (s.report cls u sev perm act f cnt).hubAt k = s.hubAt k := rfl
@[simp] theorem State.report_kenAt {k : Nat} : (s.report cls u sev perm act f cnt).kenAt k = s.kenAt k := rfl
@[simp] theorem State.report_frecAt {k : Nat} : (s.report cls u sev perm act f cnt).frecAt k = s.frecAt k := rfl
@[simp] theorem State.report_precAt {k : Nat} : (s.report cls u sev perm act f cnt).precAt k = s.precAt k := rfl
@[simp] theorem State.report_fnAt {k : Nat} : (s.report cls u sev perm act f cnt).fnAt k = s.fnAt k := rfl
@[simp] theorem State.report_plAt {k : Nat} : (s.report cls u sev perm act f cnt).plAt k = s.plAt k := rfl
@[simp] theorem State.report_slotAt {k : Nat} : (s.report cls u sev perm act f cnt).slotAt k = s.slotAt k := rfl
@[simp] theorem State.report_ringAt {k : Nat} : (s.report cls u sev perm act f cnt).ringAt k = s.ringAt k := rfl
@[simp] theorem State.report_linkAt {k : Nat} : (s.report cls u sev perm act f cnt).linkAt k = s.linkAt k := rfl
@[simp] theorem State.wf_report : (s.report cls u sev perm act f cnt).wf = s.wf := rfl

theorem State.report_net : (s.report cls u sev perm act f cnt).net =
    s.net ++ [.log (mkLog cls u sev perm act f cnt s.peek s.drawn.peek)] := rfl

end Report

/-- A leg on which nobody waits is freed (R108, R110). -/
theorem State.freeLeg_effect {s : State} {cl i : Nat} {b : BarIx} {p : Option Nat} (hwf : s.wf = true)
    (hents : twf BarEntry.init (s.csnAt cl).ents = true) (hleg : (s.csnAt cl).legIx b p = some i)
    (hwait : ((s.csnAt cl).entAt i).waitm = 0) (hcalm : Calm s cl) :
    let e := (s.csnAt cl).entAt i
    let v := ((s.freeLeg cl b p).csnAt cl).entAt i
    v.mode = 0 ∧ v.gen = e.gen + 1 ∧ v.rgen = e.gen ∧ v.rstat = .aborted ∧ (s.freeLeg cl b p).out = s.out ++ [.statusAck cl] := by
  obtain ⟨hent, hents', hwf', hcore, hcask, hout⟩ := endGen_eq (st := .aborted) (cause := some .bar) hwf hents hwait
  generalize hu : s.endGen cl i .aborted (some .bar) = u at *
  generalize hg : (fun c : Csn => ({ c.setEnt i { BarEntry.init with
      gen := (c.entAt i).gen, rgen := (c.entAt i).rgen, rstat := (c.entAt i).rstat } with
      reads := c.reads.filter (fun r => r.ent != i) } : Csn)) = g
  have hfree : s.freeLeg cl b p = (u.updCsn cl g).emit (.statusAck cl) := by
    unfold State.freeLeg
    rw [hleg]
    dsimp only
    rw [hu, hg, State.settle_of_calm]
    exact hcalm.of_core_eq (fun n => by simp only [State.coreAt, State.emit_core, State.updCsn_core, hcore]) hcask
  have hread : ((u.updCsn cl g).csnAt cl).entAt i = { BarEntry.init with
      gen := ((u.csnAt cl).entAt i).gen, rgen := ((u.csnAt cl).entAt i).rgen, rstat := ((u.csnAt cl).entAt i).rstat } := by
    rw [State.csnAt_updCsn_same hwf', ← hg]
    exact (Csn.entAt_setEnt hents').trans (if_pos rfl)
  dsimp only
  rw [hfree, State.emit_csnAt, hread, hent]
  exact ⟨rfl, rfl, rfl, rfl, congrArg (· ++ _) hout⟩

/-- Settles O17: the orders over the status path, and a spine input that failed. -/
theorem statusPath : Obligations.StatusPath := by
  intro s cl bar exp gen p i u ep
  dsimp only
  intro hwf hents htab hrst
  have hcsn {g : Csn → Csn} : (s.updCsn cl.id g).csnAt cl.id = g (s.csnAt cl.id) := State.csnAt_updCsn_same hwf
  have hgo (cmd : StatusCmd) : s.onStatus cl.id cmd = s.statusDo cl.id cmd := State.onStatus_eq hrst
  refine ⟨fun hfree => ?_, fun hfull => ?_, fun hleg hwait hcalm => ?_, ?_, ?_, ?_, ?_, ?_⟩
  · change Host.Outcome.next _ = _
    rw [hgo]
    simp only [State.statusDo, State.bindLeg, hfree]
  · change Host.Outcome.next _ = _
    rw [hgo]
    simp only [State.statusDo, State.bindLeg, hfull]
  · exact .of_exec (congrArg Host.Outcome.next (hgo _)) (State.freeLeg_effect hwf hents hleg hwait hcalm)
  · refine .of_exec (congrArg Host.Outcome.next (hgo _)) ⟨?_, ?_, rfl⟩
    · simp only [State.statusDo, State.epTab, State.emit_csnAt, hcsn]
      exact tget_tset_same htab
    · simp only [State.statusDo, State.emit_csnAt, hcsn]
      rfl
  · refine .of_exec (congrArg Host.Outcome.next (hgo _)) ?_
    simp only [State.statusDo, State.emit_csnAt, hcsn]
    exact ⟨rfl, rfl, rfl⟩
  · refine .of_exec (congrArg Host.Outcome.next (State.onStatus_eq (s := s.taken (.status cl.id 0)) hrst)) ?_
    have hopened := State.csnAt_updCsn_same (s := s.taken (.status cl.id 0)) (k := cl.id)
      (g := fun c => { c with loadOpen := true, nrcv := 0, manifest := none }) hwf
    dsimp only [State.statusDo]
    rw [State.emit_csnAt, hopened]
    exact ⟨rfl, rfl, rfl, rfl⟩
  · refine .of_exec (congrArg Host.Outcome.next (hgo _)) ⟨?_, rfl, rfl⟩
    have hread := State.csnAt_updCsn_same (s := s.emit (.rdDrp cl.id (s.csnAt cl.id).droop)) (k := cl.id)
      (g := fun c => { c with droop := 0 }) hwf
    simp only [State.statusDo, State.readDroop, State.updHub_csnAt, hread]
  · refine .of_exec rfl ⟨?_, _, State.report_net, rfl, rfl⟩
    rw [State.report_csnAt, hcsn]

end Sys2Proof.Machine
end

section
/-! PROOF of O18 (R52, R53, R58, R60, R63, R65, R69): links, routes and the tick spine. -/

namespace Sys2Proof.Machine

open Sys2Proof

/-! ### Links -/

theorem State.linkAt_updLink {s : State} {l : Nat} {g : Link → Link} (h : twf Link.init s.mesh.links = true) :
    (s.updLink l g).linkAt l = g (s.linkAt l) := tget_tset_same h

theorem State.twf_updLink {s : State} {l : Nat} {g : Link → Link} (h : twf Link.init s.mesh.links = true) :
    twf Link.init (s.updLink l g).mesh.links = true := tset_wf h

theorem append_notes {α : Type} {l : List α} {x a b y : α} : ((l ++ [x]) ++ [a, b]) ++ [y] = l ++ [x, a, b, y] := by simp

/-- A mesh link goes down: each of its routers sends a LINK_NOTE, and the event is reported (R58). -/
theorem State.downLink_mesh {s : State} {l : Nat} (hup : (s.linkAt l).down = false) (hmesh : l < 65536) :
    s.downLink l = ((s.updLink l (fun x => { x with down := true, retries := 0 })).sendAll [.linkNote l, .linkNote l]).report
      0x03 (linkUnit l) 1 0 8 none := by
  dsimp only [State.downLink]
  rw [if_neg (by simp [hup]), if_pos hmesh]

section Retry

variable {s : State} {link : BitVec 17} {n : BitVec 7} (hlinks : twf Link.init s.mesh.links = true) (hn : 2 < n.toNat)
include hlinks hn

/-- Three or more bits in error: the flit is asked for again, and the fifth failure puts the link down (R53). -/
theorem exec_linkRetry :
    let u := (s.updLink link.toNat (fun x => { x with retries := x.retries + 1 })).report 0x02 (linkUnit link.toNat) 1 0 1 none
    exec (.linkRetry link n) s = .next (if (s.linkAt link.toNat).retries + 1 > 4 then u.downLink link.toNat else u) := by
  have hn0 : n ≠ 0 := by
    rintro rfl
    exact absurd hn (by decide)
  refine congrArg Host.Outcome.next ((if_neg hn0).trans ((if_neg (Nat.not_le.mpr hn)).trans ?_))
  dsimp only
  rw [State.report_linkAt, State.linkAt_updLink hlinks]

end Retry

/-! ### The distance table's next generation -/

/-- Each function of a list without repetitions is told once. -/
theorem State.fnAt_forAll_notice {l : List Nat} (hl : l.Nodup) {s : State} (hwf : s.wf = true) (f : Nat) :
    ((forAll l (fun s f => s.notice f (distGenRec s.mesh.gen)) s).fnAt f).evq =
      if f ∈ l then joinRecs (s.fnAt f).evq (distGenRec s.mesh.gen) else (s.fnAt f).evq := by
  induction l generalizing s with
  | nil => rfl
  | cons k l ih =>
    obtain ⟨hk, hl⟩ := List.nodup_cons.mp hl
    have htold := ih hl (s := s.notice k (distGenRec s.mesh.gen)) (State.wf_updFn hwf)
    have hmesh : (s.notice k (distGenRec s.mesh.gen)).mesh = s.mesh := rfl
    refine htold.trans ?_
    rw [hmesh, State.notice]
    by_cases hf : f = k
    · subst hf
      rw [if_neg hk, if_pos List.mem_cons_self, State.fnAt_updFn_same hwf]
    · rw [State.fnAt_updFn_other hf]
      simp [hf]

/-- The announcement of a generation touches the functions alone. -/
theorem State.announce_frame {s : State} : s.announce.mesh = s.mesh ∧ s.announce.csn = s.csn :=
  forAll_induct (P := fun t => t.mesh = s.mesh ∧ t.csn = s.csn) ⟨rfl, rfl⟩ (fun _ _ h => h)

/-- Settles O18: links, routes and the tick spine. -/
theorem linksAndRoutes : Obligations.LinksAndRoutes := by
  intro s link n router site d p q pk hub ps
  dsimp only
  intro hwf hlinks hroutes hdrop hn
  refine ⟨?_, fun hfew => ?_, fun hfour hup hmesh => ?_, fun hgoes => ?_, ?_, fun e hports => ?_, fun hgoes => ?_,
    fun since hnet hold => ?_, fun e hedge hdue => ⟨fun hmuz => ?_, fun hmuz => ?_⟩⟩
  · refine .of_exec rfl ?_
    rw [if_pos rfl, State.linkAt_updLink hlinks]
    exact ⟨rfl, rfl, rfl⟩
  · have hexec := exec_linkRetry (link := link) hlinks hn
    dsimp only at hexec
    rw [if_neg (by omega)] at hexec
    refine .of_exec hexec ?_
    rw [State.report_linkAt, State.linkAt_updLink hlinks]
    exact ⟨rfl, rfl, _, State.report_net, rfl⟩
  · have hexec := exec_linkRetry (link := link) hlinks hn
    dsimp only at hexec
    rw [if_pos (by omega), State.downLink_mesh (by rw [State.report_linkAt, State.linkAt_updLink hlinks]; exact hup) hmesh] at hexec
    refine .of_exec hexec ⟨?_, _, _, append_notes, rfl, rfl⟩
    rw [State.report_linkAt]
    exact congrArg Link.down (State.linkAt_updLink (State.twf_updLink hlinks))
  · exact .of_exec (congrArg Host.Outcome.next (if_neg (Bool.eq_false_iff.mp hgoes))) ⟨rfl, rfl⟩
  · obtain ⟨hmesh, hcsn⟩ := State.announce_frame
      (s := State.reloadRoutes { s with mesh := { s.mesh with ports := putPorts s.mesh.ports ps } })
    refine .of_exec rfl ⟨congrArg Mesh.gen hmesh, congrArg Mesh.reloading hmesh, hcsn, fun f hf => ?_⟩
    exact (State.fnAt_forAll_notice List.nodup_range (by exact hwf) f).trans (if_pos (List.mem_range.mpr hf))
  · obtain ⟨hmesh, hcsn⟩ := State.announce_frame
      (s := State.reloadRoutes { s with mesh := { s.mesh with ports := putPorts s.mesh.ports [e] } })
    refine .of_exec rfl ?_
    rw [hmesh]
    exact tget_tset_same hports
  · refine .of_exec (congrArg Host.Outcome.next (if_neg (Bool.eq_false_iff.mp hgoes))) ⟨tget_tset_same hroutes, rfl⟩
  · refine .of_exec (t := { s with
      net := [], mesh := { s.mesh with mcDrop := tset 0 s.mesh.mcDrop router.id (tget 0 s.mesh.mcDrop router.id + 1) } }) ?_
      ⟨rfl, (tget_tset_same (k := router.id) (v := tget 0 s.mesh.mcDrop router.id + 1) hdrop :)⟩
    change execMcBranchDrop router s = _
    simp [execMcBranchDrop, hnet, hold]
  · have hmissing : s.edgeMissing hub.val = true := by
      simp only [State.edgeMissing, hedge]
      exact decide_eq_true hdue
    refine congrArg Host.Outcome.next ?_
    dsimp only [State.spineLate]
    rw [hmissing, if_neg (by decide), if_pos]
    rw [State.emit_hubAt, State.hubAt_updHub_same hwf]
    exact hmuz
  · have hmissing : s.edgeMissing hub.val = true := by
      simp only [State.edgeMissing, hedge]
      exact decide_eq_true hdue
    have hlate : s.spineLate hub.val = (((s.updHub hub.val (fun x => { x with edgeAt := none })).emit (.csnEdge hub.val)).updHub
        hub.val (fun x => { x with spineMuz := true })).report 0x11 (unitId .spine hub.val) 1 0 5 none := by
      dsimp only [State.spineLate]
      rw [hmissing, if_neg (by decide), if_neg]
      rw [State.emit_hubAt, State.hubAt_updHub_same hwf]
      simp [hmuz]
    refine .of_exec (congrArg Host.Outcome.next hlate) ⟨?_, rfl, _, State.report_net, rfl⟩
    rw [State.report_hubAt, State.hubAt_updHub_same]
    rw [State.wf_emit]
    exact State.wf_updHub hwf

end Sys2Proof.Machine
end

section
/-! REFUTATION of O19 (R172, R269, R280). Its third clause shuts out a step of the partition, not a known-answer step: that one
runs on a cluster of no partition too, and its edge waits for the invalidation of the cached copies. -/

namespace Sys2Proof.Machine

open Sys2Proof

/-- A known-answer step that has begun on cluster 0. -/
def katBegun : KatRun :=
  { owner := none, ix := 0, set := [0], again := false, begun := true, bad := [],
    run := { plid := 0, image := 0, img := PitchImage.init, slots := [], gops := [], rpl := 0, tick := 0, key := 0, phase := 0,
             opened := 0, waitOrd := false, bound := [], commitOpen := false, commitDone := false, heelOpen := false,
             heelDone := false, counted := false, start := 0, closers := [] } }

/-- Cluster 0, of no partition, runs the known-answer step, and its core 0 is armed. -/
def katEdge : State :=
  { State.reset with core := [(0, { Core.init with armed := true })], kat := { Kat.init with cur := some katBegun } }

theorem katEdge_asks_for_invalidation : (katEdge.edgeAtCsn 0).out ≠ [] := by decide +kernel

/-- Refutes O19: where a known-answer step runs on the cluster, the edge asks for an invalidation before its causes. -/
theorem not_edgeAtCsn : ¬ Obligations.EdgeAtCsn := by
  intro h
  obtain ⟨-, -, hedge, -⟩ := h katEdge 0 0 ⟨⟨0, 0⟩, 0⟩ ⟨0, false, false, 0⟩ (by decide +kernel)
  obtain ⟨⟨t, hexec, ⟨-, -, -, -, -, -, -, -, hout⟩, -⟩, -⟩ :=
    hedge rfl (by decide +kernel) (by decide +kernel) rfl rfl (by decide +kernel)
  cases hexec
  exact katEdge_asks_for_invalidation hout

end Sys2Proof.Machine
end

section
/-! PROOF of O50 (R163-R179): the tick generator of a wafer that is still. -/

namespace Sys2Proof.Machine

open Sys2Proof

/-! ### Tables rewritten entry by entry -/

/-- A rewrite that leaves the default alone acts on every entry (SUPPORT). -/
theorem tget_tmapv {α : Type} [DecidableEq α] {d : α} {g : Nat → α → α} {t : Tbl α} (h : twf d t = true)
    (hd : ∀ k, g k d = d) (k : Nat) : tget d (tmapv d g t) k = g k (tget d t k) := by
  induction t with
  | nil => exact (hd k).symm
  | cons p t ih =>
    obtain ⟨l, v⟩ := p
    obtain ⟨hv, habove, ht⟩ := twf_cons_iff.mp h
    have hrest := ih ht
    by_cases hg : g l v = d
    · have hskip : tmapv d g ((l, v) :: t) = tmapv d g t := by simp [tmapv, hg]
      rw [hskip]
      by_cases hkl : l = k
      · subst hkl
        rw [tget_head, tget_above (tmapv_above habove), hg]
      · rw [tget_tail hkl, hrest]
    · have hkeep : tmapv d g ((l, v) :: t) = (l, g l v) :: tmapv d g t := by simp [tmapv, hg]
      rw [hkeep]
      by_cases hkl : l = k
      · subst hkl
        rw [tget_head, tget_head]
      · rw [tget_tail hkl, tget_tail hkl, hrest]

/-- What every listed entry has and the default has, every entry has. -/
theorem tget_of_forall {α : Type} {d : α} {P : α → Prop} {t : Tbl α} (hd : P d) (h : ∀ p ∈ t, P p.2) (k : Nat) :
    P (tget d t k) := by
  induction t with
  | nil => exact hd
  | cons p t ih =>
    obtain ⟨l, v⟩ := p
    unfold tget
    split
    · exact h _ List.mem_cons_self
    · exact ih fun q hq => h q (List.mem_cons_of_mem _ hq)

/-! ### RUN and the latch (R165, R167) -/

theorem tickRun : Says.TickRun := by
  intro s hstep
  have hup : ¬ s.bru.step ≠ 15 := fun h => h hstep
  refine ⟨fun hst => ?_, fun hst => ?_, fun hst hreq hdone hdue => ?_, ?_⟩
  · refine .of_exec (congrArg Host.Outcome.next (if_neg hup)) ?_
    dsimp only [State.withTick]
    rw [hst]
    refine ⟨rfl, rfl, ?_, rfl, rfl, rfl⟩
    rw [bit_toNat]
    simp [setBits, Tick.halt, b2n]
  · refine .of_exec (congrArg Host.Outcome.next (if_neg hup)) ?_
    simp [State.withTick, hst]
  · have hcut : s.cutDue = true := by
      simp only [State.cutDue, hst, hdone]
      exact decide_eq_true hdue
    refine .of_exec (congrArg Host.Outcome.next (show s.cut = s.withTick Tick.halt from ?_)) ⟨rfl, rfl, rfl, rfl⟩
    simp [State.cut, hcut, hreq]
  · refine .of_exec (congrArg Host.Outcome.next (if_pos hstep)) ⟨?_, rfl⟩
    change BitVec.ofNat 16 (bits s.tick.num.toNat 32 16) = _
    apply BitVec.eq_of_toNat_eq
    simp [bits]

/-! ### The edge of a still wafer (R163, R172) -/

/-- The registers, the outputs and the messages that an edge of a still wafer touches. -/
def SameTick (s t : State) : Prop := t.tick = s.tick ∧ t.out = s.out ∧ t.net = s.net ∧ t.span = s.span

theorem SameTick.refl (s : State) : SameTick s s := ⟨rfl, rfl, rfl, rfl⟩

theorem SameTick.trans {s t u : State} (h : SameTick s t) (h' : SameTick t u) : SameTick s u := by
  obtain ⟨ht, ho, hn, hs⟩ := h
  obtain ⟨ht', ho', hn', hs'⟩ := h'
  exact ⟨ht'.trans ht, ho'.trans ho, hn'.trans hn, hs'.trans hs⟩

/-- A hub that walks no step takes nothing at an edge. -/
theorem State.hubStart_of_walks_eq_nil {s : State} {h : Nat} (hw : (s.hubAt h).walks = []) : s.hubStart h = s := by
  simp [State.hubStart, hw]

theorem State.hubsEdge_sameTick {s : State} (hwf : s.wf = true) (hwalks : ∀ p ∈ s.hub, p.2.walks = []) :
    SameTick s (s.hubsEdge [] []) := by
  have hnone (k : Nat) : ((s.mapHub (hubTakesEdge [] [])).hubAt k).walks = [] := by
    have hread : (s.mapHub (hubTakesEdge [] [])).hubAt k = hubTakesEdge [] [] (s.hubAt k) :=
      tget_tmapv (g := fun _ x => hubTakesEdge [] [] x) (State.twf_hub hwf) (fun _ => by decide) k
    have hold : (s.hubAt k).walks = [] := tget_of_forall (P := fun x : Hub => x.walks = []) rfl hwalks k
    simp [hread, hubTakesEdge, hold]
  unfold State.hubsEdge
  rw [forAll_eq_self fun h _ => State.hubStart_of_walks_eq_nil (hnone h)]
  exact ⟨rfl, rfl, rfl, rfl⟩

theorem State.sendAll_nil {s : State} : s.sendAll [] = s := by simp [State.sendAll]

/-- Stopped or not after it, the tick counts its edge (R163, R167). -/
theorem Tick.advance_num (k : Tick) (now : Nat) : (k.advance now).num = k.nextNum := by
  unfold Tick.advance
  dsimp only
  split
  · rfl
  · rfl

/-- An edge that a quiet wafer issues, with no heel point late: its own registers, and its number on the spine (R163). -/
theorem State.issueEdge_quiet {s : State} (hwf : s.wf = true) (hquiet : Quiet s) :
    let t := s.issueEdge []
    t.tick = s.tick.advance s.now ∧ t.out = s.out ++ [.spineEdge s.tick.nextNum] ∧ t.net = s.net ∧
    t.span = { s.span with holds := [] } := by
  obtain ⟨hparts, -, hcur, -, hwalks, hspine, hforming⟩ := hquiet
  have hnoCsn : s.csn.filter (fun p => p.2.spineFail && s.inService p.1) = [] := by
    rw [List.filter_eq_nil_iff]
    intro p hp
    simp [hspine p hp]
  generalize hu : (({ s with tick := s.tick.advance s.now, span := { s.span with holds := [] } } : State).emit
    (.spineEdge (s.tick.advance s.now).num)) = u
  have hfn : u.parts = [] := by rw [← hu]; exact hparts
  have hedges : (u.csn.filter (fun p => p.2.spineFail && u.inService p.1)) = [] := by rw [← hu]; exact hnoCsn
  have hkat : u.kat.cur = none := by rw [← hu]; exact hcur
  have hissue : s.issueEdge [] = (
      let v := (u.katBegin).hubsEdge [] []
      let w := forAll v.hubsUp (fun s h => s.updHub h (fun x => { x with edgeAt := some s.now })) v
      if w.switchDue then w.doSwitch else w) := by
    unfold State.issueEdge
    rw [forAll_nil]
    dsimp only
    rw [hu, hedges]
    simp only [List.map_nil, State.sendAll_nil, hfn, List.filter_nil, forAll_nil, hkat, List.append_nil]
  have hkatBegin : u.katBegin = { u with kat := { u.kat with age := u.kat.age + 1 } } := by
    unfold State.katBegin
    dsimp only
    rw [hkat]
  have hhubs := State.hubsEdge_sameTick (s := u.katBegin) (by rw [hkatBegin, ← hu]; exact hwf)
    (by rw [hkatBegin, ← hu]; exact hwalks)
  generalize (u.katBegin).hubsEdge [] [] = v at hissue hhubs
  have htimes := forAll_induct (P := SameTick v) (l := v.hubsUp)
    (g := fun s h => s.updHub h (fun x => { x with edgeAt := some s.now })) (SameTick.refl v) (fun _ _ h => h)
  dsimp only at hissue
  generalize forAll v.hubsUp (fun s h => s.updHub h (fun x => { x with edgeAt := some s.now })) v = w at hissue htimes
  obtain ⟨htick, hout, hnet, hspan⟩ := hhubs.trans htimes
  have hform : w.span.forming = none := by
    rw [hspan, hkatBegin, ← hu]
    exact hforming
  have hstill : w.switchDue = false := by simp [State.switchDue, hform]
  rw [hstill] at hissue
  dsimp only
  rw [hissue, if_neg Bool.false_ne_true, htick, hout, hnet, hspan, hkatBegin, ← hu]
  refine ⟨rfl, ?_, rfl, rfl⟩
  rw [← Tick.advance_num s.tick s.now]
  rfl

/-- The edge of a quiet wafer whose generator goes on is the edge that the statement asks for (R163, R167). -/
theorem edgeIssued_of_quiet {s : State} (hwf : s.wf = true) (hquiet : Quiet s)
    (hst : s.tick.st = .running ∨ s.tick.st = .held ∧ s.tick.stopReq = false) : edgeIssued s (s.issueEdge []) := by
  obtain ⟨htick, hout, hnet, -⟩ := State.issueEdge_quiet hwf hquiet
  refine ⟨?_, ?_, ?_, ?_, ?_, ?_, ?_, hout, hnet⟩
  all_goals
    rw [htick]
    obtain hrun | ⟨hheld, hgoes⟩ := hst
    · simp [Tick.advance, hrun, cyc]
    · simp [Tick.advance, hheld, hgoes, cyc]

theorem State.heelsOpen_of_done {s : State} (h : s.heelsDone = true) : s.heelsOpen = [] := by
  simp only [State.heelsDone, Bool.and_eq_true, List.isEmpty_iff] at h
  exact h.1

/-- The deadline of a quiet wafer overruns nothing (R179). -/
theorem State.overrunEdge_quiet {s : State} (hquiet : Quiet s) (hlate : s.tick.late = []) :
    s.overrunEdge = s.issueEdge [] := by
  obtain ⟨-, hdone, hcur, -⟩ := hquiet
  simp only [State.overrunEdge, State.heelsOpen_of_done hdone, forAll_nil, hlate]
  simp only [State.katStop, hcur]

/-! ### The note and the cut of a still wafer (R39, R169, R182) -/

/-- A due note goes to every hub in service, and no member asks for a hold (R169). -/
theorem State.injectNote_of_due {s : State} (hnone : s.span.st = .none) (hcut : s.tick.cutDone = true)
    (hnoted : s.tick.noted = false) (hst : s.tick.st = .running) (hdue : s.tick.pred ≤ s.now + cyc 1500) :
    s.injectNote = (s.sendAll (s.hubsUp.map (fun h => .tickNote h none s.tickNote))).withTick
      (fun t => { t with noted := true }) := by
  have hask : ∀ t : State, t.span = s.span → t.askHold = t := by
    intro t ht
    simp [State.askHold, ht, hnone]
  rw [State.injectNote, if_neg (by simp [hcut, hnoted, hst, hdue])]
  exact hask _ rfl

/-- What a cut latches in a function's registers (R182). -/
def Fn.latched (x : Fn) : Fn :=
  { x with capF := x.cap, cmtCtrlF := x.cmtCtrl, cmtTolF := x.cmtTol, throt := { x.throt with inForce := x.throt.noticed } }

/-- An entry of a rewritten table comes from an entry (SUPPORT). -/
theorem exists_of_mem_tmapv {α : Type} [DecidableEq α] {d : α} {g : Nat → α → α} {t : Tbl α} {p : Nat × α}
    (h : p ∈ tmapv d g t) : ∃ q ∈ t, p.2 = g q.1 q.2 := by
  obtain ⟨q, hq, hkept⟩ := List.mem_filterMap.mp h
  refine ⟨q, hq, ?_⟩
  dsimp only at hkept
  split at hkept
  · cases hkept
  · obtain rfl := Option.some.inj hkept
    rfl

theorem State.parts_mapFn_latched {s : State} (hparts : s.parts = []) : (s.mapFn Fn.latched).parts = [] := by
  have hold : ∀ p ∈ s.fn, p.2.members = [] := by
    simpa [State.parts, List.filter_eq_nil_iff] using hparts
  simp only [State.parts, List.map_eq_nil_iff, List.filter_eq_nil_iff]
  intro p hp
  obtain ⟨q, hq, hpq⟩ := exists_of_mem_tmapv (t := s.fn) (g := fun _ x => Fn.latched x) hp
  simp [hpq, Fn.latched, hold q hq]

/-- The wafer with the registers that a cut latches, where no partition stands (R182). -/
def State.latched (s : State) : State :=
  { s.mapFn Fn.latched with kiln := { s.kiln with
      limitF := s.kiln.limit, idleF := s.kiln.idle, thermF := s.kiln.therm, didtF := s.kiln.didt, rcvF := s.kiln.rcv } }

theorem State.latchRegs_of_parts_eq_nil {s : State} (hparts : s.parts = []) : s.latchRegs = s.latched := by
  have hstill : (s.mapFn Fn.latched).parts = [] := State.parts_mapFn_latched hparts
  delta Fn.latched at hstill
  unfold State.latchRegs
  dsimp only
  rw [hstill, forAll_nil]
  rfl

/-- With no partition there is nothing to decide at a cut, and the period is the one set (R166, R196). -/
theorem State.decideAll_of_parts_eq_nil {s : State} {per : Nat} {next : BitVec 48} (hparts : s.parts = []) :
    s.decideAll per next = (s, per, false) := by
  have hnone : s.byPri = [] := by simp [State.byPri, hparts]
  simp [State.decideAll, hnone, decideGo]

/-- The cut of a still wafer latches registers and the period, and sends nothing (R39, R182). -/
theorem State.cutWork_still {s : State} (hstill : Still s) (hpl : s.pl = []) (hslot : s.slot = [])
    (hst : s.tick.st = .running) :
    s.cutWork = s.latched.withTick (fun t => { t with cutDone := true, perNext := s.setPer, lvl := false }) := by
  obtain ⟨⟨hparts, -, hcur, hlists, -, -, hforming⟩, hnone⟩ := hstill
  have hnext : s.latched.parts = [] := State.parts_mapFn_latched hparts
  have hretry : s.latched.retrySlots = s.latched := by
    have : s.latched.slot = [] := hslot
    simp [State.retrySlots, this, tkeys]
  have hready : s.latched.waitReady = s.latched := by simp [State.waitReady, hnext]
  have hkat : s.latched.katUnowned s.tick.nextNum = s.latched := by
    have : s.latched.kat.lists = [] := hlists
    simp [State.katUnowned, State.katFree, this]
  have hacc (per : Nat) : s.latched.latchAcc per = s.latched := by simp [State.latchAcc, hnext]
  have hper : s.latched.setPer = s.setPer := rfl
  have hlevel : s.latched.anyLevel false = false := by simp [State.anyLevel, hnext]
  have hwork : s.cutWork = ((s.latched.withTick
      (fun t => { t with cutDone := true, perNext := s.setPer, lvl := false })).sendCut s.tick.nextNum).cutViews := by
    have hfollow : (s.tick.st == TickSt.follow) = false := by rw [hst]; rfl
    have hswitch : s.chooseSwitch s.tick.nextNum = s := by simp [State.chooseSwitch, hforming]
    simp only [State.cutWork, hfollow, Bool.false_eq_true, if_false, hswitch, State.latchRegs_of_parts_eq_nil hparts,
      hretry, hready, State.decideAll_of_parts_eq_nil hnext, hkat, hacc, hlevel, hper]
  rw [hwork]
  generalize hu : s.latched.withTick (fun t => { t with cutDone := true, perNext := s.setPer, lvl := false }) = u
  have hsend : u.sendCut s.tick.nextNum = u := by
    have hlead : (u.span.st == SpanSt.lead) = false := by rw [← hu]; change (s.span.st == _) = _; rw [hnone]; rfl
    have hcur' : u.kat.cur = none := by rw [← hu]; exact hcur
    have hparts' : u.parts = [] := by rw [← hu]; exact hnext
    have hpitch : u.katPitch s.tick.nextNum = u := by unfold State.katPitch; rw [hcur']
    simp only [State.sendCut, hlead, Bool.false_eq_true, if_false, hparts', hpitch, forAll_nil]
  have hviews : u.cutViews = u := by
    have hpl' : u.pl = [] := by rw [← hu]; exact hpl
    simp [State.cutViews, hpl', tkeys]
  rw [hsend, hviews]

theorem State.cut_still {s : State} (hstill : Still s) (hpl : s.pl = []) (hslot : s.slot = [])
    (hst : s.tick.st = .running) (hstop : s.tick.stopReq = false) (hdone : s.tick.cutDone = false)
    (hdue : s.tick.pred ≤ s.now + cyc 2000) :
    s.cut = s.latched.withTick (fun t => { t with cutDone := true, perNext := s.setPer, lvl := false }) := by
  have hcut : s.cutDue = true := by
    simp only [State.cutDue, hst, hdone]
    exact decide_eq_true hdue
  have hleaves : s.cutLeaves = s := if_pos (by rw [hstill.2]; decide)
  have hrun : s.tick.st ≠ .stopped := by rw [hst]; decide
  rw [← State.cutWork_still hstill hpl hslot hst]
  simp [State.cut, hcut, hstop, hleaves, hrun]

theorem State.fnAt_latched {s : State} (hwf : s.wf = true) (f : Nat) : s.latched.fnAt f = (s.fnAt f).latched :=
  tget_tmapv (g := fun _ x => Fn.latched x) (State.twf_fn hwf) (fun _ => by decide) f

theorem tickCycle : Says.TickCycle := by
  intro s hwf
  dsimp only
  refine ⟨?_, ?_, ?_, ?_, ?_, ?_⟩
  · intro hstill hpl hslot hst hstop hdone hdue
    refine .of_exec (congrArg Host.Outcome.next (State.cut_still hstill hpl hslot hst hstop hdone hdue))
      ⟨rfl, rfl, rfl, fun f => ?_, rfl, rfl⟩
    change (s.latched.fnAt f).capF = _ ∧ (s.latched.fnAt f).cmtTolF = _
    rw [State.fnAt_latched hwf]
    exact ⟨rfl, rfl⟩
  · intro hnone hlead hcut hnoted hst hdue
    refine .of_exec (congrArg Host.Outcome.next (State.injectNote_of_due hnone hcut hnoted hst hdue)) ⟨rfl, ?_⟩
    have hnote : s.tickNote = ⟨BitVec.ofNat 32 s.tick.nextNum.toNat, s.tick.any && s.tick.perNext != s.tick.per,
        s.tick.lvl, BitVec.ofNat 27 s.tick.perNext⟩ := by
      simp only [State.tickNote, hlead]
      rfl
    rw [hnote]
    rfl
  · rintro ⟨hquiet, hnone⟩ hst hnoted hpassed hdue hgrid
    have hnohold : s.noHold = true := by simp [State.noHold, hquiet.2.1, hnone]
    refine .of_exec (congrArg Host.Outcome.next (show s.holdPoint = s.issueEdge [] from ?_))
      (edgeIssued_of_quiet hwf hquiet (.inl hst))
    simp [State.holdPoint, hst, hnoted, hpassed, hnone, Nat.not_lt.mpr hdue, hnohold, State.onGrid, hgrid]
  · intro hdone hnone hst hnoted hpassed hdue
    have hnohold : s.noHold = false := by simp [State.noHold, hdone]
    refine congrArg Host.Outcome.next (show s.holdPoint = _ from ?_)
    simp [State.holdPoint, hst, hnoted, hpassed, hnone, Nat.not_lt.mpr hdue, hnohold, State.withTick, cyc]
  · rintro l ⟨hquiet, hnone⟩ hst hstop hetime hlate hlast hdue hgrid
    have hnohold : s.noHold = true := by simp [State.noHold, hquiet.2.1, hnone]
    have hsoon : Nat.min (gridUp (l + cyc 40)) s.tick.dead ≤ s.now := Nat.le_trans (Nat.min_le_left _ _) hdue
    refine .of_exec (congrArg Host.Outcome.next (show s.heldEdge = s.issueEdge [] from ?_))
      (edgeIssued_of_quiet hwf hquiet (.inr ⟨hst, hstop⟩))
    simp [State.heldEdge, hst, hetime, hlast, hlate, hnone, hnohold, State.onGrid, hgrid, hsoon]
  · rintro ⟨hquiet, hnone⟩ hst hstop hlate hetime hdue hgrid
    have hdecided : s.heelDeciding = false := by
      simp [State.heelDeciding, State.heelsOpen_of_done hquiet.2.1]
    refine .of_exec (congrArg Host.Outcome.next (show s.tickDeadline = s.issueEdge [] from ?_))
      (edgeIssued_of_quiet hwf hquiet (.inr ⟨hst, hstop⟩))
    rw [← State.overrunEdge_quiet hquiet hlate]
    simp [State.tickDeadline, hst, hnone, Tick.deadAt, hetime, Nat.not_lt.mpr hdue, State.onGrid, hgrid, hdecided]

/-- Settles O50: RUN by the state of the generator; a tick by the lemmas of the cut, the note and the edge of a still wafer. -/
theorem tickGenerator : Obligations.TickGenerator := ⟨tickRun, tickCycle⟩

end Sys2Proof.Machine
end

section
/-! PROOF of O1, O2 and O5: the queue, the empty queue and reset. -/

namespace Sys2Proof.Machine

open Sys2Proof

/-- Settles O1: the front of the queue is what `step` takes. -/
theorem stepRunsFrontCommand : Obligations.StepRunsFrontCommand := fun _ _ _ => rfl

/-- The reset state, but for a ring that still counts one record of an earlier cycle as placed. -/
def staleRing : State := { State.reset with ring := [(0, { Ring.init with old := 1 })] }

/-- Refutes O2: in `staleRing` no tick is due and no partition stands, yet the end of the cycle sets the ring's count of placed
records to the 0 records that it holds (R318). -/
theorem not_emptyQueuePassesOneCycle : ¬ Obligations.EmptyQueuePassesOneCycle := by
  intro h
  obtain ⟨hidle, -⟩ := h staleRing rfl
  have hstep := hidle rfl (fun f hf => absurd hf List.not_mem_nil)
  have hring := congrArg (fun o => match o with | .next t => t.ring | _ => []) hstep
  exact absurd hring (by decide)

/-- Settles O5: reset lists no unit, so every unit is at its initial value, and the registers are evaluated. -/
theorem resetState : Obligations.ResetState := by
  refine ⟨by decide, rfl, rfl, rfl, rfl, rfl, rfl, rfl, fun _ => rfl, fun _ => rfl, fun _ => rfl, fun _ => rfl, ?_⟩
  exact ⟨rfl, rfl, rfl, rfl, rfl, rfl, rfl, rfl, fun _ => ⟨rfl, rfl, rfl, rfl, rfl⟩, rfl⟩

end Sys2Proof.Machine
end

section
/-! PROOF of O60 (R131, R175, R204-R208, R369, R451): a field's operating point, and the kiln's forces. -/

namespace Sys2Proof.Machine

open Sys2Proof

/-! ### What setting a point leaves of a hub -/

/-- What a hub knows of alerts and forces, and its allowance, is the same in both. -/
def Hub.SameForce (x y : Hub) : Prop := y.alert = x.alert ∧ y.alr = x.alr ∧ y.force = x.force ∧ y.allow = x.allow

theorem State.updHub_sameForce {s : State} {h : Nat} {g : Hub → Hub} (hwf : s.wf = true)
    (hg : (s.hubAt h).SameForce (g (s.hubAt h))) : (s.hubAt h).SameForce ((s.updHub h g).hubAt h) := by
  rwa [State.hubAt_updHub_same hwf]

/-- Moving a field's point keeps its force and its allowance (R175). -/
theorem State.setPoint_sameForce {s : State} {h : Nat} {f : Option Nat} (hwf : s.wf = true) :
    (s.hubAt h).SameForce ((s.setPoint h f).hubAt h) := by
  unfold State.setPoint
  dsimp only
  split_ifs
  · exact State.updHub_sameForce hwf ⟨rfl, rfl, rfl, rfl⟩
  · rw [State.disturb_hubAt, State.emit_hubAt]
    exact State.updHub_sameForce hwf ⟨rfl, rfl, rfl, rfl⟩
  · exact ⟨rfl, rfl, rfl, rfl⟩
  · rw [State.emit_hubAt]
    exact State.updHub_sameForce hwf ⟨rfl, rfl, rfl, rfl⟩

/-- A forced field that begins no phase wants OP7, and gets it at once (R175, R204). -/
theorem State.setPoint_op_of_force {s : State} {h : Nat} {f : Option Nat} (hwf : s.wf = true)
    (hforce : (s.hubAt h).force = true) (hwalks : (s.hubAt h).walks = []) : ((s.setPoint h f).hubAt h).op = 7 := by
  have hwant : (s.hubAt h).wantOp = 7 := by simp [Hub.wantOp, hwalks, hforce]
  unfold State.setPoint
  dsimp only
  rw [hwant]
  split_ifs with hat hslower
  · rw [State.hubAt_updHub_same hwf]
    exact BitVec.eq_of_toNat_eq hat
  · rw [State.disturb_hubAt, State.emit_hubAt, State.hubAt_updHub_same hwf]
    rfl
  · exact absurd (s.hubAt h).op.isLt (by omega)
  · exact absurd (s.hubAt h).op.isLt (by omega)

theorem State.disturb_out {s : State} {h : Nat} {f : Option Nat} : (s.disturb h f).out = s.out :=
  forAll_induct (P := fun t => t.out = s.out) rfl (fun _ _ h => h)

theorem operatingPoint : Says.OperatingPoint := by
  intro s hub p cur v a b c d
  dsimp only
  intro hwf
  refine ⟨?_, rfl, fun hnext => ?_, ?_, fun hwait hforce => ?_, rfl, rfl, rfl, ?_⟩
  · generalize hu : s.updHub hub.val (fun x => { x with alert := true, alr := true, force := true, allow := alertWord }) = u
    have hwfu : u.wf = true := hu ▸ State.wf_updHub hwf
    have hhub : u.hubAt hub.val = { s.hubAt hub.val with alert := true, alr := true, force := true, allow := alertWord } := by
      rw [← hu]
      exact State.hubAt_updHub_same hwf
    obtain ⟨halert, halr, hforce, hallow⟩ := State.setPoint_sameForce (h := hub.val) (f := none) hwfu
    have hnet := (State.setPoint_effect (h := hub.val) (f := none) hwfu).2
    refine .of_exec (t := (u.setPoint hub.val none).send
        (.alertNote hub.val ⟨true, 0, (s.hubAt hub.val).op, s.units⟩)) ?_
      ⟨?_, ?_, ?_, ?_, fun hwalks => ?_, ?_⟩
    · rw [← hu]
      rfl
    · rw [State.send_hubAt, halert, hhub]
    · rw [State.send_hubAt, halr, hhub]
    · rw [State.send_hubAt, hforce, hhub]
    · rw [State.send_hubAt, hallow, hhub]
      rfl
    · rw [State.send_hubAt]
      exact State.setPoint_op_of_force hwfu (by rw [hhub]) (by rw [hhub]; exact hwalks)
    · change (u.setPoint hub.val none).net ++ _ = _
      rw [hnet, ← hu]
      rfl
  · refine .of_exec (t := ((s.updHub hub.val (fun x => { x with op := p, opNext := none, fclkWait := true })).emit
      (.fclkOp hub.val p)).disturb hub.val (s.hubAt hub.val).opBy) ?_ ⟨?_, ?_, ?_, ?_, ?_⟩
    · refine congrArg Host.Outcome.next ?_
      simp only [State.opChanged, hnext]
    · rw [State.disturb_hubAt, State.emit_hubAt, State.hubAt_updHub_same hwf]
    · rw [State.disturb_hubAt, State.emit_hubAt, State.hubAt_updHub_same hwf]
    · rw [State.disturb_hubAt, State.emit_hubAt, State.hubAt_updHub_same hwf]
    · rw [State.disturb_out]
      rfl
    · rw [State.disturb_frame.2]
      rfl
  · refine .of_exec rfl ?_
    dsimp only [State.fclkAcked]
    split
    · exact ⟨by rw [State.emit_hubAt, State.hubAt_updHub_same hwf], by rw [State.emit_hubAt, State.hubAt_updHub_same hwf], rfl⟩
    · exact ⟨by rw [State.hubAt_updHub_same hwf], by rw [State.hubAt_updHub_same hwf], (List.append_nil _).symm⟩
  · refine congrArg Host.Outcome.next ?_
    simp [hwait, hforce]
  · rintro tep hmuz rfl harrives
    have htake (m : MgmtMsg) : ¬ (((s.taken (.mgmt hub.val (s.hubAt hub.val).epoch m)).hubAt hub.val).muz ||
        (s.hubAt hub.val).epoch != ((s.taken (.mgmt hub.val (s.hubAt hub.val).epoch m)).hubAt hub.val).epoch) = true := by
      simp [hmuz]
    have hexec (m : MgmtMsg) : exec (.mgmt hub (s.hubAt hub.val).epoch m) s =
        .next (s.takeMgmt hub.val (s.hubAt hub.val).epoch m) :=
      congrArg Host.Outcome.next (if_neg (by simp [harrives m]))
    refine ⟨?_, .of_exec (hexec _) ?_⟩
    · rw [hexec]
      refine congrArg Host.Outcome.next ?_
      unfold State.takeMgmt
      dsimp only
      rw [if_neg (htake _)]
    · unfold State.takeMgmt
      dsimp only
      rw [if_neg (htake _)]
      generalize hu : (s.taken (.mgmt hub.val (s.hubAt hub.val).epoch (.opForce true))).updHub hub.val
        (fun x => { x with force := true || x.alert }) = u
      have hwfu : u.wf = true := hu ▸ State.wf_updHub hwf
      have hhub : u.hubAt hub.val = { s.hubAt hub.val with force := true || (s.hubAt hub.val).alert } := by
        rw [← hu]
        exact State.hubAt_updHub_same hwf
      obtain ⟨-, -, hforce, -⟩ := State.setPoint_sameForce (h := hub.val) (f := none) hwfu
      refine ⟨?_, fun hwalks => ?_⟩
      · rw [hforce, hhub]
        rfl
      · exact State.setPoint_op_of_force hwfu (by rw [hhub]; rfl) (by rw [hhub]; exact hwalks)

/-! ### The kiln's record of a field -/

theorem State.kfAt_updKf_same {s : State} {h : Nat} {g : KField → KField} (hkf : twf KField.init s.kiln.fields = true) :
    (s.updKf h g).kfAt h = g (s.kfAt h) := tget_tset_same hkf

theorem State.twf_updKf {s : State} {h : Nat} {g : KField → KField} (hkf : twf KField.init s.kiln.fields = true) :
    twf KField.init (s.updKf h g).kiln.fields = true := tset_wf hkf

/-- A throttle notice writes functions alone, and no message outside a span (R182). -/
theorem State.noticeField_frame {s : State} {h : Nat} {opb : BitVec 3} {fs : List Nat} :
    (s.noticeField h opb fs).kiln = s.kiln ∧ (s.span.st ≠ .member → (s.noticeField h opb fs).net = s.net) := by
  have hfns := forAll_induct (P := fun t => t.kiln = s.kiln ∧ t.net = s.net ∧ t.span = s.span) (l := fs)
    (g := fun s f => s.updFn f (fun x => { x with throt := x.throt.notice false })) (s := s) ⟨rfl, rfl, rfl⟩ (fun _ _ h => h)
  obtain ⟨hkiln, hnet, hspan⟩ := hfns
  unfold State.noticeField
  dsimp only
  split
  · next hmember =>
    refine ⟨hkiln, fun hno => absurd ?_ hno⟩
    rw [hspan, Bool.and_eq_true] at hmember
    exact eq_of_beq hmember.1
  · exact ⟨hkiln, fun _ => hnet⟩

/-- Throttles are cleared in functions alone, and no message goes out outside a span (R208). -/
theorem State.clearField_frame {s : State} {h : Nat} (hno : s.span.st ≠ .member) :
    (s.clearField h).kiln = s.kiln ∧ (s.clearField h).net = s.net := by
  have hst : (s.span.st == SpanSt.member) = false := by simpa using hno
  unfold State.clearField State.clearThrots
  simp only [hst, Bool.false_and, Bool.false_eq_true, if_false]
  exact forAll_induct (P := fun t => t.kiln = s.kiln ∧ t.net = s.net) ⟨rfl, rfl⟩ (fun _ _ h => h)

/-- The last force of a field ends outside a span: the field gets its own word and leaves OP7 (R205). -/
theorem State.kilnLift_of_unforced {s : State} {h : Nat} (hno : s.span.st ≠ .member) (hforce : (s.kfAt h).forced = false) :
    (s.kilnLift h).kiln = s.kiln ∧ (s.kilnLift h).net =
      s.net ++ [.mgmt h (s.hubAt h).epoch (.allowance (s.kfAt h).word), .mgmt h (s.hubAt h).epoch (.opForce false)] := by
  obtain ⟨hkiln, hnet⟩ := State.clearField_frame (h := h)
    (s := (s.mgmtTo h (.allowance (s.kfAt h).word)).mgmtTo h (.opForce false)) hno
  rw [State.kilnLift, if_neg (by simp [hforce])]
  refine ⟨hkiln, hnet.trans ?_⟩
  exact List.append_assoc _ _ _

/-- A field's own force ends (R205). -/
theorem State.lift_effect {s : State} {h : Nat} {g : KField → KField} (hkf : twf KField.init s.kiln.fields = true)
    (hnone : s.span.st = .none) (hforce : (g (s.kfAt h)).forced = false) (hword : (g (s.kfAt h)).word = (s.kfAt h).word) :
    (((s.updKf h g).kilnLift h).kfAt h) = g (s.kfAt h) ∧ ((s.updKf h g).kilnLift h).net =
      s.net ++ [.mgmt h (s.hubAt h).epoch (.allowance (s.kfAt h).word), .mgmt h (s.hubAt h).epoch (.opForce false)] := by
  have hno : (s.updKf h g).span.st ≠ .member := by
    rw [State.updKf_span, hnone]
    decide
  have hread := State.kfAt_updKf_same (h := h) (g := g) hkf
  obtain ⟨hkiln, hnet⟩ := State.kilnLift_of_unforced (h := h) hno (by rw [hread]; exact hforce)
  refine ⟨?_, ?_⟩
  · rw [State.kfAt, hkiln]
    exact hread
  · rw [hnet, hread, hword]
    rfl

/-- An alert is known to the kiln, whatever speed limit it brings (R204-R206). -/
theorem State.takeAlert_effect {s : State} {h : Nat} {n : AlertNote} (hkf : twf KField.init s.kiln.fields = true)
    (hasrt : n.asrt = true) (hmuz : (s.hubAt h).muz = false) :
    ((s.takeAlert h n).kfAt h).alertForce = true ∧ ((s.takeAlert h n).kfAt h).quiet = 0 ∧
      ((s.takeAlert h n).kfAt h).alerts.head? = some s.now := by
  unfold State.takeAlert
  dsimp only
  rw [if_neg (by simp [hasrt, hmuz])]
  generalize hu : s.updKf h (fun x => { x with
    alertForce := true, quiet := 0, alerts := s.now :: x.alerts.filter (fun t => decide (s.now < t + cyc 1000000000)) }) = u
  have hread := State.kfAt_updKf_same (s := s) (h := h) hkf (g := fun x => { x with
    alertForce := true, quiet := 0, alerts := s.now :: x.alerts.filter (fun t => decide (s.now < t + cyc 1000000000)) })
  have hkfu : twf KField.init u.kiln.fields = true := hu ▸ State.twf_updKf hkf
  rw [hu] at hread
  obtain ⟨hkiln, -⟩ := State.noticeField_frame (s := u) (h := h) (opb := n.opb)
    (fs := (u.fnsIn h).filter (fun f => decide (u.grantNow f < 7)))
  generalize u.noticeField h n.opb ((u.fnsIn h).filter (fun f => decide (u.grantNow f < 7))) = v at hkiln ⊢
  have hv : v.kfAt h = u.kfAt h := by rw [State.kfAt, hkiln]; rfl
  split
  · change ((v.updKf h _).kfAt h).alertForce = true ∧ ((v.updKf h _).kfAt h).quiet = 0 ∧
      ((v.updKf h _).kfAt h).alerts.head? = some s.now
    rw [State.kfAt_updKf_same (by rw [hkiln]; exact hkfu), hv, hread]
    exact ⟨rfl, rfl, rfl⟩
  · rw [hv, hread]
    exact ⟨rfl, rfl, rfl⟩

theorem kilnForces : Says.KilnForces := by
  intro s hub t0 w op f
  dsimp only
  intro hwf hkf
  refine ⟨fun hmuz harrives => ?_, fun harrives => ?_, fun hnone hloss => ⟨fun halert htherm hquiet => ?_,
    fun htherm halert hcool => ?_⟩, fun hunder => ?_, fun a l halerts hpast => ?_, fun hmember hjobs => ?_⟩
  · refine .of_exec (congrArg Host.Outcome.next (if_neg (by simp [harrives]))) ?_
    exact State.takeAlert_effect (s := s.taken (.alertNote hub.val ⟨true, w, op, t0⟩)) hkf rfl hmuz
  · refine congrArg Host.Outcome.next ((if_neg (by simp [harrives])).trans ?_)
    exact if_pos rfl
  · have hlift : s.alertLift hub.val =
        (s.updKf hub.val (fun k => { k with alertForce := false, quiet := 0 })).kilnLift hub.val :=
      if_pos (by simp [halert, hquiet])
    obtain ⟨hkf', hnet⟩ := State.lift_effect (h := hub.val) (g := fun k => { k with alertForce := false, quiet := 0 })
      hkf hnone (by simp [KField.forced, htherm, hloss]) rfl
    exact .of_exec (congrArg Host.Outcome.next hlift) ⟨by rw [hkf'], hnet⟩
  · have hlift : s.thermalLift hub.val =
        (s.updKf hub.val (fun k => { k with thermForce := false, cool := 0 })).kilnLift hub.val :=
      if_pos (by simp [htherm, hcool])
    obtain ⟨hkf', hnet⟩ := State.lift_effect (h := hub.val) (g := fun k => { k with thermForce := false, cool := 0 })
      hkf hnone (by simp [KField.forced, halert, hloss]) rfl
    exact .of_exec (congrArg Host.Outcome.next hlift) ⟨by rw [hkf'], hnet⟩
  · refine .of_exec (congrArg Host.Outcome.next (if_pos hunder)) ?_
    rw [State.kfAt_updKf_same hkf]
    exact ⟨rfl, rfl, rfl⟩
  · refine .of_exec (t := s.updKf hub.val (fun k => { k with ceilLim := none })) ?_ ?_
    · refine congrArg Host.Outcome.next ?_
      rw [halerts]
      exact if_pos (decide_eq_true hpast)
    · rw [State.kfAt_updKf_same hkf]
      exact ⟨rfl, rfl, rfl⟩
  · refine congrArg Host.Outcome.next ((if_pos hmember).trans ?_)
    rw [hjobs, forAll_singleton]
    rfl

/-- Settles O60: the points by what `setPoint` leaves of a hub, the forces by the kiln's record of the field. -/
theorem fieldPower : Obligations.FieldPower := ⟨operatingPoint, kilnForces⟩

end Sys2Proof.Machine
end

section
/-! PROOF of O20 (R185-R188, R202-R207, R449): telemetry sent, taken, missed and lost. -/

namespace Sys2Proof.Machine

open Sys2Proof

/-- Reading and clearing droop counters, one CSN after another: those listed read 0, nothing but CSNs is written (R185). -/
theorem forAll_clearDroop {l : List Nat} : ∀ {s : State}, s.wf = true →
    let t := forAll l (fun s c => s.updCsn c (fun x => { x with droop := 0 })) s
    t.hub = s.hub ∧ t.net = s.net ∧ t.wf = true ∧ ∀ c, c ∈ l ∨ (s.csnAt c).droop = 0 → (t.csnAt c).droop = 0 := by
  induction l with
  | nil => exact fun hwf => ⟨rfl, rfl, hwf, fun c hc => hc.resolve_left List.not_mem_nil⟩
  | cons d l ih =>
    intro s hwf
    obtain ⟨hhub, hnet, hwf', hdroop⟩ := ih (s := s.updCsn d (fun x => { x with droop := 0 })) (State.wf_updCsn hwf)
    refine ⟨hhub, hnet, hwf', fun c hc => hdroop c ?_⟩
    by_cases hcd : c = d
    · right
      rw [hcd, State.csnAt_updCsn_same hwf]
    · rw [State.csnAt_updCsn_other hcd]
      exact hc.imp_left fun hmem => (List.mem_cons.mp hmem).resolve_left hcd

theorem State.parts_congr {s t : State} (h : t.fn = s.fn) : t.parts = s.parts := by rw [State.parts, h, State.parts]

/-- With no partition there is nothing to settle (R190). -/
theorem State.settleTicks_of_parts_eq_nil {s : State} (h : s.parts = []) : s.settleTicks = s := by
  rw [State.settleTicks, h, forAll_nil]

theorem KField.account_next {k : KField} (h : k.ahead = []) : k.account k.acctTo = { k with acctTo := k.acctTo + 1 } := by
  simp [KField.account, h]

/-- What an interval without a droop over DTH leaves of a field's counts (R203). -/
theorem State.telemCounts_calm {s : State} {h : Nat} {t : Telem} (hdrp : t.drp.toNat ≤ bits s.kiln.didtF.toNat 16 16) :
    (s.telemCounts h t).overN = 0 ∧ (s.telemCounts h t).halve = (s.kfAt h).halve := by
  have hwide : decide (bits s.kiln.didtF.toNat 16 16 < t.drp.toNat) = false := decide_eq_false (Nat.not_lt.mpr hdrp)
  unfold State.telemCounts
  dsimp only
  rw [hwide]
  exact ⟨rfl, rfl⟩

/-- A newer report of a field under no force, and cool, gives the field the allowance that the root computes (R187, R202). -/
theorem State.takeTelem_calm {s : State} {h : Nat} {t : Telem} (hkf : twf KField.init s.kiln.fields = true)
    (hmuz : (s.hubAt h).muz = false) (hparts : s.parts = []) (hnew : s.telemNew h t = true)
    (hacct : (s.kfAt h).hasAcct (s.intvOf t.seq) = true) (halert : (s.kfAt h).alertForce = false)
    (htherm : (s.kfAt h).thermForce = false) (hloss : (s.kfAt h).lossForce = false) (hhalve : (s.kfAt h).halve = 0)
    (hdrp : t.drp.toNat ≤ bits s.kiln.didtF.toNat 16 16) (hcool : t.tmax.toNat < 8 * s.kiln.thot) :
    let u := s.takeTelem h t
    let w := paceWord (s.kiln.pace t).1 (s.kiln.pace t).2
    (u.kfAt h).seq = some t.seq ∧ (u.kfAt h).tmax = t.tmax ∧ (u.kfAt h).opf = t.opf ∧ (u.kfAt h).overN = 0 ∧
      (u.kfAt h).word = w ∧ u.net = s.net ++ [.mgmt h (s.hubAt h).epoch (.allowance w)] := by
  dsimp only
  generalize ha : s.updKf h (fun k => { k with tmax := t.tmax }) = a
  have hkfa : twf KField.init a.kiln.fields = true := ha ▸ State.twf_updKf hkf
  have hreada : a.kfAt h = { s.kfAt h with tmax := t.tmax } := by
    rw [← ha]
    exact State.kfAt_updKf_same hkf
  obtain ⟨hover, hhalve'⟩ := State.telemCounts_calm (s := a) (h := h) (t := t) (by rw [← ha]; exact hdrp)
  rw [hreada] at hhalve'
  generalize hk : a.telemCounts h t = k at hover hhalve'
  have hkept : k.seq = some t.seq ∧ k.tmax = t.tmax ∧ k.opf = t.opf ∧ k.alertForce = false ∧ k.thermForce = false ∧
      k.lossForce = false := by
    rw [← hk]
    unfold State.telemCounts
    dsimp only
    rw [hreada]
    exact ⟨rfl, rfl, rfl, halert, htherm, hloss⟩
  obtain ⟨hseq, htmax, hopf, halert', htherm', hloss'⟩ := hkept
  generalize hb : a.updKf h (fun _ => k) = b
  have hkfb : twf KField.init b.kiln.fields = true := hb ▸ State.twf_updKf hkfa
  have hreadb : b.kfAt h = k := by
    rw [← hb]
    exact State.kfAt_updKf_same hkfa
  have hpace : b.kiln.pace t = s.kiln.pace t := by rw [← hb, ← ha]; rfl
  generalize hc : b.newWord h t = c
  have hreadc : c.kfAt h = { k with word := paceWord (s.kiln.pace t).1 (s.kiln.pace t).2, halve := k.halve - 1 } := by
    rw [← hc, State.newWord, State.kfAt_updKf_same hkfb, hreadb, hhalve', hhalve, if_pos rfl, hpace]
  have hkfc : twf KField.init c.kiln.fields = true := hc ▸ State.twf_updKf hkfb
  generalize hd : c.updKf h (fun k => { k with lossForce := false, thermForce := k.thermForce || false, cool := k.cool }) = d
  have hreadd : d.kfAt h = { c.kfAt h with lossForce := false, thermForce := (c.kfAt h).thermForce || false } := by
    rw [← hd]
    exact State.kfAt_updKf_same hkfc
  have hforced : (d.kfAt h).forced = false := by simp [hreadd, hreadc, KField.forced, halert', htherm']
  have hhot : decide (8 * c.kiln.thot ≤ t.tmax.toNat) = false := by
    have hthot : c.kiln.thot = s.kiln.thot := by rw [← hc, ← hb, ← ha]; rfl
    rw [hthot]
    exact decide_eq_false (Nat.not_le.mpr hcool)
  have hframe : d.fn = s.fn ∧ d.hub = s.hub ∧ d.net = s.net := by
    simp only [← hd, ← hc, ← hb, ← ha, State.newWord, State.updKf_fn, State.updKf_hub, State.updKf_net, and_self]
  obtain ⟨hfn, hhub, hnet⟩ := hframe
  have hepoch : (d.hubAt h).epoch = (s.hubAt h).epoch := by rw [State.hubAt, hhub, State.hubAt]
  have hwhole : s.takeTelem h t = d.mgmtTo h (.allowance (d.kfAt h).word) := by
    have hparts' : (d.mgmtTo h (.allowance (d.kfAt h).word)).parts = [] := by
      exact (State.parts_congr hfn).trans hparts
    rw [State.takeTelem, if_neg (by simp [hmuz, hnew])]
    dsimp only
    simp only [if_pos hacct, ha, hk, hb, hc, hhot, hloss', Bool.false_and, Bool.false_eq_true, if_false]
    rw [hd, hforced, if_neg Bool.false_ne_true, State.settleTicks_of_parts_eq_nil hparts']
  have hword : (d.kfAt h).word = paceWord (s.kiln.pace t).1 (s.kiln.pace t).2 := by rw [hreadd, hreadc]
  have hread : (s.takeTelem h t).kfAt h = d.kfAt h := by rw [hwhole]; rfl
  rw [hread, hword, hreadd, hreadc]
  refine ⟨hseq, htmax, hopf, hover, rfl, ?_⟩
  rw [hwhole, hword, ← hnet, ← hepoch]
  rfl

/-- Settles O20: each kind of report by the record of its field in the kiln. -/
theorem telemetry : Obligations.Telemetry := by
  intro s hub m
  dsimp only
  intro hwf hkf hnone hmuz
  refine ⟨fun hn hnew hrst => ?_, ?_, fun hparts hahead hdue => ?_, fun hloss hsilent => ?_⟩
  · have hcsns : s.droopCsns hub.val = (List.range 96).map (fun l => hub.val * 128 + l) := by
      refine List.filter_eq_self.mpr fun c hc => ?_
      obtain ⟨l, hl, rfl⟩ := List.mem_map.mp hc
      simp [hrst l (List.mem_range.mp hl)]
    obtain ⟨hhub, hnet, hwf', hdroop⟩ := forAll_clearDroop (l := s.droopCsns hub.val) hwf
    generalize hu : forAll (s.droopCsns hub.val) (fun s c => s.updCsn c (fun x => { x with droop := 0 })) s = u at *
    have hread : u.hubAt hub.val = s.hubAt hub.val := by rw [State.hubAt, hhub]; rfl
    refine .of_exec (t := (u.updHub hub.val (fun x => { x with
      intv := BitVec.ofNat 16 s.intvNow, drp := List.replicate 8 0, avs := [], alr := x.alert })).send
        (.telem hub.val (s.telemOf hub.val (s.intvNow - 1)))) ?_ ⟨?_, ?_, ?_, fun l hl => ?_, ?_⟩
    · rw [← hu]
      exact congrArg Host.Outcome.next (if_neg (by simp [hmuz, hn, hnew]))
    · rw [State.send_hubAt, State.hubAt_updHub_same hwf']
    · rw [State.send_hubAt, State.hubAt_updHub_same hwf']
    · rw [State.send_hubAt, State.hubAt_updHub_same hwf', hread]
    · refine hdroop _ (.inl ?_)
      rw [hcsns]
      exact List.mem_map.mpr ⟨l, List.mem_range.mpr hl, rfl⟩
    · change u.net ++ _ = _
      rw [hnet]
  · intro harrives hparts hnew hacct halert htherm hloss hhalve hdrp hcool
    refine .of_exec (congrArg Host.Outcome.next (if_neg (by simp [harrives]))) ?_
    exact State.takeTelem_calm (s := s.taken (.telem hub.val m)) hkf hmuz hparts hnew hacct halert htherm hloss hhalve hdrp hcool
  · have hmissed : s.telemMissed hub.val = s.updKf hub.val (fun k => k.account (s.kfAt hub.val).acctTo) := by
      have hshare {n : Nat} {e : Q} : s.chargeShare hub.val n e = s := by
        rw [State.chargeShare, hparts]
        rfl
      have hno : ¬ ((s.hubAt hub.val).muz ||
          decide (s.now < s.kiln.base + ((s.kfAt hub.val).acctTo + 2) * intvLen + cyc 3000)) = true := by
        rw [hmuz, Bool.false_or, decide_eq_true_eq]
        exact Nat.not_lt.mpr hdue
      rw [State.telemMissed, if_neg hno, hshare]
      exact State.settleTicks_of_parts_eq_nil hparts
    refine .of_exec (congrArg Host.Outcome.next hmissed) ⟨?_, rfl, rfl⟩
    rw [State.kfAt_updKf_same hkf, KField.account_next hahead]
  · have hlost : s.telemLost hub.val =
        ((s.updKf hub.val (fun k => { k with lossForce := true, quiet := 0 })).kilnForce hub.val).report 0x0F
          (unitId .hub hub.val) 1 0 9 none := if_neg (by simp [hloss, hmuz, hsilent])
    generalize hu : s.updKf hub.val (fun k => { k with lossForce := true, quiet := 0 }) = u at hlost
    have hread : u.kfAt hub.val = { s.kfAt hub.val with lossForce := true, quiet := 0 } := by
      rw [← hu]
      exact State.kfAt_updKf_same hkf
    have hspan : u.span.st ≠ .member := by
      rw [← hu, State.updKf_span, hnone]
      decide
    obtain ⟨hkiln, hnet⟩ := State.noticeField_frame (h := hub.val) (opb := (u.kfAt hub.val).opf) (fs := u.fnsIn hub.val)
      (s := (u.mgmtTo hub.val (.opForce true)).mgmtTo hub.val (.allowance alertWord))
    have hkf' : (u.kilnForce hub.val).kfAt hub.val = u.kfAt hub.val := congrArg (fun k : Kiln => tget KField.init k.fields hub.val) hkiln
    refine .of_exec (congrArg Host.Outcome.next hlost) ⟨?_, mkLog 0x0F (unitId .hub hub.val) 1 0 9 none 1
      (u.kilnForce hub.val).peek (u.kilnForce hub.val).drawn.peek, rfl, State.report_net.trans ?_⟩
    · change ((u.kilnForce hub.val).kfAt hub.val).lossForce = true
      rw [hkf', hread]
    · rw [show (u.kilnForce hub.val).net = _ from hnet hspan, ← hu]
      simp only [State.mgmtTo, State.updKf_hubAt, State.send, State.updKf_net]
      simp only [List.append_assoc, List.cons_append, List.nil_append]
      rfl

end Sys2Proof.Machine
end

section
/-! REFUTATION of O21 (R229, R235). Its fifth clause lets a failed replay end every cask barrier; the model ends one that asks
for an epoch not yet committed, and keeps one that waits only for its write to the store. -/

namespace Sys2Proof.Machine

open Sys2Proof

/-- A cask barrier of the epoch that its partition has committed. -/
def caskOfEpoch0 : CaskReq := { ring := 0, sqi := 0, epoch := 0, job := 0 }

/-- A lead whose job 0 is SUSPECT, has waited four ticks for ready members, and has a cask barrier at its committed epoch. -/
def readyTooLate : State :=
  { State.reset with
    fn := [(0, { Fn.init with cst := .suspect, job := true, readyWait := 4, cask := some caskOfEpoch0 })]
    span := { State.reset.span with st := .lead } }

theorem readyTooLate_exec :
    exec (.replayReadyTimeout 0) readyTooLate = .next (readyTooLate.failStep 0 false) :=
  congrArg Host.Outcome.next (if_pos (by decide +kernel))

theorem readyTooLate_keeps_cask : ((readyTooLate.failStep 0 false).fnAt 0).cask ≠ none := by decide +kernel

/-- Refutes O21: in `readyTooLate` the replay fails, and the cask barrier stays. -/
theorem not_stepCommands : ¬ Obligations.StepCommands := by
  intro h
  obtain ⟨-, -, -, -, hlate, -⟩ := h readyTooLate 0 ⟨0, 0, 0, 0, 0, 0, 0, 0, [], [], []⟩ ⟨0, 0, 0, 0⟩ 0 0 0 (by decide +kernel)
  obtain ⟨t, hexec, -, -, hcask⟩ := hlate rfl rfl rfl (by decide +kernel) (by decide)
  rw [readyTooLate_exec] at hexec
  cases hexec
  exact readyTooLate_keeps_cask hcask

end Sys2Proof.Machine
end

section
/-! SUPPORT. The frame of what works below the root: the operations of a cluster and of a hub's records write the units of
clusters and hubs, functions' counts, messages and outputs. -/

namespace Sys2Proof.Machine

open Sys2Proof

/-- What stands above the hubs: a state without what clusters, hubs, kennel entries, fields' records and functions hold, without
messages, outputs and drawn values. -/
def State.aboveHubs (s : State) : State :=
  { s with fresh := 0, net := [], out := [], csn := [], core := [], hub := [], ken := [], frec := [], fn := [] }

section Reads

variable {s t : State} (h : t.aboveHubs = s.aboveHubs)
include h

theorem State.now_of_aboveHubs : t.now = s.now := (congrArg State.now h :)
theorem State.prec_of_aboveHubs : t.prec = s.prec := (congrArg State.prec h :)
theorem State.rfolds_of_aboveHubs : t.rfolds = s.rfolds := (congrArg State.rfolds h :)
theorem State.tick_of_aboveHubs : t.tick = s.tick := (congrArg State.tick h :)
theorem State.kiln_of_aboveHubs : t.kiln = s.kiln := (congrArg State.kiln h :)
theorem State.kat_of_aboveHubs : t.kat = s.kat := (congrArg State.kat h :)
theorem State.mgr_of_aboveHubs : t.mgr = s.mgr := (congrArg State.mgr h :)
theorem State.mesh_of_aboveHubs : t.mesh = s.mesh := (congrArg State.mesh h :)
theorem State.span_of_aboveHubs : t.span = s.span := (congrArg State.span h :)
theorem State.bru_of_aboveHubs : t.bru = s.bru := (congrArg State.bru h :)
theorem State.precAt_of_aboveHubs (b : Nat) : t.precAt b = s.precAt b := (congrArg (fun u : State => u.precAt b) h :)

end Reads

section Writes

variable {s : State} {k : Nat}

@[simp] theorem State.aboveHubs_updCsn {g} : (s.updCsn k g).aboveHubs = s.aboveHubs := rfl
@[simp] theorem State.aboveHubs_updCore {g} : (s.updCore k g).aboveHubs = s.aboveHubs := rfl
@[simp] theorem State.aboveHubs_updHub {g} : (s.updHub k g).aboveHubs = s.aboveHubs := rfl
@[simp] theorem State.aboveHubs_updKen {g} : (s.updKen k g).aboveHubs = s.aboveHubs := rfl
@[simp] theorem State.aboveHubs_updFr {b g} : (s.updFr k b g).aboveHubs = s.aboveHubs := rfl
@[simp] theorem State.aboveHubs_updFn {g} : (s.updFn k g).aboveHubs = s.aboveHubs := rfl
@[simp] theorem State.aboveHubs_send {m} : (s.send m).aboveHubs = s.aboveHubs := rfl
@[simp] theorem State.aboveHubs_sendAll {ms} : (s.sendAll ms).aboveHubs = s.aboveHubs := rfl
@[simp] theorem State.aboveHubs_taken {m} : (s.taken m).aboveHubs = s.aboveHubs := rfl
@[simp] theorem State.aboveHubs_emit {g} : (s.emit g).aboveHubs = s.aboveHubs := rfl
@[simp] theorem State.aboveHubs_emitAll {gs} : (s.emitAll gs).aboveHubs = s.aboveHubs := rfl
@[simp] theorem State.aboveHubs_drawn : s.drawn.aboveHubs = s.aboveHubs := rfl

@[simp] theorem aboveHubs_forAll {α : Type} {l : List α} {g : State → α → State}
    (hg : ∀ (t : State) (x : α), (g t x).aboveHubs = t.aboveHubs) : (forAll l g s).aboveHubs = s.aboveHubs :=
  forAll_induct (P := fun t => t.aboveHubs = s.aboveHubs) rfl (fun t x h => (hg t x).trans h)

/-! ### Kennel requests at the CSN -/

@[simp] theorem State.aboveHubs_sendKen {op q t} : (s.sendKen k op q t).aboveHubs = s.aboveHubs := by
  unfold State.sendKen
  dsimp only
  split_ifs <;> simp

@[simp] theorem State.aboveHubs_launch {r} : (s.launch k r).aboveHubs = s.aboveHubs := by simp [State.launch]

@[simp] theorem State.aboveHubs_pushReq {t} : (s.pushReq k t).aboveHubs = s.aboveHubs := by
  unfold State.pushReq
  dsimp only
  split
  · rfl
  · split
    · split_ifs <;> simp
    · simp
    · rfl

@[simp] theorem State.aboveHubs_pushReqs : (s.pushReqs k).aboveHubs = s.aboveHubs :=
  aboveHubs_forAll fun _ _ => State.aboveHubs_pushReq

@[simp] theorem State.aboveHubs_issueKen {op q} : (s.issueKen k op q).aboveHubs = s.aboveHubs := by
  unfold State.issueKen
  dsimp only
  split_ifs <;> simp

/-! ### Barrier entries at the CSN -/

@[simp] theorem State.aboveHubs_endWaits {ix st g res c} : (s.endWaits k ix st g res c).aboveHubs = s.aboveHubs := by
  unfold State.endWaits
  dsimp only
  rw [State.aboveHubs_updCsn, aboveHubs_forAll, State.aboveHubs_emitAll]
  intro t n
  cases c <;> rfl

@[simp] theorem State.aboveHubs_endGen {ix st c} : (s.endGen k ix st c).aboveHubs = s.aboveHubs := by simp [State.endGen]

@[simp] theorem State.aboveHubs_sendArrive {ix g body pois v} : (s.sendArrive k ix g body pois v).aboveHubs = s.aboveHubs := rfl

@[simp] theorem State.aboveHubs_legDone {ix} : (s.legDone k ix).aboveHubs = s.aboveHubs := by
  unfold State.legDone
  dsimp only
  split_ifs <;> simp

@[simp] theorem State.aboveHubs_relEnt {ix st res} : (s.relEnt k ix st res).aboveHubs = s.aboveHubs := by
  unfold State.relEnt
  dsimp only
  split_ifs <;> simp

@[simp] theorem State.aboveHubs_relLocal {ix} : (s.relLocal k ix).aboveHubs = s.aboveHubs := by
  unfold State.relLocal
  dsimp only
  split_ifs <;> simp

@[simp] theorem State.aboveHubs_arriveAt {ix} : (s.arriveAt k ix).1.aboveHubs = s.aboveHubs := by
  unfold State.arriveAt
  dsimp only
  split_ifs <;> simp

@[simp] theorem State.aboveHubs_waitAt {ix g w} : (s.waitAt k ix g w).aboveHubs = s.aboveHubs := by
  unfold State.waitAt
  dsimp only
  split_ifs <;> simp

@[simp] theorem State.aboveHubs_anyEnd : (s.anyEnd k).aboveHubs = s.aboveHubs := rfl

@[simp] theorem State.aboveHubs_doOp {o} : (s.doOp k o).aboveHubs = s.aboveHubs := by
  cases o with
  | ken op q => exact State.aboveHubs_issueKen
  | arrive b =>
    simp only [State.doOp]
    split <;> simp
  | wait b g w =>
    simp only [State.doOp]
    split <;> simp
  | sync b =>
    simp only [State.doOp]
    split
    · split_ifs <;> simp
    · simp

theorem aboveHubs_settleGo {fuel : Nat} : ∀ {s : State}, (settleGo k fuel s).aboveHubs = s.aboveHubs := by
  induction fuel with
  | zero => exact rfl
  | succ fuel ih =>
    intro s
    unfold settleGo
    split
    · rfl
    · split
      · rfl
      · rw [ih, State.aboveHubs_doOp, State.aboveHubs_updCore]

@[simp] theorem State.aboveHubs_settle : (s.settle k).aboveHubs = s.aboveHubs := aboveHubs_settleGo

@[simp] theorem State.aboveHubs_freeLeg {b p} : (s.freeLeg k b p).aboveHubs = s.aboveHubs := by
  unfold State.freeLeg
  split <;> simp

@[simp] theorem State.aboveHubs_freeLegs {b} : (s.freeLegs k b).aboveHubs = s.aboveHubs :=
  aboveHubs_forAll fun _ _ => State.aboveHubs_freeLeg

/-! ### Records and timers at a hub -/

@[simp] theorem State.aboveHubs_disarm {l u} : (s.disarm k l u).aboveHubs = s.aboveHubs := by cases l <;> rfl

@[simp] theorem State.aboveHubs_stopBarrier {b} : (s.stopBarrier k b).aboveHubs = s.aboveHubs := by simp [State.stopBarrier]

@[simp] theorem State.aboveHubs_idleHub {b bump} : (s.idleHub k b bump).aboveHubs = s.aboveHubs := by simp [State.idleHub]

@[simp] theorem State.aboveHubs_relocate {u} : (s.relocate u).aboveHubs = s.aboveHubs := by cases u <;> rfl

@[simp] theorem State.aboveHubs_armBarrier {b} : (s.armBarrier k b).aboveHubs = s.aboveHubs := by
  unfold State.armBarrier
  dsimp only
  split
  · rfl
  · split
    · rfl
    · split
      · simp
      · split <;> simp

@[simp] theorem State.aboveHubs_armHub {b g} : (s.armHub k b g).aboveHubs = s.aboveHubs := by
  unfold State.armHub
  dsimp only
  split_ifs <;> simp

@[simp] theorem State.aboveHubs_hubNextGen {b} : (s.hubNextGen k b).aboveHubs = s.aboveHubs := by
  unfold State.hubNextGen
  dsimp only
  split_ifs <;> simp

end Writes

end Sys2Proof.Machine
end

section
/-! PROOF of O54 (R65, R427-R431, R445): broadcast loading and its repair. -/

namespace Sys2Proof.Machine

open Sys2Proof

/-! ### Routes are read from the mesh alone (R58, R59) -/

section Routes

variable {s t : State} (h : t.mesh = s.mesh)
include h

theorem State.meshNext_congr : t.meshNext = s.meshNext := by
  unfold State.meshNext State.linkOut State.linkAt
  rw [h]

theorem State.meshSearch_congr {goal : Nat → Bool} {n : Nat} :
    ∀ {d front seen}, t.meshSearch goal n d front seen = s.meshSearch goal n d front seen := by
  induction n with
  | zero => exact rfl
  | succ n ih =>
    intro d front seen
    unfold State.meshSearch
    dsimp only
    rw [State.meshNext_congr h, ih]

theorem State.reachable_congr {c : Nat} : t.reachable c = s.reachable c := by
  have hsearch : t.meshDist = s.meshDist := by
    funext src goal
    rw [State.meshDist, State.meshDist, State.meshSearch_congr h, h]
  unfold State.reachable State.hopsFromHub State.columnUp State.atHub State.linkAt
  rw [hsearch, h]

end Routes

/-! ### Packets at a CSN (R65, R427-R429) -/

theorem State.csnAt_emit_updCsn {s : State} {c : Nat} {g : Csn → Csn} {o : Sig} (hwf : s.wf = true) :
    ((s.emit o).updCsn c g).csnAt c = g (s.csnAt c) := State.csnAt_updCsn_same (s := s.emit o) hwf

/-- A data packet of the load's function is written and counted (R427). -/
theorem State.takePkt_data {s : State} {c : Nat} {p : LoadPkt} (hrst : (s.csnAt c).rst = none)
    (hopen : (s.csnAt c).loadOpen = true) (hseq : p.seq ≠ 0xFFFFFFFF) (hfn : p.func.val = (s.fnOf c).getD 0) :
    s.takePkt c p = (s.emit (.cmWrite c p.addr.toNat p.data)).updCsn c
      (fun x => { x with nrcv := Nat.min (x.nrcv + 1) 16777215 }) := by
  have hcount : ((s.csnAt c).loadOpen && p.func.val == ((s.emit (.cmWrite c p.addr.toNat p.data)).fnOf c).getD 0) = true := by
    rw [hopen, hfn]
    exact beq_self_eq_true _
  unfold State.takePkt
  dsimp only
  rw [if_neg (by simp [hrst]), if_neg hseq, if_pos hcount]

/-- The first manifest of a load is kept (R427). -/
theorem State.takePkt_manifest {s : State} {c : Nat} {p : LoadPkt} (hrst : (s.csnAt c).rst = none)
    (hopen : (s.csnAt c).loadOpen = true) (hseq : p.seq = 0xFFFFFFFF) (hnone : (s.csnAt c).manifest = none) :
    s.takePkt c p = s.updCsn c (fun x => { x with manifest := some (manifestOf p.data) }) := by
  unfold State.takePkt
  dsimp only
  rw [if_neg (by simp [hrst]), if_pos hseq, if_pos (by simp [hopen, hnone])]

theorem exec_loadUc {s : State} {cl : Cluster} {p : LoadPkt} (harrives : s.stopped (.loadUc cl.id (s.csnAt cl.id).pepoch p) = false) :
    exec (.loadUc cl (s.csnAt cl.id).pepoch p) s =
      .next ((s.taken (.loadUc cl.id (s.csnAt cl.id).pepoch p)).takePkt cl.id p) := by
  refine congrArg Host.Outcome.next ((if_neg (by simp [harrives])).trans ?_)
  refine if_neg ?_
  rw [State.taken_csnAt]
  simp

theorem loadPackets : Says.LoadPackets := by
  intro s cl p bytes ix x tep m
  dsimp only
  intro hwf hents hrst hopen
  refine ⟨fun hseq hfn => ⟨fun since hnet hreach hturn => ?_, fun harrives => ?_⟩, fun hseq hnone harrives => ?_,
    fun hleg hopenGen => ?_, fun hman => ?_⟩
  · have hmsg : s.mcMsg cl.id p = .loadMc [cl.id] p since := by simp [State.mcMsg, hnet]
    have htaken : s.mcTaken cl.id (.loadMc [cl.id] p since) = { s with net := [] } := by simp [State.mcTaken, hnet]
    have hpkt := State.takePkt_data (s := { s with net := [] }) (c := cl.id) hrst hopen hseq hfn
    refine .of_exec (t := ({ s with net := [] } : State).takePkt cl.id p) (congrArg Host.Outcome.next ?_) ?_
    · dsimp only
      rw [hmsg, hturn, htaken, if_neg (by decide)]
      exact if_pos ((State.reachable_congr (t := { s with net := [] }) (s := s) rfl).trans hreach)
    · rw [hpkt]
      refine ⟨⟨?_, rfl⟩, rfl⟩
      rw [State.csnAt_emit_updCsn (s := { s with net := [] }) hwf]
      rfl
  · refine .of_exec (exec_loadUc harrives) ?_
    rw [State.takePkt_data (by exact hrst) (by exact hopen) hseq (by exact hfn)]
    refine ⟨⟨?_, rfl⟩, rfl⟩
    rw [State.csnAt_emit_updCsn (by exact hwf)]
    rfl
  · refine .of_exec (exec_loadUc harrives) ?_
    rw [State.takePkt_manifest (by exact hrst) (by exact hopen) hseq (by exact hnone)]
    rw [State.csnAt_updCsn_same (by exact hwf)]
    exact ⟨rfl, rfl, rfl⟩
  · have hchk : exec (.loadCheck cl bytes) s = .next ((s.taken (.status cl.id 1)).loadCheck cl.id bytes) :=
      congrArg Host.Outcome.next (State.onStatus_eq (by exact hrst))
    have hsent : (s.taken (.status cl.id 1)).loadCheck cl.id bytes = ((s.taken (.status cl.id 1)).updCsn cl.id
        (fun c => c.setEnt ix { (s.csnAt cl.id).entAt ix with arr := ((s.csnAt cl.id).entAt ix).exp })).sendArrive cl.id ix
        ((s.csnAt cl.id).entAt ix).gen [] false (.load ((s.csnAt cl.id).loadVerdict bytes)) := by
      unfold State.loadCheck
      dsimp only
      rw [State.taken_csnAt, hleg]
      exact if_neg (by simp [hopen, hopenGen])
    refine .of_exec (hchk.trans (congrArg Host.Outcome.next hsent)) ⟨?_, _, _, _, rfl, rfl, rfl, rfl⟩
    have hent := entAt_updCsn_setEnt (s := s.taken (.status cl.id 1)) (cl := cl.id) (i := ix) (e :=
      { (s.csnAt cl.id).entAt ix with arr := ((s.csnAt cl.id).entAt ix).exp }) (g := fun _ => _) hwf hents rfl
    exact congrArg BarEntry.arr hent
  · refine congrArg Host.Outcome.next ((if_neg (by simp [hrst])).trans ?_)
    change s.loadSend cl.id x.id tep bytes = _
    unfold State.loadSend
    rw [hman]

/-! ### Repair rounds and BOOT_LOAD (R429-R432) -/

theorem State.armHub_effect {s : State} {h b : Nat} {g : Byte} (hwf : s.wf = true) :
    (s.armHub h b g).net = s.net ∧ (s.armHub h b g).wf = true := by
  unfold State.armHub
  dsimp only
  split
  · have hwf' : (s.updFr h b (fun r => { r with st := .armed })).wf = true := State.wf_updFr hwf
    obtain ⟨-, -, hnet, -⟩ := State.armBarrier_effect (h := h) (b := b) hwf'
    exact ⟨hnet, (State.armBarrier_keeps (.refl _)).canon hwf'⟩
  · exact ⟨rfl, hwf⟩

/-- A gathering generation, not yet complete, is opened without a message from the root (R109, R112). -/
theorem State.openGen_effect {s : State} {b : Nat} (hwf : s.wf = true) (hgather : (s.precAt b).st = .gather)
    (hearly : (s.precAt b).early = false) (hopen : (s.precAt b).farr ≠ (s.precAt b).fexp) :
    (s.openGen b).precAt b = { s.precAt b with st := .armed } ∧ (s.openGen b).net = s.net ∧ (s.openGen b).bru = s.bru := by
  generalize hu : s.updPrec b (fun r => { r with st := .armed }) = u
  have hreadu : u.precAt b = { s.precAt b with st := .armed } := by
    rw [← hu]
    exact State.precAt_updPrec_same hwf
  have harmed := forAll_induct (P := fun t => t.net = u.net ∧ t.wf = true) (l := mfsFields (s.precAt b).mfs)
    (g := fun s' h => s'.armHub h b (s.precAt b).gen) (s := u) ⟨rfl, hu ▸ State.wf_updPrec hwf⟩
    (fun t h ⟨hnet, hwft⟩ => ⟨(State.armHub_effect hwft).1.trans hnet, (State.armHub_effect hwft).2⟩)
  have habove : (forAll (mfsFields (s.precAt b).mfs) (fun s' h => s'.armHub h b (s.precAt b).gen) u).aboveHubs = u.aboveHubs :=
    aboveHubs_forAll fun _ _ => State.aboveHubs_armHub
  have hopened : s.openGen b = forAll (mfsFields (s.precAt b).mfs) (fun s' h => s'.armHub h b (s.precAt b).gen) u := by
    have hstill : ¬ ((forAll (mfsFields (s.precAt b).mfs) (fun s' h => s'.armHub h b (s.precAt b).gen) u).precAt b).complete = true := by
      rw [State.precAt_of_aboveHubs habove, hreadu]
      simp [RootRec.complete, hearly, hopen]
    unfold State.openGen
    dsimp only
    rw [hgather]
    unfold State.openNow
    dsimp only
    rw [hu]
    exact if_neg hstill
  rw [hopened, State.precAt_of_aboveHubs habove, hreadu, State.bru_of_aboveHubs habove, harmed.1, ← hu]
  exact ⟨rfl, rfl, rfl⟩

/-- Cores held for a BOOT_LOAD (R431). -/
def State.coresHeld (s : State) (cs : List Nat) : State :=
  forAll cs (fun s c => forAll (s.coresOf c) (fun s n => s.updCore n (fun x => { x with go := false })) s) s

/-- The load that a BOOT_LOAD asks for (R431). -/
def bootLoadOf (f : Nat) (cs : List Nat) (m : Manifest) : Load :=
  { func := some f, set := cs, man := m, round := 0, bad := [], bads := [], checking := false, donors := [], begun := false }

theorem State.coresHeld_frame {s : State} {cs : List Nat} (hwf : s.wf = true) :
    (s.coresHeld cs).fn = s.fn ∧ (s.coresHeld cs).net = s.net ∧ (s.coresHeld cs).wf = true := by
  refine forAll_induct (P := fun t => t.fn = s.fn ∧ t.net = s.net ∧ t.wf = true) ⟨rfl, rfl, hwf⟩ fun t c ht => ?_
  exact forAll_induct (P := fun t => t.fn = s.fn ∧ t.net = s.net ∧ t.wf = true) ht
    fun u n ⟨hfn, hnet, hwfu⟩ => ⟨hfn, hnet, State.wf_updCore hwfu⟩

theorem repairAndBootLoad : Says.RepairAndBootLoad := by
  intro s hub d x ep m l
  dsimp only
  intro hwf
  have hexec (harrives : ∀ g, s.stopped (.mgmt hub.val (s.hubAt hub.val).epoch g) = false) (g : MgmtMsg) :
      exec (.mgmt hub (s.hubAt hub.val).epoch g) s = .next (s.takeMgmt hub.val (s.hubAt hub.val).epoch g) :=
    congrArg Host.Outcome.next (if_neg (by simp [harrives g]))
  have htake (hmuz : (s.hubAt hub.val).muz = false) (g : MgmtMsg) :
      ¬ (((s.taken (.mgmt hub.val (s.hubAt hub.val).epoch g)).hubAt hub.val).muz ||
        (s.hubAt hub.val).epoch != ((s.taken (.mgmt hub.val (s.hubAt hub.val).epoch g)).hubAt hub.val).epoch) = true := by
    simp [hmuz]
  refine ⟨fun harrives hmuz => ?_, fun harrives hmuz hman => ?_, fun hload hbegun hchecking hgather hearly hopen => ?_,
    fun hstep hgo hop hload => ⟨fun hnone => ?_, fun hsome => ?_⟩⟩
  · refine .of_exec (hexec harrives _) ?_
    unfold State.takeMgmt
    dsimp only
    rw [if_neg (htake hmuz _), State.csnAt_updCsn_same (by exact hwf)]
    exact ⟨rfl, rfl⟩
  · rw [hexec harrives]
    refine congrArg Host.Outcome.next ?_
    unfold State.takeMgmt
    dsimp only
    rw [if_neg (htake hmuz _), State.taken_csnAt, hman]
  · have hread : ((s.openGen 65535).sendAll (l.set.map (fun c => .status c 1))).precAt 65535 =
        { s.precAt 65535 with st := .armed } := (State.openGen_effect hwf hgather hearly hopen).1
    obtain ⟨-, hnet, hbru⟩ := State.openGen_effect hwf hgather hearly hopen
    refine .of_exec (t := s.orderCheck l) ?_ ⟨rfl, ?_, ?_⟩
    · change (match s.bru.load with
        | some l => if l.begun && !l.checking then Host.Outcome.next (s.orderCheck l) else .next s
        | none => .next s) = _
      rw [hload]
      exact if_pos (by simp [hbegun, hchecking])
    · change (((s.openGen 65535).sendAll (l.set.map (fun c => .status c 1))).precAt 65535).st = _
      rw [hread]
    · change (s.openGen 65535).net ++ _ = _
      rw [hnet]
  · have hruns : s.bruRuns 7 = true := by simp [State.bruRuns, hstep, hgo, hop]
    refine congrArg Host.Outcome.next ?_
    rw [State.bootLoad, if_neg (by simp [hruns, hload])]
    exact if_pos hnone
  · have hruns : s.bruRuns 7 = true := by simp [State.bruRuns, hstep, hgo, hop]
    let u := s.coresHeld (s.fnAt s.bru.func.val).members
    have hload' : s.bootLoad = { u.decideReset s.bru.func.val 0 false with bru := { u.bru with
        load := some (bootLoadOf s.bru.func.val (s.fnAt s.bru.func.val).members u.cask.bootManifest) } } := by
      rw [State.bootLoad, if_neg (by simp [hruns, hload])]
      exact if_neg hsome
    obtain ⟨hfn, hnet, hwf'⟩ := State.coresHeld_frame (cs := (s.fnAt s.bru.func.val).members) hwf
    refine .of_exec (congrArg Host.Outcome.next hload') ⟨?_, hnet, _, rfl, rfl, rfl, rfl⟩
    change (((s.coresHeld (s.fnAt s.bru.func.val).members).decideReset s.bru.func.val 0 false).fnAt s.bru.func.val).rst ≠ none
    rw [State.decideReset, State.fnAt_updFn_same hwf']
    dsimp only
    split <;> exact Option.some_ne_none _

/-! ### The end of a load (R428, R431, R445) -/

@[simp] theorem State.aboveHubs_releaseCores {s : State} {c : Nat} {entry : BitVec 22} :
    (s.releaseCores c entry).aboveHubs = s.aboveHubs := by
  unfold State.releaseCores
  dsimp only
  rw [aboveHubs_forAll]
  · rfl
  · intro t n
    split <;> rfl

/-- Where no member hub still has clusters, a released barrier returns to IDLE (R111). -/
theorem State.nextGen_of_no_members {s : State} {b : Nat} (hnone : ∀ h, (s.frecOf h b).mem = 0) :
    s.nextGen b = s.updPrec b (fun r => { r.toIdle with gen := r.gen + 1 }) := by
  have hleft : (mfsFields (s.precAt b).mfs).filter (fun h => (s.frecOf h b).mem != 0) = [] := by
    rw [List.filter_eq_nil_iff]
    intro h _
    simp [hnone h]
  unfold State.nextGen
  dsimp only
  rw [hleft, if_pos rfl]

/-- An idle barrier's legs and records go without a change of the tick or of bring-up (R108). -/
theorem State.idleBarrier_of_idle {s : State} {b : Nat} {legs : Bool} (hidle : (s.precAt b).st = .idle) :
    (s.idleBarrier b legs).tick = s.tick ∧ (s.idleBarrier b legs).bru = s.bru ∧ (s.idleBarrier b legs).now = s.now := by
  generalize hu : (if legs then forAll (s.legClusters b) (fun s c => s.freeLegs c b) s else s) = u
  have hlegs : u.aboveHubs = s.aboveHubs := by
    rw [← hu]
    split
    · exact aboveHubs_forAll fun _ _ => State.aboveHubs_freeLegs
    · rfl
  have hidleHubs : (forAll (List.range 84) (fun s h => if (s.frecOf h b).st = .idle then s else s.idleHub h b true) u).aboveHubs =
      u.aboveHubs := aboveHubs_forAll fun t h => by split <;> simp
  have hboth := hidleHubs.trans hlegs
  have hbarrier : s.idleBarrier b legs =
      (forAll (List.range 84) (fun s h => if (s.frecOf h b).st = .idle then s else s.idleHub h b true) u).idleRoot b := by
    rw [← hu]
    rfl
  generalize forAll (List.range 84) (fun s h => if (s.frecOf h b).st = .idle then s else s.idleHub h b true) u = v at *
  have hroot : v.idleRoot b = v.updPrec b (fun r => { r with join := none }) := by
    unfold State.idleRoot
    dsimp only
    rw [State.precAt_of_aboveHubs hboth, if_pos (.inr hidle)]
  rw [hbarrier, hroot]
  exact ⟨(State.tick_of_aboveHubs hboth :), (State.bru_of_aboveHubs hboth :), (State.now_of_aboveHubs hboth :)⟩

/-- The CSNs of a load close it, and their cores start where it releases them (R431). -/
def State.csnsClosed (s : State) (l : Load) : State :=
  forAll l.set (fun s c =>
    if l.man.relcore then s.releaseCores c (BitVec.ofNat 22 l.man.entry.toNat)
    else s.updCsn c (fun x => { x with loadOpen := false })) s

theorem State.endLoad_eq {s : State} {l : Load} :
    let u := (s.idleBarrier 65535 true).csnsClosed l
    s.endLoad l = if l.func.isSome then ({ u with bru := { u.bru with load := none } } : State).bruDone .ok
      else ({ u with bru := { u.bru with load := none } } : State).bootLoaded := rfl

/-- The end of a load whose barrier has returned to IDLE leaves of the tick, of the time and of bring-up what its command, or
bring-up, goes on from (R431). -/
theorem State.csnsClosed_of_idle {s : State} {l : Load} (hidle : (s.precAt 65535).st = .idle) :
    let u := (s.idleBarrier 65535 true).csnsClosed l
    u.tick = s.tick ∧ u.now = s.now ∧ u.bru = s.bru := by
  obtain ⟨htick, hbru, hnow⟩ := State.idleBarrier_of_idle (legs := true) hidle
  generalize s.idleBarrier 65535 true = v at *
  have habove : (v.csnsClosed l).aboveHubs = v.aboveHubs := aboveHubs_forAll fun t c => by split <;> simp
  exact ⟨(State.tick_of_aboveHubs habove).trans htick, (State.now_of_aboveHubs habove).trans hnow,
    (State.bru_of_aboveHubs habove).trans hbru⟩

/-- A check with no cluster BAD ends the load (R428). -/
theorem State.loadDecide_clear {s : State} {l : Load} (hload : s.bru.load = some l) :
    ∃ l' : Load, l'.func = l.func ∧ s.loadDecide false [] = s.endLoad l' := by
  refine ⟨{ l with set := (l.set.filter s.loadable).filter (fun c => !([] : List Nat).contains c), checking := false }, rfl, ?_⟩
  unfold State.loadDecide
  dsimp only
  rw [hload]
  rfl

theorem loadEnds : Says.LoadEnds := by
  intro s l f
  dsimp only
  intro hwf hdeciding hscope hfenced hmasks hnone hload
  generalize hrel : ({ bar := 65535, gen := (s.precAt 65535).gen, nlost := (s.precAt 65535).nlost, stat := .ok, pois := false
                       res := { bytes := [], flags := [], ncont := (s.precAt 65535).ncl } } : Release) = rel
  have hroot : s.releaseRoot 65535 rel = _ := State.nextGen_of_no_members (by exact hnone)
  generalize hu : s.releaseRoot 65535 rel = u at *
  have hreleased : u.tick = s.tick ∧ u.now = s.now ∧ u.bru = s.bru ∧ (u.precAt 65535).st = .idle := by
    rw [hroot]
    refine ⟨rfl, rfl, rfl, ?_⟩
    rw [State.precAt_updPrec_same (by exact hwf)]
    rfl
  obtain ⟨htick, hnow, hbru, hidle⟩ := hreleased
  have hready : s.resultReady 65535 = u.loadDecide false [] := by
    have hok : ((s.precAt 65535).wstat == Status.fenced) = false := by simpa using hfenced
    rw [State.resultReady, if_neg hscope, if_pos hdeciding, if_pos rfl, State.loaderReady]
    rw [hok, hmasks, if_neg Bool.false_ne_true, hrel, hu]
  obtain ⟨l', hl', hend⟩ := State.loadDecide_clear (s := u) (l := l) (by rw [hbru, hload])
  obtain ⟨hvtick, hvnow, hvbru⟩ := State.csnsClosed_of_idle (l := l') hidle
  rw [State.endLoad_eq] at hend
  generalize (u.idleBarrier 65535 true).csnsClosed l' = v at *
  have hexec : exec (.barrierResultReady 65535) s = .next (s.resultReady 65535) := rfl
  refine ⟨fun hfunc hstep => ?_, fun hfunc => ?_⟩
  · rw [hl', hfunc] at hend
    refine .of_exec (hexec.trans (congrArg Host.Outcome.next (hready.trans hend))) ?_
    have hstep' : ({ v with bru := { v.bru with load := none } } : State).bootLoaded =
        ({ v with bru := { v.bru with load := none } } : State).bringUpOver := by
      have height : v.bru.step = 8 := by rw [hvbru, hbru, hstep]
      unfold State.bootLoaded
      rw [if_neg (fun h => by simp [height] at h), if_pos (.inr height)]
    rw [if_neg (by decide), hstep']
    refine ⟨rfl, rfl, fun hrun => ?_, fun hrun => ?_⟩
    · have htick' : v.tick = s.tick := hvtick.trans htick
      have hnow' : v.now = s.now := hvnow.trans hnow
      simp only [State.bringUpOver, htick', hnow', hrun, if_true]
      exact ⟨trivial, rfl⟩
    · have htick' : v.tick = s.tick := hvtick.trans htick
      simp only [State.bringUpOver, htick', hrun, Bool.false_eq_true, if_false]
  · rw [hl', hfunc] at hend
    refine .of_exec (hexec.trans (congrArg Host.Outcome.next (hready.trans hend))) ⟨rfl, rfl, rfl, ?_⟩
    exact hvtick.trans htick

/-- Settles O54: packets by what a CSN takes, orders by the loader's barrier, the end by the frame of `aboveHubs`. -/
theorem broadcastLoading : Obligations.BroadcastLoading := ⟨loadPackets, repairAndBootLoad, loadEnds⟩

end Sys2Proof.Machine
end

section
/-! PROOF of O22 (R103, R135, R389-R391, R404): ABORT and RESET_NOTE. -/

namespace Sys2Proof.Machine

open Sys2Proof

/-! ### The frame of phases and of resets at a CSN -/

section Frame

variable {s : State} {k : Nat}

@[simp] theorem State.aboveHubs_raise {c} : (s.raise k c).aboveHubs = s.aboveHubs := rfl

@[simp] theorem State.aboveHubs_tickCauses : (s.tickCauses k).aboveHubs = s.aboveHubs := aboveHubs_forAll fun _ _ => rfl

@[simp] theorem State.aboveHubs_legsRelease {r} : (s.legsRelease k r).aboveHubs = s.aboveHubs := by
  unfold State.legsRelease
  dsimp only
  rw [State.aboveHubs_settle, aboveHubs_forAll fun _ _ => State.aboveHubs_relEnt]
  split <;> simp

section Go

variable {go : Release → State → State} (hgo : ∀ r t, (go r t).aboveHubs = t.aboveHubs)
include hgo

theorem State.aboveHubs_phaseDo {t} : (s.phaseDo k t go).aboveHubs = s.aboveHubs := by
  cases t with
  | none => exact State.aboveHubs_tickCauses
  | some r => exact hgo r s

theorem aboveHubs_phaseGo {n : Nat} : ∀ {s : State}, (phaseGo k go n s).aboveHubs = s.aboveHubs := by
  induction n with
  | zero => exact rfl
  | succ n ih =>
    intro s
    unfold phaseGo
    split
    · rfl
    · split
      · rw [ih, State.aboveHubs_phaseDo hgo, State.aboveHubs_updCsn]
      · dsimp only
        split
        · rw [ih, State.aboveHubs_phaseDo hgo, State.aboveHubs_updCsn, State.aboveHubs_updCsn]
        · simp

theorem State.aboveHubs_phasePut {t} : (s.phasePut k t go).aboveHubs = s.aboveHubs := by
  unfold State.phasePut
  dsimp only
  split
  · simp
  · rw [aboveHubs_phaseGo hgo, State.aboveHubs_updCsn]

end Go

@[simp] theorem State.aboveHubs_edgeEffect : (s.edgeEffect k).aboveHubs = s.aboveHubs := by
  unfold State.edgeEffect
  dsimp only
  rw [State.aboveHubs_phasePut fun _ _ => State.aboveHubs_legsRelease, State.aboveHubs_updCsn]

@[simp] theorem State.aboveHubs_edgeDue : (s.edgeDue k).aboveHubs = s.aboveHubs := by
  unfold State.edgeDue
  split <;> simp

@[simp] theorem State.aboveHubs_applyRelease {r} : (s.applyRelease k r).aboveHubs = s.aboveHubs := by
  simp [State.applyRelease]

@[simp] theorem State.aboveHubs_phaseAcked : (s.phaseAcked k).aboveHubs = s.aboveHubs := by
  unfold State.phaseAcked
  dsimp only
  split
  · rfl
  · split
    · rfl
    · rw [aboveHubs_phaseGo fun _ _ => State.aboveHubs_applyRelease,
        State.aboveHubs_phaseDo fun _ _ => State.aboveHubs_applyRelease, State.aboveHubs_updCsn]

@[simp] theorem State.aboveHubs_cinvAck : (s.cinvAck k).aboveHubs = s.aboveHubs := by
  unfold State.cinvAck
  dsimp only
  split_ifs
  · rw [State.aboveHubs_phaseAcked, State.aboveHubs_updCsn, State.aboveHubs_updCore, aboveHubs_forAll]
    intro t m
    split <;> simp
  · rw [State.aboveHubs_updCsn, State.aboveHubs_updCore, aboveHubs_forAll]
    intro t m
    split <;> simp

@[simp] theorem State.aboveHubs_withdrawReq {r} : (s.withdrawReq k r).aboveHubs = s.aboveHubs := by
  simp [State.withdrawReq, State.issueOwn]

@[simp] theorem State.aboveHubs_holdCore : (s.holdCore k).aboveHubs = s.aboveHubs := by
  unfold State.holdCore
  dsimp only
  rw [State.aboveHubs_cinvAck, State.aboveHubs_emit, aboveHubs_forAll fun _ _ => State.aboveHubs_withdrawReq]
  split <;> simp

@[simp] theorem State.aboveHubs_holdCsn : (s.holdCsn k).aboveHubs = s.aboveHubs := by
  unfold State.holdCsn
  dsimp only
  rw [State.aboveHubs_updCsn, aboveHubs_forAll]
  intro t n
  split <;> simp

@[simp] theorem State.aboveHubs_abortEnt {ix st} : (s.abortEnt k ix st).aboveHubs = s.aboveHubs := by simp [State.abortEnt]

@[simp] theorem State.aboveHubs_abortReq {st r} : (s.abortReq k st r).aboveHubs = s.aboveHubs := by
  unfold State.abortReq
  dsimp only
  split_ifs <;> simp

end Frame

/-! ### ABORT at a hub and at a CSN (R103, R135, R390) -/

theorem exec_abort {s : State} {hub : Field} {cl : Option Loc} {tep : Epoch} {m : AbortMsg}
    (harrives : s.stopped (.abort hub.val (cl.map Fin.val) tep m) = false) (hreason : ¬ 3 < m.reason.toNat) :
    exec (.abort hub cl tep m) s = .next (match cl with
      | none => (s.taken (.abort hub.val (cl.map Fin.val) tep m)).abortAtHub hub.val tep m
      | some l => (s.taken (.abort hub.val (cl.map Fin.val) tep m)).abortAtCsn hub.val l.val tep m) := by
  refine congrArg Host.Outcome.next ((if_neg (by simp [harrives])).trans ?_)
  refine (if_neg hreason).trans ?_
  cases cl <;> rfl

theorem exec_abort_reserved {s : State} {hub : Field} {cl : Option Loc} {tep : Epoch} {m : AbortMsg}
    (harrives : s.stopped (.abort hub.val (cl.map Fin.val) tep m) = false) (hreason : 3 < m.reason.toNat) :
    exec (.abort hub cl tep m) s = .next (s.taken (.abort hub.val (cl.map Fin.val) tep m)) :=
  congrArg Host.Outcome.next ((if_neg (by simp [harrives])).trans (if_pos hreason))

/-- Where nothing waits at a hub and the partition has no barrier, an ABORT only passes on to the CSNs (R390). -/
theorem State.abortAtHub_passes {s : State} {h : Nat} {m : AbortMsg} (hmuz : (s.hubAt h).muz = false) (hken : s.ken = [])
    (hbars : s.barsOf m.func.val = []) (habort : s.err.abort = false) (hreason : m.reason = 0) :
    s.abortAtHub h (s.fnAt m.func.val).pepoch m = s.sendAll ((s.clustersIn m.func.val h).map
      (fun c => .abort h (some (localOf c)) (s.fnAt m.func.val).pepoch m)) := by
  have hwait : s.abortWaiters h m.func.val m.stat = s := by simp [State.abortWaiters, State.hubKeys, hken, tkeys]
  have hother : m.reason ≠ 3 := by rw [hreason]; decide
  have hnone : s.abortBars m = [] := (if_neg hother).trans hbars
  have happlied (t : State) (ht : t.err = s.err) : t.abortApplied h m.func.val = t := by
    simp [State.abortApplied, ht, habort]
  unfold State.abortAtHub
  dsimp only
  simp only [if_neg hother, hwait, hnone, forAll_nil]
  rw [if_neg (by simp [hmuz]), if_neg (by simp)]
  exact happlied _ rfl

/-- The entry that an ABORT ends, nobody waiting on it (R110, R135). -/
theorem State.abortEnt_effect {s : State} {cl ix : Nat} {st : Status} (hwf : s.wf = true)
    (hents : twf BarEntry.init (s.csnAt cl).ents = true) (hwait : ((s.csnAt cl).entAt ix).waitm = 0) :
    let b := (s.csnAt cl).entAt ix
    let t := s.abortEnt cl ix st
    (t.csnAt cl).entAt ix = { b with
      rgen := b.gen, rstat := st, gen := b.gen + 1, res := 0, waitm := 0, arr := 0, early := 0, psn := false } ∧
    t.core = s.core ∧ t.cask = s.cask ∧ t.out = s.out ∧ t.wf = true := by
  obtain ⟨hent, hents', hwf', hcore, hcask, hout⟩ := endGen_eq (st := st) (cause := some .abort) hwf hents hwait
  unfold State.abortEnt
  generalize s.endGen cl ix st (some .abort) = u at *
  dsimp only
  refine ⟨?_, hcore, hcask, hout, State.wf_updCsn hwf'⟩
  rw [State.csnAt_updCsn_same hwf']
  change ((u.csnAt cl).setEnt ix { (u.csnAt cl).entAt ix with arr := 0, early := 0, psn := false }).entAt ix = _
  rw [Csn.entAt_setEnt hents', if_pos rfl, hent]

/-- The cores of a cluster are woken by an ABORT: their ports stand (R103). -/
theorem forAll_raise_effect {l : List Nat} {c : Cause} {s : State} (hwf : s.wf = true) :
    let t := forAll l (fun s n => s.raise n c) s
    t.csn = s.csn ∧ t.out = s.out ∧ t.cask = s.cask ∧ t.wf = true ∧
      ∀ n, (t.coreAt n).stall = (s.coreAt n).stall ∧ (t.coreAt n).reqs = (s.coreAt n).reqs := by
  refine forAll_induct (P := fun t => t.csn = s.csn ∧ t.out = s.out ∧ t.cask = s.cask ∧ t.wf = true ∧
      ∀ n, (t.coreAt n).stall = (s.coreAt n).stall ∧ (t.coreAt n).reqs = (s.coreAt n).reqs)
    ⟨rfl, rfl, rfl, hwf, fun _ => ⟨rfl, rfl⟩⟩ fun t m ⟨hcsn, hout, hcask, hwft, hports⟩ => ?_
  refine ⟨hcsn, hout, hcask, State.wf_updCore hwft, fun n => ?_⟩
  rw [State.raise, State.coreAt_updCore hwft]
  split
  · next h => exact h ▸ hports n
  · exact hports n

/-- An ABORT at a CSN whose one entry is a cluster-scope barrier with nobody waiting ends its generation (R103, R110). -/
theorem State.abortAtCsn_singleton {s : State} {h l ix : Nat} {m : AbortMsg} {b : BarEntry} (hwf : s.wf = true)
    (hreason : m.reason = 0) (hrst : (s.csnAt (h * 128 + l)).rst = none) (hents : (s.csnAt (h * 128 + l)).ents = [(ix, b)])
    (hmode : b.mode = 1) (hwait : b.waitm = 0) (hcalm : Calm s (h * 128 + l))
    (hreqs : ∀ i ∈ s.coresOf (h * 128 + l), (s.coreAt i).reqs = []) :
    let t := s.abortAtCsn h l (s.csnAt (h * 128 + l)).pepoch m
    let u := (t.csnAt (h * 128 + l)).entAt ix
    u.gen = b.gen + 1 ∧ u.rgen = b.gen ∧ u.rstat = m.stat ∧ u.arr = 0 ∧ u.early = 0 ∧ t.out = s.out := by
  have hother : m.reason ≠ 3 := by rw [hreason]; decide
  have hnohold : m.reason ≠ 1 := by rw [hreason]; decide
  have hent : (s.csnAt (h * 128 + l)).entAt ix = b := by rw [Csn.entAt, hents, tget_head]
  have htwf : twf BarEntry.init (s.csnAt (h * 128 + l)).ents = true := by
    rw [hents, twf_cons_iff]
    refine ⟨fun hinit => ?_, fun _ hp => absurd hp List.not_mem_nil, rfl⟩
    rw [hinit] at hmode
    exact absurd hmode (by decide)
  have hixs (bars : List Nat) : ((s.csnAt (h * 128 + l)).ents.filter (fun e =>
      e.2.mode != 0 && (m.reason != 3 || (e.2.mode == 2 && bars.contains e.2.bar.toNat)))).map Prod.fst = [ix] := by
    rw [hents]
    simp [hmode, hreason]
  obtain ⟨hended, hcore, hcask, hout, hwf'⟩ := State.abortEnt_effect (st := m.stat) hwf htwf (by rw [hent]; exact hwait)
  generalize hu : s.abortEnt (h * 128 + l) ix m.stat = u at *
  obtain ⟨hcsn, hout', hcask', -, hports⟩ := forAll_raise_effect (l := u.coresOf (h * 128 + l)) (c := .abort) hwf'
  generalize hv : forAll (u.coresOf (h * 128 + l)) (fun s n => s.raise n .abort) u = v at *
  have hcores : v.coresOf (h * 128 + l) = s.coresOf (h * 128 + l) := by
    rw [State.coresOf, State.coreIxs, hcask', hcask, State.coresOf, State.coreIxs]
  have hport (n : Nat) : (v.coreAt n).stall = (s.coreAt n).stall ∧ (v.coreAt n).reqs = (s.coreAt n).reqs := by
    have hread : u.coreAt n = s.coreAt n := by rw [State.coreAt, hcore, State.coreAt]
    rw [← hread]
    exact hports n
  have hstill : forAll (v.coresOf (h * 128 + l)) (fun s n => forAll (s.coreAt n).reqs (fun s r => s.abortReq n m.stat r) s) v = v := by
    refine forAll_eq_self fun n hn => ?_
    rw [(hport n).2, hreqs n (hcores ▸ hn), forAll_nil]
  have hcalm' : Calm v (h * 128 + l) := fun n hn => (hport n).1.trans (hcalm n (hcores ▸ hn))
  have hwhole : s.abortAtCsn h l (s.csnAt (h * 128 + l)).pepoch m = v := by
    unfold State.abortAtCsn
    dsimp only
    rw [if_neg (by simp [hrst]), if_neg (by simp), hixs, forAll_singleton, hu, hv, if_neg hother, hstill, if_neg hnohold,
      State.settle_of_calm hcalm']
  have hread : v.csnAt (h * 128 + l) = u.csnAt (h * 128 + l) := by rw [State.csnAt, hcsn, State.csnAt]
  dsimp only
  rw [hwhole, hread, hended, hent]
  exact ⟨rfl, rfl, rfl, rfl, rfl, hout'.trans hout⟩

/-- A CSN put into reset is cleared (R135, R391). -/
theorem State.holdCsn_effect {s : State} {cl : Nat} (hwf : s.wf = true) :
    ((s.holdCsn cl).csnAt cl).rst = some s.now ∧ ((s.holdCsn cl).csnAt cl).ents = [] ∧
      ((s.holdCsn cl).csnAt cl).loadOpen = false := by
  have hheld := aboveHubs_forAll (l := s.coresOf cl) (s := s)
    (g := fun s n => if (s.coreAt n).rst.isSome then s else s.holdCore n) (fun t n => by split <;> simp)
  have hwf' : (forAll (s.coresOf cl) (fun s n => if (s.coreAt n).rst.isSome then s else s.holdCore n) s).wf = true :=
    (forAll_keeps (.refl s) fun t n ht => Keeps.ite ht (State.holdCore_keeps ht)).canon hwf
  unfold State.holdCsn
  dsimp only
  generalize forAll (s.coresOf cl) (fun s n => if (s.coreAt n).rst.isSome then s else s.holdCore n) s = u at *
  rw [State.csnAt_updCsn_same hwf']
  exact ⟨congrArg some (State.now_of_aboveHubs hheld), rfl, rfl⟩

/-- A partition reset's ABORT holds the cluster (R391). -/
theorem State.abortAtCsn_holds {s : State} {h l : Nat} {m : AbortMsg} (hwf : s.wf = true)
    (hreason : m.reason = 1) (hrst : (s.csnAt (h * 128 + l)).rst = none) :
    ∃ u : State, u.wf = true ∧ u.now = s.now ∧ s.abortAtCsn h l (s.csnAt (h * 128 + l)).pepoch m = u.holdCsn (h * 128 + l) := by
  have hother : m.reason ≠ 3 := by rw [hreason]; decide
  unfold State.abortAtCsn
  dsimp only
  rw [if_neg (by simp [hrst]), if_neg (by simp), if_neg hother, if_pos hreason]
  refine ⟨_, ?_, ?_, rfl⟩
  · refine (forAll_keeps (forAll_keeps (forAll_keeps (.refl s) fun t ix ht => State.abortEnt_keeps ht) fun t n ht =>
      State.raise_keeps ht) fun t n ht => forAll_keeps ht fun u r hu => State.abortReq_keeps hu).canon hwf
  · refine State.now_of_aboveHubs ?_
    rw [aboveHubs_forAll fun t n => aboveHubs_forAll fun u r => State.aboveHubs_abortReq,
      aboveHubs_forAll fun _ _ => State.aboveHubs_raise, aboveHubs_forAll fun _ _ => State.aboveHubs_abortEnt]

/-- A note that names the owner of a lock for which nobody waits frees the lock, and marks it (R87, R389). -/
theorem State.noteAtHub_lock {s : State} {h k : Nat} {n : ResetNote} {e : KEntry} (hwf : s.wf = true) (hken : s.ken = [(k, e)])
    (hhome : homeHub k = h) (hkind : e.kind = .lock) (hst : e.st = .held) (howner : e.owner = n.master) (hqueue : e.queue = [])
    (hcore : n.kind = .core) :
    (s.noteAtHub h n).kenAt k = { e with abnd := true, st := .free, owner := 0, leash := .none, deadline := 0 } := by
  have hkeys : s.hubKeys h = [k] := by simp [State.hubKeys, hken, tkeys, hhome]
  have hent : s.kenAt k = e := by rw [State.kenAt, hken, tget_head]
  have hnone : s.dropWaiters k (fun w => noteNames n w.master) = s := by
    rw [State.dropWaiters, hent, hqueue]
    rfl
  have hnames : noteNames n e.owner = true := by simp [noteNames, hcore, howner]
  have hwhole : s.noteAtHub h n = s.abandonLock k := by
    unfold State.noteAtHub
    dsimp only
    simp only [hkeys, forAll_singleton, hnone, hent]
    exact if_pos ⟨hkind, by rw [hst]; decide, hnames⟩
  have hread := State.kenAt_updKen_same (k := k) (g := fun x => { x with abnd := true }) hwf
  rw [hwhole, State.abandonLock, State.releaseLock_kenAt (State.wf_updKen hwf) (by rw [hread, hent]; exact hqueue), hread, hent]

/-- Settles O22: ABORT by its levels, a hub and a CSN; notes by what the hub's keys and the root do with one. -/
theorem abortsAndNotes : Obligations.AbortsAndNotes := by
  intro s hub l m n k ix e b tep
  dsimp only
  intro hwf
  refine ⟨fun hreserved => ⟨fun harrives => exec_abort_reserved (cl := none) harrives hreserved,
    fun harrives => exec_abort_reserved (cl := some l) harrives hreserved⟩, fun hreason harrives hmuz hken hbars habort => ?_,
    fun hreason harrives hrst hents hmode hwait hcalm hreqs => ?_, fun hreason harrives hrst => ?_,
    fun harrives hmuz hken hhome hkind hst howner hqueue hleash hcore => ?_, fun hkind harrives hnone => ?_,
    fun hkind harrives hcls hrst => ?_, fun hkind harrives hcls => ?_⟩
  · rw [exec_abort (cl := none) harrives (by rw [hreason]; decide)]
    exact congrArg Host.Outcome.next (State.abortAtHub_passes (s := s.taken _) hmuz hken hbars habort hreason)
  · refine .of_exec (exec_abort (cl := some l) harrives (by rw [hreason]; decide)) ?_
    exact State.abortAtCsn_singleton (s := s.taken (.abort hub.val (some l.val) (s.csnAt (hub.val * 128 + l.val)).pepoch m))
      hwf hreason hrst hents hmode hwait hcalm hreqs
  · refine .of_exec (exec_abort (cl := some l) harrives (by rw [hreason]; decide)) ?_
    obtain ⟨u, hwfu, hnow, hheld⟩ := State.abortAtCsn_holds (m := m) (h := hub.val) (l := l.val)
      (s := s.taken (.abort hub.val (some l.val) (s.csnAt (hub.val * 128 + l.val)).pepoch m)) hwf hreason hrst
    have heffect := State.holdCsn_effect (cl := hub.val * 128 + l.val) hwfu
    rw [hnow, ← hheld] at heffect
    exact heffect
  · refine .of_exec (t := (s.taken (.resetNote (some hub.val) n)).noteAtHub hub.val n) (congrArg Host.Outcome.next ?_) ?_
    · exact (if_neg (by simp [harrives])).trans (if_neg (by simp [hmuz]))
    · rw [State.noteAtHub_lock (s := s.taken (.resetNote (some hub.val) n)) hwf hken hhome hkind hst howner hqueue hcore]
      exact ⟨rfl, rfl, hkind⟩
  · refine congrArg Host.Outcome.next ((if_neg (by simp [harrives])).trans ?_)
    unfold State.noteAtRoot
    dsimp only
    rw [if_neg hkind]
    refine if_neg ?_
    change ¬ (_ && s.span.st == SpanSt.member) = true
    rw [hnone]
    simp
  · refine congrArg Host.Outcome.next ((if_neg (by simp [harrives])).trans ?_)
    unfold State.containAtRoot
    rw [if_neg (not_not.mpr hkind), if_neg, if_pos]
    · refine congrArg (fun x => (s.taken (.resetNote none n)).setFn n.func.val x) ?_
      change ({ s.fnAt n.func.val with rst := _ } : Fn) = _
      rw [State.taken_fnAt, hrst]
      rfl
    · exact hcls.imp_right .inr
    · obtain h | h := hcls <;> simp [h]
  · have hroot : (s.taken (.resetNote none n)).containAtRoot n = (s.taken (.resetNote none n)).needVarvo true := by
      unfold State.containAtRoot
      rw [if_neg (not_not.mpr hkind), if_pos hcls]
    refine .of_exec (congrArg Host.Outcome.next ((if_neg (by simp [harrives])).trans hroot)) ⟨rfl, ?_, rfl⟩
    exact Bool.or_true _

end Sys2Proof.Machine
end

section
/-! REFUTATION of O56 (R67, R388). A deferred advance of a cluster's epochs gives the commands of the status path that wait for the
end of its reset to the restarted CSN, and those may write what the statement says stands. -/

namespace Sys2Proof.Machine

open Sys2Proof

/-- Cluster 0, in reset, its advance due, with a load of the partition's epoch that waits for the end of the reset. -/
def epochLoadWaits : State :=
  { State.reset with csn := [(0, { Csn.init with epochDue := true, rst := some 0, held := [.epochLoad [] (some 5)] })] }

theorem epochLoadWaits_exec : exec (.epochAdvance ⟨0, 0⟩) epochLoadWaits = .next (epochLoadWaits.freshCluster 0 0) :=
  congrArg Host.Outcome.next (if_pos (by decide +kernel))

theorem epochLoadWaits_pepoch : ((epochLoadWaits.freshCluster 0 0).csnAt (Cluster.id ⟨0, 0⟩)).pepoch ≠
    (epochLoadWaits.csnAt (Cluster.id ⟨0, 0⟩)).pepoch := by decide +kernel

/-- Refutes O56: the advance restarts cluster 0, and the waiting command then gives it the partition's epoch 5. -/
theorem not_resets : ¬ Obligations.Resets := by
  rintro ⟨hcores, -⟩
  obtain ⟨-, -, hadvance⟩ := hcores epochLoadWaits ⟨⟨0, 0⟩, 0⟩ ⟨0, 0⟩ 0 (by decide +kernel)
  obtain ⟨t, hexec, -, -, -, hpepoch, -⟩ := hadvance rfl rfl (by decide +kernel)
  rw [epochLoadWaits_exec] at hexec
  rw [← Host.Outcome.next.inj hexec] at hpepoch
  exact epochLoadWaits_pepoch hpepoch

end Sys2Proof.Machine
end

section
/-! REFUTATION of O57 (R181, R406). The manager's ABORT ends the step of a span's member, and where the member had asked its lead to
hold the edge and no heel point of its own is open any more, it tells the lead so: a message beside the ABORTs. -/

namespace Sys2Proof.Machine

open Sys2Proof

/-- A member, brought up, whose hold of the edge stands, while no heel point of its own is unreleased. -/
def memberHolds : State :=
  { State.reset with
    bru := { State.reset.bru with step := 15 }
    span := { State.reset.span with st := .member, holds := [0] } }

theorem memberHolds_tells_lead : (memberHolds.writeErrCtrl 0x00200000).net ≠ memberHolds.net ++ memberHolds.hubsUp.map (fun h =>
    .abort h none (memberHolds.fnAt (fnOfNat (bits (0x00200000 : Reg).toNat 0 6)).val).pepoch
      ⟨fnOfNat (bits (0x00200000 : Reg).toNat 0 6), 0, .aborted⟩) := by decide +kernel

/-- Refutes O57: with `memberHolds` the ABORTs to the hubs follow the release of the hold. -/
theorem not_errorHandling : ¬ Obligations.ErrorHandling := by
  rintro ⟨hcommands, -⟩
  obtain ⟨hctrl, -⟩ := hcommands memberHolds 0x00200000 0 (mkLog 0 (unitId .wafer 0) 0 0 0 none 0 0 0) [] 0 (by decide +kernel)
  obtain ⟨-, -, habort⟩ := hctrl rfl rfl rfl
  obtain ⟨t, hexec, -, -, -, -, hnet⟩ := habort (by decide) (by decide) (by decide) rfl rfl rfl rfl (by decide +kernel) rfl
  have hrun : exec (.managerAbort 0x00200000) memberHolds = .next (memberHolds.writeErrCtrl 0x00200000) := rfl
  rw [hrun] at hexec
  rw [← Host.Outcome.next.inj hexec] at hnet
  exact memberHolds_tells_lead hnet

end Sys2Proof.Machine
end

section
/-! PROOF of O53 (R302-R308): doorbells and ring control. -/

namespace Sys2Proof.Machine

open Sys2Proof

/-- A function's access to a ring that it does not hold is denied and counted (R302). -/
theorem State.ringAccess_denied {s : State} {f r : Nat} {g : State → State} (hstep : s.bru.step = 15)
    (hno : ¬ r ∈ (s.fnAt f).rings) : s.ringAccess f r g = s.updFn f (fun y => { y with deny := satInc y.deny }) := by
  rw [State.ringAccess, if_neg (not_not.mpr hstep), if_neg (by simpa using hno)]

theorem State.ringAccess_held {s : State} {f r : Nat} {g : State → State} (hstep : s.bru.step = 15)
    (hheld : r ∈ (s.fnAt f).rings) : s.ringAccess f r g = g s := by
  rw [State.ringAccess, if_neg (not_not.mpr hstep), if_pos (by simpa using hheld)]

/-- Nothing is read once every exposed descriptor has been asked for (R308). -/
theorem State.fetchGo_done {s : State} {r m : Nat} (h : (s.ringAt r).asked = (s.ringAt r).pi) : fetchGo r (m + 1) s = s := by
  unfold fetchGo
  dsimp only
  rw [h, Nat.add_sub_cancel_left, Nat.mod_self, if_pos rfl]

/-- A read of at most 8 descriptors that ends at the producer index is one request (R308). -/
theorem State.fetchGo_once {s : State} {r n fuel : Nat} (hwf : s.wf = true) (hpos : 0 < n) (hmax : n ≤ 8)
    (hpi : (s.ringAt r).asked + n = (s.ringAt r).pi) (hsize : (s.ringAt r).pi < (s.ringAt r).size) (hfuel : 2 ≤ fuel) :
    fetchGo r fuel s =
      (s.updRing r (fun y => { y with asked := (y.asked + n) % y.size })).emit (.sqRead r (s.ringAt r).asked n) := by
  obtain ⟨k, rfl⟩ := Nat.exists_eq_add_of_le' hfuel
  have hread := State.ringAt_updRing_same (k := r) (g := fun y => { y with asked := (y.asked + n) % y.size }) hwf
  generalize hx : s.ringAt r = x at *
  have hleft : (x.pi + x.size - x.asked) % x.size = n := by
    rw [← hpi, show x.asked + n + x.size - x.asked = n + x.size by omega, Nat.add_mod_right, Nat.mod_eq_of_lt (by omega)]
  have hmin : Nat.min 8 (Nat.min n (x.size - x.asked)) = n := by
    rw [show Nat.min n (x.size - x.asked) = n from Nat.min_eq_left (by omega)]
    exact Nat.min_eq_right hmax
  have hasked : (x.asked + n) % x.size = x.pi := by rw [hpi, Nat.mod_eq_of_lt hsize]
  unfold fetchGo
  dsimp only
  rw [hx, hleft, if_neg (by omega), hmin]
  refine State.fetchGo_done ?_
  rw [State.emit_ringAt, hread]
  exact hasked

theorem Ring.lt_size_of_badPi {x : Ring} {p : Nat} (hrun : x.st = .run) (h : x.badPi p = false) : p < x.size := by
  simp only [Ring.badPi, hrun, Bool.and_eq_false_iff, Bool.or_eq_false_iff, decide_eq_false_iff_not, Nat.not_le] at h
  obtain h | h := h
  · exact absurd h (by decide)
  · exact h.1

theorem doorbells : Says.Doorbells := by
  intro s f r p n
  dsimp only
  intro hwf hstep
  refine ⟨fun hno => ⟨congrArg Host.Outcome.next (State.ringAccess_denied hstep hno),
    congrArg Host.Outcome.next (State.ringAccess_denied hstep hno)⟩, fun hheld => ⟨fun hbad => ?_, fun hbad => ?_,
    fun hgood hrun hfn hhold hrst hpos hmax hpi => ?_, fun hgood hon => ?_⟩⟩
  · exact congrArg Host.Outcome.next ((State.ringAccess_held hstep hheld).trans (if_neg (by simp [hbad])))
  · exact congrArg Host.Outcome.next ((State.ringAccess_held hstep hheld).trans (if_pos (by simp [hbad])))
  · generalize hu : s.updRing r.val (fun x => { x with pi := p.toNat }) = u
    have hread : u.ringAt r.val = { s.ringAt r.val with pi := p.toNat } := by
      rw [← hu]
      exact State.ringAt_updRing_same hwf
    have hwfu : u.wf = true := hu ▸ State.wf_updRing hwf
    have hsize : p.toNat < (s.ringAt r.val).size := Ring.lt_size_of_badPi hrun hgood
    have hsize' : (u.ringAt r.val).size = (s.ringAt r.val).size := by rw [hread]; rfl
    have hfetch : u.fetchRing r.val = fetchGo r.val (u.ringAt r.val).size u := by
      have hfn' : u.ringFn r.val = some f.val := by rw [← hu]; exact hfn
      unfold State.fetchRing
      rw [hfn']
      refine if_neg ?_
      rw [hread, show u.fnAt f.val = s.fnAt f.val by rw [← hu]; rfl]
      simp [hrun, hhold, hrst]
    have hdoor : s.doorSq r.val p.toNat = (u.updRing r.val (fun y => { y with asked := (y.asked + n) % y.size })).emit
        (.sqRead r.val (s.ringAt r.val).asked n) := by
      have hlarge : 2 ≤ (u.ringAt r.val).size := by
        rw [hsize']
        exact Nat.le_trans (by decide) (Nat.pow_le_pow_right (by decide) (Nat.le_max_left 6 _))
      rw [State.doorSq, if_pos (by simp [hrun, hgood]), hu, hfetch,
        State.fetchGo_once hwfu hpos hmax (by rw [hread]; exact hpi) (by rw [hsize', hread]; exact hsize) hlarge, hread]
    refine .of_exec (congrArg Host.Outcome.next ((State.ringAccess_held hstep hheld).trans hdoor)) ⟨?_, ?_, ?_⟩
    · rw [State.emit_ringAt, State.ringAt_updRing_same hwfu, hread]
    · rw [State.emit_ringAt, State.ringAt_updRing_same hwfu, hread]
      change ((s.ringAt r.val).asked + n) % (s.ringAt r.val).size = p.toNat
      rw [hpi, Nat.mod_eq_of_lt hsize]
    · rw [← hu]
      rfl
  · refine .of_exec (congrArg Host.Outcome.next ((State.ringAccess_held hstep hheld).trans
      (if_neg (by simp [hgood, hon])))) ?_
    rw [State.ringAt_updRing_same hwf]
    exact ⟨rfl, rfl, rfl⟩

/-- A sparge of a ring with no waiting request and no cask barrier ends what was fetched and not started (R306). -/
theorem State.beginSparge_effect {s : State} {f r : Nat} (hwf : s.wf = true) (hwaits : (s.ringAt r).waits = [])
    (hcask : (s.fnAt f).cask = none) :
    (s.beginSparge f r).ringAt r = { s.ringAt r with
      st := .sparge, pi := (s.ringAt r).sqc, asked := (s.ringAt r).sqc, fetched := []
      ready := (s.ringAt r).ready ++ (s.ringAt r).fetched.map (fun d => cmdRec d .aborted false 0) } ∧
    (s.beginSparge f r).net = s.net := by
  generalize hu : s.updRing r (fun x => { x with
    st := .sparge, pi := x.sqc, asked := x.sqc, fetched := [], ready := x.ready ++ x.fetched.map (fun d => cmdRec d .aborted false 0) }) = u
  have hread : u.ringAt r = { s.ringAt r with
      st := .sparge, pi := (s.ringAt r).sqc, asked := (s.ringAt r).sqc, fetched := []
      ready := (s.ringAt r).ready ++ (s.ringAt r).fetched.map (fun d => cmdRec d .aborted false 0) } := by
    rw [← hu]
    exact State.ringAt_updRing_same hwf
  have hsparge : s.beginSparge f r = u := by
    have hnone : (u.ringAt r).waits = [] := by rw [hread]; exact hwaits
    have hcask' : (u.fnAt f).cask = none := by rw [← hu]; exact hcask
    unfold State.beginSparge State.withdrawRing
    dsimp only
    rw [hu, hnone, forAll_nil, hcask']
  rw [hsparge]
  refine ⟨hread, ?_⟩
  rw [← hu]
  rfl

theorem ringControl : Says.RingControl := by
  intro s f r
  dsimp only
  intro hwf hstep hheld
  refine ⟨fun hoff => ?_, fun hrun hwaits hcask => ⟨?_, ?_⟩, fun hdrained => ?_, fun hsparge hstarted hready => ?_⟩
  · refine .of_exec (congrArg Host.Outcome.next (State.ringAccess_held hstep hheld)) ?_
    rw [State.ringAt_updRing_same hwf, if_pos hoff]
    exact ⟨rfl, rfl, rfl, rfl, rfl, rfl, rfl, rfl, rfl, rfl, rfl⟩
  · generalize hu : s.updRing r.val (fun x => { x with en := false, st := if x.st = .drained then .off else x.st }) = u
    have hread : u.ringAt r.val = { s.ringAt r.val with en := false, st := .run } := by
      rw [← hu, State.ringAt_updRing_same hwf, hrun, if_neg (by decide)]
    obtain ⟨hring, hnet⟩ := State.beginSparge_effect (f := f.val) (r := r.val) (s := u) (hu ▸ State.wf_updRing hwf)
      (by rw [hread]; exact hwaits) (by rw [← hu]; exact hcask)
    have hdisable : s.disableRing f.val r.val = u.beginSparge f.val r.val := by
      unfold State.disableRing
      dsimp only
      rw [hu, if_pos (by rw [hread])]
    refine .of_exec (congrArg Host.Outcome.next ((State.ringAccess_held hstep hheld).trans hdisable)) ?_
    rw [hring, hnet, hread]
    refine ⟨⟨rfl, rfl, rfl, rfl, rfl⟩, rfl, ?_⟩
    rw [← hu]
    rfl
  · obtain ⟨hring, hnet⟩ := State.beginSparge_effect hwf hwaits hcask
    refine .of_exec (congrArg Host.Outcome.next ((State.ringAccess_held hstep hheld).trans (if_pos hrun))) ?_
    rw [hring, hnet]
    exact ⟨⟨rfl, rfl, rfl, rfl, rfl⟩, rfl, rfl⟩
  · generalize hu : s.updRing r.val (fun x => { x with en := false, st := if x.st = .drained then .off else x.st }) = u
    have hread : u.ringAt r.val = { s.ringAt r.val with en := false, st := .off } := by
      rw [← hu, State.ringAt_updRing_same hwf, hdrained, if_pos rfl]
    have hdisable : s.disableRing f.val r.val = u := by
      unfold State.disableRing
      dsimp only
      rw [hu, if_neg (by simp [hread])]
    refine .of_exec (congrArg Host.Outcome.next ((State.ringAccess_held hstep hheld).trans hdisable)) ?_
    rw [hread]
    exact ⟨rfl, rfl⟩
  · refine .of_exec (t := s.updRing r.val (fun x => { x with ready := x.ready ++ [spargedRec r.val] })) ?_ ?_
    · refine congrArg Host.Outcome.next (if_pos ?_)
      rw [hsparge, hstarted, hready]
      decide
    · rw [State.ringAt_updRing_same hwf, hready]
      exact ⟨rfl, hsparge⟩

/-- Settles O53: doorbells by the bounds of a ring, ring control by the ring's states. -/
theorem ringsAndDoorbells : Obligations.RingsAndDoorbells := ⟨doorbells, ringControl⟩

end Sys2Proof.Machine
end

section
/-! REFUTATION of O25 (R79, R311). Its last clause shuts out that other commands of the ring are held, but not that the command
itself carries a tag, as one whose request is out does: no second request leaves then. -/

namespace Sys2Proof.Machine

open Sys2Proof

/-- The descriptor of a LOAD of kennel word 0 at CLUSTER scope. -/
def loadDesc : BitVec 512 := BitVec.ofNat 512 (2 ^ 508 + kopCode .load * 2 ^ 503)

/-- A started KENNEL command that carries the tag of a request. -/
def taggedCmd : Cmd :=
  { d := ⟨0, loadDesc⟩, begun := false, tag := some 0, waiting := false, inv := none, op := none, done := false }

/-- Function 0 holds ring 0, on which the command has started. -/
def taggedRing : State :=
  { State.reset with
    fn := [(0, { Fn.init with rings := [0] })]
    ring := [(0, { Ring.init with st := .run, started := [taggedCmd] })] }

theorem exec_kennelDesc {s : State} {r : RingIx} {i : BitVec 16} {c : Cmd} {op : KOp}
    (hrun : (s.ringAt r.val).kenToRun i = some c) (hkop : kopOf (dOp c.d.bits) = some op)
    (hok : ¬ (dScope c.d.bits = 3 ∨ 2 < dField c.d.bits 380 4)) :
    exec (.kennelDesc r i) s = .next (s.kennelDesc r.val i op) := by
  refine congrArg Host.Outcome.next ?_
  simp only [hrun, hkop, if_neg hok]

theorem taggedRing_exec : exec (.kennelDesc 0 0) taggedRing = .next (taggedRing.kennelDesc 0 0 .load) :=
  exec_kennelDesc (c := taggedCmd) (by decide +kernel) (by decide +kernel) (by decide +kernel)

theorem taggedRing_sends_nothing : (taggedRing.kennelDesc 0 0 .load).net = [] := by decide +kernel

/-- Refutes O25: on `taggedRing` KENNEL_DESC begins the command, and no KEN_REQ leaves. -/
theorem not_commitAndKennelDescriptors : ¬ Obligations.CommitAndKennelDescriptors := by
  intro h
  obtain ⟨-, -, hken⟩ := h taggedRing 0 0 taggedCmd 0 [] .load
  obtain ⟨-, hgo⟩ := hken (by decide +kernel) (by decide +kernel)
  obtain ⟨t, hexec, tag, hnet⟩ := hgo (by decide +kernel) (by decide +kernel) (by decide +kernel) (by decide) (by decide +kernel)
    (.inl (by decide +kernel)) (by decide +kernel) (by decide +kernel) (by decide +kernel) (by decide +kernel)
  rw [taggedRing_exec] at hexec
  rw [← Host.Outcome.next.inj hexec, taggedRing_sends_nothing] at hnet
  exact absurd hnet (by simp)

end Sys2Proof.Machine
end

section
/-! SUPPORT. What the starting of descriptors changes (R308): of rings their fetched and started commands and the records of
those that end as they start, of functions the ring whose turn it was. -/

namespace Sys2Proof.Machine

open Sys2Proof

/-- Ring y is ring x after some of its fetched descriptors have started. -/
def Ring.StartedTo (x y : Ring) : Prop :=
  ∃ n l more, y = { x with fetched := x.fetched.drop n, started := l, ready := x.ready ++ more } ∧
    ((∀ d ∈ x.fetched, descOk d.bits = true) → more = [])

theorem Ring.StartedTo.refl (x : Ring) : x.StartedTo x := ⟨0, x.started, [], by simp, fun _ => rfl⟩

theorem Ring.StartedTo.trans {x y z : Ring} (hxy : x.StartedTo y) (hyz : y.StartedTo z) : x.StartedTo z := by
  obtain ⟨n, l, more, rfl, hmore⟩ := hxy
  obtain ⟨n', l', more', rfl, hmore'⟩ := hyz
  refine ⟨n + n', l', more ++ more', by simp [List.drop_drop], fun hok => ?_⟩
  rw [hmore hok, hmore' (fun d hd => hok d (List.mem_of_mem_drop hd))]
  rfl

/-- What no start of a descriptor writes: a state without rings, functions and drawn values. -/
def State.noRings (s : State) : State := { s with fresh := 0, ring := [], fn := [] }

/-- State t is state s after some fetched descriptors have started. -/
structure State.Starts (s t : State) : Prop where
  wf : t.wf = true
  ring : ∀ r, (s.ringAt r).StartedTo (t.ringAt r)
  fn : ∀ f, ∃ k, t.fnAt f = { s.fnAt f with turn := k }
  rest : t.noRings = s.noRings

theorem State.Starts.refl {s : State} (hwf : s.wf = true) : s.Starts s :=
  ⟨hwf, fun _ => .refl _, fun f => ⟨(s.fnAt f).turn, rfl⟩, rfl⟩

theorem State.Starts.trans {s t u : State} (h : s.Starts t) (h' : t.Starts u) : s.Starts u where
  wf := h'.wf
  ring r := (h.ring r).trans (h'.ring r)
  fn f := by
    obtain ⟨k, hk⟩ := h.fn f
    obtain ⟨k', hk'⟩ := h'.fn f
    exact ⟨k', by rw [hk', hk]⟩
  rest := h'.rest.trans h.rest

/-- A write of one ring that starts some of its fetched descriptors. -/
theorem State.Starts.of_updRing {s : State} {r : Nat} {g : Ring → Ring} (hwf : s.wf = true)
    (hg : (s.ringAt r).StartedTo (g (s.ringAt r))) : s.Starts (s.updRing r g) where
  wf := State.wf_updRing hwf
  ring k := by
    by_cases hk : k = r
    · subst hk
      rw [State.ringAt_updRing_same hwf]
      exact hg
    · rw [State.ringAt_updRing_other hk]
      exact .refl _
  fn _ := ⟨_, rfl⟩
  rest := rfl

theorem State.Starts.of_turn {s : State} {f r : Nat} (hwf : s.wf = true) :
    s.Starts (s.updFn f (fun x => { x with turn := r })) where
  wf := State.wf_updFn hwf
  ring _ := .refl _
  fn k := by
    by_cases hk : k = f
    · subst hk
      exact ⟨r, State.fnAt_updFn_same hwf⟩
    · exact ⟨(s.fnAt k).turn, by rw [State.fnAt_updFn_other hk]⟩
  rest := rfl

theorem State.Starts.of_drawn {s : State} (hwf : s.wf = true) : s.Starts s.drawn :=
  ⟨hwf, fun _ => .refl _, fun f => ⟨(s.fnAt f).turn, rfl⟩, rfl⟩

/-- The command that a descriptor starts as. -/
def Desc.command (d : Desc) : Cmd :=
  { d := d, begun := false, tag := none, waiting := dWaits d.bits, inv := none, op := none, done := false }

/-- What a state is once the first descriptor of a ring has started and the function's turn is noted. -/
def State.begunCmd (s : State) (r : Nat) (d : Desc) (rest : List Desc) : State :=
  let s := s.updRing r (fun x => { x with fetched := rest, started := x.started ++ [d.command] })
  match s.ringFn r with | some f => s.updFn f (fun x => { x with turn := r }) | none => s

theorem State.begunCmd_ringAt {s : State} {r : Nat} {d : Desc} {rest : List Desc} (hwf : s.wf = true) :
    (s.begunCmd r d rest).ringAt r =
      { s.ringAt r with fetched := rest, started := (s.ringAt r).started ++ [d.command] } := by
  unfold State.begunCmd
  dsimp only
  split
  · exact (State.updFn_ringAt).trans (State.ringAt_updRing_same hwf)
  · exact State.ringAt_updRing_same hwf

theorem State.begunCmd_starts {s : State} {r : Nat} {d : Desc} {rest : List Desc} (hwf : s.wf = true)
    (hd : (s.ringAt r).fetched = d :: rest) : s.Starts (s.begunCmd r d rest) := by
  have hstart := State.Starts.of_updRing (r := r) hwf 
    (g := fun x => { x with fetched := rest, started := x.started ++ [d.command] })
    ⟨1, _, [], by simp only [hd, List.drop_one, List.tail_cons, List.append_nil]; rfl, fun _ => rfl⟩
  unfold State.begunCmd
  dsimp only
  split
  · exact hstart.trans (.of_turn hstart.wf)
  · exact hstart

theorem State.startCmd_of_ok {s : State} {r : Nat} {d : Desc} {rest : List Desc} (hok : descOk d.bits = true) :
    s.startCmd r d rest = s.begunCmd r d rest := if_pos hok

theorem State.startCmd_of_reserved {s : State} {r : Nat} {d : Desc} {rest : List Desc} (hok : descOk d.bits = false) :
    s.startCmd r d rest = (s.begunCmd r d rest).drawn.updRing r (fun x => x.ended d.command s.anyStatus false 0) := if_neg (by simp [hok])

theorem State.startCmd_starts {s : State} {r : Nat} {d : Desc} {rest : List Desc} (hwf : s.wf = true)
    (hd : (s.ringAt r).fetched = d :: rest) : s.Starts (s.startCmd r d rest) := by
  have hbegun := State.begunCmd_starts hwf hd
  cases hok : descOk d.bits with
  | true =>
    rw [State.startCmd_of_ok hok]
    exact hbegun
  | false =>
    rw [State.startCmd_of_reserved hok]
    have hdrawn := hbegun.trans (.of_drawn hbegun.wf)
    refine ⟨State.wf_updRing hdrawn.wf, fun k => ?_, hdrawn.fn, hdrawn.rest⟩
    by_cases hk : k = r
    · subst hk
      rw [State.ringAt_updRing_same hdrawn.wf, State.drawn_ringAt, State.begunCmd_ringAt hwf]
      refine ⟨1, _, _, by simp only [hd, List.drop_one, List.tail_cons]; rfl, fun hall => ?_⟩
      exact absurd (hall d (hd ▸ List.mem_cons_self)) (by simp [hok])
    · rw [State.ringAt_updRing_other hk]
      exact hdrawn.ring k

theorem startGo_starts {r : Nat} (fuel : Nat) : ∀ {s : State}, s.wf = true → s.Starts (startGo r fuel s) := by
  induction fuel with
  | zero => exact fun hwf => .refl hwf
  | succ fuel ih =>
    intro s hwf
    unfold startGo
    split
    case h_1 => exact .refl hwf
    case h_2 d rest hd =>
      split
      · exact (State.startCmd_starts hwf hd).trans (ih (State.startCmd_starts hwf hd).wf)
      · exact .refl hwf

theorem State.startRing_starts {s : State} {r : Nat} (hwf : s.wf = true) : s.Starts (s.startRing r) := by
  unfold State.startRing
  split
  · exact .refl hwf
  · split
    · exact .refl hwf
    · exact startGo_starts _ hwf

theorem turnGo_starts {f : Nat} (fuel : Nat) : ∀ {s : State}, s.wf = true → s.Starts (turnGo f fuel s) := by
  induction fuel with
  | zero => exact fun hwf => .refl hwf
  | succ fuel ih =>
    intro s hwf
    unfold turnGo
    split
    · exact .refl hwf
    · split
      case h_1 => exact .refl hwf
      case h_2 d rest hd => exact (State.startCmd_starts hwf hd).trans (ih (State.startCmd_starts hwf hd).wf)

theorem State.startRings_starts {s : State} {f : Nat} (hwf : s.wf = true) : s.Starts (s.startRings f) := by
  unfold State.startRings
  split
  · exact .refl hwf
  · exact turnGo_starts _ hwf

/-- What starts behind a ring's ready records adds to them only where a waiting descriptor is a reserved encoding. -/
theorem State.Starts.ready {s t : State} (h : s.Starts t) (r : Nat) :
    ∃ more, (t.ringAt r).ready = (s.ringAt r).ready ++ more ∧ (FetchedOk s r → more = []) := by
  obtain ⟨n, l, more, hring, hmore⟩ := h.ring r
  exact ⟨more, by rw [hring], hmore⟩

theorem State.Starts.out {s t : State} (h : s.Starts t) : t.out = s.out := (congrArg State.out h.rest :)
theorem State.Starts.net {s t : State} (h : s.Starts t) : t.net = s.net := (congrArg State.net h.rest :)

/-! ### The end of a command -/

theorem State.finish_of_cmd {s : State} {r : Nat} {i : BitVec 16} {c : Cmd} {st : Status} {flag : Bool} {res : Nat}
    (hc : (s.ringAt r).cmdAt i = some c) (hdone : c.done = false) :
    s.finish r i st flag res = match s.ringFn r with
      | some f => (s.updRing r (fun x => x.ended c st flag res)).startRings f
      | none => s.updRing r (fun x => x.ended c st flag res) := by
  unfold State.finish
  rw [hc]
  exact if_neg (by simp [hdone])

/-- A command that ends: its record is ready, and some descriptors may start behind it. -/
theorem State.finish_starts {s : State} {r : Nat} {i : BitVec 16} {c : Cmd} {st : Status} {flag : Bool} {res : Nat}
    (hwf : s.wf = true) (hc : (s.ringAt r).cmdAt i = some c) (hdone : c.done = false) :
    (s.updRing r (fun x => x.ended c st flag res)).Starts (s.finish r i st flag res) := by
  rw [State.finish_of_cmd hc hdone]
  split
  · exact State.startRings_starts (State.wf_updRing hwf)
  · exact .refl (State.wf_updRing hwf)

/-- The end of a command, as the obligations on descriptors say it: the state `u` in which it ends has the ring of `s`. -/
theorem State.finish_recorded {s u : State} {r : Nat} {i : BitVec 16} {c : Cmd} {st : Status} {flag : Bool} {res : Nat}
    (hwf : u.wf = true) (hring : u.ringAt r = s.ringAt r) (hc : (s.ringAt r).cmdAt i = some c) (hdone : c.done = false) :
    Recorded s (u.finish r i st flag res) r c st flag res := by
  obtain ⟨more, hready, hmore⟩ := (State.finish_starts hwf (hring ▸ hc) hdone (st := st) (flag := flag) (res := res)).ready r
  rw [State.ringAt_updRing_same hwf, hring] at hready
  refine ⟨more, by rw [hready]; exact List.append_assoc .., fun hok => hmore ?_⟩
  intro d hd
  rw [State.ringAt_updRing_same hwf, hring] at hd
  exact hok d hd

theorem State.finish_noRings {s : State} {r : Nat} {i : BitVec 16} {st : Status} {flag : Bool} {res : Nat} (hwf : s.wf = true) :
    (s.finish r i st flag res).noRings = s.noRings := by
  cases hc : (s.ringAt r).cmdAt i with
  | none =>
    unfold State.finish
    rw [hc]
  | some c =>
    cases hdone : c.done with
    | true =>
      unfold State.finish
      rw [hc]
      exact congrArg State.noRings (if_pos hdone)
    | false => exact (State.finish_starts hwf hc hdone).rest

theorem State.finish_out {s : State} {r : Nat} {i : BitVec 16} {st : Status} {flag : Bool} {res : Nat} (hwf : s.wf = true) :
    (s.finish r i st flag res).out = s.out := (congrArg State.out (State.finish_noRings hwf) :)

theorem State.finish_net {s : State} {r : Nat} {i : BitVec 16} {st : Status} {flag : Bool} {res : Nat} (hwf : s.wf = true) :
    (s.finish r i st flag res).net = s.net := (congrArg State.net (State.finish_noRings hwf) :)

/-- A function as a command's end leaves it. -/
theorem State.finish_fnAt {s : State} {r : Nat} {i : BitVec 16} {st : Status} {flag : Bool} {res : Nat} (hwf : s.wf = true)
    (f : Nat) : ∃ k, (s.finish r i st flag res).fnAt f = { s.fnAt f with turn := k } := by
  cases hc : (s.ringAt r).cmdAt i with
  | none =>
    unfold State.finish
    rw [hc]
    exact ⟨_, rfl⟩
  | some c =>
    cases hdone : c.done with
    | true =>
      unfold State.finish
      rw [hc]
      exact ⟨(s.fnAt f).turn, by dsimp only; rw [if_pos hdone]⟩
    | false => exact (State.finish_starts hwf hc hdone).fn f

/-- A started command that a row runs has a place on its ring, and has not ended. -/
theorem Ring.cmdAt_of_toRun {x : Ring} {i : BitVec 16} {fam op : Nat} {c : Cmd} (h : x.toRun i fam op = some c) :
    x.cmdAt i = some c ∧ c.begun = false ∧ c.done = false ∧ dFam c.d.bits = fam ∧ dOp c.d.bits = op := by
  unfold Ring.toRun at h
  split at h
  case h_1 c' hc =>
    split at h
    case isTrue hrun =>
      obtain rfl := Option.some.inj h
      simp only [Bool.and_eq_true, Bool.not_eq_true', beq_iff_eq] at hrun
      obtain ⟨⟨⟨hbegun, hdone⟩, hfam⟩, hop⟩ := hrun
      exact ⟨hc, hbegun, hdone, hfam, hop⟩
    case isFalse => exact absurd h (by simp)
  case h_2 => exact absurd h (by simp)

/-- A command that a row runs ends in a state that has the ring still as it was. -/
theorem Started.recorded {s u : State} {r : RingIx} {i : BitVec 16} {fam op : Nat} {c : Cmd} {f : Nat} {st : Status} {flag : Bool}
    {res : Nat} (h : Started s r i fam op c f) (hwf : u.wf = true) (hring : u.ringAt r.val = s.ringAt r.val) :
    Recorded s (u.finish r.val i st flag res) r.val c st flag res := by
  obtain ⟨hrun, -, -⟩ := h
  obtain ⟨hc, -, hdone, -, -⟩ := Ring.cmdAt_of_toRun hrun
  exact State.finish_recorded hwf hring hc hdone

end Sys2Proof.Machine
end

section
/-! PROOF of O24 (R310-R317, R322, R323): the DATA, INFO and NOP descriptors. -/

namespace Sys2Proof.Machine

open Sys2Proof

/-- A function that logs no dirty pages logs no write (R346). -/
theorem State.logWrite_off {s : State} {f link addr len : Nat} (h : (s.fnAt f).dlEn = false) :
    s.logWrite f link addr len = s := by
  unfold State.logWrite
  exact if_pos (by simp [h])

theorem State.logPage_ring {s : State} {f link page : Nat} : (s.logPage f link page).ring = s.ring := by
  unfold State.logPage
  split
  · rfl
  · dsimp only
    split_ifs <;> rfl

theorem State.logWrite_ring {s : State} {f link addr len : Nat} : (s.logWrite f link addr len).ring = s.ring := by
  unfold State.logWrite
  split
  · rfl
  · exact forAll_induct (P := fun t => t.ring = s.ring) rfl (fun t p h => State.logPage_ring.trans h)

theorem State.ringAt_logData {s : State} {f r : Nat} {c : Cmd} (k : Nat) : (s.logData f r c).ringAt k = s.ringAt k := by
  have hring : (s.logData f r c).ring = s.ring := by
    unfold State.logData
    split
    · exact State.logWrite_ring
    · rfl
  exact congrArg (fun l => tget Ring.init l k) hring

theorem State.wf_logData {s : State} {f r : Nat} {c : Cmd} (hwf : s.wf = true) : (s.logData f r c).wf = true :=
  (State.logData_keeps (.refl s)).canon hwf

/-- A poisoned copy has moved no more bytes than its LEN (R317, R323). -/
theorem State.poisonData_recorded {s u : State} {r : Nat} {i : BitVec 16} {c : Cmd} (hwf : u.wf = true)
    (hring : u.ringAt r = s.ringAt r) (hc : (s.ringAt r).cmdAt i = some c) (hdone : c.done = false) :
    ∃ n, n ≤ dLen c.d.bits ∧ Recorded s (u.poisonData r i c) r c .poison false n :=
  ⟨u.peek % (dLen c.d.bits + 1), Nat.lt_succ_iff.mp (Nat.mod_lt _ (Nat.succ_pos _)),
    State.finish_recorded (u := u.drawn) hwf hring hc hdone⟩

theorem Ring.cmdAt_of_dataCmd {x : Ring} {i : BitVec 16} {c : Cmd} (h : x.dataCmd i = some c) :
    x.cmdAt i = some c ∧ c.done = false := by
  unfold Ring.dataCmd at h
  split at h
  case h_1 c' hc =>
    split at h
    case isTrue hdata =>
      obtain rfl := Option.some.inj h
      simp only [Bool.and_eq_true, Bool.not_eq_true'] at hdata
      exact ⟨hc, hdata.1.2⟩
    case isFalse => exact absurd h (by simp)
  case h_2 => exact absurd h (by simp)

/-- Settles O24: each command by its branches, its record by `State.finish_recorded`. -/
theorem dataCommands : Obligations.DataCommands := by
  intro s r i c f
  dsimp only
  refine ⟨fun h => ?_, fun h => ?_, fun h => ?_, fun h hlog hlen => ?_, fun hc hfn hwf => ?_, fun hc hdone hhost hwf => ?_⟩
  · have hexec : exec (.nop r i) s = .next (s.finish r.val i .ok) := by
      refine congrArg Host.Outcome.next (if_pos ?_)
      rw [h.1]
      rfl
    exact .of_exec hexec (h.recorded h.2.2 rfl)
  · have hexec : exec (.copyIn r i) s = .next (s.copy r.val i false c f) := by
      refine congrArg Host.Outcome.next ?_
      rw [h.1, h.2.1]
    exact ⟨fun hlen => hexec.trans (congrArg Host.Outcome.next (if_neg hlen)),
      fun hlen => .of_exec (hexec.trans (congrArg Host.Outcome.next (if_pos hlen))) (h.recorded h.2.2 rfl)⟩
  · have hexec : exec (.copyOut r i) s = .next (s.copy r.val i true c f) := by
      refine congrArg Host.Outcome.next ?_
      rw [h.1, h.2.1]
    exact ⟨fun hlen => hexec.trans (congrArg Host.Outcome.next (if_neg hlen)),
      fun hlen => .of_exec (hexec.trans (congrArg Host.Outcome.next (if_pos hlen))) (h.recorded h.2.2 rfl)⟩
  · generalize hn : Nat.min (dLen c.d.bits) 3484048 = n at *
    have himage : s.writeImage f r.val (dAddr c.d.bits) (s.distImage.take n) =
        s.emit (.hostImage (fnOfNat f) (BitVec.ofNat 64 (dAddr c.d.bits)) (s.distImage.take n)) := State.logWrite_off hlog
    have hexec : exec (.distRead r i) s =
        .next ((s.emit (.hostImage (fnOfNat f) (BitVec.ofNat 64 (dAddr c.d.bits)) (s.distImage.take n))).finish r.val i .ok false
          (n + s.mesh.gen.toNat * 2 ^ 32)) := by
      refine congrArg Host.Outcome.next ?_
      rw [h.1, h.2.1]
      dsimp only [distSize]
      rw [hn, if_neg (Nat.pos_iff_ne_zero.mp hlen), himage]
    exact .of_exec hexec ⟨h.recorded h.2.2 rfl, State.finish_out h.2.2⟩
  · obtain ⟨hat, hdone⟩ := Ring.cmdAt_of_dataCmd hc
    have hlogged : (s.logData f r.val c).wf = true := State.wf_logData hwf
    refine ⟨?_, ?_, ?_⟩
    · have hexec : exec (.dmaDone r i) s = .next ((s.logData f r.val c).finish r.val i .ok false (dLen c.d.bits)) := by
        refine congrArg Host.Outcome.next ?_
        rw [hc, hfn]
      exact .of_exec hexec (State.finish_recorded hlogged (State.ringAt_logData _) hat hdone)
    · have hexec : exec (.dmaErr r i true) s = .next (s.finish r.val i .fenced) := by
        refine congrArg Host.Outcome.next ?_
        rw [hc, hfn]
        rfl
      exact .of_exec hexec (State.finish_recorded hwf rfl hat hdone)
    · have hexec : exec (.dmaErr r i false) s = .next ((s.logData f r.val c).poisonData r.val i c) := by
        refine congrArg Host.Outcome.next ?_
        rw [hc, hfn]
        rfl
      exact .of_exec hexec (State.poisonData_recorded hlogged (State.ringAt_logData _) hat hdone)
  · have hexec : exec (.hostBusError r i) s =
        .next (if dFam c.d.bits = 6 then s.poisonData r.val i c else s.finish r.val i .poison) := by
      refine congrArg Host.Outcome.next ?_
      rw [hc]
      exact if_neg (by simp [hdone, hhost])
    refine ⟨fun hfam => ?_, fun hfam => ?_⟩
    · exact .of_exec (hexec.trans (congrArg Host.Outcome.next (if_neg hfam))) (State.finish_recorded hwf rfl hc hdone)
    · exact .of_exec (hexec.trans (congrArg Host.Outcome.next (if_pos hfam))) (State.poisonData_recorded hwf rfl hc hdone)

end Sys2Proof.Machine
end

section
/-! PROOF of O23 (R308, R318-R321): descriptors fetched, records posted, interrupts. -/

namespace Sys2Proof.Machine

open Sys2Proof

/-! ### Fetch -/

/-- One descriptor read for an idle queue starts at once where it may (R308). -/
theorem State.fetched_once {s : State} {r f : Nat} {d : BitVec 512} (hwf : s.wf = true) (hrun : (s.ringAt r).st = .run)
    (hroom : ((s.ringAt r).asked + (s.ringAt r).size - (s.ringAt r).sqc) % (s.ringAt r).size ≠ 0)
    (hfn : s.ringFn r = some f) (hrst : (s.fnAt f).rst = none) (hhold : (s.fnAt f).hold = false)
    (hnone : (s.ringAt r).fetched = [])
    (hmay : s.mayStart r ⟨BitVec.ofNat 16 ((s.ringAt r).sqc % (s.ringAt r).size), d⟩ = true) :
    let e : Desc := ⟨BitVec.ofNat 16 ((s.ringAt r).sqc % (s.ringAt r).size), d⟩
    ∃ u : State, u.wf = true ∧
      u.ringAt r = { s.ringAt r with fetched := [e], sqc := ((s.ringAt r).sqc + 1) % (s.ringAt r).size } ∧
      s.fetched r [d] = u.startCmd r e [] := by
  intro e
  have htake : [d].take (((s.ringAt r).asked + (s.ringAt r).size - (s.ringAt r).sqc) % (s.ringAt r).size) = [d] :=
    List.take_of_length_le (Nat.one_le_iff_ne_zero.mpr hroom)
  generalize hu : s.updRing r (fun y => { y with fetched := y.fetched ++ [e], sqc := (y.sqc + [e].length) % y.size }) = u
  have hread : u.ringAt r = { s.ringAt r with fetched := [e], sqc := ((s.ringAt r).sqc + 1) % (s.ringAt r).size } := by
    rw [← hu, State.ringAt_updRing_same hwf, hnone]
    rfl
  have hmay' : u.mayStart r e = true := by
    have hken (w : Bool) : u.fnKen f w = s.fnKen f w := by
      have hstarted (k : Nat) : (u.ringAt k).started = (s.ringAt k).started := by
        by_cases hk : k = r
        · rw [hk, hread]
        · rw [← hu, State.ringAt_updRing_other hk]
      have hfns : u.fnAt f = s.fnAt f := by rw [← hu]; rfl
      simp only [State.fnKen, hstarted, hfns]
    have hfn' : u.ringFn r = some f := by rw [← hu]; exact hfn
    simp only [State.mayStart, hread, hfn', hfn, Option.getD_some, hken] at hmay ⊢
    exact hmay
  refine ⟨u, hu ▸ State.wf_updRing hwf, hread, ?_⟩
  have hfetched : s.fetched r [d] = u.startRing r := by
    unfold State.fetched
    dsimp only
    rw [if_neg (not_not.mpr hrun), htake, ← hu]
    rfl
  have hstart : u.startRing r = startGo r 1 u := by
    have hfn' : u.ringFn r = some f := by rw [← hu]; exact hfn
    have hfns : u.fnAt f = s.fnAt f := by rw [← hu]; rfl
    unfold State.startRing
    rw [hfn']
    dsimp only
    rw [hfns, hrst, hhold, if_neg (by simp), hread]
    rfl
  rw [hfetched, hstart]
  unfold startGo
  rw [hread]
  dsimp only
  rw [if_pos hmay']
  rfl

theorem Ring.updCmd_of_fresh {x : Ring} {c : Cmd} {g : Cmd → Cmd} (h : x.started.all (fun k => k.d.sqi != c.d.sqi) = true) :
    (x.started ++ [c]).map (fun k => if k.d.sqi == c.d.sqi then g k else k) = x.started ++ [g c] := by
  have hsame : x.started.map (fun k => if k.d.sqi == c.d.sqi then g k else k) = x.started := by
    refine (List.map_congr_left fun k hk => if_neg ?_).trans (List.map_id' _)
    simpa using List.all_eq_true.mp h k hk
  rw [List.map_append, hsame, List.map_singleton, if_pos (beq_self_eq_true _)]

/-! ### Records -/

theorem leastRec_of_le {x : Rec} {l : List Rec} (h : ∀ d ∈ l, x.rank ≤ d.rank) : leastRec x l = x := by
  induction l with
  | nil => rfl
  | cons y l ih =>
    rw [leastRec, List.foldl_cons, if_neg (Nat.not_lt.mpr (h y List.mem_cons_self))]
    exact ih fun d hd => h d (List.mem_cons_of_mem _ hd)

/-- The one record of the lowest rank is written first, wherever it stands (R318). -/
theorem leastRec_of_lt {c : Rec} : ∀ {l : List Rec} {x : Rec}, c ∈ x :: l → (∀ d ∈ x :: l, d ≠ c → c.rank < d.rank) →
    leastRec x l = c := by
  intro l
  induction l with
  | nil => exact fun hmem _ => (List.mem_singleton.mp hmem).symm
  | cons y l ih =>
    intro x hmem hlt
    change leastRec (if y.rank < x.rank then y else x) l = c
    by_cases hxy : y.rank < x.rank
    · rw [if_pos hxy]
      refine ih ?_ fun d hd => hlt d (List.mem_cons_of_mem _ hd)
      obtain rfl | hc := List.mem_cons.mp hmem
      · by_cases hyc : y = c
        · exact hyc ▸ List.mem_cons_self
        · exact absurd (hlt y (by simp) hyc) (Nat.lt_asymm hxy)
      · exact hc
    · rw [if_neg hxy]
      have hlt' : ∀ d ∈ x :: l, d ≠ c → c.rank < d.rank := fun d hd => hlt d (by
        obtain rfl | hd := List.mem_cons.mp hd
        · exact List.mem_cons_self
        · exact List.mem_cons_of_mem _ (List.mem_cons_of_mem _ hd))
      refine ih ?_ hlt'
      by_cases hxc : x = c
      · exact hxc ▸ List.mem_cons_self
      · obtain hc | hc := List.mem_cons.mp hmem
        · exact absurd hc.symm hxc
        · obtain rfl | hc := List.mem_cons.mp hc
          · exact absurd (hlt x List.mem_cons_self hxc) hxy
          · exact List.mem_cons_of_mem _ hc

/-- A ring's MSI-X touches, of the rings, the ring's count alone. -/
theorem State.ringMsix_effect {s : State} {r f : Nat} (hwf : s.wf = true) :
    (s.ringMsix r f).wf = true ∧ (s.ringMsix r f).ringAt r = { s.ringAt r with cnt := 0, firstAt := none } ∧
    ∃ l, (s.ringMsix r f).out = s.out ++ l := by
  have hwf' : (s.updRing r (fun x => { x with cnt := 0, firstAt := none })).wf = true := State.wf_updRing hwf
  have hring := State.ringAt_updRing_same (k := r) (g := fun x => { x with cnt := 0, firstAt := none }) hwf
  unfold State.ringMsix State.msix
  split
  · exact ⟨State.wf_updFn hwf', State.updFn_ringAt.trans hring, [], (List.append_nil _).symm⟩
  · exact ⟨hwf', State.emit_ringAt.trans hring, _, rfl⟩

/-- The place of a command whose record was written is free. -/
def State.placeFreed (s : State) (r : Nat) (x : Rec) : State :=
  match x.cmd with
  | some i => s.updRing r (fun y => { y with started := y.started.eraseP (fun c => c.d.sqi == i && c.done) })
  | none => s

/-- The slot whose record was written is free. -/
def State.slotFreed (s : State) (x : Rec) : State :=
  match x.slot with
  | some k =>
    let p := (s.slotAt k).plid.toNat
    let s := s.setSlot k Slot.init
    if (s.plAt p).st = PlSt.free then s else s.updPl p (fun l => { l with viewDue := true })
  | none => s

theorem State.posted_of_no_note {s : State} {r : Nat} {x : Rec} (hnote : x.note = false) :
    s.posted r x = (s.placeFreed r x).slotFreed x := if_neg (by simp [hnote])

theorem State.slotFreed_frame {s : State} {x : Rec} (r : Nat) :
    (s.slotFreed x).ringAt r = s.ringAt r ∧ (s.slotFreed x).out = s.out := by
  unfold State.slotFreed
  split
  · dsimp only
    split
    · exact ⟨rfl, rfl⟩
    · exact ⟨rfl, rfl⟩
  · exact ⟨rfl, rfl⟩

theorem State.placeFreed_effect {s : State} {r : Nat} {x : Rec} (hwf : s.wf = true) :
    (∃ l, (s.placeFreed r x).ringAt r = { s.ringAt r with started := l }) ∧ (s.placeFreed r x).out = s.out := by
  unfold State.placeFreed
  split
  · exact ⟨⟨_, State.ringAt_updRing_same hwf⟩, rfl⟩
  · exact ⟨⟨(s.ringAt r).started, rfl⟩, rfl⟩

/-- What the writing of a record that is no note ends, touches no ring but for its started commands. -/
theorem State.posted_effect {s : State} {r : Nat} {x : Rec} (hwf : s.wf = true) (hnote : x.note = false) :
    (s.posted r x).wf = true ∧ (∃ l, (s.posted r x).ringAt r = { s.ringAt r with started := l }) ∧
    (s.posted r x).out = s.out := by
  obtain ⟨⟨l, hring⟩, hout⟩ := State.placeFreed_effect (r := r) (x := x) hwf
  obtain ⟨hring', hout'⟩ := State.slotFreed_frame (s := s.placeFreed r x) (x := x) r
  refine ⟨(State.posted_keeps (.refl s)).canon hwf, ⟨l, ?_⟩, ?_⟩
  · rw [State.posted_of_no_note hnote, hring', hring]
  · rw [State.posted_of_no_note hnote, hout', hout]

/-- Ring y is ring x after one record was written to its completion queue. -/
def Ring.PostedAs (x y : Ring) : Prop :=
  y.ready = x.ready ∧ y.fetched = x.fetched ∧ y.unack = x.unack + 1 ∧
  y.cqp = (if x.cqp + 1 = x.size then 0 else x.cqp + 1) ∧
  y.phase = (if x.cqp + 1 = x.size then !x.phase else x.phase)

/-- A record that is no note is written to the ring's completion queue (R319, R321). -/
theorem State.writeRec_effect {s : State} {r f : Nat} {x : Rec} (hwf : s.wf = true) (hlog : (s.fnAt f).dlEn = false)
    (hnote : x.note = false) :
    (s.writeRec r f x).wf = true ∧ (s.ringAt r).PostedAs ((s.writeRec r f x).ringAt r) ∧
    ∃ l, (s.writeRec r f x).out = s.out ++ .record r (s.ringAt r).cqp ((s.ringAt r).recBits x) :: l := by
  generalize hu : (s.emit (.record r (s.ringAt r).cqp ((s.ringAt r).recBits x))).updRing r (fun y => { y with
    cqp := if (s.ringAt r).cqp + 1 == (s.ringAt r).size then 0 else y.cqp + 1
    phase := if (s.ringAt r).cqp + 1 == (s.ringAt r).size then !y.phase else y.phase
    unack := y.unack + 1, rmodF := y.rmod, cnt := y.cnt + 1, firstAt := some (y.firstAt.getD s.now) }) = u
  have hwfu : u.wf = true := hu ▸ State.wf_updRing (by exact hwf)
  have hposted : (s.ringAt r).PostedAs (u.ringAt r) := by
    rw [← hu, State.ringAt_updRing_same (by exact hwf), State.emit_ringAt]
    refine ⟨rfl, rfl, rfl, ?_, ?_⟩ <;> simp only [beq_iff_eq]
  have houtu : u.out = s.out ++ [.record r (s.ringAt r).cqp ((s.ringAt r).recBits x)] := by
    rw [← hu]
    rfl
  obtain ⟨hwfp, ⟨l, hringp⟩, houtp⟩ := State.posted_effect (r := r) hwfu hnote
  have hpostedp : (s.ringAt r).PostedAs ((u.posted r x).ringAt r) := hringp ▸ hposted
  have hwrite : s.writeRec r f x = u.posted r x ∨ s.writeRec r f x = (u.posted r x).ringMsix r f := by
    unfold State.writeRec
    dsimp only
    rw [State.logWrite_off hlog, State.emit_now, hu]
    split
    · exact .inr rfl
    · exact .inl rfl
  obtain hwrite | hwrite := hwrite
  · rw [hwrite]
    exact ⟨hwfp, hpostedp, [], houtp.trans houtu⟩
  · obtain ⟨hwfm, hringm, m, houtm⟩ := State.ringMsix_effect (r := r) (f := f) hwfp
    rw [hwrite]
    refine ⟨hwfm, hringm ▸ hpostedp, m, ?_⟩
    rw [houtm, houtp, houtu, List.append_assoc]
    rfl

/-- COMPLETION_POST writes the record that is next, and what waits for its place may start (R318, R319). -/
theorem State.post_effect {s : State} {r f : Nat} {x : Rec} {y : Ring} (hwf : s.wf = true) (hfn : s.ringFn r = some f)
    (hpost : (s.ringAt r).canPost = true) (hhold : (s.fnAt f).hold = false) (hlog : (s.fnAt f).dlEn = false)
    (hnext : (s.ringAt r).nextRec = some (x, y)) (hnote : x.note = false)
    (hrec : y.cqp = (s.ringAt r).cqp ∧ y.recBits x = (s.ringAt r).recBits x) :
    ∃ u : State, y.PostedAs (u.ringAt r) ∧ u.Starts (s.post r) ∧
      ∃ l, u.out = s.out ++ .record r (s.ringAt r).cqp ((s.ringAt r).recBits x) :: l := by
  generalize hv : s.updRing r (fun _ => y) = v
  have hread : v.ringAt r = y := by
    rw [← hv]
    exact State.ringAt_updRing_same hwf
  obtain ⟨hwfu, hring, l, hout⟩ := State.writeRec_effect (s := v) (r := r) (f := f) (x := x) (hv ▸ State.wf_updRing hwf)
    (by rw [← hv]; exact hlog) hnote
  rw [hread] at hring hout
  refine ⟨v.writeRec r f x, hring, ?_, l, ?_⟩
  · have hposts : s.post r = (v.writeRec r f x).startRings f := by
      unfold State.post
      rw [hfn]
      dsimp only
      rw [if_neg (by simp [hpost, hhold]), hnext, ← hv]
    rw [hposts]
    exact State.startRings_starts hwfu
  · rw [hout, hrec.1, hrec.2, ← hv]
    rfl

theorem fnOfNat_val (f : Func) : fnOfNat f.val = f := Fin.ext (Nat.mod_eq_of_lt f.isLt)

/-! ### The obligation -/

/-- Settles O23: a fetch of one descriptor, the next record of a ring, and its message. -/
theorem fetchAndPost : Obligations.FetchAndPost := by
  intro s r f d c rest since fn v
  dsimp only
  intro hwf
  refine ⟨fun hrun hroom hfn hrst hhold hnone hmay hfresh => ?_, fun hfn hpost hhold hlog hready hnote hfirst => ?_,
    fun hfn hpost hhold hlog hold hmem hnote hleast => ?_, fun hfn hfirst hdue hhold hmskd => ?_,
    fun hpend hmskd => ⟨fun hhold => ?_, fun hhold => ?_⟩⟩
  · obtain ⟨u, hwfu, hread, hfetched⟩ := State.fetched_once hwf hrun hroom hfn hrst hhold hnone hmay
    generalize hx : s.ringAt r.val = x at *
    generalize he : (⟨BitVec.ofNat 16 (x.sqc % x.size), d⟩ : Desc) = e at *
    have hbits : e.bits = d := by rw [← he]
    have hfresh' : x.started.all (fun k => k.d.sqi != e.sqi) = true := he ▸ hfresh
    have hbegun : (u.begunCmd r.val e []).ringAt r.val =
        { x with fetched := [], sqc := (x.sqc + 1) % x.size, started := x.started ++ [e.command] } := by
      rw [State.begunCmd_ringAt hwfu, hread]
    have hwfb : (u.begunCmd r.val e []).wf = true := (State.begunCmd_starts hwfu (by rw [hread])).wf
    refine .of_exec (congrArg Host.Outcome.next hfetched) ?_
    cases hok : descOk e.bits with
    | true =>
      rw [State.startCmd_of_ok hok, hbegun]
      refine ⟨rfl, rfl, e.command, rfl, rfl, fun _ => ⟨rfl, rfl, rfl⟩, fun hbad => ?_⟩
      exact absurd (hbits ▸ hok) (by simp [hbad])
    | false =>
      rw [State.startCmd_of_reserved hok, State.ringAt_updRing_same (by exact hwfb), State.drawn_ringAt, hbegun]
      refine ⟨rfl, rfl, { e.command with begun := true, done := true, tag := none }, Ring.updCmd_of_fresh (c := e.command) hfresh',
        rfl, fun hgood => ?_, fun _ => ⟨rfl, u.anyStatus, rfl⟩⟩
      exact absurd (hbits ▸ hok) (by simp [hgood])
  · obtain ⟨old, hnext⟩ : ∃ old, (s.ringAt r.val).nextRec = some (c, { s.ringAt r.val with ready := rest, old := old }) := by
      unfold Ring.nextRec
      rw [hready]
      dsimp only
      by_cases hz : (s.ringAt r.val).old ≠ 0
      · exact ⟨_, if_pos hz⟩
      · rw [if_neg hz, leastRec_of_le (hfirst.resolve_left hz), List.erase_cons_head]
        exact ⟨_, rfl⟩
    obtain ⟨u, ⟨hrec, hfetched, hunack, hcqp, hphase⟩, hstarts, l, hout⟩ :=
      State.post_effect hwf hfn hpost hhold hlog hnext hnote ⟨rfl, rfl⟩
    obtain ⟨n, started, more, hring, hmore⟩ := hstarts.ring r.val
    refine .of_exec rfl ?_
    rw [hring, hstarts.out]
    refine ⟨⟨more, by rw [hrec], fun hok => hmore fun d hd => hok d ?_⟩, hunack, hcqp, hphase, l, hout⟩
    rw [hfetched] at hd
    exact hd
  · have hnext : (s.ringAt r.val).nextRec = some (c, { s.ringAt r.val with ready := (s.ringAt r.val).ready.erase c }) := by
      unfold Ring.nextRec
      cases hready : (s.ringAt r.val).ready with
      | nil => exact absurd (hready ▸ hmem) List.not_mem_nil
      | cons x l =>
        dsimp only
        rw [hready] at hmem hleast
        rw [if_neg (not_not.mpr hold), leastRec_of_lt hmem hleast]
    obtain ⟨u, -, hstarts, l, hout⟩ := State.post_effect hwf hfn hpost hhold hlog hnext hnote ⟨rfl, rfl⟩
    exact .of_exec rfl ⟨l, hstarts.out.trans hout⟩
  · refine congrArg Host.Outcome.next ?_
    rw [hfirst, hfn]
    dsimp only
    rw [if_pos hdue]
    unfold State.ringMsix State.msix
    rw [State.updRing_fnAt, hmskd, hhold]
    rfl
  all_goals
    generalize hu : s.updFn fn.val (fun x => { x with mskd := x.mskd.erase v }) = u
    have hread : u.fnAt fn.val = { s.fnAt fn.val with mskd := [] } := by
      rw [← hu, State.fnAt_updFn_same hwf, hmskd, List.erase_cons_head]
    have hunmask : exec (.msixUnmask fn v) s = .next (if (u.fnAt fn.val).pend.contains v && !(u.fnAt fn.val).hold then
        (u.updFn fn.val (fun x => { x with pend := x.pend.erase v })).emit (.msix (fnOfNat fn.val) v) else u) := by
      rw [← hu]
      rfl
  · refine .of_exec (hunmask.trans (congrArg Host.Outcome.next (if_pos (by simp [hread, hpend, hhold])))) ?_
    rw [State.emit_fnAt, State.fnAt_updFn_same (hu ▸ State.wf_updFn hwf), hread]
    refine ⟨by simp [hpend], rfl, ?_⟩
    rw [← hu, fnOfNat_val]
    rfl
  · refine .of_exec (hunmask.trans (congrArg Host.Outcome.next (if_neg (by simp [hread, hhold])))) ?_
    rw [hread]
    refine ⟨hpend, rfl, ?_⟩
    rw [← hu]
    rfl

end Sys2Proof.Machine
end

section
/-! PROOF of O26 (R105-R108): PACK_SET and PACK_CLEAR. -/

namespace Sys2Proof.Machine

open Sys2Proof

theorem State.ringAt_of_aboveHubs {s t : State} (h : t.aboveHubs = s.aboveHubs) (r : Nat) : t.ringAt r = s.ringAt r :=
  (congrArg (fun u : State => u.ringAt r) h :)

/-! ### Binding -/

theorem memberFields_singleton {cl : Nat} {n : Byte} (h : fieldOf cl < 84) : memberFields [(cl, n)] = [fieldOf cl] := by
  have hany : (fun h => [(cl, n)].any (fun m => fieldOf m.1 == h)) = (· == fieldOf cl) := by
    funext k
    simp [eq_comm]
  rw [memberFields, hany, List.filter_beq, List.Nodup.count List.nodup_range, if_pos (List.mem_range.mpr h)]
  rfl

/-- A leg bound at a CSN, whether it stands in reset or not, is the CSN's own state (R107, R391). -/
theorem State.aboveHubs_legBind {s : State} {cl : Nat} {b : BarIx} {exp gen : Byte} {p : Option Nat} :
    (s.onStatus cl (.legBind b exp gen p)).aboveHubs = s.aboveHubs := by
  unfold State.onStatus
  split
  · rfl
  · change (s.bindLeg cl b exp gen p).aboveHubs = s.aboveHubs
    unfold State.bindLeg
    split
    · rfl
    · rfl

theorem State.aboveHubs_bindField {s : State} {b h : Nat} {ms : List (Nat × Byte)} {g : Byte} {auto : Bool} :
    (s.bindField b ms g auto h).aboveHubs = s.aboveHubs := by
  unfold State.bindField
  dsimp only
  split
  · exact State.aboveHubs_armBarrier
  · rfl

/-- The member hub's record of a pack has the pack's members and generation. -/
theorem State.bindField_frecOf {s : State} {b h : Nat} {ms : List (Nat × Byte)} {g : Byte} {auto : Bool} (hwf : s.wf = true) :
    ((s.bindField b ms g auto h).frecOf h b).exp = (ms.filter (fun m => fieldOf m.1 == h)).length ∧
    ((s.bindField b ms g auto h).frecOf h b).gen = g := by
  unfold State.bindField
  dsimp only
  split
  · obtain ⟨-, ⟨m, hfrec⟩, -⟩ := State.armBarrier_effect (State.wf_updFr (h := h) (b := b) hwf)
    rw [hfrec, State.frecOf_updFr hwf]
    exact ⟨by simp, rfl⟩
  · rw [State.frecOf_updFr hwf]
    exact ⟨by simp, rfl⟩

/-- A pack over one cluster: the root's record, and its field's. -/
theorem State.packBind_one {s : State} {b cl : Nat} {n g : Byte} {rec : RootRec → RootRec} (hwf : s.wf = true)
    (hfield : fieldOf cl < 84) :
    let t := s.packBind b [(cl, n)] g rec
    let mfs := setBits (0 : BitVec 84) (fieldOf cl) 1 1
    let p := rec { (s.precAt b).cleared with mfs := mfs, fexp := 1, nlost := 0, gen := g, held := false, bufs := mfs }
    t.wf = true ∧ (∀ r, t.ringAt r = s.ringAt r) ∧ t.precAt b = { p with st := if p.auto then .armed else .gather } ∧
    (t.frecOf (fieldOf cl) b).exp = 1 ∧ (t.frecOf (fieldOf cl) b).gen = g := by
  intro t mfs p
  have hwfbind : (s.onStatus cl (.legBind (BitVec.ofNat 16 b) n g none)).wf = true :=
    (State.onStatus_keeps (.refl s)).canon hwf
  have hbind := State.aboveHubs_legBind (s := s) (cl := cl) (b := BitVec.ofNat 16 b) (exp := n) (gen := g) (p := none)
  generalize hu : s.onStatus cl (.legBind (BitVec.ofNat 16 b) n g none) = u at *
  generalize hv : u.updPrec b (fun r =>
    let r := rec { r.cleared with mfs := mfs, fexp := 1, nlost := 0, gen := g, held := false, bufs := mfs }
    { r with st := if r.auto then .armed else .gather }) = v
  have hwfv : v.wf = true := hv ▸ State.wf_updPrec hwfbind
  have hprec : v.precAt b = { p with st := if p.auto then .armed else .gather } := by
    rw [← hv, State.precAt_updPrec_same hwfbind, State.precAt_of_aboveHubs hbind]
  have hring (r : Nat) : v.ringAt r = s.ringAt r := by
    rw [← hv, State.updPrec_ringAt, State.ringAt_of_aboveHubs hbind]
  have ht : t = v.bindField b [(cl, n)] g (v.precAt b).auto (fieldOf cl) := by
    rw [← hv, ← hu]
    simp only [t, State.packBind, memberFields_singleton hfield]
    rfl
  have habove : t.aboveHubs = v.aboveHubs := by
    rw [ht]
    exact State.aboveHubs_bindField
  refine ⟨(State.packBind_keeps (.refl s)).canon hwf, fun r => (State.ringAt_of_aboveHubs habove r).trans (hring r),
    (State.precAt_of_aboveHubs habove b).trans hprec, ?_⟩
  obtain ⟨hexp, hgen⟩ := State.bindField_frecOf (b := b) (h := fieldOf cl) (ms := [(cl, n)]) (g := g) (auto := (v.precAt b).auto) hwfv
  rw [ht]
  exact ⟨hexp.trans (by simp), hgen⟩

/-! ### Clearing -/

/-- The barrier of a bound pack without legs returns to IDLE with GEN + 1 (R108). -/
theorem State.idleBarrier_bound {s : State} {b : Nat} (hwf : s.wf = true)
    (hbound : (s.precAt b).st = .gather ∨ (s.precAt b).st = .armed) (hscope : (s.precAt b).scope ≠ 2)
    (hlegs : s.legClusters b = []) :
    let t := s.idleBarrier b true
    t.wf = true ∧ (∀ r, t.ringAt r = s.ringAt r) ∧
    t.precAt b = { (s.precAt b).toIdle with gen := (s.precAt b).gen + 1 } := by
  intro t
  generalize hu : forAll (List.range 84) (fun s h => if (s.frecOf h b).st = .idle then s else s.idleHub h b true) s = u
  have habove : u.aboveHubs = s.aboveHubs := by
    rw [← hu]
    refine aboveHubs_forAll fun v h => ?_
    split
    · rfl
    · exact State.aboveHubs_idleHub
  have hwfu : u.wf = true := by
    rw [← hu]
    refine (forAll_keeps (.refl s) fun v h hv => ?_).canon hwf
    split
    · exact hv
    · exact State.idleHub_keeps hv
  have hprec := State.precAt_of_aboveHubs habove b
  have hidle : t = u.idleRoot b := by
    change State.idleBarrier s b true = _
    unfold State.idleBarrier
    rw [if_pos rfl, hlegs, forAll_nil]
    exact congrArg (fun v : State => v.idleRoot b) hu
  have hleave : u.packLeave b = u := by
    unfold State.packLeave
    exact if_neg (by rw [hprec]; exact fun h => hscope h.1)
  have hroot : t = { u.updPrec b (fun r => { r.toIdle with gen := r.gen + 1 }) with
      rfolds := u.rfolds.filter (fun q => !q.ofField b) } := by
    rw [hidle]
    unfold State.idleRoot
    dsimp only
    rw [hleave]
    refine if_neg ?_
    rw [hprec]
    obtain hst | hst := hbound <;> simp [hst]
  refine ⟨(State.idleBarrier_keeps (.refl s)).canon hwf, fun r => ?_, ?_⟩
  · rw [hroot]
    exact State.ringAt_of_aboveHubs habove r
  · have hread := State.precAt_updPrec_same (k := b) (g := fun r => { r.toIdle with gen := r.gen + 1 }) hwfu
    rw [hroot, ← hprec]
    exact hread

/-- PACK_CLEAR waits for nothing where no PACK_SET binds, nothing is decided and no wave is out (R108). -/
theorem State.packClear_free {s : State} {b : Nat} (hjoin : (s.precAt b).join = none) (hwaves : s.wavesLeft b = false)
    (hst : (s.precAt b).st ≠ .deciding) :
    ¬ ((s.waitingJoin b).isSome = true ∨ (s.precAt b).st = .deciding ∨ s.wavesLeft b = true) := by
  have hnone : s.waitingJoin b = none := by
    unfold State.waitingJoin
    rw [hjoin]
  simp [hnone, hst, hwaves]

/-! ### The obligation -/

section Exec

variable {s : State} {r : RingIx} {i : BitVec 16} {c : Cmd} {f b : Nat} {img : List Byte}

theorem exec_packSet_reserved (h : Started s r i 2 1 c f)
    (hbad : dScope c.d.bits = 0 ∨ dScope c.d.bits = 3 ∨ 4 < dHandle c.d.bits / 2 ^ 20 ∨
      pdReserved (BitVec.ofNat 32 (dField c.d.bits 288 32)) = true) :
    exec (.packSet r i img) s = .next (s.drawn.finish r.val i s.anyStatus) := by
  change execPackSet r i img s = _
  unfold execPackSet
  rw [h.1, h.2.1]
  exact if_pos hbad

theorem exec_packSet (h : Started s r i 2 1 c f) (hscope : dScope c.d.bits = 1 ∨ dScope c.d.bits = 2)
    (hcls : dHandle c.d.bits / 2 ^ 20 ≤ 4) (hpay : pdReserved (BitVec.ofNat 32 (dField c.d.bits 288 32)) = false) :
    exec (.packSet r i img) s = match s.heldBar f (dHandle c.d.bits) with
      | none => .next (s.finish r.val i .fenced)
      | some b =>
        if (s.precAt b).st ≠ .idle ∨ (s.precAt b).join.isSome ∨ pdOutside (BitVec.ofNat 32 (dField c.d.bits 288 32)) then
          .next (s.drawn.finish r.val i s.anyStatus)
        else .next (s.packSet f r.val i c.d.bits b img) := by
  change execPackSet r i img s = _
  unfold execPackSet
  rw [h.1, h.2.1]
  refine if_neg ?_
  rintro (hbad | hbad | hbad | hbad)
  · exact absurd hscope (by simp [hbad])
  · exact absurd hscope (by simp [hbad])
  · exact absurd hcls (Nat.not_le.mpr hbad)
  · exact absurd hbad (by simp [hpay])

theorem exec_packClear (h : Started s r i 2 2 c f) (hcls : dHandle c.d.bits / 2 ^ 20 ≤ 4) :
    exec (.packClear r i) s = match s.heldBar f (dHandle c.d.bits) with
      | none => .next (s.finish r.val i .fenced)
      | some b => .next (s.packClear r.val i b) := by
  change execPackClear r i s = _
  unfold execPackClear
  rw [h.1, h.2.1]
  exact if_neg (Nat.not_lt.mpr hcls)

end Exec

/-- Settles O26: the handle's barrier, its pack's records, and its way back to IDLE. -/
theorem packs : Obligations.Packs := by
  intro s r i c f img b cl n
  dsimp only
  refine ⟨fun h => ⟨fun hbad => ⟨_, exec_packSet_reserved h hbad⟩, fun hscope hcls hpay => ⟨fun hnone => ?_, fun hheld =>
    ⟨fun hbusy => ⟨s.anyStatus, ?_⟩, fun hidle hjoin hin hone himg hfield hcheck => ?_⟩⟩⟩, fun h hcls => ⟨s.anyStatus, ?_⟩,
    fun h hcls => ⟨fun hnone => ?_, fun hheld hjoin hwaves => ⟨fun hidle => ?_, fun hbound hscope hlegs => ?_⟩⟩⟩
  · exact .of_exec ((exec_packSet h hscope hcls hpay).trans (by rw [hnone])) (h.recorded h.2.2 rfl)
  · rw [exec_packSet h hscope hcls hpay, hheld]
    exact if_pos (by rwa [← Option.isSome_iff_ne_none] at hbusy)
  · have hset : s.packSet f r.val i c.d.bits b img =
        (s.packBind b [(cl, n)] (s.precAt b).gen (packRec s f c.d.bits)).finish r.val i .ok := by
      unfold State.packSet
      dsimp only
      rw [hcheck]
      dsimp only
      rw [himg, if_neg (by simp), if_neg (by simp [hone])]
    have hexec : exec (.packSet r i img) s = .next (s.packSet f r.val i c.d.bits b img) := by
      rw [exec_packSet h hscope hcls hpay, hheld]
      exact if_neg (by simp [hidle, hjoin, hin])
    obtain ⟨hwf, hring, hprec, hexp, hgen⟩ := State.packBind_one (b := b) (n := n) (g := (s.precAt b).gen)
      (rec := packRec s f c.d.bits) h.2.2 hfield
    generalize s.packBind b [(cl, n)] (s.precAt b).gen (packRec s f c.d.bits) = t at *
    refine .of_exec (hexec.trans (congrArg Host.Outcome.next hset)) ?_
    have hrest := State.finish_noRings (r := r.val) (i := i) (st := .ok) (flag := false) (res := 0) hwf
    have hprec' : (t.finish r.val i .ok).precAt b = t.precAt b := (congrArg (fun u : State => u.precAt b) hrest :)
    have hfrec : (t.finish r.val i .ok).frecOf (fieldOf cl) b = t.frecOf (fieldOf cl) b :=
      (congrArg (fun u : State => u.frecOf (fieldOf cl) b) hrest :)
    rw [hprec', hfrec, hprec]
    exact ⟨rfl, show BitVec.ofNat 2 (dScope c.d.bits) = 1 by rw [hone]; rfl, rfl, rfl, rfl, rfl, rfl, rfl, hexp, hgen, h.recorded hwf (hring _)⟩
  · change execPackClear r i s = _
    unfold execPackClear
    rw [h.1, h.2.1]
    exact if_pos hcls
  · exact .of_exec ((exec_packClear h hcls).trans (by rw [hnone])) (h.recorded h.2.2 rfl)
  all_goals
    have hexec : exec (.packClear r i) s = .next (s.packClear r.val i b) := by rw [exec_packClear h hcls, hheld]
  · have hfree := State.packClear_free hjoin hwaves (by simp [hidle])
    refine .of_exec (hexec.trans (congrArg Host.Outcome.next ((if_neg hfree).trans (if_pos hidle)))) ?_
    exact ⟨h.recorded h.2.2 rfl, (congrArg State.prec (State.finish_noRings h.2.2) :)⟩
  · have hst : (s.precAt b).st ≠ .idle := by obtain hst | hst := hbound <;> simp [hst]
    have hfree := State.packClear_free hjoin hwaves (by obtain hst | hst := hbound <;> simp [hst])
    obtain ⟨hwf, hring, hprec⟩ := State.idleBarrier_bound h.2.2 hbound hscope hlegs
    refine .of_exec (hexec.trans (congrArg Host.Outcome.next ((if_neg hfree).trans (if_neg hst)))) ?_
    generalize s.idleBarrier b true = t at *
    have hprec' : (t.finish r.val i .ok).precAt b = t.precAt b :=
      (congrArg (fun u : State => u.precAt b) (State.finish_noRings hwf) :)
    rw [hprec', hprec]
    exact ⟨rfl, rfl, rfl, h.recorded hwf (hring _)⟩

end Sys2Proof.Machine
end

section
/-! SUPPORT. What the ends of slots and the roles of barriers leave alone (R250, R262). -/

namespace Sys2Proof.Machine

open Sys2Proof

/-! ### Roles -/

/-- The roles that pitch lists give stand in the root's records alone (R250). -/
theorem State.setRoles_frame {s : State} {f : Nat} {m : PitchImage} : ∃ p, s.setRoles f m = { s with prec := p } := by
  unfold State.setRoles
  refine forAll_induct (P := fun t => ∃ p, t = { s with prec := p }) ⟨s.prec, rfl⟩ ?_
  rintro t b ⟨p, rfl⟩
  dsimp only
  split
  · exact ⟨_, rfl⟩
  · exact ⟨p, rfl⟩

theorem forAll_setRoles_frame {s : State} {f : Nat} {ms : List PitchImage} :
    ∃ p, forAll ms (fun s m => s.setRoles f m) s = { s with prec := p } := by
  refine forAll_induct (P := fun t => ∃ p, t = { s with prec := p }) ⟨s.prec, rfl⟩ ?_
  rintro t m ⟨p, rfl⟩
  obtain ⟨p', hp'⟩ := State.setRoles_frame (s := { s with prec := p }) (f := f) (m := m)
  exact ⟨p', hp'⟩

/-! ### Served waiters -/

/-- A state without what the serving of a kennel entry writes: its entry, hubs' timers, the waiters' ends. -/
def State.noKennel (s : State) : State := { s with net := [], hub := [], ken := [] }

theorem State.noKennel_endWaiter {s : State} {k : Nat} {w : Waiter} {st : Status} {g : BitVec 16} :
    (s.endWaiter k w st g).noKennel = s.noKennel := by
  have hdrop : (s.dropWaiter k w).noKennel = s.noKennel := by
    unfold State.dropWaiter
    cases w.timer <;> rfl
  unfold State.endWaiter State.sendEnd
  dsimp only
  split
  · exact hdrop
  · exact hdrop

theorem noKennel_serveUnits {k : Nat} (fuel : Nat) : ∀ {s : State}, (serveUnits k fuel s).noKennel = s.noKennel := by
  induction fuel with
  | zero => exact rfl
  | succ fuel ih =>
    intro s
    unfold serveUnits
    split
    · rfl
    · dsimp only
      split
      · exact ih.trans State.noKennel_endWaiter
      · split
        · exact ih.trans State.noKennel_endWaiter
        · rfl

theorem State.noKennel_giveBack {s : State} {f k n : Nat} : (s.giveBack f k n).noKennel = s.noKennel := by
  unfold State.giveBack
  split
  · exact noKennel_serveUnits _
  · rfl

/-! ### Records that stand -/

/-- No newer record takes a record's place that is neither of a pitch list nor a note (R318). -/
theorem mem_joinRecs {l : List Rec} {x o : Rec} (hmem : o ∈ l) (hpl : o.pl = none) (hnote : o.note = false) :
    o ∈ joinRecs l x := by
  have hstays : replaces x o = false := by
    simp only [replaces, hpl, hnote, Bool.and_false, Bool.false_and, Bool.or_false]
    cases x.pl <;> rfl
  unfold joinRecs
  split
  · exact List.mem_map.mpr ⟨o, hmem, if_neg (by simp [hstays])⟩
  · exact List.mem_append_left _ hmem

/-- State t is state s after records of slots and pitch lists were posted: pitch lists, their order and started commands stand,
and so does every record that no newer one replaces. -/
structure State.Posts (s t : State) : Prop where
  wf : t.wf = true
  pl : t.pl = s.pl
  order : ∀ f, (t.fnAt f).order = (s.fnAt f).order
  started : ∀ r, (t.ringAt r).started = (s.ringAt r).started
  ready : ∀ r o, o ∈ (s.ringAt r).ready → o.pl = none → o.note = false → o ∈ (t.ringAt r).ready

theorem State.Posts.refl {s : State} (hwf : s.wf = true) : s.Posts s :=
  ⟨hwf, rfl, fun _ => rfl, fun _ => rfl, fun _ _ h _ _ => h⟩

theorem State.Posts.trans {s t u : State} (h : s.Posts t) (h' : t.Posts u) : s.Posts u where
  wf := h'.wf
  pl := h'.pl.trans h.pl
  order f := (h'.order f).trans (h.order f)
  started r := (h'.started r).trans (h.started r)
  ready r o hmem hpl hnote := h'.ready r o (h.ready r o hmem hpl hnote) hpl hnote

/-- A write of what is neither a pitch list, nor a function, nor a ring posts nothing. -/
theorem State.Posts.of_eq {s t : State} (hwf : t.wf = true) (hpl : t.pl = s.pl) (hfn : t.fn = s.fn) (hring : t.ring = s.ring) :
    s.Posts t := by
  have hread (r : Nat) : t.ringAt r = s.ringAt r := congrArg (fun l => tget Ring.init l r) hring
  refine ⟨hwf, hpl, fun f => ?_, fun r => by rw [hread], fun r o h _ _ => by rwa [hread]⟩
  exact congrArg (fun l => (tget Fn.init l f).order) hfn

theorem State.Posts.of_updFn {s : State} {f : Nat} {g : Fn → Fn} (hwf : s.wf = true)
    (hg : (g (s.fnAt f)).order = (s.fnAt f).order) : s.Posts (s.updFn f g) where
  wf := State.wf_updFn hwf
  pl := rfl
  order k := by
    by_cases hk : k = f
    · rw [hk, State.fnAt_updFn_same hwf, hg]
    · rw [State.fnAt_updFn_other hk]
  started _ := rfl
  ready _ _ h _ _ := h

theorem State.postTo_posts {s : State} {f ring : Nat} {x : Rec} (hwf : s.wf = true) : s.Posts (s.postTo f ring x) := by
  unfold State.postTo
  split
  · refine ⟨State.wf_updRing hwf, rfl, fun _ => rfl, fun r => ?_, fun r o hmem hpl hnote => ?_⟩
    · by_cases hr : r = ring
      · rw [hr, State.ringAt_updRing_same hwf]
      · rw [State.ringAt_updRing_other hr]
    · by_cases hr : r = ring
      · rw [hr, State.ringAt_updRing_same hwf]
        exact mem_joinRecs (hr ▸ hmem) hpl hnote
      · rwa [State.ringAt_updRing_other hr]
  · exact .of_updFn hwf rfl

theorem State.giveBack_posts {s : State} {f k n : Nat} (hwf : s.wf = true) : s.Posts (s.giveBack f k n) :=
  have h := State.noKennel_giveBack (s := s) (f := f) (k := k) (n := n)
  .of_eq ((State.giveBack_keeps (.refl s)).canon hwf) (congrArg State.pl h :) (congrArg State.fn h :) (congrArg State.ring h :)

theorem State.endSlot_posts {s : State} {k : Nat} {why : EndR} (hwf : s.wf = true) : s.Posts (s.endSlot k why) := by
  generalize hu : (if (s.slotAt k).shv then
    s.giveBack (s.slotAt k).func.val (s.slotAt k).shp.toNat (s.slotAt k).pages.toNat else s) = u
  have hback : s.Posts u := by
    rw [← hu]
    split
    · exact State.giveBack_posts hwf
    · exact .refl hwf
  generalize hv : u.updSlot k
    (fun x => { x with st := .ending, why := some why, dec := none, after := none, pauseAfter := false }) = v
  have hending : s.Posts v := by
    rw [← hv]
    exact hback.trans (.of_eq (State.wf_updSlot hback.wf) rfl rfl rfl)
  have hcount : ∃ w, s.Posts w ∧ s.endSlot k why = w.postTo (s.slotAt k).func.val (s.slotAt k).cring.toNat
      (slotEndRec k (w.slotAt k) (endCode why) (endStatus why) w.tick.num.toNat) := by
    unfold State.endSlot
    dsimp only
    rw [hu, hv]
    cases why with
    | evict => exact ⟨_, hending.trans (.of_updFn hending.wf rfl), rfl⟩
    | nan => exact ⟨_, hending.trans (.of_updFn hending.wf rfl), rfl⟩
    | stop => exact ⟨_, hending, rfl⟩
    | maxlen => exact ⟨_, hending, rfl⟩
    | cancel => exact ⟨_, hending, rfl⟩
    | retire => exact ⟨_, hending, rfl⟩
    | poison => exact ⟨_, hending, rfl⟩
  obtain ⟨w, hw, heq⟩ := hcount
  rw [heq]
  exact hw.trans (State.postTo_posts hw.wf)

theorem State.retireSlots_posts {s : State} {p : Nat} (hwf : s.wf = true) : s.Posts (s.retireSlots p) :=
  forAll_induct (P := fun t => s.Posts t) (.refl hwf) fun _ _ h => h.trans (State.endSlot_posts h.wf)

end Sys2Proof.Machine
end

section
/-! PROOF of O27 (R245-R251): PITCH_ADMIT and PITCH_RETIRE. -/

namespace Sys2Proof.Machine

open Sys2Proof

/-! ### Admission -/

theorem State.freePlid_free {s : State} {f p : Nat} (h : s.freePlid f = some p) : (s.plAt p).st = .free := by
  unfold State.freePlid at h
  split at h
  · exact absurd h (by simp)
  · have hfound := List.find?_some h
    simpa using hfound

section Roles

variable {s : State} {f : Nat} {ms : List PitchImage}

theorem forAll_setRoles_plAt (k : Nat) : (forAll ms (fun s m => s.setRoles f m) s).plAt k = s.plAt k := by
  obtain ⟨q, hq⟩ := forAll_setRoles_frame (s := s) (f := f) (ms := ms)
  rw [hq]
  rfl

theorem forAll_setRoles_ringAt (k : Nat) : (forAll ms (fun s m => s.setRoles f m) s).ringAt k = s.ringAt k := by
  obtain ⟨q, hq⟩ := forAll_setRoles_frame (s := s) (f := f) (ms := ms)
  rw [hq]
  rfl

theorem forAll_setRoles_fnAt (k : Nat) : (forAll ms (fun s m => s.setRoles f m) s).fnAt k = s.fnAt k := by
  obtain ⟨q, hq⟩ := forAll_setRoles_frame (s := s) (f := f) (ms := ms)
  rw [hq]
  rfl

end Roles

theorem State.putImage_ringAt {s : State} {f p : Nat} {m : PitchImage} (r : Nat) : (s.putImage f p m).ringAt r = s.ringAt r := by
  unfold State.putImage
  dsimp only
  rw [forAll_setRoles_ringAt]
  rfl

theorem State.putImage_plAt {s : State} {f p : Nat} {m : PitchImage} (hwf : s.wf = true) :
    (s.putImage f p m).plAt p =
      { s.plAt p with img := m, nextImg := none, st := if m.vonly then PlSt.variant else PlSt.queued } := by
  unfold State.putImage
  dsimp only
  rw [forAll_setRoles_plAt]
  exact State.updFn_plAt.trans (State.plAt_updPl_same hwf)

/-- The image of a free list takes effect at once (R249). -/
theorem State.bindImage_free {s : State} {f p : Nat} {m : PitchImage} (hwf : s.wf = true) (hfree : (s.plAt p).st = .free) :
    let t := s.bindImage f p m
    t.wf = true ∧ (∀ r, t.ringAt r = s.ringAt r) ∧ (t.plAt p).img = m ∧
    (t.plAt p).st = (if m.vonly then .variant else .queued) ∧ (t.plAt p).steps = 0 ∧ (t.plAt p).func = fnOfNat f := by
  intro t
  generalize hu : (s.startHist f p m).setPl p { PitchList.init with st := .queued, func := fnOfNat f, img := m } = u
  have hwfhist : (s.startHist f p m).wf = true := (State.startHist_keeps (.refl s)).canon hwf
  have hwfu : u.wf = true := hu ▸ (State.setPl_keeps (.refl _)).canon hwfhist
  have hread : u.plAt p = { PitchList.init with st := .queued, func := fnOfNat f, img := m } := by
    rw [← hu]
    exact State.plAt_setPl_same hwfhist
  have hbind : t = u.putImage f p m := by
    change State.bindImage s f p m = _
    unfold State.bindImage
    dsimp only
    rw [hfree, if_neg (show ¬ PlSt.free = .running by decide), if_neg (show ¬ PlSt.free = .held by decide), if_pos rfl, hu]
  refine ⟨(State.bindImage_keeps (.refl s)).canon hwf, fun r => ?_, ?_⟩
  · rw [hbind, State.putImage_ringAt, ← hu]
    rfl
  · rw [hbind, State.putImage_plAt hwfu, hread]
    exact ⟨rfl, rfl, rfl, rfl⟩

/-! ### Retirement -/

/-- A list that leaves its held step, or a replay not yet run, writes the function's commit record alone (R223). -/
theorem State.leaveHeld_posts {s : State} {f p : Nat} (hwf : s.wf = true) : s.Posts (s.leaveHeld f p) := by
  have hleft (b : Bool) : s.Posts (if b then s.updFn f (fun x => { x with
      cst := .idle, needSub := [], ready := false, readyWait := 0, readyFrom := [], replayOf := none }) else s) := by
    split
    · exact .of_updFn hwf rfl
    · exact .refl hwf
  exact hleft _

/-- A freed list is FREE and out of its function's order (R250). -/
theorem State.freeList_effect {s : State} {f p : Nat} (hwf : s.wf = true) :
    let t := s.freeList f p
    t.wf = true ∧ (∀ r, t.ringAt r = s.ringAt r) ∧ (t.plAt p).st = .free ∧ ¬ p ∈ (t.fnAt f).order := by
  have hwfset : (s.setPl p PitchList.init).wf = true := (State.setPl_keeps (.refl s)).canon hwf
  refine ⟨(State.freeList_keeps (.refl s)).canon hwf, fun r => ?_, ?_, ?_⟩
  · exact forAll_setRoles_ringAt r
  · unfold State.freeList
    dsimp only
    rw [forAll_setRoles_plAt]
    exact congrArg PitchList.st (State.updFn_plAt.trans (State.plAt_setPl_same hwf))
  · unfold State.freeList
    dsimp only
    rw [forAll_setRoles_fnAt, State.fnAt_updFn_same hwfset]
    simp

/-- A list that retires leaves what its function holds of it: its held step, or a replay not yet run. -/
def State.retireHeld (s : State) (f p : Nat) : State :=
  if (s.plAt p).st = .held then s.leaveHeld f p
  else match (s.fnAt f).replayOf with | some (q, _, _) => if q = p then s.leaveHeld f p else s | none => s

theorem State.retireHeld_posts {s : State} {f p : Nat} (hwf : s.wf = true) : s.Posts (s.retireHeld f p) := by
  unfold State.retireHeld
  split
  · exact State.leaveHeld_posts hwf
  · split
    · split
      · exact State.leaveHeld_posts hwf
      · exact .refl hwf
    · exact .refl hwf

/-- The final STEP record of a list that is no variant (R251, R317). -/
def State.finalStep (s : State) (f plid : Nat) (p : PitchList) : State :=
  if p.img.vonly then s
  else s.postTo f p.img.cring.toNat (stepRec plid p.img.utag p.steps (s.fnAt f).cep s.tick.num.toNat true)

theorem State.finalStep_posts {s : State} {f plid : Nat} {p : PitchList} (hwf : s.wf = true) : s.Posts (s.finalStep f plid p) := by
  unfold State.finalStep
  split
  · exact .refl hwf
  · exact State.postTo_posts hwf

theorem State.retireNow_eq {s : State} {f p r : Nat} {i : BitVec 16} :
    s.retireNow f p r i =
      ((((s.retireHeld f p).freeList f p).finish r i .ok).finalStep f p (s.plAt p)).retireSlots p := rfl

/-- The retirement of a list that does not run: FREE, out of the order, its record ready (R251). -/
theorem State.retireNow_effect {s : State} {f p r : Nat} {i : BitVec 16} {c : Cmd} (hwf : s.wf = true)
    (hc : (s.ringAt r).cmdAt i = some c) (hdone : c.done = false) :
    let t := s.retireNow f p r i
    (t.plAt p).st = .free ∧ ¬ p ∈ (t.fnAt f).order ∧ cmdRec c.d .ok false 0 ∈ (t.ringAt r).ready := by
  have hheld := State.retireHeld_posts (f := f) (p := p) hwf
  obtain ⟨hwff, hringf, hfree, horder⟩ := State.freeList_effect (f := f) (p := p) hheld.wf
  generalize hu : (s.retireHeld f p).freeList f p = u at *
  have hcu : (u.ringAt r).cmdAt i = some c := by
    rw [hringf, Ring.cmdAt, hheld.started]
    exact hc
  obtain ⟨more, hready, -⟩ := State.finish_recorded (s := u) (st := .ok) (flag := false) (res := 0) hwff rfl hcu hdone
  have hrest := State.finish_noRings (r := r) (i := i) (st := .ok) (flag := false) (res := 0) hwff
  have hpl : (u.finish r i .ok).pl = u.pl := (congrArg State.pl hrest :)
  obtain ⟨turn, hfn⟩ := State.finish_fnAt (r := r) (i := i) (st := .ok) (flag := false) (res := 0) hwff f
  have hwfv : (u.finish r i .ok).wf = true := (State.finish_keeps (.refl u)).canon hwff
  generalize hv : u.finish r i .ok = v at *
  have hstep := State.finalStep_posts (f := f) (plid := p) (p := s.plAt p) hwfv
  have hposts := hstep.trans (State.retireSlots_posts (p := p) hstep.wf)
  intro t
  have ht : t = (v.finalStep f p (s.plAt p)).retireSlots p := by
    rw [← hv, ← hu]
    exact State.retireNow_eq
  rw [ht]
  refine ⟨?_, ?_, hposts.ready r _ ?_ rfl rfl⟩
  · have hplt : ((v.finalStep f p (s.plAt p)).retireSlots p).plAt p = u.plAt p :=
      congrArg (fun l => tget PitchList.init l p) (hposts.pl.trans hpl)
    rw [hplt, hfree]
  · rw [hposts.order f, hfn]
    exact horder
  · rw [hready]
    exact List.mem_append_right _ List.mem_cons_self

/-! ### The obligation -/

section Exec

variable {s : State} {r : RingIx} {i : BitVec 16} {c : Cmd} {f : Nat} {img : List Byte}

theorem exec_pitchAdmit (h : Started s r i 4 1 c f) :
    exec (.pitchAdmit r i img) s = .next (s.pitchCmd f r.val i c.d.bits img) := by
  refine congrArg Host.Outcome.next ?_
  rw [h.1, h.2.1]

theorem exec_pitchRetire (h : Started s r i 4 2 c f) :
    exec (.pitchRetire r i) s = .next (s.pitchRetire f r.val i (dId c.d.bits)) := by
  refine congrArg Host.Outcome.next ?_
  rw [h.1, h.2.1]

/-- An image for a fresh list that names nothing of other functions is admitted where it has no fault (R248). -/
theorem State.pitchCmd_fresh {s : State} {f r : Nat} {i : BitVec 16} {d : BitVec 512} {img : List Byte} (h64 : 64 ≤ dLen d)
    (hsize : pitchSize img ≤ dLen d) (hid : dId d = 0xFFFF) (hfenced : s.pitchFenced f (pitchImage img) = false) :
    s.pitchCmd f r i d img =
      if s.pitchFaulty f (dId d) (pitchImage img) then s.drawn.finish r i s.anyStatus
      else s.pitchAdmit f r i (dId d) (pitchImage img) := by
  unfold State.pitchCmd
  dsimp only
  rw [if_neg (by omega), if_neg (by omega), hid, hfenced]
  rfl

end Exec

/-- Settles O27: an admission by the checks of its image, a retirement by the list's state. -/
theorem pitchLists : Obligations.PitchLists := by
  intro s r i c f p img
  dsimp only
  refine ⟨fun h => ⟨fun hlen => ?_, fun hlen hshort => ⟨s.anyStatus, ?_⟩, fun h64 hsize hid hfenced => ⟨fun hfaulty =>
    ⟨s.anyStatus, ?_⟩, fun hgood hplid hroom => ?_⟩⟩, fun h => ⟨fun howns => ?_, fun howns hrun hnone => ?_, fun howns hrun => ?_⟩⟩
  · refine .of_exec ((exec_pitchAdmit h).trans (congrArg Host.Outcome.next (if_pos hlen))) ⟨h.recorded h.2.2 rfl, ?_⟩
    exact (congrArg State.pl (State.finish_noRings h.2.2) :)
  · exact (exec_pitchAdmit h).trans (congrArg Host.Outcome.next ((if_neg hlen).trans (if_pos hshort)))
  · exact (exec_pitchAdmit h).trans (congrArg Host.Outcome.next
      ((State.pitchCmd_fresh h64 hsize hid hfenced).trans (if_pos hfaulty)))
  · have hadmit : s.pitchAdmit f r.val i (dId c.d.bits) (pitchImage img) =
        (s.bindImage f p (pitchImage img)).finish r.val i .ok false p := by
      unfold State.pitchAdmit
      dsimp only
      rw [hid, hfenced, if_neg (by simp), if_pos (by simp), hplid]
      exact if_pos hroom
    obtain ⟨hwf, hring, himg, hst, hsteps, hfunc⟩ :=
      State.bindImage_free (m := pitchImage img) h.2.2 (State.freePlid_free hplid)
    refine .of_exec ((exec_pitchAdmit h).trans (congrArg Host.Outcome.next
      ((State.pitchCmd_fresh h64 hsize hid hfenced).trans ((if_neg (by simp [hgood])).trans hadmit)))) ?_
    generalize s.bindImage f p (pitchImage img) = u at *
    have hplt : (u.finish r.val i .ok false p).plAt p = u.plAt p :=
      (congrArg (fun v : State => v.plAt p) (State.finish_noRings hwf) :)
    rw [hplt]
    exact ⟨himg, hst, hsteps, hfunc, h.recorded hwf (hring _)⟩
  · exact .of_exec ((exec_pitchRetire h).trans (congrArg Host.Outcome.next (if_pos (by simp [howns])))) (h.recorded h.2.2 rfl)
  · have hretire : s.pitchRetire f r.val i (dId c.d.bits) =
        (s.begin_ r.val i).updPl (dId c.d.bits) (fun p => { p with retire := some (r.val, i) }) := by
      unfold State.pitchRetire
      rw [if_neg (by simp [howns]), if_pos hrun, if_neg (by simp [hnone])]
    have hwf : (s.begin_ r.val i).wf = true := State.wf_updRing h.2.2
    refine .of_exec ((exec_pitchRetire h).trans (congrArg Host.Outcome.next hretire)) ?_
    rw [State.plAt_updPl_same hwf, State.updPl_ringAt]
    refine ⟨rfl, hrun, ?_⟩
    have hread := State.ringAt_updRing_same (k := r.val) (g := fun x => x.updCmd i (fun c => { c with begun := true })) h.2.2
    exact (congrArg Ring.ready hread :)
  · have hretire : s.pitchRetire f r.val i (dId c.d.bits) = s.retireNow f (dId c.d.bits) r.val i := by
      unfold State.pitchRetire
      rw [if_neg (by simp [howns]), if_neg hrun]
    obtain ⟨hc, -, hdone, -, -⟩ := Ring.cmdAt_of_toRun h.1
    exact .of_exec ((exec_pitchRetire h).trans (congrArg Host.Outcome.next hretire)) (State.retireNow_effect h.2.2 hc hdone)

end Sys2Proof.Machine
end

section
/-! PROOF of O28 (R256-R263): the SEQ family. -/

namespace Sys2Proof.Machine

open Sys2Proof

section

variable {s : State} {k : Nat}

/-- A slot with no position needs no page (R258, R259). -/
theorem State.pageSlot_of_pos_zero (h : (s.slotAt k).pos = 0) : s.pageSlot k = s.updSlot k (fun x => { x with st := .active }) := by
  have hneed : (s.slotAt k).need = 0 := by
    unfold Slot.need
    rw [h]
    exact Nat.div_eq_of_lt (by have := Nat.two_pow_pos (s.slotAt k).pgsh.toNat; simp)
  unfold State.pageSlot State.takePages
  rw [hneed]
  rfl

/-- What marks a view touches pitch lists alone, but for what they are. -/
theorem State.markView_frame {p : Nat} : ∃ l, s.markView p = { s with pl := l } := by
  unfold State.markView
  split
  · exact ⟨s.pl, rfl⟩
  · exact ⟨_, rfl⟩

theorem State.wf_markView {p : Nat} (hwf : s.wf = true) : (s.markView p).wf = true := (State.markView_keeps (.refl s)).canon hwf

theorem State.markView_slotAt {p : Nat} : (s.markView p).slotAt k = s.slotAt k := by
  obtain ⟨l, hl⟩ := State.markView_frame (s := s) (p := p)
  rw [hl]
  rfl

theorem State.markView_kenAt {p : Nat} : (s.markView p).kenAt k = s.kenAt k := by
  obtain ⟨l, hl⟩ := State.markView_frame (s := s) (p := p)
  rw [hl]
  rfl

theorem State.markView_ringAt {p : Nat} : (s.markView p).ringAt k = s.ringAt k := by
  obtain ⟨l, hl⟩ := State.markView_frame (s := s) (p := p)
  rw [hl]
  rfl

end

/-- A slot with POS 0 is admitted ACTIVE, with its budget (R257-R259). -/
theorem State.seqAdmit_effect {s : State} {f k n : Nat} {x : Slot} (hwf : s.wf = true) (hpos : x.pos = 0)
    (hqueue : (s.kenAt (kennelIndex 2 k)).queue = []) :
    let t := s.seqAdmit f k n x
    let b := kennelIndex 2 k
    t.wf = true ∧ (∀ r, t.ringAt r = s.ringAt r) ∧ t.slotAt k = { x with st := .active, isNew := true } ∧
    t.kenAt b = { s.kenAt b with
      kind := .tokenPool, func := fnOfNat f, limit := 0xFFFFFFFF, count := BitVec.ofNat 32 n } := by
  intro t b
  generalize hu : s.setSlot k { x with st := .active, isNew := true } = u
  have hwfu : u.wf = true := hu ▸ State.wf_setSlot hwf
  have hslotu : u.slotAt k = { x with st := .active, isNew := true } := by
    rw [← hu]
    exact State.slotAt_setSlot_same hwf
  have hkenu : u.kenAt b = s.kenAt b := by rw [← hu]; rfl
  have hbudget : u.setBudget f k n = u.updKen b (fun e => { e with
      kind := .tokenPool, func := fnOfNat f, limit := 0xFFFFFFFF, count := BitVec.ofNat 32 n }) :=
    State.serve_updKen hwfu (by rw [hkenu]; exact hqueue)
  generalize hv : u.setBudget f k n = v at *
  have hwfv : v.wf = true := hbudget ▸ State.wf_updKen hwfu
  have hslotv : v.slotAt k = { x with st := .active, isNew := true } := by
    rw [hbudget]
    exact hslotu
  have hshort : ¬ x.maxUsed ≤ x.pos.toNat := by
    rw [hpos, Slot.maxUsed]
    split
    · decide
    · next hmax => simpa [BitVec.toNat_eq] using hmax
  have ht : t = ((v.updSlot k (fun x => { x with st := .active })).nextCut k).markView x.plid.toNat := by
    change State.seqAdmit s f k n x = _
    unfold State.seqAdmit
    dsimp only
    rw [hu, hv, if_neg hshort, State.pageSlot_of_pos_zero (by rw [hslotv]; exact hpos)]
  refine ⟨(State.seqAdmit_keeps (.refl s)).canon hwf, fun r => ?_, ?_, ?_⟩
  · rw [ht, State.markView_ringAt, hbudget, ← hu]
    rfl
  · rw [ht, State.markView_slotAt]
    have hread := State.slotAt_updSlot_same (k := k) (g := fun x => { x with st := .active }) hwfv
    rw [hslotv] at hread
    exact hread
  · rw [ht, State.markView_kenAt]
    refine (show _ = v.kenAt b from rfl).trans ?_
    rw [hbudget, State.kenAt_updKen_same hwfu, hkenu]

/-! ### The obligation -/

section Exec

variable {s : State} {r : RingIx} {i : BitVec 16} {c : Cmd} {f : Nat} {img : List Byte}

theorem exec_seqAdmit (h : Started s r i 5 1 c f) : exec (.seqAdmit r i img) s = .next (s.seqCmd f r.val i c.d.bits img) := by
  refine congrArg Host.Outcome.next ?_
  rw [h.1, h.2.1]

theorem exec_seqRead (h : Started s r i 5 2 c f) :
    exec (.seqRead r i) s = .next (if s.ownsSlot f (dId c.d.bits) then
      (s.writeImage f r.val (dAddr c.d.bits) (leBytes 64 (slotWord (s.slotAt (dId c.d.bits))).toNat)).finish r.val i .ok
      else s.finish r.val i .fenced) := by
  refine congrArg Host.Outcome.next ?_
  rw [h.1, h.2.1]

/-- A SEQ_CTL on the function's own slot acts, and completes OK (R263). -/
theorem State.seqCtl_owned {act : Nat} {g : Nat → Nat → State → State} (h : Started s r i 5 3 c f)
    (howns : s.ownsSlot f (dId c.d.bits) = true) (hact : dField c.d.bits 364 4 = act) :
    s.seqCtl r.val i act g = (g (dId c.d.bits) (dN c.d.bits) s).finish r.val i .ok := by
  unfold State.seqCtl
  rw [h.1, h.2.1]
  exact (if_neg (not_not.mpr hact)).trans (if_pos howns)

end Exec

section

variable {s : State} {r : Nat} {i : BitVec 16} {st : Status} {flag : Bool} {res : Nat} (hwf : s.wf = true)
include hwf

theorem State.finish_slotAt (k : Nat) : (s.finish r i st flag res).slotAt k = s.slotAt k :=
  (congrArg (fun v : State => v.slotAt k) (State.finish_noRings hwf) :)

theorem State.finish_kenAt (k : Nat) : (s.finish r i st flag res).kenAt k = s.kenAt k :=
  (congrArg (fun v : State => v.kenAt k) (State.finish_noRings hwf) :)

theorem State.finish_ken : (s.finish r i st flag res).ken = s.ken := (congrArg State.ken (State.finish_noRings hwf) :)

theorem State.finish_slot : (s.finish r i st flag res).slot = s.slot := (congrArg State.slot (State.finish_noRings hwf) :)

end

/-- A slot that ends without a shared page is ENDING, with the reason (R262). -/
theorem State.endSlot_slotAt {s : State} {k : Nat} (hwf : s.wf = true) (hshv : (s.slotAt k).shv = false) :
    (s.endSlot k .cancel).slotAt k = { s.slotAt k with
      st := .ending, why := some .cancel, dec := none, after := none, pauseAfter := false } := by
  have hpost (u : State) (f g : Nat) (x : Rec) : (u.postTo f g x).slotAt k = u.slotAt k := by
    unfold State.postTo
    split
    · rfl
    · rfl
  unfold State.endSlot
  dsimp only
  rw [hpost, if_neg (by simp [hshv])]
  exact State.slotAt_updSlot_same hwf

theorem addClip_count {count limit : BitVec 32} {n : Nat} : (addClip count limit n).1.toNat = Nat.min (count.toNat + n) limit.toNat := by
  unfold addClip
  split
  · next h =>
    rw [show Nat.min (count.toNat + n) limit.toNat = count.toNat + n from Nat.min_eq_left h]
    exact Nat.mod_eq_of_lt (lt_of_le_of_lt h limit.isLt)
  · next h => exact (Nat.min_eq_right (Nat.le_of_not_le h)).symm

/-- Settles O28: each operation of the family by the slot's state. -/
theorem slots : Obligations.Slots := by
  intro s r i c f img
  dsimp only
  refine ⟨fun h => ⟨fun hfenced => ?_, fun hown hbusy => ⟨s.anyStatus, ?_⟩, fun hown hfree hpos hqueue => ?_⟩,
    fun h => ⟨fun howns hlog => ?_, fun howns => ?_⟩, fun h howns => ⟨fun hact hst hdec => ?_, fun hact hst hdec => ?_,
    fun hact hst hpos => ?_, fun hact hst hdec hshv => ?_, fun hact hst hpool hqueue => ?_, fun hact hst => ?_⟩⟩
  · refine .of_exec ((exec_seqAdmit h).trans (congrArg Host.Outcome.next (if_pos hfenced))) 
      ⟨h.recorded h.2.2 rfl, State.finish_slot h.2.2⟩
  · exact (exec_seqAdmit h).trans (congrArg Host.Outcome.next ((if_neg (by simp [hown])).trans (if_pos hbusy)))
  · obtain ⟨hwf, hring, hslot, hken⟩ := State.seqAdmit_effect (f := f) (n := dN c.d.bits) h.2.2 hpos hqueue
    refine .of_exec ((exec_seqAdmit h).trans (congrArg Host.Outcome.next
      ((if_neg (by simp [hown])).trans (if_neg (not_not.mpr hfree))))) ?_
    rw [State.finish_slotAt hwf, State.finish_kenAt hwf, hslot, hken]
    exact ⟨rfl, rfl, rfl, rfl, h.recorded hwf (hring _)⟩
  · generalize hu : s.emit (.hostImage (fnOfNat f) (BitVec.ofNat 64 (dAddr c.d.bits))
      (leBytes 64 (slotWord (s.slotAt (dId c.d.bits))).toNat)) = u
    have himage : s.writeImage f r.val (dAddr c.d.bits) (leBytes 64 (slotWord (s.slotAt (dId c.d.bits))).toNat) = u := by
      unfold State.writeImage
      rw [hu]
      exact State.logWrite_off (by rw [← hu]; exact hlog)
    have hwf : u.wf = true := hu ▸ h.2.2
    refine .of_exec ((exec_seqRead h).trans (congrArg Host.Outcome.next ((if_pos howns).trans (by rw [himage]))))
      ⟨h.recorded hwf (by rw [← hu]; rfl), ?_⟩
    rw [State.finish_out hwf, ← hu]
    rfl
  · exact .of_exec ((exec_seqRead h).trans (congrArg Host.Outcome.next (if_neg (by simp [howns])))) (h.recorded h.2.2 rfl)
  · have hpause : s.pauseSlot (dId c.d.bits) =
        (s.updSlot (dId c.d.bits) (fun x => { x with st := .paused })).markView (s.slotAt (dId c.d.bits)).plid.toNat := by
      unfold State.pauseSlot
      exact (if_pos (.inl hst)).trans (if_neg (by simp [hdec]))
    have hwf : (s.pauseSlot (dId c.d.bits)).wf = true := (State.pauseSlot_keeps (.refl s)).canon h.2.2
    refine .of_exec (congrArg Host.Outcome.next (State.seqCtl_owned h howns hact)) ?_
    rw [State.finish_slotAt hwf]
    refine ⟨?_, h.recorded hwf ?_⟩
    · rw [hpause, State.markView_slotAt, State.slotAt_updSlot_same h.2.2]
    · rw [hpause, State.markView_ringAt]
      rfl
  · have hpause : s.pauseSlot (dId c.d.bits) = s.updSlot (dId c.d.bits) (fun x => { x with pauseAfter := true }) := by
      unfold State.pauseSlot
      exact (if_pos (.inl hst)).trans (if_pos (Option.isSome_iff_ne_none.mpr hdec))
    have hwf : (s.pauseSlot (dId c.d.bits)).wf = true := (State.pauseSlot_keeps (.refl s)).canon h.2.2
    refine .of_exec (congrArg Host.Outcome.next (State.seqCtl_owned h howns hact)) ?_
    rw [State.finish_slotAt hwf]
    refine ⟨?_, ?_, h.recorded hwf (by rw [hpause]; rfl)⟩
    · rw [hpause, State.slotAt_updSlot_same h.2.2]
      exact hst
    · rw [hpause, State.slotAt_updSlot_same h.2.2]
  · have hresume : s.resumeSlot (dId c.d.bits) = ((s.updSlot (dId c.d.bits) (fun x => { x with st := .active })).nextCut
        (dId c.d.bits)).markView (s.slotAt (dId c.d.bits)).plid.toNat := by
      unfold State.resumeSlot
      rw [State.pageSlot_of_pos_zero hpos]
      exact if_pos hst
    have hwf : (s.resumeSlot (dId c.d.bits)).wf = true := (State.resumeSlot_keeps (.refl s)).canon h.2.2
    refine .of_exec (congrArg Host.Outcome.next (State.seqCtl_owned h howns hact)) ?_
    rw [State.finish_slotAt hwf]
    refine ⟨?_, h.recorded hwf ?_⟩
    · rw [hresume, State.markView_slotAt]
      have hread := State.slotAt_updSlot_same (k := dId c.d.bits) (g := fun x => { x with st := .active }) h.2.2
      exact (congrArg Slot.st hread :)
    · rw [hresume, State.markView_ringAt]
      rfl
  · have hcancel : s.cancelSlot (dId c.d.bits) =
        (s.endSlot (dId c.d.bits) .cancel).markView (s.slotAt (dId c.d.bits)).plid.toNat := by
      unfold State.cancelSlot
      dsimp only
      rw [hst, hdec]
      rfl
    have hwf : (s.cancelSlot (dId c.d.bits)).wf = true := (State.cancelSlot_keeps (.refl s)).canon h.2.2
    have hposts := State.endSlot_posts (k := dId c.d.bits) (why := .cancel) h.2.2
    have hring : (s.cancelSlot (dId c.d.bits)).ringAt r.val = (s.endSlot (dId c.d.bits) .cancel).ringAt r.val := by
      rw [hcancel, State.markView_ringAt]
    obtain ⟨hc, -, hdone, -, -⟩ := Ring.cmdAt_of_toRun h.1
    have hcu : ((s.cancelSlot (dId c.d.bits)).ringAt r.val).cmdAt i = some c := by
      rw [hring, Ring.cmdAt, hposts.started]
      exact hc
    obtain ⟨more, hready, -⟩ := State.finish_recorded (s := s.cancelSlot (dId c.d.bits)) (st := .ok) (flag := false) (res := 0)
      hwf rfl hcu hdone
    refine .of_exec (congrArg Host.Outcome.next (State.seqCtl_owned h howns hact)) ?_
    rw [State.finish_slotAt hwf, hready, hcancel, State.markView_slotAt, State.endSlot_slotAt h.2.2 hshv]
    exact ⟨rfl, rfl, List.mem_append_right _ List.mem_cons_self⟩
  · generalize hn : dN c.d.bits = n at *
    generalize hu : s.updKen (kennelIndex 2 (dId c.d.bits)) (fun e => { e with count := (addClip e.count e.limit n).1 }) = u
    have hback : s.giveBack (s.slotAt (dId c.d.bits)).func.val (kennelIndex 2 (dId c.d.bits)) n = u := by
      unfold State.giveBack
      rw [if_pos hpool, State.serve_updKen h.2.2 (by exact hqueue), hu]
    have hwf : u.wf = true := hu ▸ State.wf_updKen h.2.2
    have hexec : exec (.seqCtlBudget r i) s = .next (u.finish r.val i .ok) := by
      refine congrArg Host.Outcome.next ((State.seqCtl_owned h howns hact).trans ?_)
      rw [hst, hn, ← hback]
      rfl
    refine .of_exec hexec ⟨?_, h.recorded hwf (by rw [← hu]; rfl)⟩
    rw [State.finish_kenAt hwf, ← hu, State.kenAt_updKen_same h.2.2]
    exact addClip_count
  · have hexec : exec (.seqCtlBudget r i) s = .next (s.finish r.val i .ok) := by
      refine congrArg Host.Outcome.next ((State.seqCtl_owned h howns hact).trans ?_)
      rw [hst]
      rfl
    exact .of_exec hexec ⟨State.finish_ken h.2.2, h.recorded h.2.2 rfl⟩

end Sys2Proof.Machine
end

section
/-! REFUTATION of O58 (R67, R333). PART_CREATE restarts its clusters, and the commands of the status path that wait for the end
of a CSN's reset run then: they may write what the statement says the new partition has. -/

namespace Sys2Proof.Machine

open Sys2Proof

/-- PART_CREATE for function 0 is started; cluster 0 and its cores stand in reset, and an order to load another epoch of the
partition waits at its CSN. -/
def epochLoadHeld : State :=
  { State.reset with
    bru := { State.reset.bru with step := 15 }
    mgr := { State.reset.mgr with go := true }
    csn := [(0, { Csn.init with rst := some 0, held := [.epochLoad [] (some 5)] })]
    core := (List.range 48).map (fun i => (i, { Core.init with rst := some 0 })) }

/-- PART_CREATE that keeps the records. -/
def createKeep : BitVec 512 := BitVec.ofNat 512 (2 ^ 504 + 2 ^ 503)

theorem epochLoadHeld_created_pepoch : ((epochLoadHeld.partCreate createKeep [1]).csnAt 0).pepoch = 5 := by decide +kernel

theorem not_partitions : ¬ Says.Partitions := by
  intro h
  obtain ⟨hcreate, -⟩ := h epochLoadHeld createKeep [1] 0 1 (by decide +kernel) rfl rfl rfl
  obtain ⟨-, -, hmade⟩ := hcreate (by decide +kernel) rfl (by decide +kernel)
  obtain ⟨t, hexec, -, -, -, -, hpepoch, -⟩ := hmade (by decide +kernel) (by decide +kernel) (by decide +kernel)
    (by decide +kernel) (by decide +kernel) (by decide +kernel) (by decide +kernel) (by decide +kernel)
  have ht : epochLoadHeld.partCreate createKeep [1] = t := Host.Outcome.next.inj hexec
  rw [← ht, epochLoadHeld_created_pepoch] at hpepoch
  exact absurd hpepoch (by decide +kernel)

/-- Refutes O58: on `epochLoadHeld` PART_CREATE leaves cluster 0 under partition epoch 5, and not 1. -/
theorem not_managerCommands : ¬ Obligations.ManagerCommands := fun ⟨_, hpart, _⟩ => not_partitions hpart

end Sys2Proof.Machine
end

section
/-! PROOF of O29 (R335-R343, R463): the mediation mailbox. -/

namespace Sys2Proof.Machine

open Sys2Proof

/-! ### Replies -/

/-- A state once a request was answered: DONE, its turn over, the reply and the interrupt out; all else but functions stands. -/
structure State.Answered (s t : State) (f : Func) (hdr : BitVec 128) (a : BitVec 64) (st : Status) (res : List Byte) : Prop where
  done : (t.fnAt f.val).mbxSt = .done
  turn : t.mgr.lastMbx = f.val
  out : t.out = s.out ++ [.hostImage 0 (a + 0x400)
    (leBytes 16 (hSeq hdr * 2 ^ 96 + hType hdr * 2 ^ 88 + (statusCode st).toNat * 2 ^ 80 + res.length * 2 ^ 64) ++ res),
    .msix (fnOfNat f.val) (s.fnAt f.val).mbxVec]
  ken : t.ken = s.ken
  prec : t.prec = s.prec

/-- A message of an entry that is not masked goes, where the function is not held (R321). -/
theorem State.msix_open {s : State} {f : Nat} {v : BitVec 11} (hmskd : (s.fnAt f).mskd = []) (hhold : (s.fnAt f).hold = false) :
    s.msix f v = s.emit (.msix (fnOfNat f) v) := by
  unfold State.msix
  rw [hmskd, hhold]
  rfl

section Reply

variable {s : State} {f : Func} {hdr : BitVec 128} {a : BitVec 64} {l : BitVec 2}
  (hpage : (s.fnAt f.val).mbxPage = some (a, l)) (hlog : (s.fnAt f.val).dlEn = false) (hmskd : (s.fnAt f.val).mskd = [])
  (hhold : (s.fnAt f.val).hold = false)
include hpage hlog hmskd hhold

/-- A reply of a function whose message is neither masked nor held (R340, R342). -/
theorem State.mbxAnswer_effect {st : Status} {res : List Byte} (hwf : s.wf = true) :
    s.Answered (s.mbxAnswer f.val hdr st res) f hdr a st res := by
  generalize hu : s.emit (.hostImage 0 (a + 0x400)
    (leBytes 16 (hSeq hdr * 2 ^ 96 + hType hdr * 2 ^ 88 + (statusCode st).toNat * 2 ^ 80 + res.length * 2 ^ 64) ++ res)) = u
  have hfnu : u.fnAt f.val = s.fnAt f.val := by rw [← hu]; rfl
  have hwfu : u.wf = true := hu ▸ hwf
  have hlogu : u.logWrite f.val l.toNat (a.toNat + 0x400) (16 + res.length) = u := State.logWrite_off (by rw [hfnu]; exact hlog)
  generalize hv : ({ u.updFn f.val (fun x => { x with mbxSt := .done }) with mgr := { u.mgr with lastMbx := f.val } } : State) = v
  have hfnv : v.fnAt f.val = { s.fnAt f.val with mbxSt := .done } := by
    have hread := State.fnAt_updFn_same (k := f.val) (g := fun x => { x with mbxSt := .done }) hwfu
    rw [hfnu] at hread
    rw [← hv]
    exact hread
  have hanswer : s.mbxAnswer f.val hdr st res = v.emit (.msix (fnOfNat f.val) (s.fnAt f.val).mbxVec) := by
    unfold State.mbxAnswer
    rw [hpage]
    dsimp only
    rw [hu, hlogu]
    refine (congrArg (fun w : State => w.mbxMsix f.val) hv).trans ?_
    unfold State.mbxMsix
    rw [State.msix_open (by rw [hfnv]; exact hmskd) (by rw [hfnv]; exact hhold), hfnv]
  rw [hanswer]
  refine ⟨?_, ?_, ?_, ?_, ?_⟩
  · rw [State.emit_fnAt, hfnv]
  · rw [← hv]
    rfl
  · rw [← hv, ← hu]
    change (s.out ++ [_]) ++ [_] = _
    rw [List.append_assoc]
    rfl
  · rw [← hv, ← hu]
    rfl
  · rw [← hv, ← hu]
    rfl

end Reply

theorem State.aboveHubs_logWrite {s : State} {f link addr len : Nat} : (s.logWrite f link addr len).aboveHubs = s.aboveHubs := by
  have hpage (u : State) (p : Nat) : (u.logPage f link p).aboveHubs = u.aboveHubs := by
    unfold State.logPage
    split
    · rfl
    · dsimp only
      split_ifs <;> rfl
  unfold State.logWrite
  split
  · rfl
  · exact aboveHubs_forAll hpage

theorem State.msix_mbxSt {s : State} {f : Nat} {v : BitVec 11} (hwf : s.wf = true) :
    ((s.msix f v).fnAt f).mbxSt = (s.fnAt f).mbxSt ∧ (s.msix f v).prec = s.prec := by
  unfold State.msix
  split
  · exact ⟨by rw [State.fnAt_updFn_same hwf], rfl⟩
  · exact ⟨rfl, rfl⟩

/-- Whatever holds of the function, an answered request is done. -/
theorem State.mbxAnswer_done {s : State} {f : Nat} {hdr : BitVec 128} {st : Status} {res : List Byte} (hwf : s.wf = true) :
    ((s.mbxAnswer f hdr st res).fnAt f).mbxSt = .done ∧ (s.mbxAnswer f hdr st res).prec = s.prec := by
  have hend (u : State) (hwfu : u.wf = true) (hprec : u.prec = s.prec) :
      let v : State := { u.updFn f (fun x => { x with mbxSt := .done }) with mgr := { u.mgr with lastMbx := f } }
      ((v.mbxMsix f).fnAt f).mbxSt = .done ∧ (v.mbxMsix f).prec = s.prec := by
    intro v
    have hread := State.fnAt_updFn_same (k := f) (g := fun x => { x with mbxSt := .done }) hwfu
    have hst : (v.fnAt f).mbxSt = .done := (congrArg Fn.mbxSt hread :)
    have hwfv : v.wf = true := State.wf_updFn (k := f) (g := fun x => { x with mbxSt := .done }) hwfu
    obtain ⟨hmbx, hsame⟩ := State.msix_mbxSt (f := f) (v := (v.fnAt f).mbxVec) hwfv
    exact ⟨hmbx.trans hst, hsame.trans hprec⟩
  unfold State.mbxAnswer
  cases (s.fnAt f).mbxPage with
  | none => exact hend s hwf rfl
  | some p => exact hend _ ((State.logWrite_keeps (.refl _)).canon hwf) (State.prec_of_aboveHubs State.aboveHubs_logWrite)

/-! ### Requests -/

section Serve

variable {s : State} {f : Func} {hdr : BitVec 128} {t : Nat} {go : State} (hturn : s.mbxTurn f.val = true)
include hturn

theorem State.mbxTurn_spec : f.val ≠ 0 ∧ (s.fnAt f.val).hold = false := by
  simp only [State.mbxTurn, State.mbxWaits, Bool.and_eq_true, bne_iff_ne, Bool.not_eq_true'] at hturn
  exact ⟨hturn.1.1.1, hturn.1.2⟩

theorem State.mbxServe_bad (hbad : mbxBad hdr = true) : s.mbxServe f.val hdr t go = s.mbxAny f.val hdr := by
  unfold State.mbxServe
  rw [hturn, hbad]
  rfl

theorem State.mbxServe_good (hgood : mbxBad hdr = false) (htype : hType hdr = t) : s.mbxServe f.val hdr t go = go := by
  unfold State.mbxServe
  rw [hturn, hgood, if_neg (by decide), if_neg (by decide), if_neg (not_not.mpr htype)]

end Serve

/-- The new entry of a kennel KIND (R338). -/
theorem newEntry_effect {f kind : Nat} {p : BitVec 128} (hkind : kind = 1 ∨ kind = 2 ∨ kind = 3 ∨ kind = 4) :
    (newEntry f kind p).func = fnOfNat f ∧
    (newEntry f kind p).kind = (if kind = 1 then .semaphore else if kind = 2 then .tokenPool else
      if kind = 3 then .atomicWord else .lock) ∧
    (kind = 1 → (newEntry f kind p).count.toNat = Nat.min (bits p.toNat 0 32) (bits p.toNat 32 32)) ∧
    (kind = 3 → (newEntry f kind p).value = BitVec.ofNat 64 p.toNat) := by
  have hcount : (setClip (BitVec.ofNat 32 (bits p.toNat 32 32)) (BitVec.ofNat 32 (bits p.toNat 0 32))).1.toNat =
      Nat.min (bits p.toNat 0 32) (bits p.toNat 32 32) := by
    have hlim (lo : Nat) : (BitVec.ofNat 32 (bits p.toNat lo 32)).toNat = bits p.toNat lo 32 :=
      Nat.mod_eq_of_lt (Nat.mod_lt _ (by decide))
    unfold setClip
    rw [hlim, hlim]
    split
    · next h => rw [hlim]; exact (Nat.min_eq_left h).symm
    · next h => rw [hlim]; exact (Nat.min_eq_right (Nat.le_of_not_le h)).symm
  obtain rfl | rfl | rfl | rfl := hkind
  · exact ⟨rfl, rfl, fun _ => hcount, fun h => absurd h (by decide)⟩
  · exact ⟨rfl, rfl, fun h => absurd h (by decide), fun h => absurd h (by decide)⟩
  · exact ⟨rfl, rfl, fun h => absurd h (by decide), fun _ => rfl⟩
  · exact ⟨rfl, rfl, fun h => absurd h (by decide), fun h => absurd h (by decide)⟩

theorem allocOk_kind {cls kind mode : Nat} (hcls : cls ≤ 1) (h : allocOk cls kind mode = true) :
    kind = 1 ∨ kind = 2 ∨ kind = 3 ∨ kind = 4 := by
  have hne : cls ≠ 3 := by omega
  simp only [allocOk, Bool.or_eq_true, Bool.and_eq_true, beq_iff_eq, List.contains_cons, List.contains_nil, hne, false_and,
    or_false, Bool.or_false] at h
  omega

/-- A request forwarded to the manager waits for its reply (R340). -/
theorem State.forward_effect {s : State} {f : Func} (hwf : s.wf = true) (hf : f.val ≠ 0) :
    let t := s.forward f.val
    (t.fnAt f.val).mbxSt = .forwarded ∧ bit t.mgr.fwd.toNat f.val = true ∧ t.mgr.lastMbx = f.val ∧ t.net = s.net := by
  generalize hu : ({ s.updFn f.val (fun x => { x with mbxSt := .forwarded }) with
    mgr := { s.mgr with fwd := setBits s.mgr.fwd f.val 1 1, lastMbx := f.val } } : State) = u
  have hread : u.fnAt f.val = { s.fnAt f.val with mbxSt := .forwarded } := by
    have hread := State.fnAt_updFn_same (k := f.val) (g := fun x => { x with mbxSt := .forwarded }) hwf
    rw [← hu]
    exact hread
  have hforward : s.forward f.val = u.msix 0 u.mgr.vec := by
    rw [← hu]
    rfl
  have hkeeps : (u.msix 0 u.mgr.vec).fnAt f.val = u.fnAt f.val ∧ (u.msix 0 u.mgr.vec).mgr = u.mgr ∧
      (u.msix 0 u.mgr.vec).net = u.net := by
    unfold State.msix
    split
    · exact ⟨State.fnAt_updFn_other hf, rfl, rfl⟩
    · exact ⟨rfl, rfl, rfl⟩
  rw [hforward]
  dsimp only
  rw [hkeeps.1, hkeeps.2.1, hkeeps.2.2, hread, ← hu]
  exact ⟨rfl, bit_setBits_one s.mgr.fwd f.isLt, rfl, rfl⟩

/-! ### Objects freed -/

section Free

variable {s : State} {f x k : Nat} {hdr : BitVec 128}

theorem State.class_of_heldKen (h : s.heldKen f x = some k) : x / 2 ^ 20 ≤ 1 := by
  unfold State.heldKen at h
  dsimp only at h
  split at h
  · next hcls => omega
  · exact absurd h (by simp)

theorem State.class_of_heldBar (h : s.heldBar f x = some k) : x / 2 ^ 20 = 3 := by
  unfold State.heldBar at h
  dsimp only at h
  split at h
  · next hcls => exact hcls.1
  · exact absurd h (by simp)

/-- An object without waiters and timers is freed by its entry alone (R339). -/
theorem State.freeKen_idle (hqueue : (s.kenAt k).queue = []) (hleash : (s.kenAt k).leash = .none) :
    s.freeKen k = s.setKen k KEntry.init := by
  unfold State.freeKen
  dsimp only
  rw [hqueue, forAll_nil, hleash]
  rfl

theorem State.objFree_ken (h : s.heldKen f x = some k) : s.objFree f hdr x = (s.freeKen k).mbxAnswer f hdr .ok [] := by
  have hcls := State.class_of_heldKen h
  unfold State.objFree
  rw [if_neg (by omega), h]

theorem State.objFree_bar (h : s.heldBar f x = some k) :
    s.objFree f hdr x = if s.barBusy k then s else (s.freeBar k).mbxAnswer f hdr .ok [] := by
  have hcls := State.class_of_heldBar h
  have hnone : s.heldKen f x = none := by
    unfold State.heldKen
    exact if_neg (by omega)
  unfold State.objFree
  rw [if_neg (by omega), hnone, h]

theorem State.objFree_none (hcls : x / 2 ^ 20 ≤ 4) (hken : s.heldKen f x = none) (hbar : s.heldBar f x = none) :
    s.objFree f hdr x = s.mbxAnswer f hdr .fenced [] := by
  unfold State.objFree
  rw [if_neg (Nat.not_lt.mpr hcls), hken, hbar]

theorem State.freeBar_precAt (hwf : s.wf = true) : (s.freeBar k).precAt k = RootRec.init := by
  refine State.precAt_setPrec_same ((forAll_keeps (.refl _) fun u h hu => State.setFrec_keeps hu).canon ?_)
  exact (State.idleBarrier_keeps (State.abortJoin_keeps (.refl s))).canon hwf

end Free

theorem cls_ne_of_le {x : Nat} (h : x ≤ 1) : x ≠ 3 := by omega

/-- Settles O29: a request by its type, each answered by `State.mbxAnswer_effect`. -/
theorem mailbox : Obligations.Mailbox := by
  intro s f hdr pay h a l i k rest
  dsimp only
  refine ⟨fun hstep hf hfrozen hst => ?_, fun hwf hturn => ⟨fun hbad => ⟨⟨s.anyStatus, ?_⟩, ⟨s.anyStatus, ?_⟩, ⟨s.anyStatus, ?_⟩,
    ⟨s.anyStatus, ?_⟩⟩, fun hgood hpage hlog hmskd => ?_⟩⟩
  · exact congrArg Host.Outcome.next ((if_pos ⟨hstep, hf, by simp [hfrozen]⟩).trans (if_pos hst))
  · exact congrArg Host.Outcome.next (State.mbxServe_bad hturn hbad)
  · exact congrArg Host.Outcome.next (State.mbxServe_bad hturn hbad)
  · exact congrArg Host.Outcome.next (State.mbxServe_bad hturn hbad)
  · exact congrArg Host.Outcome.next (State.mbxServe_bad hturn hbad)
  obtain ⟨hf, hhold⟩ := State.mbxTurn_spec hturn
  have halloc (ht : hType hdr = 1) : exec (.objAlloc f hdr pay) s = .next
      (if allocOk (bits pay.toNat 124 4) (bits pay.toNat 120 4) (bits pay.toNat 118 2) then s.objAlloc f.val hdr pay
       else s.mbxAny f.val hdr) := congrArg Host.Outcome.next (State.mbxServe_good hturn hgood ht)
  have hfree (ht : hType hdr = 2) : exec (.objFree f hdr h) s = .next (s.objFree f.val hdr (bits h.toNat 0 24)) :=
    congrArg Host.Outcome.next (State.mbxServe_good hturn hgood ht)
  have hanswer {st : Status} {res : List Byte} := State.mbxAnswer_effect (hdr := hdr) (st := st) (res := res) hpage hlog hmskd hhold hwf
  refine ⟨fun ht hbad => ⟨s.anyStatus, ?_⟩, fun ht hcls hmode hok hhint => ?_, fun ht hcls hmode hok => ⟨fun hnext => ?_, fun hnone => ?_⟩,
    fun ht hcls hkind hnext => ?_, fun ht => ⟨fun hbig => ⟨s.anyStatus, ?_⟩, fun hheld hqueue hleash => ?_, fun hheld =>
      ⟨fun hbusy => ?_, fun hcalm => ?_⟩, fun hsmall hnoken hnobar => ?_⟩, fun ht => ?_, fun ht => ?_⟩
  · exact (halloc ht).trans (congrArg Host.Outcome.next (if_neg (by simp [hbad])))
  · have hexec : s.objAlloc f.val hdr pay = s.mbxAnswer f.val hdr .fenced [] := by
      unfold State.objAlloc
      exact (if_neg (cls_ne_of_le hcls)).trans (if_pos ⟨hmode, hhint⟩)
    refine .of_exec ((halloc ht).trans (congrArg Host.Outcome.next ((if_pos hok).trans hexec))) ?_
    exact ⟨⟨hanswer.done, hanswer.turn, hanswer.out⟩, hanswer.ken⟩
  · have hexec : s.objAlloc f.val hdr pay = (s.setKen (kennelIndex (bits pay.toNat 124 4) i)
        (newEntry f.val (bits pay.toNat 120 4) pay)).mbxAnswer f.val hdr .ok (leBytes 8 (bits pay.toNat 124 4 * 2 ^ 20 + i)) := by
      unfold State.objAlloc State.pickKen
      dsimp only
      rw [if_neg (cls_ne_of_le hcls), if_neg (by simp [hmode]), if_pos hmode, hnext]
      rfl
    have hwf' : (s.setKen (kennelIndex (bits pay.toNat 124 4) i) (newEntry f.val (bits pay.toNat 120 4) pay)).wf = true :=
      State.wf_setKen hwf
    have hreply := State.mbxAnswer_effect (hdr := hdr) (st := .ok) (res := leBytes 8 (bits pay.toNat 124 4 * 2 ^ 20 + i))
      (s := s.setKen (kennelIndex (bits pay.toNat 124 4) i) (newEntry f.val (bits pay.toNat 120 4) pay)) hpage hlog hmskd hhold hwf'
    refine .of_exec ((halloc ht).trans (congrArg Host.Outcome.next ((if_pos (hmode ▸ hok)).trans hexec))) ?_
    have hken : ∀ t : State, t.ken = (s.setKen (kennelIndex (bits pay.toNat 124 4) i) (newEntry f.val (bits pay.toNat 120 4) pay)).ken →
        t.kenAt (kennelIndex (bits pay.toNat 124 4) i) = newEntry f.val (bits pay.toNat 120 4) pay := fun t h =>
      (congrArg (fun l => tget KEntry.init l (kennelIndex (bits pay.toNat 124 4) i)) h).trans (State.kenAt_setKen_same hwf)
    rw [hken _ hreply.ken]
    obtain ⟨hfunc, hkind, hcount, hvalue⟩ := newEntry_effect (f := f.val) (p := pay) (allocOk_kind hcls hok)
    exact ⟨⟨hreply.done, hreply.turn, hreply.out⟩, hfunc, hkind, hcount, hvalue⟩
  · have hexec : s.objAlloc f.val hdr pay = s.mbxAnswer f.val hdr .noResource [] := by
      unfold State.objAlloc State.pickKen
      dsimp only
      rw [if_neg (cls_ne_of_le hcls), if_neg (by simp [hmode]), if_pos hmode, hnone]
      rfl
    refine .of_exec ((halloc ht).trans (congrArg Host.Outcome.next ((if_pos (hmode ▸ hok)).trans hexec))) ?_
    exact ⟨⟨hanswer.done, hanswer.turn, hanswer.out⟩, hanswer.ken⟩
  · have hexec : s.objAlloc f.val hdr pay = (s.setPrec i { RootRec.init with st := .idle, func := fnOfNat f.val }).mbxAnswer
        f.val hdr .ok (leBytes 8 (3 * 2 ^ 20 + i)) := by
      unfold State.objAlloc
      dsimp only
      rw [if_pos hcls, hnext]
      rfl
    have hok : allocOk (bits pay.toNat 124 4) (bits pay.toNat 120 4) (bits pay.toNat 118 2) = true := by
      rw [hcls, hkind]
      rfl
    have hreply := State.mbxAnswer_effect (hdr := hdr) (st := .ok) (res := leBytes 8 (3 * 2 ^ 20 + i))
      (s := s.setPrec i { RootRec.init with st := .idle, func := fnOfNat f.val }) hpage hlog hmskd hhold (State.wf_setPrec hwf)
    refine .of_exec ((halloc ht).trans (congrArg Host.Outcome.next ((if_pos hok).trans hexec))) ?_
    have hprec : ∀ t : State, t.prec = (s.setPrec i { RootRec.init with st := .idle, func := fnOfNat f.val }).prec →
        t.precAt i = { RootRec.init with st := .idle, func := fnOfNat f.val } := fun t h =>
      (congrArg (fun l => tget RootRec.init l i) h).trans (State.precAt_setPrec_same hwf)
    rw [hprec _ hreply.prec]
    exact ⟨⟨hreply.done, hreply.turn, hreply.out⟩, rfl, rfl⟩
  · exact (hfree ht).trans (congrArg Host.Outcome.next (if_pos hbig))
  · have hreply := State.mbxAnswer_effect (hdr := hdr) (st := .ok) (res := []) (s := s.setKen k KEntry.init) hpage hlog hmskd hhold
      (State.wf_setKen hwf)
    have hexec : s.objFree f.val hdr (bits h.toNat 0 24) = (s.setKen k KEntry.init).mbxAnswer f.val hdr .ok [] := by
      rw [State.objFree_ken hheld, State.freeKen_idle hqueue hleash]
    refine .of_exec ((hfree ht).trans (congrArg Host.Outcome.next hexec)) ⟨⟨hreply.done, hreply.turn, hreply.out⟩, ?_⟩
    exact (congrArg (fun l => tget KEntry.init l k) hreply.ken).trans (State.kenAt_setKen_same hwf)
  · exact (hfree ht).trans (congrArg Host.Outcome.next ((State.objFree_bar hheld).trans (if_pos hbusy)))
  · obtain ⟨hdone, hprec⟩ := State.mbxAnswer_done (f := f.val) (hdr := hdr) (st := .ok) (res := [])
      ((State.freeBar_keeps (a1 := k) (.refl s)).canon hwf)
    have hfreed := State.freeBar_precAt (k := k) hwf
    refine .of_exec ((hfree ht).trans (congrArg Host.Outcome.next ((State.objFree_bar hheld).trans (if_neg (by simp [hcalm]))))) ?_
    generalize s.freeBar k = u at *
    refine ⟨?_, hdone⟩
    rw [← hfreed, State.precAt, hprec]
    rfl
  · refine .of_exec ((hfree ht).trans (congrArg Host.Outcome.next (State.objFree_none hsmall hnoken hnobar))) ?_
    exact ⟨hanswer.done, hanswer.turn, hanswer.out⟩
  · refine .of_exec (congrArg Host.Outcome.next (State.mbxServe_good hturn hgood ht)) ?_
    exact ⟨⟨hanswer.done, hanswer.turn, hanswer.out⟩, hanswer.ken⟩
  · refine .of_exec (congrArg Host.Outcome.next (State.mbxServe_good hturn hgood ht)) ?_
    exact State.forward_effect hwf hf

end Sys2Proof.Machine
end

section
/-! PROOF of O30 (R181, R182, R361-R363): ticks and holds between the members of a span. -/

namespace Sys2Proof.Machine

open Sys2Proof

/-! ### What every function of a wafer lacks -/

/-- An entry that stands in a well-formed table is what the table reads there (SUPPORT). -/
theorem tget_of_mem {α : Type} [DecidableEq α] {d : α} {t : Tbl α} {p : Nat × α} (h : twf d t = true) (hp : p ∈ t) :
    tget d t p.1 = p.2 := by
  induction t with
  | nil => exact absurd hp List.not_mem_nil
  | cons q t ih =>
    obtain ⟨-, habove, ht⟩ := twf_cons_iff.mp h
    obtain rfl | hp := List.mem_cons.mp hp
    · exact tget_head
    · rw [tget_tail (Nat.ne_of_lt (habove p hp)), ih ht hp]

theorem State.parts_eq_nil_iff {s : State} (hwf : s.wf = true) : s.parts = [] ↔ ∀ f, (s.fnAt f).members = [] := by
  simp only [State.parts, List.map_eq_nil_iff, List.filter_eq_nil_iff, bne_iff_ne, ne_eq, not_not]
  refine ⟨fun h f => tget_of_forall (P := fun x : Fn => x.members = []) rfl h f, fun h p hp => ?_⟩
  rw [← tget_of_mem (State.twf_fn hwf) hp]
  exact h p.1

theorem State.heelsOpen_eq_nil_iff {s : State} (hwf : s.wf = true) : s.heelsOpen = [] ↔ ∀ f, (s.fnAt f).run = none := by
  simp only [State.heelsOpen, List.map_eq_nil_iff, List.filter_eq_nil_iff, Bool.not_eq_true, Option.isSome_eq_false_iff,
    Option.isNone_iff_eq_none]
  refine ⟨fun h f => tget_of_forall (P := fun x : Fn => x.run = none) rfl h f, fun h p hp => ?_⟩
  rw [← tget_of_mem (State.twf_fn hwf) hp]
  exact h p.1

/-! ### The edge of a quiet member -/

/-- The stretch counts of an edge touch functions alone, and none that makes a wafer less quiet (R177). -/
theorem State.countStretches_quiet {s : State} (hwf : s.wf = true) (hquiet : Quiet s) (late : List Nat) :
    let u := forAll late (fun s f => s.updFn f (fun x => { x with str := satInc x.str })) s
    u.wf = true ∧ Quiet u ∧ u.tick = s.tick ∧ u.out = s.out ∧ u.net = s.net ∧ u.now = s.now := by
  refine forAll_induct (P := fun u => u.wf = true ∧ Quiet u ∧ u.tick = s.tick ∧ u.out = s.out ∧ u.net = s.net ∧ u.now = s.now)
    ⟨hwf, hquiet, rfl, rfl, rfl, rfl⟩ ?_
  rintro u f ⟨hwfu, ⟨hparts, hdone, hcur, hlists, hwalks, hspine, hforming⟩, hsame⟩
  have hwfv : (u.updFn f (fun x => { x with str := satInc x.str })).wf = true := State.wf_updFn hwfu
  have hfn {α : Type} (g : Fn → α) (hg : ∀ (x : Fn) n, g { x with str := n } = g x) (k : Nat) :
      g ((u.updFn f (fun x => { x with str := satInc x.str })).fnAt k) = g (u.fnAt k) := by
    by_cases hk : k = f
    · rw [hk, State.fnAt_updFn_same hwfu, hg]
    · rw [State.fnAt_updFn_other hk]
  refine ⟨hwfv, ⟨?_, ?_, hcur, hlists, hwalks, hspine, hforming⟩, hsame⟩
  · rw [State.parts_eq_nil_iff hwfv]
    intro k
    rw [hfn Fn.members (fun _ _ => rfl)]
    exact (State.parts_eq_nil_iff hwfu).mp hparts k
  · have hopen : (u.updFn f (fun x => { x with str := satInc x.str })).heelsOpen = [] := by
      rw [State.heelsOpen_eq_nil_iff hwfv]
      intro k
      rw [hfn Fn.run (fun _ _ => rfl)]
      exact (State.heelsOpen_eq_nil_iff hwfu).mp (State.heelsOpen_of_done hdone) k
    have hkat : (u.updFn f (fun x => { x with str := satInc x.str })).katOpen = false := by
      have hcur' : (u.updFn f (fun x => { x with str := satInc x.str })).kat.cur = none := hcur
      unfold State.katOpen State.runOf
      rw [if_pos rfl, hcur']
      rfl
    unfold State.heelsDone
    rw [hopen, hkat]
    rfl

/-- The edge that a quiet member issues, whatever functions count a stretch for it (R163, R177, R362). -/
theorem State.memberEdge_quiet {s : State} {e : Nat} {late : List Nat} (hwf : s.wf = true) (hquiet : Quiet s)
    (hleaving : s.span.leaving = false) :
    let t := s.memberEdge e late
    t.tick = s.tick.advance s.now ∧ t.out = s.out ++ [.spineEdge s.tick.nextNum] ∧ t.net = s.net := by
  have hstop : s.katStop = s := by
    unfold State.katStop
    rw [hquiet.2.2.1]
  have hissue : s.issueEdge late = (forAll late (fun s f => s.updFn f (fun x => { x with str := satInc x.str })) s).issueEdge [] := rfl
  obtain ⟨hwfu, hquietu, htick, hout, hnet, hnow⟩ := State.countStretches_quiet hwf hquiet late
  have hspanu : (forAll late (fun s f => s.updFn f (fun x => { x with str := satInc x.str })) s).span = s.span :=
    forAll_induct (P := fun u => u.span = s.span) rfl fun _ _ h => h
  generalize forAll late (fun s f => s.updFn f (fun x => { x with str := satInc x.str })) s = u at *
  obtain ⟨htickt, houtt, hnett, hspant⟩ := State.issueEdge_quiet hwfu hquietu
  have hstays : (u.issueEdge []).span.leaving = false := by
    rw [hspant]
    exact (congrArg Span.leaving hspanu).trans hleaving
  have hedge : s.memberEdge e late = u.issueEdge [] := by
    unfold State.memberEdge
    rw [State.heelsOpen_of_done hquiet.2.1, List.filter_nil]
    dsimp only
    rw [forAll_nil, hstop, hissue]
    exact if_neg (by simp [hstays])
  dsimp only
  rw [hedge, htickt, houtt, hnett, htick, hout, hnet, hnow]
  exact ⟨rfl, rfl, rfl⟩

/-! ### The lead's dispatch -/

theorem State.joinTick_still {s : State} {g : BitVec 16} (h : s.span.forming = none) : s.joinTick g = s := by
  unfold State.joinTick
  rw [h]

/-- A member's own choice for the lead's dispatch (R363). -/
theorem State.takeSbPitch_chosen {s : State} {p : SbPitch} (hwf : s.wf = true) (hlead : s.tick.lead ≠ none)
    (hjob : (s.fnAt p.func.val).job = true) (hwhole : (s.fnAt p.func.val).broken = false)
    (hfree : (s.fnAt p.func.val).choice = none) (hreplay : (s.followChoice p).replay = false)
    (hqueued : (s.plAt (s.followChoice p).plid).st = .queued) :
    let f := p.func.val
    let c := s.followChoice p
    let t := s.takeSbPitch p
    (t.fnAt f).choice = some c ∧ (t.plAt c.plid).st = .running ∧
    t.net = s.net ++ ((s.fieldsOf f).filter (fun h => !(s.hubAt h).muz)).map (fun h =>
      .pitch h (s.hubAt h).epoch (t.pitchOf f c s.tick.nextNum)) := by
  intro f c t
  generalize hu : s.updFn f (fun x => { x with choice := some c, jobFc := some c.energy }) = u
  have hwfu : u.wf = true := hu ▸ State.wf_updFn hwf
  have hchoice : (u.fnAt f).choice = some c := by
    rw [← hu, State.fnAt_updFn_same hwf]
  have hsend : t = (u.updPl c.plid (fun p => { p with st := .running })).sendPitch f c s.tick.nextNum := by
    change s.takeSbPitch p = _
    unfold State.takeSbPitch
    dsimp only
    rw [if_neg (by simp [hjob, hwhole, hfree, hqueued]),
      if_neg (show ¬ ((s.followChoice p).replay = true ∧ (s.followChoice p).img.binds ≠ []) by simp [hreplay]), hu]
    have htick : (u.updPl (s.followChoice p).plid (fun p => { p with st := .running })).tick = s.tick := by
      rw [← hu]
      rfl
    rw [htick, if_pos (Option.isSome_iff_ne_none.mpr hlead)]
  have hpitch (v : State) : v.pitchOf f c s.tick.nextNum = pitchMsg f c.image 0 s.tick.nextNum c.step c.gops c.img := by
    have hnone : c.replay = false := hreplay
    unfold State.pitchOf
    rw [hnone]
    rfl
  have hfields : (u.updPl c.plid (fun p => { p with st := .running })).fieldsOf f = s.fieldsOf f := by
    have hmembers : ((u.updPl c.plid (fun p => { p with st := .running })).fnAt f).members = (s.fnAt f).members := by
      rw [State.updPl_fnAt, ← hu, State.fnAt_updFn_same hwf]
    unfold State.fieldsOf
    rw [hmembers]
  refine ⟨?_, ?_, ?_⟩
  · rw [hsend]
    exact hchoice
  · have hread := State.plAt_updPl_same (k := c.plid) (g := fun p => { p with st := .running }) hwfu
    rw [hsend]
    exact (congrArg PitchList.st hread :)
  · rw [hpitch, hsend]
    unfold State.sendPitch State.pitchTo
    rw [hpitch, hfields, ← hu]
    rfl

/-- Every job's function has noticed the throttle (R182, R208). -/
theorem forAll_notice {l : List Nat} : ∀ {s : State}, s.wf = true →
    let t := forAll l (fun s f => s.updFn f (fun x => { x with throt := x.throt.notice false })) s
    t.span = s.span ∧ ∀ f, (f ∈ l ∨ (s.fnAt f).throt.noticed = true) → (t.fnAt f).throt.noticed = true := by
  induction l with
  | nil => exact fun _ => ⟨rfl, fun f h => h.resolve_left List.not_mem_nil⟩
  | cons g l ih =>
    intro s hwf
    obtain ⟨hspan, hnoticed⟩ := ih (s := s.updFn g (fun x => { x with throt := x.throt.notice false })) (State.wf_updFn hwf)
    refine ⟨hspan, fun f h => hnoticed f ?_⟩
    by_cases hfg : f = g
    · right
      rw [hfg, State.fnAt_updFn_same hwf]
      rfl
    · rw [State.fnAt_updFn_other hfg]
      exact h.imp_left fun hmem => (List.mem_cons.mp hmem).resolve_left hfg

/-! ### The obligation -/

theorem State.sgenOk_of {s : State} {g : BitVec 16} (hg : g = s.span.sgen) (hst : s.span.st ≠ .none) : s.sgenOk g = true := by
  unfold State.sgenOk
  rw [hg, beq_self_eq_true, bne_iff_ne.mpr hst]
  rfl

/-- Settles O30: a frame by its formation, a member's edge by `State.memberEdge_quiet`. -/
theorem spanTicks : Obligations.SpanTicks := by
  intro s g src tick q a m p fld op
  dsimp only
  intro hwf hforming
  have hjoin := State.joinTick_still (g := g) hforming
  refine ⟨fun hother => ?_, fun hg hmember hfollow => ?_, fun hg hlead => ?_⟩
  · have hbad : s.sgenOk g = false := by simp [State.sgenOk, hother]
    refine ⟨?_, ?_, ?_, ?_, ?_⟩
    · refine congrArg Host.Outcome.next ?_
      dsimp only
      rw [hjoin, hbad]
      rfl
    · exact congrArg Host.Outcome.next (if_neg (by simp [hbad]))
    · exact congrArg Host.Outcome.next (if_neg (by simp [hbad]))
    · exact congrArg Host.Outcome.next (if_neg (by simp [hbad]))
    · exact congrArg Host.Outcome.next (if_neg (by simp [hbad]))
  · have hok : s.sgenOk g = true := State.sgenOk_of hg (by rw [hmember]; decide)
    have hedge (hlead : s.tick.lead ≠ none) : exec (.sbTickEdge g m) s = .next (s.takeEdgeForm m) :=
      congrArg Host.Outcome.next (if_pos (by simp [hok, hfollow, Option.isSome_iff_ne_none, hlead]))
    refine ⟨?_, fun hlead hnow => ?_, fun hquiet hlate hleaving hgrid => ?_, fun hlead hjob hwhole hfree hreplay hqueued => ?_⟩
    · refine congrArg Host.Outcome.next ?_
      dsimp only
      rw [hjoin]
      exact if_pos (by simp [hok, hfollow])
    · exact (hedge hlead).trans (congrArg Host.Outcome.next (if_pos hnow))
    · have hissued (e : Nat) (late : List Nat) : (s.memberEdge e late).tick.num = s.tick.nextNum ∧
          (s.memberEdge e late).tick.any = true ∧ (s.memberEdge e late).tick.per = s.tick.perNext ∧
          (s.memberEdge e late).tick.st = .follow ∧ (s.memberEdge e late).tick.etime = none ∧
          (s.memberEdge e late).tick.lead = none ∧ (s.memberEdge e late).out = s.out ++ [.spineEdge s.tick.nextNum] ∧
          (s.memberEdge e late).net = s.net := by
        obtain ⟨htick, hout, hnet⟩ := State.memberEdge_quiet (e := e) (late := late) hwf hquiet hleaving
        rw [htick, hout, hnet]
        simp [Tick.advance, hfollow]
      have hgrid' : s.onGrid = true := by simp [State.onGrid, hgrid]
      refine ⟨fun e hetime hdue => ?_, fun hlead hpast => ?_⟩
      · have hexec : s.followEdge = s.memberEdge e (s.lateAt e) := by
          unfold State.followEdge
          rw [hfollow, hetime]
          exact if_pos (by simp [hgrid', hdue])
        exact .of_exec (congrArg Host.Outcome.next hexec) (hissued _ _)
      · have hexec : s.takeEdgeForm m = s.memberEdge s.now (s.lateAt (s.localTime m.etime) ++ s.jobs).eraseDups := by
          unfold State.takeEdgeForm
          exact (if_neg (Nat.not_le.mpr hpast)).trans (if_pos hgrid')
        exact .of_exec ((hedge hlead).trans (congrArg Host.Outcome.next hexec)) (hissued _ _)
    · exact .of_exec (congrArg Host.Outcome.next (if_pos (by simp [hok, hfollow])))
        (State.takeSbPitch_chosen hwf hlead hjob hwhole hfree hreplay hqueued)
  · have hok : s.sgenOk g = true := State.sgenOk_of hg (by rw [hlead]; decide)
    refine ⟨fun htick hnew => ?_, fun htick => ?_, ?_⟩
    · exact congrArg Host.Outcome.next ((if_pos (by simp [hok, hlead, htick])).trans ((if_pos rfl).trans (if_neg (by simpa using hnew))))
    · exact congrArg Host.Outcome.next (if_pos (by simp [hok, hlead, htick]))
    · obtain ⟨hspan, hnoticed⟩ := forAll_notice (l := s.jobs) (s := { s with span := { s.span with
        throt := s.span.throt.filter (fun t => !(t.1 == src.val && t.2.1 == fld)) ++ [(src.val, fld, op)] } }) hwf
      exact .of_exec (congrArg Host.Outcome.next (if_pos (by simp [hok, hlead]))) ⟨hspan, fun f hf => hnoticed f (.inl hf)⟩

end Sys2Proof.Machine
end

section
/-! PROOF of O31 (R138, R364-R366): span barriers. -/

namespace Sys2Proof.Machine

open Sys2Proof

/-- What every step of a fold keeps on the listed, the fold keeps (SUPPORT). -/
theorem forAll_induct_mem {α : Type} {P : State → Prop} {l : List α} {g : State → α → State} {s : State} (h : P s)
    (hstep : ∀ t, ∀ x ∈ l, P t → P (g t x)) : P (forAll l g s) := by
  induction l generalizing s with
  | nil => exact h
  | cons x l ih => exact ih (hstep s x List.mem_cons_self h) fun t y hy => hstep t y (List.mem_cons_of_mem _ hy)

/-! ### Span records -/

theorem State.srecAt_updSrec_same {s : State} {b : Nat} {g : SpanRec → SpanRec} (h : twf SpanRec.init s.span.recs = true) :
    (s.updSrec b g).srecAt b = g (s.srecAt b) := tget_tset_same h

theorem State.twf_updSrec {s : State} {b : Nat} {g : SpanRec → SpanRec} (h : twf SpanRec.init s.span.recs = true) :
    twf SpanRec.init (s.updSrec b g).span.recs = true := tset_wf h

section Lead

variable {s : State} {f b w : Nat} {ep : Epoch} {pay : BitVec 32}

/-- A JOIN opens the record, where its payload finds a buffer of the root (R138, R364). -/
theorem State.spanJoin_opens (hrecs : twf SpanRec.init s.span.recs = true) (hclosed : (s.srecAt b).open_ = false)
    (hroom : pdLanes pay = 0 ∨ s.rootRoom f 1 = true) :
    ∃ u, s.spanJoin f b w ep pay = (u, true) ∧ u.net = s.net ∧
      u.srecAt b = { SpanRec.init with gen := (s.srecAt b).gen, open_ := true, wexp := 1, members := [(w, ep)], pay := pay } := by
  refine ⟨s.updSrec b (fun r => { SpanRec.init with gen := r.gen, open_ := true, wexp := 1, members := [(w, ep)], pay := pay }),
    ?_, rfl, State.srecAt_updSrec_same hrecs⟩
  unfold State.spanJoin
  dsimp only
  rw [if_neg (by simp [hclosed]), if_neg]
  obtain hnone | hroom := hroom
  · simp [hnone]
  · simp [hroom]

theorem State.spanJoin_refused (hclosed : (s.srecAt b).open_ = false) (hpay : pdLanes pay ≠ 0) (hroom : s.rootRoom f 1 = false) :
    s.spanJoin f b w ep pay = (s, false) := by
  unfold State.spanJoin
  dsimp only
  rw [if_neg (by simp [hclosed]), if_pos (by simp [hpay, hroom])]

/-- The folds of wafers' partials touch span records alone, and of each neither GEN nor who joined it. -/
theorem State.flushFolds_ofWafer (hrecs : twf SpanRec.init s.span.recs = true) :
    let t := s.flushFolds (RootFold.ofWafer b)
    twf SpanRec.init t.span.recs = true ∧ t.net = s.net ∧ (t.srecAt b).gen = (s.srecAt b).gen ∧
    (t.srecAt b).members = (s.srecAt b).members ∧ (t.srecAt b).wexp = (s.srecAt b).wexp := by
  refine forAll_induct_mem (P := fun t => twf SpanRec.init t.span.recs = true ∧ t.net = s.net ∧
    (t.srecAt b).gen = (s.srecAt b).gen ∧ (t.srecAt b).members = (s.srecAt b).members ∧ (t.srecAt b).wexp = (s.srecAt b).wexp)
    ⟨hrecs, rfl, rfl, rfl, rfl⟩ ?_
  rintro t ⟨cls, src⟩ hq ⟨hrecst, hnet, hgen, hmembers, hwexp⟩
  cases src with
  | field h a => simp [RootFold.ofWafer] at hq
  | wafer a =>
    have hab : a.bar.toNat = b := by
      simp only [RootFold.ofWafer, List.mem_filter, Bool.and_eq_true, beq_iff_eq] at hq
      exact hq.2.1
    have hread := State.srecAt_updSrec_same (b := b) (g := fun r => r.add { a with pois := a.pois || false } t.now) hrecst
    have hfold : t.foldOne ⟨cls, .wafer a⟩ false = t.updSrec b (fun r => r.add { a with pois := a.pois || false } t.now) := by
      rw [← hab]
      rfl
    rw [hfold]
    refine ⟨State.twf_updSrec hrecst, hnet, ?_, ?_, ?_⟩
    · exact (congrArg SpanRec.gen hread).trans hgen
    · exact (congrArg SpanRec.members hread).trans hmembers
    · exact (congrArg SpanRec.wexp hread).trans hwexp

/-- The LEAVE of the last member closes the record, its GEN kept (R364). -/
theorem State.spanLeave_last (hrecs : twf SpanRec.init s.span.recs = true) (hmembers : (s.srecAt b).members = [(w, ep)])
    (hwexp : (s.srecAt b).wexp = 1) :
    (s.spanLeave b w).srecAt b = { SpanRec.init with gen := (s.srecAt b).gen } ∧ (s.spanLeave b w).net = s.net := by
  obtain ⟨hrecsu, hnet, hgen, hmembersu, hwexpu⟩ := State.flushFolds_ofWafer (b := b) hrecs
  generalize hu : s.flushFolds (RootFold.ofWafer b) = u at *
  have hread := State.srecAt_updSrec_same (b := b)
    (g := fun r => { r with members := r.members.filter (fun m => m.1 != w), wexp := r.wexp - 1 }) hrecsu
  have hleave : s.spanLeave b w = (u.updSrec b (fun r =>
      { r with members := r.members.filter (fun m => m.1 != w), wexp := r.wexp - 1 })).updSrec b (fun r =>
        if r.wexp = 0 then { SpanRec.init with gen := r.gen }
        else if r.open_ && !r.deciding && r.members.all (fun m => r.arrived.contains m.1) then { r with deciding := true } else r) := by
    unfold State.spanLeave
    rw [if_pos (by simp [hmembers]), hu]
  refine ⟨?_, by rw [hleave]; exact hnet⟩
  rw [hleave, State.srecAt_updSrec_same (State.twf_updSrec hrecsu), hread, if_pos (by rw [hwexpu, hwexp]), ← hgen]

end Lead

/-! ### Arrivals at the lead -/

section Arrive

variable {s : State} {a : SbArrive} (hopen : (s.srecAt a.bar.toNat).open_ = true)
  (hdeciding : (s.srecAt a.bar.toNat).deciding = false) (hgen : a.gen = (s.srecAt a.bar.toNat).gen)
  (hjoined : (a.src.val, a.pepoch) ∈ (s.srecAt a.bar.toNat).members)
  (honce : ∀ m ∈ (s.srecAt a.bar.toNat).members, m.1 = a.src.val → m.2 = a.pepoch)
  (hnew : ¬ a.src.val ∈ (s.srecAt a.bar.toNat).arrived)
include hopen hdeciding hgen hjoined honce hnew

/-- An arrival of the record's generation, by a member that has not arrived, is counted or joins the fold queue (R124, R365). -/
theorem State.spanArrive_current :
    s.spanArrive a =
      if pdLanes (s.srecAt a.bar.toNat).pay = 0 || a.src.val == s.span.wid.toNat then
        (s.updSrec a.bar.toNat (fun r => r.add a s.now)).spanSettle a.bar.toNat
      else if s.rfolds.length < 128 then { s with rfolds := s.rfolds ++ [⟨s.foldClass a.bar, .wafer a⟩] }
      else s := by
  obtain ⟨m, hm⟩ : ∃ m, (s.srecAt a.bar.toNat).members.find? (fun m => m.1 == a.src.val) = some m := by
    rw [← Option.isSome_iff_exists, List.find?_isSome]
    exact ⟨_, hjoined, beq_self_eq_true _⟩
  have hepoch : m.2 = a.pepoch := honce m (List.mem_of_find?_eq_some hm) (beq_iff_eq.mp (List.find?_some (p := fun m : Nat × Epoch => m.1 == a.src.val) hm))
  unfold State.spanArrive
  dsimp only
  rw [hm]
  dsimp only
  rw [if_neg (by simp [hopen, hgen, hepoch]), if_neg (by simp [hdeciding, hnew])]

/-- An arrival without a payload is counted, and the last one decides (R364). -/
theorem State.spanArrive_counted (hrecs : twf SpanRec.init s.span.recs = true) (hpay : pdLanes (s.srecAt a.bar.toNat).pay = 0)
    (hfolds : ∀ q ∈ s.rfolds, q.ofWafer a.bar.toNat = false) (hearly : (s.srecAt a.bar.toNat).early = false)
    (htime : a.stat ≠ .timeout) (hfence : a.stat ≠ .fenced) :
    let r := s.srecAt a.bar.toNat
    (s.spanArrive a).net = s.net ∧
    (s.spanArrive a).srecAt a.bar.toNat = { r.add a s.now with deciding := decide (r.wexp = r.warr + 1) } := by
  have hread := State.srecAt_updSrec_same (b := a.bar.toNat) (g := fun r => r.add a s.now) hrecs
  rw [State.spanArrive_current hopen hdeciding hgen hjoined honce hnew, if_pos (by simp [hpay])]
  generalize hu : s.updSrec a.bar.toNat (fun r => r.add a s.now) = u at *
  have hrecsu : twf SpanRec.init u.span.recs = true := hu ▸ State.twf_updSrec hrecs
  have hnet : u.net = s.net := by rw [← hu]; rfl
  have hflush : u.flushFolds (RootFold.ofWafer a.bar.toNat) = u := by
    have hrfolds : u.rfolds = s.rfolds := by rw [← hu]; rfl
    have hnone : u.rfolds.filter (fun q => RootFold.ofWafer a.bar.toNat q && u.foldLive q) = [] := by
      rw [List.filter_eq_nil_iff]
      intro q hq
      simp [hfolds q (hrfolds ▸ hq)]
    have hall : u.rfolds.filter (fun q => !RootFold.ofWafer a.bar.toNat q) = u.rfolds := by
      rw [List.filter_eq_self]
      intro q hq
      simp [hfolds q (hrfolds ▸ hq)]
    unfold State.flushFolds
    rw [hnone, hall]
    rfl
  have hsettle : u.spanSettle a.bar.toNat =
      if (s.srecAt a.bar.toNat).wexp = (s.srecAt a.bar.toNat).warr + 1 then
        u.updSrec a.bar.toNat (fun r => { r with deciding := true })
      else u := by
    unfold State.spanSettle
    rw [hflush, hread]
    refine if_congr ?_ rfl rfl
    simp only [SpanRec.add, hopen, hdeciding, hearly, Bool.false_or, Bool.not_false, Bool.and_true, Bool.true_and,
      Bool.or_eq_true, Bool.and_eq_true, beq_iff_eq, bne_iff_ne, htime, hfence, or_self, false_or]
    omega
  dsimp only
  rw [hsettle]
  split
  · next hlast =>
    refine ⟨hnet, ?_⟩
    rw [State.srecAt_updSrec_same hrecsu, hread, decide_eq_true hlast]
  · next hmore =>
    refine ⟨hnet, ?_⟩
    rw [hread, decide_eq_false hmore, ← hdeciding]
    rfl

end Arrive

/-! ### A member's pack -/

theorem State.waitingJoin_spec {s : State} {b : Nat} {j : JoinWait} {c : Cmd} (h : s.waitingJoin b = some (j, c)) :
    (s.ringAt j.ring).cmdAt j.sqi = some c ∧ c.done = false := by
  unfold State.waitingJoin at h
  split at h
  · exact absurd h (by simp)
  · next j' _ =>
    split at h
    · next c' hc =>
      split at h
      · exact absurd h (by simp)
      · next hdone =>
        obtain ⟨rfl, rfl⟩ := Prod.mk.inj (Option.some.inj h)
        exact ⟨hc, by simpa using hdone⟩
    · exact absurd h (by simp)

/-- A pack binds at the ACK, and its PACK_SET completes (R107, R364). -/
theorem State.packAck_bound {s : State} {b cl : Nat} {n g : Byte} {j : JoinWait} {c : Cmd} (hwf : s.wf = true)
    (hwait : s.waitingJoin b = some (j, c)) (himg : imgMembers j.img = [(cl, n)]) (hfield : fieldOf cl < 84)
    (hcheck : (s.updPrec b (fun r => { r with join := none })).packCheck (s.precAt b).func.val c.d.bits b [(cl, n)] = none) :
    let t := s.packAck b g
    (t.precAt b).gen = g ∧ (t.precAt b).fexp = 1 ∧ (t.precAt b).join = none ∧
    (t.precAt b).scope = BitVec.ofNat 2 (dScope c.d.bits) ∧ (t.frecOf (fieldOf cl) b).gen = g ∧
    Recorded s t j.ring c .ok false 0 := by
  obtain ⟨hc, hdone⟩ := State.waitingJoin_spec hwait
  generalize hu : s.updPrec b (fun r => { r with join := none }) = u at *
  obtain ⟨hwft, hring, hprec, -, hgen⟩ := State.packBind_one (b := b) (n := n) (g := g)
    (rec := packRec u (s.precAt b).func.val c.d.bits) (hu ▸ State.wf_updPrec hwf : u.wf = true) hfield
  have hack : s.packAck b g = (u.packBind b [(cl, n)] g (packRec u (s.precAt b).func.val c.d.bits)).finish j.ring j.sqi .ok := by
    unfold State.packAck
    rw [hwait]
    dsimp only
    rw [hu, himg, hcheck]
  generalize u.packBind b [(cl, n)] g (packRec u (s.precAt b).func.val c.d.bits) = t at *
  have hrest := State.finish_noRings (r := j.ring) (i := j.sqi) (st := .ok) (flag := false) (res := 0) hwft
  have hprec' : (t.finish j.ring j.sqi .ok).precAt b = t.precAt b := (congrArg (fun v : State => v.precAt b) hrest :)
  have hfrec : (t.finish j.ring j.sqi .ok).frecOf (fieldOf cl) b = t.frecOf (fieldOf cl) b :=
    (congrArg (fun v : State => v.frecOf (fieldOf cl) b) hrest :)
  dsimp only
  rw [hack, hprec', hfrec, hprec]
  refine ⟨rfl, rfl, rfl, rfl, hgen, State.finish_recorded hwft ?_ hc hdone⟩
  rw [hring, ← hu]
  rfl

/-- Settles O31: the lead's record by what moves it, a member's pack by the lead's answer, its release by the root's. -/
theorem spanBarriers : Obligations.SpanBarriers := by
  intro s g a x src f bar ep gen pay j c cl n
  dsimp only
  intro hwf hrecs hg
  refine ⟨fun hlead => ?_, fun hmember => ?_⟩
  · have hok : s.sgenOk g = true := State.sgenOk_of hg (by rw [hlead]; decide)
    have hjoin : exec (.sbPackJoin g src f bar ⟨ep, pay⟩) s = .next ((s.spanJoin f.val bar.toNat src.val ep pay).1.toWafer src.val
        (if (s.spanJoin f.val bar.toNat src.val ep pay).2 then
          .packAck bar ((s.spanJoin f.val bar.toNat src.val ep pay).1.srecAt bar.toNat).gen else .packNack bar)) :=
      congrArg Host.Outcome.next (if_pos (by simp [hok, hlead]))
    have harrive : exec (.sbArrive g a) s = .next (s.spanArrive a) :=
      congrArg Host.Outcome.next (if_pos (by simp [hok, hlead]))
    refine ⟨fun hclosed hroom => ?_, fun hclosed hpay hfull => ?_, fun hmembers hwexp => ?_,
      fun hbar hopen hdeciding hgen hjoined honce hnew hearly => ?_, fun hbar hopen hgen hst hfn => ?_⟩
    · obtain ⟨u, hu, hnet, hread⟩ := State.spanJoin_opens (w := src.val) (ep := ep) hrecs hclosed hroom
      refine .of_exec (hjoin.trans (by rw [hu])) ?_
      change (u.srecAt bar.toNat).open_ = true ∧ (u.srecAt bar.toNat).wexp = 1 ∧ (u.srecAt bar.toNat).members = [(src.val, ep)] ∧
        (u.srecAt bar.toNat).gen = (s.srecAt bar.toNat).gen ∧ (u.srecAt bar.toNat).pay = pay ∧ u.net ++ _ = _
      rw [hread, hnet]
      exact ⟨rfl, rfl, rfl, rfl, rfl, rfl⟩
    · rw [hjoin, State.spanJoin_refused hclosed hpay hfull]
      rfl
    · obtain ⟨hread, hnet⟩ := State.spanLeave_last hrecs hmembers hwexp
      refine .of_exec (congrArg Host.Outcome.next (if_pos (by simp [hok, hlead]))) ?_
      rw [hread]
      exact ⟨rfl, rfl, hnet⟩
    · subst hbar
      refine ⟨fun hpay hother hroom => ?_, fun hpay hfolds htime hfence => ?_⟩
      · rw [harrive, State.spanArrive_current hopen hdeciding hgen hjoined honce hnew,
          if_neg (by simp [hpay, Ne.symm hother]), if_pos hroom]
      · obtain ⟨hnet, hread⟩ := State.spanArrive_counted hopen hdeciding hgen hjoined honce hnew hrecs hpay hfolds hearly htime hfence
        refine .of_exec harrive ?_
        rw [hread]
        exact ⟨rfl, rfl, rfl, rfl, rfl, hnet⟩
    · subst hbar
      have hstale : s.spanArrive a = s.countStaleBar a.bar.toNat := if_pos (by simp [hopen, hgen])
      rw [harrive, hstale, State.countStaleBar, if_neg (by simp [hst, noFnBar, hfn])]
      rfl
  · have hok : s.sgenOk g = true := State.sgenOk_of hg (by rw [hmember]; decide)
    refine ⟨fun hwait => ⟨?_, fun himg hfield hcheck => ?_⟩, fun hbar hidle hfree hgen hstill hheld hmem => ?_⟩
    · obtain ⟨hc, hdone⟩ := State.waitingJoin_spec hwait
      have hnack : s.packNack bar.toNat =
          (s.updPrec bar.toNat (fun r => { r with join := none })).finish j.ring j.sqi .noResource := by
        unfold State.packNack
        rw [hwait]
      have hwfu : (s.updPrec bar.toNat (fun r => { r with join := none })).wf = true := State.wf_updPrec hwf
      have hread := State.precAt_updPrec_same (k := bar.toNat) (g := fun r => { r with join := none }) hwf
      refine .of_exec (congrArg Host.Outcome.next ((if_pos hok).trans hnack)) ?_
      have hprec : ((s.updPrec bar.toNat (fun r => { r with join := none })).finish j.ring j.sqi .noResource).precAt bar.toNat =
          { s.precAt bar.toNat with join := none } :=
        (congrArg (fun v : State => v.precAt bar.toNat) (State.finish_noRings hwfu) :).trans hread
      rw [hprec]
      exact ⟨rfl, rfl, State.finish_recorded hwfu rfl hc hdone⟩
    · exact .of_exec (congrArg Host.Outcome.next (if_pos hok)) (State.packAck_bound hwf hwait himg hfield hcheck)
    · have hrelease : s.spanRelease x = s.releaseHere bar.toNat x.rel ⟨(s.precAt bar.toNat).masks,
          (s.precAt bar.toNat).masks != [] || x.rel.stat == .suspect,
          if (s.precAt bar.toNat).role = 1 then some x.epoch else none⟩ := by
        unfold State.spanRelease
        rw [hbar]
        exact if_neg (by simp [hidle, hfree, hgen])
      obtain ⟨hgen', -, -, hst, hnet⟩ := State.releaseHere_of_still (rel := x.rel) (c := ⟨(s.precAt bar.toNat).masks,
        (s.precAt bar.toNat).masks != [] || x.rel.stat == .suspect,
        if (s.precAt bar.toNat).role = 1 then some x.epoch else none⟩) hwf hstill hheld hmem
      exact .of_exec (congrArg Host.Outcome.next ((if_pos (by simp [hok, hmember])).trans hrelease)) ⟨hgen', hst, hnet⟩

end Sys2Proof.Machine
end

section
/-! PROOF of O32 (R229, R367-R373, R380): the other frames of a span. -/

namespace Sys2Proof.Machine

open Sys2Proof

/-! ### Event bits of the span -/

/-- An event sets its bit of VSF_SPN_EVT; its interrupt leaves that register alone (R374). -/
theorem State.spanEvt_span (s : State) (i : Nat) :
    (s.spanEvt i).span = { s.span with evt := setBits s.span.evt i 1 1 } := by
  unfold State.spanEvt State.msix
  dsimp only
  split
  · split <;> rfl
  · rfl

theorem State.spanEvt_evt {s : State} {i : Nat} (hi : i < 32) : bit (s.spanEvt i).span.evt.toNat i = true := by
  rw [State.spanEvt_span]
  exact bit_setBits_one _ hi

/-- An interrupt changes of a function its pending vectors alone, so not whether its job is broken. -/
theorem State.msix_broken {s : State} {k f : Nat} {v : BitVec 11} (hwf : s.wf = true) :
    ((s.msix k v).fnAt f).broken = (s.fnAt f).broken := by
  unfold State.msix
  split
  · by_cases hfk : f = k
    · rw [hfk, State.fnAt_updFn_same hwf]
    · rw [State.fnAt_updFn_other hfk]
  · rfl

theorem State.spanEvt_broken {s : State} {i f : Nat} (hwf : s.wf = true) : ((s.spanEvt i).fnAt f).broken = (s.fnAt f).broken := by
  unfold State.spanEvt
  dsimp only
  split
  · exact State.msix_broken hwf
  · rfl

/-- A span job that stood is broken, and its event is set (R371, R373). -/
theorem State.breakJob_broken {s : State} {f : Nat} {st : Status} (hwf : s.wf = true) (hjob : (s.fnAt f).job = true)
    (hwhole : (s.fnAt f).broken = false) :
    ((s.breakJob f st).fnAt f).broken = true ∧ bit (s.breakJob f st).span.evt.toNat 4 = true := by
  unfold State.breakJob
  rw [if_neg (by simp [hjob, hwhole])]
  dsimp only
  generalize hu : forAll _ _ _ = u
  have hwfu : u.wf = true := by
    rw [← hu]
    exact (forAll_keeps (State.endCask_keeps (State.abortFn_keeps (.refl s))) fun _ _ ht => State.updPl_keeps ht).canon hwf
  have hwfb : (u.updFn f (fun x => { x with broken := true })).wf = true := (State.updFn_keeps (.refl u)).canon hwfu
  exact ⟨by rw [State.spanEvt_broken hwfb, State.fnAt_updFn_same hwfu], State.spanEvt_evt (by decide)⟩

/-! ### Frames from members -/

section Frames

variable {s : State} {g : BitVec 16} (hg : g = s.span.sgen)
include hg

/-- SB_ABORT with CODE 1 breaks the span job of a member (R371). -/
theorem sbAbort_breaks {src waf : Wafer} {f : Func} (hst : s.span.st = .member) (hjob : (s.fnAt f.val).job = true) :
    exec (.sbAbort g src f 1 waf) s = .next (s.breakJob f.val .aborted) := by
  have hok : s.sgenOk g = true := State.sgenOk_of hg (by simp [hst])
  refine (if_neg (by simp [hok])).trans (congrArg Host.Outcome.next ?_)
  unfold State.takeAbort
  dsimp only
  rw [if_neg (by decide), if_pos (by decide), if_pos hjob]
  simp [hst]

/-- The answer to a relayed request goes to its requester, and the relay ends (R367). -/
theorem sbKrsp_relayed {y : Relay} {rt : BitVec 12} {d : Bool} {r : KRsp} (hst : s.span.st = .member)
    (hrelays : s.span.relays = [y]) (hrtag : y.rtag = rt) (hrt : rt ≠ 0xFFF) :
    let t := { s with span := { s.span with relays := [] } }
    let e : KRsp := { r with master := y.master, tag := y.tag }
    exec (.sbKrsp g rt d r) s = .next (if d && !Master.isFn y.master then
      t.send (.whistle (Master.core y.master) (Master.epoch y.master) (causeOf y.op) { e with aux := 0 })
      else t.send (.kenRsp (Master.epoch y.master) e)) := by
  have hok : s.sgenOk g = true := State.sgenOk_of hg (by simp [hst])
  have hfind : s.span.relays.find? (fun x => x.rtag == rt) = some y := by simp [hrelays, hrtag]
  have herase : s.span.relays.erase y = [] := by simp [hrelays]
  refine congrArg Host.Outcome.next ((if_neg (by simp [hok, hst])).trans ((if_neg hrt).trans ?_))
  rw [hfind]
  dsimp only
  rw [herase]

theorem sbKrsp_leash {d : Bool} {r : KRsp} (hst : s.span.st = .member) (hcore : Master.isFn r.master = false) :
    exec (.sbKrsp g 0xFFF d r) s = .next (s.send (.whistle (Master.core r.master) (Master.epoch r.master) .leash r)) := by
  have hok : s.sgenOk g = true := State.sgenOk_of hg (by simp [hst])
  exact congrArg Host.Outcome.next ((if_neg (by simp [hok, hst])).trans ((if_pos rfl).trans (if_neg (by simp [hcore]))))

/-- A LEAVE that a member sends of itself waits for the lead's next cut (R380). -/
theorem sbAbort_leaves {src : Wafer} {f : Func} (hst : s.span.st = .lead) (hreach : inMask s.span.reach src.val = true) :
    exec (.sbAbort g src f 2 src) s = .next { s with span := { s.span with leavers := s.span.leavers ++ [src.val] } } := by
  have hok : s.sgenOk g = true := State.sgenOk_of hg (by simp [hst])
  refine (if_neg (by simp [hok])).trans (congrArg Host.Outcome.next ?_)
  unfold State.takeAbort
  dsimp only
  rw [if_neg (by decide), if_neg (by decide), if_pos (by simp [hst]), if_pos ⟨rfl, hreach⟩]

/-- The lead injects the request of a member that names an entry of its function (R367). -/
theorem sbKreq_injected {src : Wafer} {f : Func} {rt : BitVec 12} {op : KOp} {q : KMsg} (hst : s.span.st = .lead)
    (hcls : q.args.cls.toNat ≤ 1) (hindex : q.args.index.toNat < classRange q.args.cls.toNat)
    (hkind : (s.kenAt (keyOf q)).kind ≠ .free) (hfunc : (s.kenAt (keyOf q)).func.val = f.val)
    (hmuz : (s.hubAt (homeHub (keyOf q))).muz = false) :
    exec (.sbKreq g src f rt op q) s = .next
      ({ s with span := { s.span with relays := s.span.relays ++ [(⟨rt, q.master, q.tag, op, f⟩ : Relay)] } }.send
        (.kenReq (homeHub (keyOf q)) (s.hubAt (homeHub (keyOf q))).epoch op q)) := by
  have hok : s.sgenOk g = true := State.sgenOk_of hg (by simp [hst])
  have hfenced : s.leadFenced f.val q = false := by
    unfold State.leadFenced
    unfold keyOf at hkind hfunc hmuz
    simp [hcls, hindex, hkind, hfunc, hmuz]
  exact congrArg Host.Outcome.next ((if_pos (by simp [hok, hst])).trans (if_neg (by rw [← Bool.not_eq_true] at hfenced; exact hfenced)))

end Frames

/-- Settles O32: a broken job by `State.breakJob_broken`, the relays by `sbKrsp_relayed` and `sbKreq_injected`. -/
theorem spanFrames : Obligations.SpanFrames := by
  intro s g src waf f code m rt op q r y ep n k
  dsimp only
  intro hwf hg
  refine ⟨fun hcode => if_pos (by simp [hcode]), fun hst hcore d => sbKrsp_leash hg hst hcore, fun hst hjob hwhole => ?_,
    fun hst hrelays hrtag hrt => ⟨?_, fun hcore => ?_⟩, fun hst => ?_⟩
  · exact .of_exec (sbAbort_breaks hg hst hjob) (State.breakJob_broken hwf hjob hwhole)
  · exact (sbKrsp_relayed hg hst hrelays hrtag hrt).trans (congrArg Host.Outcome.next (if_neg (by simp)))
  · exact (sbKrsp_relayed hg hst hrelays hrtag hrt).trans (congrArg Host.Outcome.next (if_pos (by simp [hcore])))
  · have hok : s.sgenOk g = true := State.sgenOk_of hg (by simp [hst])
    refine ⟨sbAbort_leaves hg hst, congrArg Host.Outcome.next (if_pos (by simp [hok, hst])), sbKreq_injected hg hst,
      fun hjob hcst hep hnew => ?_, congrArg Host.Outcome.next (if_pos (by simp [hok, hst]))⟩
    exact congrArg Host.Outcome.next (if_pos (by simp [hok, hst, hjob, hcst, hep, hnew]))

end Sys2Proof.Machine
end

section
/-! PROOF of O33 (R375-R378, R380): formation of a span. -/

namespace Sys2Proof.Machine

open Sys2Proof

section Commands

variable {s : State} {img : List Byte} {links : List UpLink} {a b d : Bool}
  (hstep : s.bru.step = 15) (hgo : s.span.go = true)
include hstep hgo

/-- FORM is checked, and turned away or begun (R376). -/
theorem exec_form_refused (hop : s.span.op = 1) (hidle : s.span.forming = none) {st : Status}
    (hcheck : s.formCheck img links a b = some st) : exec (.form img links a b d) s = .next (s.spanDone st) := by
  refine congrArg Host.Outcome.next ?_
  unfold State.form
  rw [if_neg (by simp [hstep, hgo, hop, hidle]), hcheck]

/-- The formation that a FORM begins, where no JOIN has come before it (R376). -/
def newForming (s : State) (img : List Byte) (inSpan : Bool) : Forming :=
  { self := formSelf img, lead := formLead img, mask := formMask img, jobs := formJobs img, ids := formIds img,
    carry := formCar img, joined := [formSelf img], sgenMax := s.span.sgen, since := s.now, switch := none, carryDue := false,
    coord := if inSpan then s.span.st == .lead else formSelf img == formLead img }

theorem exec_form_begins (hop : s.span.op = 1) (hidle : s.span.forming = none)
    (hcheck : s.formCheck img links a b = none) (hjoins : s.span.joins = []) :
    exec (.form img links a b d) s =
      .next ({ s with span := { s.span with forming := some (newForming s img d), joins := [] } }.toAll (.formJoin s.span.sgen)) := by
  refine congrArg Host.Outcome.next ?_
  unfold State.form
  rw [if_neg (by simp [hstep, hgo, hop, hidle]), hcheck]
  dsimp only
  rw [hjoins]
  rfl

/-- LEAVE is at an end, or waits for the lead's cut, or is told to the lead (R380). -/
theorem exec_leave (hop : s.span.op = 2) (hstay : s.span.leaving = false) :
    exec .leave s = .next (match s.span.st with
      | .none => s.spanDone .ok
      | .lead => { s with span := { s.span with leaving := true } }
      | _ => { s with span := { s.span with leaving := true } }.toWafer s.span.lead.toNat (.abort 0 2 s.span.wid)) :=
  congrArg Host.Outcome.next (if_neg (by simp [hstep, hgo, hop, hstay]))

end Commands

section Forming

variable {s : State} {x : Forming} (hforming : s.span.forming = some x)
include hforming

theorem sbFormJoin_joins {src : Wafer} {g : BitVec 16} (hnew : ¬ src.val ∈ x.joined) :
    exec (.sbFormJoin src g) s = .next { s with span := { s.span with
      forming := some { x with joined := x.joined ++ [src.val], sgenMax := if x.sgenMax.toNat < g.toNat then g else x.sgenMax } } } := by
  refine congrArg Host.Outcome.next ?_
  rw [hforming]
  dsimp only
  rw [if_neg (by simp [hnew])]

theorem formJoinTimeout_fails (hmissing : x.allJoined = false) (hswitch : x.switch = none) (hlate : x.since + 30000000 ≤ s.now) :
    exec .formJoinTimeout s = .next { s with span := { s.span with forming := none, go := false, status := .spanLost } } := by
  refine congrArg Host.Outcome.next ?_
  rw [hforming]
  dsimp only
  rw [if_pos (by simp [hmissing, hswitch, cyc, hlate])]
  unfold State.failForm
  rw [hforming]

end Forming

/-- The carry of one kennel entry sets it, and the period and stretch of the old lead (R378). -/
theorem sbFormCarry_entry {s : State} {c : FormCarry} {e : CarryEntry} (hwf : s.wf = true) (hst : s.span.st ≠ .none)
    (hentries : c.entries = [e]) (hrecs : c.recs = []) (hhist : c.hist = []) :
    Completes (.sbFormCarry c) s (fun t =>
      t.tick = { s.tick with period := setBits s.tick.period 0 27 c.per.toNat, ctrl := setBits s.tick.ctrl 8 8 c.stbf.toNat } ∧
      t.span = { s.span with carryWait := false } ∧ t.kiln = s.kiln ∧ t.kenAt e.k = kentryOf e.word) := by
  refine .of_exec (congrArg Host.Outcome.next (congrArg (fun t => State.takeCarry t c) (if_neg hst))) ?_
  unfold State.takeCarry
  rw [hentries, hrecs, hhist]
  exact ⟨rfl, rfl, rfl, State.kenAt_setKen_same hwf⟩

/-- Settles O33, by the branches of the formation's commands and frames. -/
theorem formation : Obligations.Formation := by
  intro s img links a b d src g m c x hwf
  refine ⟨fun hstep hgo hop hidle => ⟨fun st => exec_form_refused hstep hgo hop hidle, fun hcheck hjoins => ?_⟩, fun hidle => ?_,
    fun hforming => sbFormJoin_joins hforming, fun hforming => formJoinTimeout_fails hforming, fun hforming => ?_,
    fun e => sbFormCarry_entry hwf, fun hstep hgo hop hstay => ⟨fun hst => ?_, fun hst => ?_, fun hst => ?_⟩⟩
  · exact .of_exec (exec_form_begins hstep hgo hop hidle hcheck hjoins)
      ⟨rfl, hgo, rfl, newForming s img d, rfl, rfl, rfl, rfl, rfl, rfl, rfl, rfl⟩
  · refine congrArg Host.Outcome.next ?_
    rw [hidle]
  · refine congrArg Host.Outcome.next ?_
    rw [hforming]
  · rw [exec_leave hstep hgo hop hstay, hst]
  · rw [exec_leave hstep hgo hop hstay, hst]
  · rw [exec_leave hstep hgo hop hstay, hst]
    rfl

end Sys2Proof.Machine
end

section
/-! PROOF of O59 (R354-R357, R361, R372): sideband links and elections. -/

namespace Sys2Proof.Machine

open Sys2Proof

/-! ### Ports -/

theorem State.portAt_updPort_same {s : State} {p : Nat} {g : Port → Port} (h : twf Port.init s.span.ports = true) :
    (s.updPort p g).portAt p = g (s.portAt p) := tget_tset_same h

theorem State.twf_updPort {s : State} {p : Nat} {g : Port → Port} (h : twf Port.init s.span.ports = true) :
    twf Port.init (s.updPort p g).span.ports = true := tset_wf h

theorem State.spanEvt_net (s : State) (i : Nat) : (s.spanEvt i).net = s.net := by
  unfold State.spanEvt State.msix
  dsimp only
  split
  · split <;> rfl
  · rfl

theorem State.spanEvt_tick (s : State) (i : Nat) : (s.spanEvt i).tick = s.tick := by
  unfold State.spanEvt State.msix
  dsimp only
  split
  · split <;> rfl
  · rfl

theorem State.applyLinks_alone {s : State} {ls : List UpLink} (hst : s.span.st = .none) :
    s.applyLinks ls = { s with span := { s.span with links := ls } } := by
  unfold State.applyLinks State.relink
  dsimp only
  rw [hst]

section PortDown

variable {s : State} {p : Nat} {ls : List UpLink} (hst : s.span.st = .none) (hports : twf Port.init s.span.ports = true)
  (hup : (s.portAt p).up = true)
include hst hports hup

/-- A link that goes down on a wafer in no span: its port counts it, its event is set, and the log tells it (R357). -/
theorem State.portDown_alone :
    let t := s.portDown p ls
    t.portAt p = { s.portAt p with up := false, downs := satInc (s.portAt p).downs, helloAt := none, fails := 0 } ∧
    t.span.links = ls ∧ bit t.span.evt.toNat 1 = true ∧ ∃ m : LogMsg, t.net = s.net ++ [.log m] ∧ m.cls = 0x03 := by
  have hread := State.portAt_updPort_same (s := s.cutStores) (p := p)
    (g := fun x => { x with up := false, downs := satInc x.downs, helloAt := none, fails := 0 }) hports
  unfold State.portDown
  rw [if_neg (by simp [hup])]
  dsimp only
  generalize hu : s.cutStores.updPort p (fun x => { x with up := false, downs := satInc x.downs, helloAt := none, fails := 0 }) = u at *
  have hspan := State.spanEvt_span u 1
  have hnet : (u.spanEvt 1).net = s.net := (State.spanEvt_net u 1).trans (by rw [← hu]; rfl)
  have hevt : bit (u.spanEvt 1).span.evt.toNat 1 = true := State.spanEvt_evt (by decide)
  have hstu : (u.spanEvt 1).span.st = .none := by rw [hspan, ← hu]; exact hst
  have hportsv : (u.spanEvt 1).span.ports = u.span.ports := by rw [hspan]
  generalize u.spanEvt 1 = v at *
  rw [State.applyLinks_alone (show (v.report 0x03 (unitId .sideband p) 1 0 8 none).span.st = .none from hstu)]
  refine ⟨?_, rfl, hevt, mkLog 0x03 (unitId .sideband p) 1 0 8 none 1 v.peek v.drawn.peek, congrArg (· ++ _) hnet, rfl⟩
  exact (congrArg (fun t => tget Port.init t p) hportsv).trans hread

end PortDown

/-- The same after a signal that the port has noted. -/
theorem State.updPort_portDown {s : State} {p : Nat} {ls : List UpLink} {g : Port → Port} (hst : s.span.st = .none)
    (hports : twf Port.init s.span.ports = true) (hup : (g (s.portAt p)).up = true) :
    let x := g (s.portAt p)
    let t := (s.updPort p g).portDown p ls
    t.portAt p = { x with up := false, downs := satInc x.downs, helloAt := none, fails := 0 } ∧
    t.span.links = ls ∧ bit t.span.evt.toNat 1 = true ∧ ∃ m : LogMsg, t.net = s.net ++ [.log m] ∧ m.cls = 0x03 := by
  have hread := State.portAt_updPort_same (p := p) (g := g) hports
  have hdown := State.portDown_alone (s := s.updPort p g) (ls := ls) hst (State.twf_updPort hports) (hread ▸ hup)
  rwa [hread] at hdown

section Signals

variable {s : State} {port : PortIx} {ls : List UpLink} (hports : twf Port.init s.span.ports = true)
include hports

theorem nelUpAssert_hello (hdown : (s.portAt port.val).nelUp = false) :
    Completes (.nelUpAssert port) s (fun t => (t.portAt port.val).nelUp = true ∧ (t.portAt port.val).upAt = s.now ∧
      (t.portAt port.val).up = (s.portAt port.val).up ∧
      t.net = s.net ++ [.sb none (.hello port.val s.span.ident s.span.wid s.span.sgen)]) := by
  have hread := State.portAt_updPort_same (p := port.val)
    (g := fun x => { x with nelUp := true, upAt := s.now, helloAt := none, sentAt := s.now }) hports
  refine .of_exec (congrArg Host.Outcome.next (if_neg (by simp [hdown]))) ⟨?_, ?_, ?_, rfl⟩
  · exact (congrArg Port.nelUp hread :)
  · exact (congrArg Port.upAt hread :)
  · exact (congrArg Port.up hread :)

theorem sbHello_kept {id : BitVec 64} {w : Wafer} {g : BitVec 16} :
    Completes (.sbHello port id w g) s (fun t => (t.portAt port.val).peerId = id ∧ (t.portAt port.val).peer.toNat = w.val ∧
      (t.portAt port.val).peerSgen = g ∧ (t.portAt port.val).recvAt = s.now ∧
      ((s.portAt port.val).helloAt = none → (t.portAt port.val).helloAt = some s.now) ∧ t.net = s.net) := by
  have hread := State.portAt_updPort_same (p := port.val)
    (g := fun x => { x with
      peerId := id, peer := BitVec.ofNat 5 w.val, peerSgen := g, helloAt := some (x.helloAt.getD s.now), recvAt := s.now }) hports
  refine .of_exec rfl ⟨?_, ?_, ?_, ?_, fun hnone => ?_, rfl⟩
  · exact (congrArg Port.peerId hread :)
  · exact (congrArg (fun x : Port => x.peer.toNat) hread).trans (by simp)
  · exact (congrArg Port.peerSgen hread :)
  · exact (congrArg Port.recvAt hread :)
  · exact (congrArg Port.helloAt hread).trans (by simp [hnone])

theorem nelLinkUp_up {h : Nat} (hst : s.span.st = .none) (hnel : (s.portAt port.val).nelUp = true)
    (hdown : (s.portAt port.val).up = false) (hmuz : (s.portAt port.val).muz = false)
    (hhello : (s.portAt port.val).helloAt = some h) (hlate : h + 300000 ≤ s.now) (hstay : (s.portAt port.val).upAt + 300000 ≤ s.now) :
    Completes (.nelLinkUp port ls) s (fun t =>
      (t.portAt port.val).up = true ∧ (t.portAt port.val).fails = 0 ∧ t.span.links = ls ∧ t.net = s.net) := by
  have hread := State.portAt_updPort_same (p := port.val)
    (g := fun x => { x with up := true, fails := 0, sentAt := s.now, recvAt := s.now }) hports
  refine .of_exec (congrArg Host.Outcome.next ((if_pos ?_).trans (State.applyLinks_alone hst))) ⟨?_, ?_, rfl, rfl⟩
  · simp [hnel, hdown, hmuz, hhello, cyc, hlate, hstay]
  · exact (congrArg Port.up hread :)
  · exact (congrArg Port.fails hread :)

/-- The frames that stand for a repeat leave the port's record of them (R356). -/
theorem sbFrameError_nak {l : BitVec 12} :
    Completes (.sbFrameError port l false) s (fun t => (t.portAt port.val).retry = satInc (s.portAt port.val).retry ∧
      ∃ m : LogMsg, t.net = s.net ++ [.sb none (.nak port.val (l + 1)), .log m] ∧ m.cls = 0x02) := by
  have hread := State.portAt_updPort_same (p := port.val) (g := fun x => { x with retry := satInc x.retry }) hports
  have hsent := State.portAt_updPort_same (p := port.val) (g := fun x => { x with lastIn := l, sentAt := s.now })
    (State.twf_updPort (p := port.val) (g := fun x => { x with retry := satInc x.retry }) hports)
  refine .of_exec (congrArg Host.Outcome.next (if_neg Bool.false_ne_true)) ⟨?_, ?_⟩
  · exact (congrArg Port.retry hsent).trans (congrArg Port.retry hread)
  · exact ⟨_, List.append_assoc .., rfl⟩

/-- The fifth failure of one frame puts the link down (R356). -/
theorem sbNak_down {l : BitVec 12} (hst : s.span.st = .none) (hup : (s.portAt port.val).up = true)
    (hnak : (s.portAt port.val).nakSeq = l) (hfails : 4 ≤ (s.portAt port.val).fails) :
    Completes (.sbNak port l ls) s (fun t => (t.portAt port.val).up = false ∧
      (t.portAt port.val).downs = satInc (s.portAt port.val).downs ∧ t.span.links = ls ∧ bit t.span.evt.toNat 1 = true ∧
      ∃ m : LogMsg, t.net = s.net ++ [.log m] ∧ m.cls = 0x03) := by
  obtain ⟨hport, hlinks, hevt, hlog⟩ := State.updPort_portDown (ls := ls) (g := fun x => { x with
    retry := satInc x.retry, nakSeq := l, fails := (s.portAt port.val).fails + 1, recvAt := s.now }) hst hports hup
  refine .of_exec (congrArg Host.Outcome.next ?_) ⟨(congrArg Port.up hport :), (congrArg Port.downs hport :), hlinks, hevt, hlog⟩
  dsimp only
  rw [if_pos hnak, if_pos (Nat.lt_succ_of_le hfails)]

theorem nelUpDeassert_down (hst : s.span.st = .none) (hup : (s.portAt port.val).up = true) :
    Completes (.nelUpDeassert port ls) s (fun t => ((t.portAt port.val).up = false ∧
      (t.portAt port.val).downs = satInc (s.portAt port.val).downs ∧ t.span.links = ls ∧ bit t.span.evt.toNat 1 = true ∧
      ∃ m : LogMsg, t.net = s.net ++ [.log m] ∧ m.cls = 0x03) ∧ (t.portAt port.val).nelUp = false) := by
  obtain ⟨hport, hlinks, hevt, hlog⟩ :=
    State.updPort_portDown (ls := ls) (g := fun x => { x with nelUp := false, helloAt := none }) hst hports hup
  exact .of_exec rfl ⟨⟨(congrArg Port.up hport :), (congrArg Port.downs hport :), hlinks, hevt, hlog⟩, (congrArg Port.nelUp hport :)⟩

end Signals

/-- Every up port of a list starts its exchange of time stamps (R361). -/
theorem State.tsync_net (s : State) (ps : List Nat) :
    (forAll ps (fun s p => (s.updPort p (fun x => { x with sentAt := s.now })).toAll (.tsync p)) s).net =
      s.net ++ ps.map (fun p => .sb none (.tsync p)) := by
  induction ps generalizing s with
  | nil => exact (List.append_nil _).symm
  | cons p ps ih => exact (ih _).trans (List.append_assoc ..)

/-- Settles the first part of O59, by the signals of a link. -/
theorem spanLinks : Says.SpanLinks := by
  intro s port ls id w g l t1 t2 t3 t4
  dsimp only
  intro _ hports
  refine ⟨nelUpAssert_hello hports, sbHello_kept hports, fun h => nelLinkUp_up hports,
    fun hst hup => ⟨nelUpDeassert_down hports hst hup, fun hsilent => ?_, sbNak_down hports hst hup⟩, fun hnak hfails => ?_,
    congrArg Host.Outcome.next (if_pos rfl), sbFrameError_nak hports, rfl, fun hup hsent => ?_, ?_, rfl⟩
  · obtain ⟨hport, hlinks, hevt, hlog⟩ := State.portDown_alone (ls := ls) hst hports hup
    exact .of_exec (congrArg Host.Outcome.next (if_pos hsilent)) ⟨(congrArg Port.up hport :), (congrArg Port.downs hport :), hlinks, hevt, hlog⟩
  · refine congrArg Host.Outcome.next ?_
    dsimp only
    rw [if_pos hnak, if_neg (Nat.not_lt.mpr (Nat.succ_le_of_lt hfails))]
  · exact congrArg Host.Outcome.next (if_pos (by simp [hup, cyc, hsent]))
  · exact .of_exec rfl (State.tsync_net ..)

/-! ### Elections -/

/-- Another wafer ID leaves what the span controller keeps of its span, and the tick. -/
theorem State.changeId_frame (s : State) (n : Nat) :
    (s.changeId n).span.st = s.span.st ∧ (s.changeId n).span.wid = BitVec.ofNat 5 n ∧ (s.changeId n).tick = s.tick := by
  unfold State.changeId
  dsimp only
  split
  · next hold => exact ⟨rfl, by rw [← hold]; simp [State.self], rfl⟩
  · exact ⟨rfl, rfl, rfl⟩

/-- A wafer that leaves its span is wafer 0 of none, with its tick stopped and the event set (R373, R379). -/
theorem State.leaveSpan_alone (s : State) :
    s.leaveSpan.span.st = .none ∧ s.leaveSpan.span.wid = 0 ∧ s.leaveSpan.tick.st = .stopped ∧
      bit s.leaveSpan.span.evt.toNat 2 = true := by
  unfold State.leaveSpan
  dsimp only
  generalize hu : State.mk .. = u
  obtain ⟨hst, hwid, htick⟩ := State.changeId_frame u 0
  refine ⟨?_, ?_, ?_, State.spanEvt_evt (by decide)⟩
  · rw [State.spanEvt_span, hst, ← hu]
  · rw [State.spanEvt_span, hwid]
    rfl
  · rw [State.spanEvt_tick, htick, ← hu]
    rfl

/-- What a new lead keeps of its links, where its tree reaches every wafer that elected it (R359). -/
theorem State.relink_whole {u : State} (hst : u.span.st = .lead) (hformed : u.span.formed = u.span.reach)
    (htree : u.treeMask = u.span.reach) : u.relink = u := by
  have hnone : maskWs 0#32 = [] := by decide
  have hlost : u.span.reach &&& ~~~u.span.reach = 0#32 := by simp
  unfold State.relink
  dsimp only
  rw [htree, BitVec.and_self, hlost, hnone, if_pos (by rw [hformed]; omega)]
  split
  · next hother => simp [hst] at hother
  · exact if_pos rfl
  · next hother => simp [hst] at hother
  · next hother => simp [hst] at hother

section Elect

variable {s : State} (helecting : s.span.st = .electing)
include helecting

/-- A mask of the formation in force, taken by an electing wafer (R372). -/
theorem State.takeElect_adds {r : BitVec 32} (hnew :
    setBits ((s.span.reach ||| r) &&& s.span.formed) s.span.lead.toNat 1 0 ≠ s.span.reach) :
    s.takeElect r s.span.formed = { s with span := { s.span with
      reach := setBits ((s.span.reach ||| r) &&& s.span.formed) s.span.lead.toNat 1 0, reachAt := s.now } } := by
  unfold State.takeElect
  rw [if_neg (show ¬ (s.span.formed != s.span.formed) = true by simp),
    if_neg (show ¬ (s.span.st = .member ∧ _) by simp [helecting])]
  dsimp only
  rw [if_pos helecting, if_neg hnew]

/-- A wafer of an election that has elected itself, before its event and its links (R372). -/
def State.leadElected (s : State) : State :=
  let u := { s with span := { s.span with
    lead := s.span.wid, formed := s.span.reach, sgen := s.span.sgen + 1, holds := [], throt := [], recs := [], st := .lead } }
  { u.becomeLead with span := { u.span with recs := u.freshRecs } }

/-- A strict majority elects its lowest wafer, which leads with its tick running (R372). -/
theorem State.elect_leads (hlate : s.span.reachAt + 30000 ≤ s.now)
    (hmajor : maskCount s.span.formed < 2 * maskCount s.span.reach)
    (hlowest : ((maskWs s.span.reach).head?).getD 0 = s.span.wid.toNat)
    (htree : maskOf ((spanTree s.span.reach s.span.wid.toNat s.span.links).map Prod.fst) = s.span.reach) :
    s.elect.span.st = .lead ∧ s.elect.span.lead.toNat = s.span.wid.toNat ∧ s.elect.span.formed = s.span.reach ∧
    s.elect.span.sgen = s.span.sgen + 1 ∧ s.elect.tick.st = .running ∧ bit s.elect.tick.ctrl.toNat 0 = true ∧
    bit s.elect.tick.ctrl.toNat 1 = false ∧ bit s.elect.span.evt.toNat 3 = true := by
  have helect : s.elect = ((s.leadElected).spanEvt 3).relink := by
    unfold State.elect
    rw [if_neg (by simp [helecting, cyc, Nat.not_lt.mpr hlate]), if_neg (by omega), hlowest]
    simp only [State.self, if_true, BitVec.ofNat_toNat, BitVec.setWidth_eq]
    rfl
  have hspan := State.spanEvt_span s.leadElected 3
  have hwhole : ((s.leadElected).spanEvt 3).relink = (s.leadElected).spanEvt 3 := by
    refine State.relink_whole ?_ ?_ ?_
    · rw [hspan]; rfl
    · rw [hspan]; rfl
    · unfold State.treeMask State.spanTreeNow
      rw [hspan]
      exact htree
  rw [helect, hwhole]
  refine ⟨by rw [hspan]; rfl, by rw [hspan]; rfl, by rw [hspan]; rfl, by rw [hspan]; rfl, ?_, ?_, ?_, State.spanEvt_evt (by decide)⟩
  · rw [State.spanEvt_tick]
    rfl
  · rw [State.spanEvt_tick]
    rw [bit_toNat]
    simp [State.leadElected, State.becomeLead, setBits]
  · rw [State.spanEvt_tick]
    rw [bit_toNat]
    simp [State.leadElected, State.becomeLead, setBits]

end Elect

/-- Settles the second part of O59: what an election does, by `State.takeElect_adds`, `State.elect_leads` and
`State.leaveSpan_alone`. -/
theorem elections : Says.Elections := by
  intro s src r fo
  dsimp only
  intro _ helecting
  refine ⟨congrArg Host.Outcome.next (if_pos helecting), fun hother => congrArg Host.Outcome.next (if_pos (by simpa using hother)),
    fun hsame hnew => congrArg Host.Outcome.next (by rw [hsame, State.takeElect_adds helecting hnew]),
    fun hearly => congrArg Host.Outcome.next (if_pos (.inr hearly)), fun hlate hmajor hlowest htree => ?_, fun hlate hminor => ?_⟩
  · rw [hlowest] at htree ⊢
    exact .of_exec rfl (State.elect_leads helecting hlate hmajor hlowest htree)
  · refine .of_exec (congrArg Host.Outcome.next ((if_neg ?_).trans (if_pos hminor))) (State.leaveSpan_alone s)
    simp [helecting, cyc, Nat.not_lt.mpr hlate]

/-- Settles O59, by its two parts. -/
theorem spanLinksAndElections : Obligations.SpanLinksAndElections := ⟨spanLinks, elections⟩

end Sys2Proof.Machine
end

section
/-! PROOF of O55 (R404, R407, R409, R411, R412, R414, R424, R452): resets, the memory test, the defect map. -/

namespace Sys2Proof.Machine

open Sys2Proof

/-! ### Tables filled from a function -/

theorem tget_tabulate {α : Type} [DecidableEq α] {d : α} {n k : Nat} {g : Nat → α} (hk : k < n) :
    tget d (tabulate d n g) k = g k := by
  have hfill (l : List Nat) : tget d (l.filterMap (fun i => if g i = d then none else some (i, g i))) k = if k ∈ l then g k else d := by
    induction l with
    | nil => rfl
    | cons i l ih =>
      by_cases hdef : g i = d
      · rw [List.filterMap_cons, if_pos hdef]
        refine ih.trans ?_
        by_cases hik : k = i
        · simp [hik, hdef]
        · simp [hik]
      · rw [List.filterMap_cons, if_neg hdef]
        by_cases hik : i = k
        · simp [tget, hik]
        · simp [tget, hik, ih, Ne.symm hik]
  exact (hfill _).trans (if_pos (List.mem_range.mpr hk))

theorem clusterIdOk_id (c : Cluster) : clusterIdOk c.id = true ∧ c.id < 10752 := by
  obtain ⟨⟨f, hf⟩, ⟨l, hl⟩⟩ := c
  have hfield : (f * 128 + l) / 128 = f := by omega
  have hloc : (f * 128 + l) % 128 = l := by omega
  refine ⟨?_, by simp only [Cluster.id]; omega⟩
  simp only [clusterIdOk, Cluster.id, hfield, hloc, hf, hl, decide_true, Bool.true_and]
  exact decide_eq_true (by omega)

theorem clusterIdOk_core (c : CoreRef) : clusterIdOk (c.id / 64) = true ∧ c.id % 64 < 48 ∧ c.id < 688128 := by
  obtain ⟨cl, ⟨i, hi⟩⟩ := c
  obtain ⟨hok, hlt⟩ := clusterIdOk_id cl
  have hdiv : (cl.id * 64 + i) / 64 = cl.id := by omega
  simp only [CoreRef.id, hdiv]
  exact ⟨hok, by omega, by omega⟩

/-- Every cluster is one of the 8,064 that the loader and the map go through (R11). -/
theorem mem_clusterAt (c : Cluster) : c.id ∈ (List.range 8064).map clusterAt := by
  obtain ⟨⟨f, hf⟩, ⟨l, hl⟩⟩ := c
  refine List.mem_map.mpr ⟨f * 96 + l, List.mem_range.mpr (by omega), ?_⟩
  simp only [clusterAt, Cluster.id]
  omega

/-! ### Resets -/

/-- What a reset leaves whose image is not valid: the mask-ROM loader's step, every litter epoch advanced by `n` (R15, R424). -/
def State.Recovered (s t : State) (n : Epoch) : Prop :=
  t.bru.step = 14 ∧ t.bru.fwver = 0 ∧ t.cask.recs = s.cask.recs ∧ t.net = [] ∧ t.ken = [] ∧
  t.pl = [] ∧ t.slot = [] ∧ t.ring = [] ∧ t.tick.st = .stopped ∧ t.pending = s.pending ∧
  (∀ h < 84, (t.hubAt h).epoch = (s.hubAt h).epoch + n) ∧ (∀ f < 64, (t.fnAt f).pepoch = (s.fnAt f).pepoch + n) ∧
  (∀ c : Cluster, (t.csnAt c.id).epoch = (s.csnAt c.id).epoch + n) ∧
  (∀ c : CoreRef, (t.coreAt c.id).epoch = (s.coreAt c.id).epoch + n)

theorem State.restart_epochs (s : State) (n : Epoch) (full : Bool) :
    (∀ h < 84, ((s.restart n full).hubAt h).epoch = (s.hubAt h).epoch + n) ∧
    (∀ f < 64, ((s.restart n full).fnAt f).pepoch = (s.fnAt f).pepoch + n) ∧
    (∀ c : Cluster, ((s.restart n full).csnAt c.id).epoch = (s.csnAt c.id).epoch + n) ∧
    (∀ c : CoreRef, ((s.restart n full).coreAt c.id).epoch = (s.coreAt c.id).epoch + n) := by
  refine ⟨fun h hh => ?_, fun f hf => ?_, fun c => ?_, fun c => ?_⟩
  · simp only [State.restart, State.hubAt, tget_tabulate hh]
  · simp only [State.restart, State.fnAt, tget_tabulate hf]
  · obtain ⟨hok, hlt⟩ := clusterIdOk_id c
    simp only [State.restart, State.csnAt, tget_tabulate hlt, if_pos hok]
  · obtain ⟨hok, hix, hlt⟩ := clusterIdOk_core c
    have hcore := And.intro hok hix
    simp only [State.restart, State.coreAt, tget_tabulate hlt, if_pos hcore]

theorem State.restart_rest (s : State) (n : Epoch) (full : Bool) :
    let t := s.restart n full
    t.cask.recs = s.cask.recs ∧ t.net = [] ∧ t.ken = [] ∧ t.pl = [] ∧ t.slot = [] ∧ t.ring = [] ∧ t.tick.st = .stopped ∧
    t.pending = s.pending := by
  unfold State.restart
  exact ⟨rfl, rfl, rfl, rfl, rfl, rfl, rfl, rfl⟩

/-- A reset with no valid image stops in the mask-ROM loader, after a Varvo reset with a request for a power cycle (R405, R424). -/
theorem State.bringUp_recovered {s : State} {n : Epoch} {full : Bool} {b : BringUp} (hinvalid : b.firmwareValid = false) :
    s.Recovered (s.bringUp n full b) n := by
  have hepochs := State.restart_epochs s n full
  obtain ⟨hrecs, hnet, hken, hpl, hslot, hring, htick, hpending⟩ := State.restart_rest s n full
  unfold State.bringUp
  generalize s.restart n full = u at *
  rw [if_pos (by simp [hinvalid])]
  unfold State.recovery State.stopBringUp
  split
  · exact ⟨rfl, rfl, hrecs, hnet, hken, hpl, hslot, hring, htick, hpending, hepochs⟩
  · exact ⟨rfl, rfl, hrecs, hnet, hken, hpl, hslot, hring, htick, hpending, hepochs⟩

/-- Settles the first part of O55, by `State.bringUp_recovered`. -/
theorem resetsAndBringUp : Says.ResetsAndBringUp := by
  intro s b
  refine ⟨fun hnone => ?_, fun hdue hstep hinvalid => ?_, fun hgood => ?_, fun hlost hinvalid => ?_, ?_⟩
  · exact congrArg Host.Outcome.next (if_pos (by simp [hnone]))
  · have hcount : s.countReset.Recovered (s.countReset.bringUp 1 false b) 1 := State.bringUp_recovered hinvalid
    refine .of_exec (congrArg Host.Outcome.next ((if_neg (by simp [hdue])).trans (if_neg hstep))) ?_
    generalize s.countReset.bringUp 1 false b = t at *
    unfold State.countReset at hcount
    dsimp only at hcount
    split at hcount
    · exact hcount
    · exact hcount
  · exact congrArg Host.Outcome.next (if_pos hgood)
  · exact .of_exec (congrArg Host.Outcome.next (if_neg (by simp [hlost]))) (State.bringUp_recovered hinvalid)
  · exact .of_exec rfl ⟨rfl, rfl, rfl, rfl, rfl, rfl, rfl, rfl⟩

/-! ### A load begins -/

/-- The defect map and bring-up: what no step of a pack or of a barrier touches. -/
def State.maps (s : State) : Mesh × Bru := (s.mesh, s.bru)

theorem State.maps_of_aboveHubs {s t : State} (h : t.aboveHubs = s.aboveHubs) : t.maps = s.maps :=
  Prod.ext (State.mesh_of_aboveHubs h) (State.bru_of_aboveHubs h)

theorem maps_forAll {α : Type} {s : State} {l : List α} {g : State → α → State} (hg : ∀ (t : State) (x : α), (g t x).maps = t.maps) :
    (forAll l g s).maps = s.maps :=
  forAll_induct (P := fun t => t.maps = s.maps) rfl (fun t x h => (hg t x).trans h)

theorem State.maps_flushFolds {s : State} {p : RootFold → Bool} : (s.flushFolds p).maps = s.maps := by
  refine (maps_forAll fun t q => ?_).trans rfl
  obtain ⟨cls, src⟩ := q
  cases src <;> rfl

theorem State.maps_idleBarrier {s : State} {b : Nat} {legs : Bool} : (s.idleBarrier b legs).maps = s.maps := by
  have hleave (u : State) : (u.packLeave b).maps = u.maps := by
    unfold State.packLeave State.spanLeave
    dsimp only
    split
    · split
      · split
        · exact State.maps_flushFolds
        · rfl
      · split <;> rfl
    · rfl
  have hidled (v : State) (g : RootRec → RootRec) (qs : List RootFold) : { v.updPrec b g with rfolds := qs }.maps = v.maps := rfl
  have hroot (u : State) : (u.idleRoot b).maps = u.maps := by
    have hcases : u.idleRoot b = if (u.precAt b).st = .free ∨ (u.precAt b).st = .idle then u.updPrec b (fun r => { r with join := none })
      else { (u.packLeave b).updPrec b (fun r => { r.toIdle with gen := r.gen + 1 }) with
        rfolds := (u.packLeave b).rfolds.filter (fun q => !q.ofField b) } := rfl
    rw [hcases]
    split
    · rfl
    · exact (hidled _ _ _).trans (hleave u)
  have hhubs (u : State) : (forAll (List.range 84) (fun s h => if (s.frecOf h b).st = .idle then s else s.idleHub h b true) u).maps =
      u.maps := maps_forAll fun t h => by
    split
    · rfl
    · exact State.maps_of_aboveHubs State.aboveHubs_idleHub
  unfold State.idleBarrier
  dsimp only
  rw [hroot, hhubs]
  split
  · exact maps_forAll fun t c => State.maps_of_aboveHubs State.aboveHubs_freeLegs
  · rfl

theorem State.maps_packBind {s : State} {b : Nat} {ms : List (Nat × Byte)} {g : Byte} {rec : RootRec → RootRec} :
    (s.packBind b ms g rec).maps = s.maps := by
  refine (maps_forAll fun t h => State.maps_of_aboveHubs State.aboveHubs_bindField).trans ?_
  exact maps_forAll fun t m => State.maps_of_aboveHubs State.aboveHubs_legBind

theorem State.maps_spanArrive {s : State} {a : SbArrive} : (s.spanArrive a).maps = s.maps := by
  have hcount : (s.countStaleBar a.bar.toNat).maps = s.maps := by
    unfold State.countStaleBar
    split <;> rfl
  have hsettle (u : State) : (u.spanSettle a.bar.toNat).maps = u.maps := by
    unfold State.spanSettle
    dsimp only
    split
    · exact State.maps_flushFolds
    · rfl
  unfold State.spanArrive
  dsimp only
  split_ifs
  · exact hcount
  · rfl
  · exact hsettle _
  · rfl
  · rfl

theorem State.maps_toDeciding {s : State} {b : Nat} : (s.toDeciding b).maps = s.maps := by
  have hflush := State.maps_flushFolds (s := s) (p := RootFold.ofField b)
  unfold State.toDeciding
  dsimp only
  generalize s.flushFolds (RootFold.ofField b) = u at *
  have hwritten (g : RootRec → RootRec) : (u.updPrec b g).maps = s.maps := hflush
  have hdecided := hwritten fun r => { r with st := .deciding }
  generalize u.updPrec b (fun r => { r with st := .deciding }) = v at *
  have hcommit : (v.updFn (v.precAt b).func.val (fun x => { x with cst := .deciding })).maps = s.maps := hdecided
  split_ifs
  · exact State.maps_spanArrive.trans hcommit
  · exact hcommit
  · exact hcommit
  · exact State.maps_spanArrive.trans hdecided
  · exact hdecided
  · exact hdecided

theorem State.maps_openGen {s : State} {b : Nat} : (s.openGen b).maps = s.maps := by
  have hhubs (u : State) (hs : List Nat) (g : Byte) : (forAll hs (fun s h => s.armHub h b g) u).maps = u.maps :=
    maps_forAll fun t h => State.maps_of_aboveHubs State.aboveHubs_armHub
  unfold State.openGen State.openNow
  dsimp only
  split
  · split
    · exact State.maps_toDeciding.trans (hhubs _ _ _)
    · exact hhubs _ _ _
  · rfl
  · rfl
  · rfl

theorem orderCheck_maps {s u : State} {l : Load} (hsame : u.maps = s.maps) :
    ((u.sendLoad l).orderCheck l).mesh = s.mesh ∧ ∃ m : Load, ((u.sendLoad l).orderCheck l).bru = { s.bru with load := some m } ∧
      m.func = l.func ∧ m.checking = true := by
  have hopen := State.maps_openGen (s := u.sendLoad l) (b := 65535)
  unfold State.orderCheck
  generalize (u.sendLoad l).openGen 65535 = w at *
  obtain ⟨hmesh, hbru⟩ := Prod.mk.injEq .. ▸ (hopen.trans hsame)
  exact ⟨hmesh, { l with checking := true, donors := [] },
    congrArg (fun x : Bru => { x with load := some { l with checking := true, donors := [] } }) hbru, rfl, rfl⟩

/-- A load that begins is under its check, and leaves the defect map and bring-up (R427). -/
theorem State.beginLoad_maps (s : State) (l : Load) :
    (s.beginLoad l).mesh = s.mesh ∧ ∃ m : Load, (s.beginLoad l).bru = { s.bru with load := some m } ∧
      m.func = l.func ∧ m.checking = true := by
  have hidle := State.maps_idleBarrier (s := s) (b := 65535) (legs := true)
  unfold State.beginLoad
  generalize s.idleBarrier 65535 true = u at *
  exact orderCheck_maps (State.maps_packBind.trans hidle)

/-! ### The memory test -/

theorem State.gradeCheck_maps (s : State) (n : Nat) : (s.gradeCheck n).maps = s.maps := by
  unfold State.gradeCheck
  dsimp only
  split <;> rfl

theorem State.absent_of_maps {s t : State} (h : t.maps = s.maps) (c : Nat) : t.absent c = s.absent c :=
  congrArg (fun m : Mesh × Bru => !clusterIdOk c || tget (0 : BitVec 6) m.1.why c != 0) h

/-- The memory test's bit of a cluster's WHY stands, so the cluster is absent (R411). -/
theorem State.absent_of_memoryBit {s : State} {c : Nat} (h : bit (tget (0 : BitVec 6) s.mesh.why c).toNat 5 = true) :
    s.absent c = true := by
  have hwhy : tget (0 : BitVec 6) s.mesh.why c ≠ 0 := by
    intro hzero
    rw [hzero] at h
    exact absurd h (by decide)
  unfold State.absent
  rw [bne_iff_ne.mpr hwhy, Bool.or_true]

theorem or_memoryBit_ne_zero : ∀ w : BitVec 6, w ||| 32 ≠ 0 := by decide

/-- A cluster that fails joins the defect map, which keeps what it held (R411, R414). -/
theorem State.mtestFail_absent (s : State) (c : Nat) :
    (s.mtestFail c).absent c = true ∧ (s.mtestFail c).bru = s.bru ∧ ∀ d, s.absent d = true → (s.mtestFail c).absent d = true := by
  unfold State.mtestFail
  split
  · next hbit => exact ⟨State.absent_of_memoryBit hbit, rfl, fun _ h => h⟩
  · dsimp only
    generalize hu : ({ s with mesh := { s.mesh with
      why := tupd (0 : BitVec 6) s.mesh.why c (fun w => w ||| 32), gen := s.mesh.gen + 1 } } : State) = u
    have hmaps := State.gradeCheck_maps u s.goodCores
    have hnew : tget (0 : BitVec 6) s.mesh.why c ||| 32 ≠ 0 := or_memoryBit_ne_zero _
    have hwhy : tget (0 : BitVec 6) u.mesh.why c = tget (0 : BitVec 6) s.mesh.why c ||| 32 := by
      rw [← hu]
      exact tget_tset_ne hnew
    have habsent : u.absent c = true := by
      unfold State.absent
      rw [hwhy, bne_iff_ne.mpr hnew, Bool.or_true]
    refine ⟨(State.absent_of_maps hmaps c).trans habsent, (congrArg Prod.snd hmaps).trans (by rw [← hu]; rfl), fun d hd => ?_⟩
    rw [State.absent_of_maps hmaps]
    by_cases hdc : d = c
    · rw [hdc, habsent]
    · have hother : u.absent d = s.absent d := by
        rw [← hu]
        exact congrArg (fun w => !clusterIdOk d || w != 0) (tget_tset_other hdc)
      rw [hother, hd]

theorem State.mtestFail_all (s : State) (cs : List Nat) :
    (forAll cs (fun s c => s.mtestFail c) s).bru = s.bru ∧
    (∀ d, s.absent d = true → (forAll cs (fun s c => s.mtestFail c) s).absent d = true) ∧
    ∀ c ∈ cs, (forAll cs (fun s c => s.mtestFail c) s).absent c = true := by
  induction cs generalizing s with
  | nil => exact ⟨rfl, fun _ h => h, by simp⟩
  | cons c cs ih =>
    obtain ⟨hfailed, hbru, hkept⟩ := s.mtestFail_absent c
    obtain ⟨hbrus, hkepts, hfaileds⟩ := ih (s.mtestFail c)
    refine ⟨hbrus.trans hbru, fun d hd => hkepts d (hkept d hd), fun d hd => ?_⟩
    obtain rfl | hd := List.mem_cons.mp hd
    · exact hkepts d hfailed
    · exact hfaileds d hd

theorem State.mtestFail_counted {s : State} {c : Nat} (hfirst : bit (tget (0 : BitVec 6) s.mesh.why c).toNat 5 = false) :
    (s.mtestFail c).mesh.gen = s.mesh.gen + 1 := by
  unfold State.mtestFail
  rw [if_neg (by rw [hfirst]; exact Bool.false_ne_true)]
  exact congrArg (fun x => x.1.gen) (State.gradeCheck_maps _ _)

/-- The end of the test fails the clusters without a result, and begins the boot load again (R414, R462). -/
theorem State.mtestEnd_effect (s : State) :
    s.mtestEnd.bru.mtest = false ∧ (∃ l, s.mtestEnd.bru.load = some l ∧ l.func = none ∧ l.checking = true) ∧
    ∀ d : Cluster, s.inService d.id = true → ¬ d.id ∈ s.bru.mtestSeen → s.mtestEnd.absent d.id = true := by
  unfold State.mtestEnd State.bootAll
  dsimp only
  generalize hcs : ((List.range 8064).map clusterAt).filter (fun c => s.inService c && !s.bru.mtestSeen.contains c) = cs
  obtain ⟨-, -, hfailed⟩ := s.mtestFail_all cs
  generalize forAll cs (fun s c => s.mtestFail c) s = u at *
  generalize hv : ({ u with bru := { u.bru with mtest := false } } : State) = v
  have habsent (c : Nat) : v.absent c = u.absent c := by rw [← hv]; rfl
  have hmtest : v.bru.mtest = false := by rw [← hv]
  generalize hl : Load.mk .. = l
  obtain ⟨hmesh, m, hbru, hfunc, hchecking⟩ := v.beginLoad_maps l
  refine ⟨by rw [hbru, hmtest], ⟨m, by rw [hbru], hfunc.trans (by rw [← hl]), hchecking⟩, fun d hserved hunseen => ?_⟩
  have hd : d.id ∈ cs := by
    rw [← hcs]
    exact List.mem_filter.mpr ⟨mem_clusterAt d, by simp [hserved, hunseen]⟩
  exact (congrArg (fun m : Mesh => !clusterIdOk d.id || tget (0 : BitVec 6) m.why d.id != 0) hmesh).trans
    ((habsent d.id).trans (hfailed d.id hd))

/-! ### The defect map image -/

theorem length_leBytes (n v : Nat) : (leBytes n v).length = n := by
  induction n generalizing v with
  | zero => rfl
  | succ n ih => exact congrArg Nat.succ (ih _)

theorem State.length_mapImage (s : State) : s.mapImage.length = 64576 := by
  have hbody (n : Nat) : ((List.range n).flatMap (fun i => leBytes 8 (s.mapRecord (clusterAt i)).toNat)).length = n * 8 := by
    simp [List.length_flatMap, length_leBytes]
  unfold State.mapImage
  simp only [List.length_append, length_leBytes, hbody]

/-- Settles the second part of O55: a failure by `State.mtestFail_absent`, the test's end by `State.mtestEnd_effect`. -/
theorem memoryTestAndMap : Says.MemoryTestAndMap := by
  intro s c _ htest
  obtain ⟨hended, hload, hunseen⟩ := s.mtestEnd_effect
  refine ⟨fun hnew => ⟨?_, fun _ hfirst => ?_⟩, .of_exec (congrArg Host.Outcome.next (if_pos htest)) ⟨hended, hload, fun _ => hunseen⟩,
    fun hlate => .of_exec (congrArg Host.Outcome.next (if_pos (by simp [htest, cyc, hlate]))) ⟨hended, fun d hserved hd _ => hunseen d hserved hd⟩,
    fun hruns => ⟨congrArg Host.Outcome.next (if_pos hruns), s.length_mapImage⟩⟩
  · refine congrArg Host.Outcome.next ?_
    unfold State.mtestResult
    rw [if_neg (by simp [htest])]
    dsimp only
    rw [if_pos rfl, if_neg (by simp [hnew])]
  · refine .of_exec (congrArg Host.Outcome.next ((if_neg (by simp [htest])).trans (if_neg Bool.false_ne_true)))
      ⟨(State.mtestFail_counted ?_).trans rfl, (State.mtestFail_absent _ _).1⟩
    exact hfirst

/-- Settles O55, by its two parts. -/
theorem bringUpSteps : Obligations.BringUpSteps := ⟨resetsAndBringUp, memoryTestAndMap⟩

end Sys2Proof.Machine
end

section
/-! PROOF of O34 (R418, R420, R433): recipe commands. -/

namespace Sys2Proof.Machine

open Sys2Proof

/-! ### The stored image -/

theorem leNat_leBytes (n v : Nat) : leNat (leBytes n v) = v % 256 ^ n := by
  induction n generalizing v with
  | zero => simp [leBytes, leNat, Nat.mod_one]
  | succ n ih =>
    simp only [leBytes, leNat, ih, BitVec.toNat_ofNat, pow_succ']
    exact (Nat.mod_mul ..).symm

/-- A field at the head of an image. -/
theorem fieldAt_leBytes (n v : Nat) (rest : List Byte) : fieldAt (leBytes n v ++ rest) 0 n = v % 256 ^ n := by
  have hlen := length_leBytes n v
  have hslice : sliceAt (leBytes n v ++ rest) 0 n = leBytes n v := by
    unfold sliceAt
    simp [hlen]
  rw [fieldAt, hslice, leNat_leBytes]

/-- A stored recipe has its CRC over what stands behind it (R418, R420). -/
theorem rcpCrc_recipeStored (img : List Byte) (seq : Nat) :
    (crc32 ((recipeStored img seq).drop 4)).toNat = rcpCrc (recipeStored img seq) := by
  unfold recipeStored rcpCrc
  dsimp only
  generalize (img.drop 4).take 48 ++ leBytes 4 seq ++ img.drop 56 = body
  rw [fieldAt_leBytes, List.drop_left' (length_leBytes _ _)]
  exact (Nat.mod_eq_of_lt (crc32 body).isLt).symm

theorem length_recipeStored {img : List Byte} (seq : Nat) (hlen : 56 ≤ img.length) : (recipeStored img seq).length = img.length := by
  unfold recipeStored
  simp only [List.length_append, length_leBytes, List.length_take, List.length_drop]
  omega

theorem length_of_recipeErr {img : List Byte} (h : recipeErr img = 0) : 56 ≤ img.length := by
  unfold recipeErr at h
  split at h
  · cases h
  · next hbounds => omega

/-! ### The writes that wait -/

theorem State.caskAdd_empty {s : State} (j : CaskJob) (hq : s.bru.caskQ = []) :
    s.caskAdd j = { s with bru := { s.bru with caskQ := [j] } } := by
  unfold State.caskAdd
  rw [hq]
  rfl

section Commands

variable {s : State} {img : List Byte}

theorem recipeWrite_faulty (hruns : s.bruRuns 1 = true) (hq : s.bru.caskQ = []) (herr : recipeErr img ≠ 0) :
    exec (.recipeWrite img) s = .next (s.bruDone .fenced (recipeErr img)) :=
  congrArg Host.Outcome.next ((if_neg (by simp [hruns, hq])).trans (if_pos herr))

/-- The record that a valid image makes for the slot with the lower SEQ (R420). -/
def State.nextSlot (s : State) (img : List Byte) : RecipeSlot :=
  let seq := Nat.max (slotSeq s.cask.rcp0) (slotSeq s.cask.rcp1) + 1
  { seq := BitVec.ofNat 32 seq, img := recipeStored img seq }

theorem recipeWrite_valid (hruns : s.bruRuns 1 = true) (hq : s.bru.caskQ = []) (hvalid : recipeErr img = 0) :
    exec (.recipeWrite img) s = .next { s with bru := { s.bru with caskQ :=
      [.recipe (decide (slotSeq s.cask.rcp1 < slotSeq s.cask.rcp0)) (s.nextSlot img) (unitsOf img.length)] } } :=
  congrArg Host.Outcome.next ((if_neg (by simp [hruns, hq])).trans ((if_neg (not_not.mpr hvalid)).trans (State.caskAdd_empty _ hq)))

theorem recipeClear_queued (hruns : s.bruRuns 3 = true) (hq : s.bru.caskQ = []) :
    exec .recipeClear s = .next { s with bru := { s.bru with caskQ := [.recipeErase] } } :=
  congrArg Host.Outcome.next ((if_neg (by simp [hruns, hq])).trans (State.caskAdd_empty _ hq))

theorem recipeRead_inForce {r : RecipeSlot} (hruns : s.bruRuns 2 = true) (hrcp : s.bru.rcp = 1) (hslot : s.cask.rcp0 = some r) :
    exec .recipeRead s = .next ((s.emit (.hostImage 0 s.bru.addr r.img)).bruDone .ok) := by
  have hinForce : s.recipeInForce = r.img := by
    unfold State.recipeInForce
    rw [if_pos hrcp, hslot]
  exact congrArg Host.Outcome.next ((if_pos hruns).trans (by rw [hinForce]))

/-- A command of VSF_BRU_CMD that may act has GO set. -/
theorem State.go_of_bruRuns {op : Nat} (hruns : s.bruRuns op = true) : s.bru.go = true := by
  simp only [State.bruRuns, Bool.and_eq_true] at hruns
  exact hruns.1.2

end Commands

/-- Settles O34, by the branches of the commands. -/
theorem recipeCommands : Obligations.RecipeCommands := by
  intro s img
  refine ⟨fun hruns hq => ⟨recipeWrite_faulty hruns hq, fun hvalid => ?_⟩,
    fun hruns hq => .of_exec (recipeClear_queued hruns hq) ⟨rfl, rfl⟩, fun hruns r => recipeRead_inForce hruns⟩
  exact .of_exec (recipeWrite_valid hruns hq hvalid) ⟨State.go_of_bruRuns hruns, _, _, _, rfl, rfl, rfl,
    rcpCrc_recipeStored _ _, length_recipeStored _ (length_of_recipeErr hvalid)⟩

end Sys2Proof.Machine
end

section
/-! PROOF of O35 (R423-R426): firmware staging, commit and update. -/

namespace Sys2Proof.Machine

open Sys2Proof

section Commands

variable {s : State} {img : List Byte} {ok : Bool}

theorem fwStage_checked (hruns : s.bruRuns 4 = true) (hstg : s.bru.stg = false) (hsess : s.bru.sess = .idle) :
    exec (.fwStage img) s = .next (if fwErr img s.cask.ptr.minsvn = 0
      then { s with bru := { s.bru with stage := img, stg := true, go := false, status := .ok, cerr := 0 } }
      else s.bruDone .fenced (fwErr img s.cask.ptr.minsvn)) := by
  refine congrArg Host.Outcome.next ((if_neg (by simp [hruns])).trans ((if_neg (by simp [hstg, hsess])).trans ?_))
  exact ite_not _ _ _

theorem fwCommit_unstaged (hruns : s.bruRuns 5 = true) (hq : s.bru.caskQ = []) (hstg : s.bru.stg = false) :
    exec (.fwCommit ok) s = .next (s.bruDone .fenced 6) :=
  congrArg Host.Outcome.next ((if_neg (by simp [hruns, State.committing, hq])).trans (if_pos (by simp [hstg])))

theorem fwCommit_queued (hruns : s.bruRuns 5 = true) (hq : s.bru.caskQ = []) (hstg : s.bru.stg = true) :
    exec (.fwCommit ok) s = .next { s with bru := { s.bru with
      fwUnits := 0, caskQ := [.firmware (unitsOf s.bru.stage.length + 1) ok] } } :=
  congrArg Host.Outcome.next ((if_neg (by simp [hruns, State.committing, hq])).trans ((if_neg (by simp [hstg])).trans
    (State.caskAdd_empty _ hq)))

/-- An answer of PLDM, and the interrupt of the management bus that tells it (R426). -/
theorem State.pldmAnswer_effect (s : State) (n : Nat) :
    (s.pldmAnswer n).out = s.out ++ [.pldm n, .ibi] ∧ (s.pldmAnswer n).bru = s.bru ∧ (s.pldmAnswer n).cask = s.cask ∧
      (s.pldmAnswer n).err = s.err :=
  ⟨List.append_assoc .., rfl, rfl, rfl⟩

theorem requestUpdate_begins (hsess : s.bru.sess = .idle) (hstg : s.bru.stg = false) :
    exec .requestUpdate s = .next ({ s with bru := { s.bru with sess := .requested, stage := [], sessLen := 0 } }.pldmAnswer 0) :=
  congrArg Host.Outcome.next (if_neg (by simp [hsess, hstg]))

theorem updateComponent_begins {len : BitVec 32} (hsess : s.bru.sess = .offered) :
    exec (.updateComponent len) s = .next
      (({ s with bru := { s.bru with sess := .transfer, stage := [], sessLen := len } }.pldmAnswer 0).pldmAnswer (256 * pldmRequestData)) :=
  congrArg Host.Outcome.next (if_pos hsess)

/-- A session that is given up leaves nothing staged (R426). -/
theorem cancelUpdate_ends (hsess : s.bru.sess ≠ .idle) :
    exec .cancelUpdate s = .next ({ s with bru := { s.bru with
      sess := .idle, stage := [], stg := false, sessLen := 0
      caskQ := s.bru.caskQ.filter (fun j => match j with | .firmware _ _ => false | _ => true) } }.pldmAnswer 0) :=
  congrArg Host.Outcome.next (if_neg hsess)

theorem activate_applied (hsess : s.bru.sess = .applied) :
    exec .activateFirmware s = .next ((State.needVarvo { s with bru := { s.bru with sess := .idle } } false).pldmAnswer 0) := by
  refine congrArg Host.Outcome.next ?_
  unfold State.activate
  rw [hsess]

end Commands

/-! ### Chunks of an image -/

/-- The whole image is verified, and a valid one queues its commit (R425, R426). -/
theorem State.transferDone_effect {s : State} (hq : s.bru.caskQ = []) :
    let e := fwErr s.bru.stage s.cask.ptr.minsvn
    s.transferDone.out = s.out ++ [.pldm (256 * pldmTransferComplete), .ibi] ++ [.pldm (256 * pldmVerifyComplete + e), .ibi] ∧
    (e = 0 → s.transferDone.bru.stage = s.bru.stage ∧ s.transferDone.bru.stg = true ∧
      s.transferDone.bru.caskQ = [.firmware (unitsOf s.bru.stage.length + 1) true]) ∧
    (e ≠ 0 → s.transferDone.bru.sess = .offered ∧ s.transferDone.bru.stage = [] ∧ s.transferDone.bru.caskQ = []) := by
  intro e
  have hout : ((s.pldmSend pldmTransferComplete 0).pldmSend pldmVerifyComplete e).out =
      s.out ++ [.pldm (256 * pldmTransferComplete), .ibi] ++ [.pldm (256 * pldmVerifyComplete + e), .ibi] := by
    simp only [State.pldmSend, State.emit, List.append_assoc, List.cons_append, List.nil_append, Nat.add_zero]
  have hbru : ((s.pldmSend pldmTransferComplete 0).pldmSend pldmVerifyComplete e).bru = s.bru := rfl
  have hdone : s.transferDone =
      let u := (s.pldmSend pldmTransferComplete 0).pldmSend pldmVerifyComplete e
      if e = 0 then State.caskAdd { u with bru := { u.bru with stg := true, fwUnits := 0 } } (.firmware (unitsOf u.bru.stage.length + 1) true)
      else { u with bru := { u.bru with sess := .offered, stage := [] } } := rfl
  rw [hdone]
  generalize (s.pldmSend pldmTransferComplete 0).pldmSend pldmVerifyComplete e = u at *
  have hempty : u.bru.caskQ = [] := hbru ▸ hq
  dsimp only
  by_cases hvalid : e = 0
  · have hadd := State.caskAdd_empty (s := { u with bru := { u.bru with stg := true, fwUnits := 0 } })
      (.firmware (unitsOf u.bru.stage.length + 1) true) hempty
    rw [if_pos hvalid, hadd]
    exact ⟨hout, fun _ => ⟨by rw [hbru], rfl, by rw [hbru]⟩, fun hinvalid => absurd hvalid hinvalid⟩
  · rw [if_neg hvalid]
    exact ⟨hout, fun hok => absurd hok hvalid, fun _ => ⟨rfl, rfl, hbru ▸ hq⟩⟩

section Chunks

variable {s : State} {c : FwChunk} (hsess : s.bru.sess = .transfer) (hstg : s.bru.stg = false)
  (hoffset : c.offset.toNat = s.bru.stage.length) (hsize : c.data.length ≤ 1024)
include hsess hstg hoffset hsize

/-- The chunk that was asked for joins the stage (R426). -/
theorem firmwareData_staged (hfits : s.bru.stage.length + c.data.length ≤ s.bru.sessLen.toNat) :
    exec (.firmwareData c) s = .next (
      let t := { s with bru := { s.bru with stage := s.bru.stage ++ c.data } }
      if s.bru.sessLen.toNat ≤ s.bru.stage.length + c.data.length then t.transferDone else t.pldmAnswer (256 * pldmRequestData)) := by
  have hall : (s.bru.stage ++ c.data).take s.bru.sessLen.toNat = s.bru.stage ++ c.data :=
    List.take_of_length_le (by rw [List.length_append]; exact hfits)
  refine congrArg Host.Outcome.next ((if_neg (by simp [hsess, hstg])).trans ((if_neg (by omega)).trans ?_))
  dsimp only
  rw [hall, List.length_append]
  rfl

theorem firmwareData_asks (hmore : s.bru.stage.length + c.data.length < s.bru.sessLen.toNat) :
    Completes (.firmwareData c) s (fun t => t.bru.stage = s.bru.stage ++ c.data ∧ t.bru.sess = .transfer ∧
      t.out = s.out ++ [.pldm (256 * pldmRequestData), .ibi]) := by
  refine .of_exec ((firmwareData_staged hsess hstg hoffset hsize hmore.le).trans
    (congrArg Host.Outcome.next (if_neg (Nat.not_le.mpr hmore)))) ⟨rfl, hsess, (State.pldmAnswer_effect _ _).1⟩

/-- The last chunk has the image verified, and a valid one queues its commit (R425, R426). -/
theorem firmwareData_verified (hlast : s.bru.stage.length + c.data.length = s.bru.sessLen.toNat) (hq : s.bru.caskQ = []) :
    let e := fwErr (s.bru.stage ++ c.data) s.cask.ptr.minsvn
    Completes (.firmwareData c) s (fun t =>
      t.out = s.out ++ [.pldm (256 * pldmTransferComplete), .ibi] ++ [.pldm (256 * pldmVerifyComplete + e), .ibi] ∧
      (e = 0 → t.bru.stage = s.bru.stage ++ c.data ∧ t.bru.stg = true ∧
        t.bru.caskQ = [.firmware (unitsOf (s.bru.stage.length + c.data.length) + 1) true]) ∧
      (e ≠ 0 → t.bru.sess = .offered ∧ t.bru.stage = [] ∧ t.bru.caskQ = [])) := by
  intro e
  have hdone := State.transferDone_effect (s := { s with bru := { s.bru with stage := s.bru.stage ++ c.data } }) hq
  dsimp only at hdone
  rw [List.length_append] at hdone
  exact .of_exec ((firmwareData_staged hsess hstg hoffset hsize hlast.le).trans (congrArg Host.Outcome.next (if_pos hlast.ge))) hdone

end Chunks

/-- Settles O35, by the branches of the commands and of a transfer's chunks. -/
theorem firmwareUpdate : Obligations.FirmwareUpdate := by
  intro s img ok len c
  dsimp only
  refine ⟨fwStage_checked, fun hruns hq => ⟨fwCommit_unstaged hruns hq, fun hstg => ?_⟩, fun hsess hstg => ?_, fun hsess => ?_,
    fun hsess => ?_, fun hsess hstg hoffset hsize => ⟨firmwareData_asks hsess hstg hoffset hsize,
      firmwareData_verified hsess hstg hoffset hsize⟩, fun hsess => ?_, fun hsess => ?_⟩
  · exact .of_exec (fwCommit_queued hruns hq hstg) ⟨State.go_of_bruRuns hruns, rfl, rfl⟩
  · exact .of_exec (requestUpdate_begins hsess hstg) ⟨rfl, (State.pldmAnswer_effect _ _).1⟩
  · exact .of_exec (congrArg Host.Outcome.next (if_pos hsess)) ⟨rfl, (State.pldmAnswer_effect _ _).1⟩
  · refine .of_exec (updateComponent_begins hsess) ⟨rfl, rfl, rfl, ?_⟩
    exact ((State.pldmAnswer_effect _ _).1).trans (congrArg (· ++ _) (State.pldmAnswer_effect _ _).1)
  · exact .of_exec (activate_applied hsess) ⟨rfl, rfl, (State.pldmAnswer_effect _ _).1⟩
  · exact .of_exec (cancelUpdate_ends hsess) ⟨rfl, rfl, rfl, rfl, (State.pldmAnswer_effect _ _).1⟩

end Sys2Proof.Machine
end

section
/-! PROOF of O36 (R235, R416, R417, R453): writes to the cask store. -/

namespace Sys2Proof.Machine

open Sys2Proof

section Commands

variable {s : State} {f : Func} {k : CaskReq}

/-- A committed epoch's record waits for the store (R235). -/
theorem caskRecordWrite_queued (hreq : (s.fnAt f.val).cask = some k) (hdue : k.epoch.toNat ≤ (s.fnAt f.val).cep.toNat)
    (hq : s.bru.caskQ = []) :
    Completes (.caskRecordWrite f) s (fun t => ∃ u : CaskRec, t.bru.caskQ = [.record f u] ∧ u.cep = k.epoch ∧ u.job = k.job ∧
      u.func = f ∧ t.cask = s.cask) := by
  have hfn : fnOfNat f.val = f := fnOfNat_val f
  refine .of_exec rfl ?_
  unfold State.caskWrite
  dsimp only
  rw [hreq]
  dsimp only
  rw [if_neg (Nat.not_lt.mpr hdue), if_neg (by simp [hq]), State.caskAdd_empty _ (show s.drawn.bru.caskQ = [] from hq), hfn]
  exact ⟨_, rfl, rfl, rfl, rfl, rfl⟩

theorem caskRecordWrite_waits (hreq : (s.fnAt f.val).cask = some k) (hearly : (s.fnAt f.val).cep.toNat < k.epoch.toNat) :
    exec (.caskRecordWrite f) s = .next s := by
  refine congrArg Host.Outcome.next ?_
  unfold State.caskWrite
  dsimp only
  rw [hreq]
  exact if_pos hearly

end Commands

/-! ### A record is written -/

/-- A record stands in one of the function's two slots, and nothing else has changed (R235). -/
theorem State.putCask_effect {s : State} {f : Nat} {r : CaskRec} (hrecs : twf none s.cask.recs = true) :
    ∃ w : Bool, (s.putCask f r).caskAt f w = some r ∧ s.putCask f r = { s with cask := (s.putCask f r).cask } := by
  unfold State.caskAt State.putCask
  dsimp only
  exact ⟨_, tget_tset_same hrecs, rfl⟩

/-- The end of a command leaves the store, what waits for it, the outputs, and a function's checkpoint. -/
theorem State.finish_store {s : State} {r : Nat} {i : BitVec 16} {st : Status} (hwf : s.wf = true) (f : Nat) :
    let t := s.finish r i st
    t.cask = s.cask ∧ t.bru = s.bru ∧ t.out = s.out ∧ (t.fnAt f).cask = (s.fnAt f).cask ∧ (t.fnAt f).ckpt = (s.fnAt f).ckpt := by
  obtain ⟨n, hfn⟩ := State.finish_fnAt (r := r) (i := i) (st := st) (flag := false) (res := 0) hwf f
  have hkept := State.finish_noRings (r := r) (i := i) (st := st) (flag := false) (res := 0) hwf
  exact ⟨(congrArg State.cask hkept :), (congrArg State.bru hkept :), (congrArg State.out hkept :), by rw [hfn], by rw [hfn]⟩

/-- A function whose cask barrier of an epoch has its record (R235, R237). -/
def Fn.checkpointed (x : Fn) (k : CaskReq) : Fn :=
  { x with ckpt := k.epoch, cask := none, commits := x.commits.filter (fun p => decide (k.epoch.toNat < p.1.toNat)) }

theorem State.wroteRecord_ends {s : State} {f : Nat} {r : CaskRec} {k : CaskReq} (hreq : (s.fnAt f).cask = some k)
    (hepoch : k.epoch = r.cep) :
    s.wroteRecord f r = ((s.putCask f r).updFn f (fun x => x.checkpointed k)).finish k.ring k.sqi .ok := by
  have hfn : (s.putCask f r).fnAt f = s.fnAt f := rfl
  unfold State.wroteRecord
  dsimp only
  rw [hfn, hreq]
  exact if_pos hepoch

section Record

variable {s : State} {f : Func} {k : CaskReq} {r : CaskRec} {c : Cmd} {q : List CaskJob} (hwf : s.wf = true)
  (hq : s.bru.caskQ = .record f r :: q) (hreq : (s.fnAt f.val).cask = some k)
  (hc : (s.ringAt k.ring).cmdAt k.sqi = some c) (hdone : c.done = false)
include hwf hq hreq hc hdone

/-- With hold-up energy the record at the head is written, and its barrier completes (R235, R416). -/
theorem caskUnitWrite_record (hrecs : twf none s.cask.recs = true) (hepoch : k.epoch = r.cep) (hgood : s.holdupGood = true) :
    Completes .caskUnitWrite s (fun t => (Recorded s t k.ring c .ok false 0 ∧ (t.fnAt f.val).cask = none) ∧
      (t.fnAt f.val).ckpt = r.cep ∧ t.bru.caskQ = q ∧ (∃ w : Bool, t.caskAt f.val w = some r) ∧
      t.out = s.out ++ [.caskUnit (.record f r)]) := by
  have hexec : exec .caskUnitWrite s =
      .next (State.wroteRecord ({ s with bru := { s.bru with caskQ := q, deferred := 0 } }.emit (.caskUnit (.record f r))) f.val r) := by
    refine congrArg Host.Outcome.next ?_
    unfold State.caskUnit
    rw [hq]
    exact if_pos hgood
  generalize hu : ({ s with bru := { s.bru with caskQ := q, deferred := 0 } } : State).emit (.caskUnit (.record f r)) = u at hexec
  have hwfu : u.wf = true := by rw [← hu]; exact hwf
  have hrequ : (u.fnAt f.val).cask = some k := by rw [← hu]; exact hreq
  have hring : u.ringAt k.ring = s.ringAt k.ring := by rw [← hu]; rfl
  have hbru : u.bru.caskQ = q := by rw [← hu]; rfl
  have hout : u.out = s.out ++ [.caskUnit (.record f r)] := by rw [← hu]; rfl
  have hrecsu : twf none u.cask.recs = true := by rw [← hu]; exact hrecs
  rw [State.wroteRecord_ends hrequ hepoch] at hexec
  obtain ⟨w, hslot, hrest⟩ := State.putCask_effect (f := f.val) (r := r) hrecsu
  have hwfv : (u.putCask f.val r).wf = true := (State.putCask_keeps (.refl u)).canon hwfu
  have hread := State.fnAt_updFn_same (k := f.val) (g := fun x => x.checkpointed k) hwfv
  have hwfw : ((u.putCask f.val r).updFn f.val (fun x => x.checkpointed k)).wf = true := State.wf_updFn hwfv
  generalize hv : (u.putCask f.val r).updFn f.val (fun x => x.checkpointed k) = v at *
  obtain ⟨hcask, hbruv, houtv, hfn, hckpt⟩ := State.finish_store (r := k.ring) (i := k.sqi) (st := .ok) hwfw f.val
  refine .of_exec hexec ⟨⟨State.finish_recorded hwfw ?_ hc hdone, ?_⟩, ?_, ?_, ⟨w, ?_⟩, ?_⟩
  · rw [← hv]; exact hring
  · rw [hfn, hread]; rfl
  · rw [hckpt, hread]; exact hepoch
  · rw [hbruv, ← hv]; exact hbru
  · rw [State.caskAt, hcask, ← hv]; exact hslot
  · rw [houtv, ← hv]; exact hout

/-- After 100 ms the barrier of the record at the head ends TIMEOUT, and the record is not written (R416). -/
theorem caskDefer_record (hlate : 100 ≤ s.bru.deferred) :
    Completes .caskDefer s (fun t => (Recorded s t k.ring c .timeout false 0 ∧ (t.fnAt f.val).cask = none) ∧
      (t.fnAt f.val).ckpt = (s.fnAt f.val).ckpt ∧ t.bru.caskQ = q ∧ t.cask = s.cask) := by
  generalize hu : (({ s with bru := { s.bru with deferred := 0 } } : State).report 0x17 (unitId .wafer 0) 4 0 0 none) = u
  have hwfu : u.wf = true := by rw [← hu]; exact hwf
  have hfnu : u.fnAt f.val = s.fnAt f.val := by rw [← hu]; rfl
  have hring : u.ringAt k.ring = s.ringAt k.ring := by rw [← hu]; rfl
  have hcask : u.cask = s.cask := by rw [← hu]; rfl
  have hexec : exec .caskDefer s =
      .next ((State.updFn { u with bru := { u.bru with caskQ := q } } f.val (fun x => { x with cask := none })).finish k.ring k.sqi .timeout) := by
    refine congrArg Host.Outcome.next ?_
    unfold State.caskDefer
    rw [hq]
    dsimp only
    rw [if_neg (Nat.not_lt.mpr hlate), hu]
    have hreqv : (State.fnAt { u with bru := { u.bru with caskQ := q } } f.val).cask = some k := (congrArg Fn.cask hfnu).trans hreq
    unfold State.deferEnds
    dsimp only
    rw [hreqv]
  have hread := State.fnAt_updFn_same (s := { u with bru := { u.bru with caskQ := q } }) (k := f.val)
    (g := fun x => { x with cask := none }) hwfu
  have hwfv : (State.updFn { u with bru := { u.bru with caskQ := q } } f.val (fun x => { x with cask := none })).wf = true :=
    State.wf_updFn hwfu
  generalize hv : State.updFn { u with bru := { u.bru with caskQ := q } } f.val (fun x => { x with cask := none }) = v at *
  obtain ⟨hcaskv, hbru, -, hfn, hckpt⟩ := State.finish_store (r := k.ring) (i := k.sqi) (st := .timeout) hwfv f.val
  refine .of_exec hexec ⟨⟨State.finish_recorded hwfv ?_ hc hdone, ?_⟩, ?_, ?_, ?_⟩
  · rw [← hv]; exact hring
  · rw [hfn, hread]
  · rw [hckpt, hread]; exact (congrArg Fn.ckpt hfnu :)
  · rw [hbru, ← hv]; rfl
  · rw [hcaskv, ← hv]; exact hcask

end Record

theorem caskUnitWrite_deferred {s : State} (hq : s.bru.caskQ ≠ []) (hpoor : s.holdupGood = false) :
    exec .caskUnitWrite s = .next { s with bru := { s.bru with deferred := s.bru.deferred + 1 } } := by
  refine congrArg Host.Outcome.next ?_
  obtain ⟨j, rest, hcons⟩ := List.exists_cons_of_ne_nil hq
  unfold State.caskUnit
  rw [hcons]
  exact if_neg (by simp [hpoor])

/-- Settles O36, by the branches of the store's commands. -/
theorem caskStore : Obligations.CaskStore := by
  intro s f k r c q a
  dsimp only
  intro hwf hrecs
  exact ⟨caskRecordWrite_queued, caskRecordWrite_waits, fun hq hreq hepoch hc hdone =>
    ⟨caskUnitWrite_record hwf hq hreq hc hdone hrecs hepoch, caskDefer_record hwf hq hreq hc hdone⟩, caskUnitWrite_deferred,
    rfl, .of_exec rfl rfl, rfl⟩

end Sys2Proof.Machine
end

section
/-! PROOF of O41 (R302, R305, R434-R441): what writes and reads of registers do. -/

namespace Sys2Proof.Machine

open Sys2Proof

/-! ### Writes -/

section Writes

variable {s : State} {f : Func} {off : BitVec 20} {v : Reg}

/-- A whole aligned write after bring-up reaches BAR0 (R436). -/
theorem exec_regWrite (hstep : s.bru.step = 15) (haligned : off.toNat % 4 = 0) :
    exec (.regWrite f off 0xF v) s = .next (s.writeBar0 f.val off.toNat v) := by
  have hwhole : ¬ ((0xF : BitVec 4) ≠ 0xF ∨ off.toNat % 4 ≠ 0 ∨ s.bru.step = 14) := by simp [haligned, hstep]
  have hdone : ¬ s.bru.step ≠ 15 := by simp [hstep]
  exact congrArg Host.Outcome.next ((if_neg hwhole).trans (if_neg hdone))

theorem regWrite_ignored {be : BitVec 4} (h : be ≠ 0xF ∨ off.toNat % 4 ≠ 0) : exec (.regWrite f off be v) s = .next s :=
  congrArg Host.Outcome.next (if_pos (h.imp_right .inl))

/-- The commands' registers end below VSF_BRU_STAT (R408). -/
theorem State.writeCommand_above {n : Nat} (hn : 0x40C ≤ n) : s.writeCommand n v = s := by
  unfold State.writeCommand
  split
  case h_10 => rfl
  all_goals omega

/-- Below BAR0's function sets lies the wafer block, which function 0 writes. -/
theorem State.writeBar0_wafer {n : Nat} (hn : n < 0x1000) : s.writeBar0 0 n v = s.writeWafer n v :=
  (if_pos hn).trans (if_pos rfl)

/-- The sets of all functions, which function 0 writes (R437). -/
theorem State.writeBar0_set {g o : Nat} (hg : g < 64) (ho : o < 0x100) :
    s.writeBar0 0 (0x2000 + 0x100 * g + o) v = s.writeSet g o v := by
  have hset : (0x2000 + 0x100 * g + o - 0x2000) / 0x100 = g := by omega
  have hoff : (0x2000 + 0x100 * g + o) % 0x100 = o := by omega
  unfold State.writeBar0
  rw [if_neg (by omega), if_neg (by omega), if_neg (by omega), if_pos (by omega), if_pos rfl, hset, hoff]

/-- A virtual function's own set. -/
theorem State.writeBar0_own {n o : Nat} (hn : n ≠ 0) (ho : o < 0x100) (hopen : (s.fnAt n).frozen = false) :
    s.writeBar0 n (0x1000 + o) v = s.writeOwn n o v := by
  unfold State.writeBar0
  rw [if_neg (by omega), if_pos (by omega), if_neg hn, if_neg (by simp [hopen]), Nat.add_sub_cancel_left]

/-- What a virtual function may not write stands (R302, R437). -/
theorem State.writeBar0_denied {n o : Nat} (hn : n ≠ 0)
    (ho : o < 0x1000 ∨ (0x2000 ≤ o ∧ o < 0x6000) ∨ o = 0x1010 ∨ o = 0x1020) : s.writeBar0 n o v = s := by
  unfold State.writeBar0
  obtain hwafer | ⟨hlo, hhi⟩ | rfl | rfl := ho
  · rw [if_pos hwafer, if_neg hn]
  · rw [if_neg (by omega), if_neg (by omega), if_neg (by omega), if_pos hhi, if_neg hn]
  · rw [if_neg (by decide), if_pos (by decide), if_neg hn]
    exact ite_id _
  · rw [if_neg (by decide), if_pos (by decide), if_neg hn]
    exact ite_id _

/-- The base register of a ring's submission queue (R304, R305). -/
theorem State.writeBar0_ring {n r : Nat} (hr : r < 4096) :
    s.writeBar0 n (0x10000 + 64 * r) v = s.ringAccess n r (fun s => s.writeRing n r 0 v) := by
  have hring : (0x10000 + 64 * r - 0x10000) / 64 = r := by omega
  have hoff : (0x10000 + 64 * r) % 64 = 0 := by omega
  unfold State.writeBar0
  rw [if_neg (by omega), if_neg (by omega), if_neg (by omega), if_neg (by omega), if_neg (by omega), if_pos (by omega), hring, hoff]

/-- VSF_VFN_CMD names its function and starts, with its last status kept (R437). -/
theorem State.writeMgrCmd_starts (hidle : s.mgr.go = false) :
    let t := s.writeMgrCmd v
    t.mgr.func.val = bits v.toNat 0 6 ∧ t.mgr.go = bit v.toNat 31 ∧ t.mgr.status = s.mgr.status := by
  have hstarted : s.writeMgrCmd v = { s with mgr := { s.mgr with func := fnOfNat (bits v.toNat 0 6), go := bit v.toNat 31 } } :=
    if_neg (by simp [hidle])
  rw [hstarted]
  exact ⟨Nat.mod_eq_of_lt (Nat.mod_lt _ (by decide)), rfl, rfl⟩

/-- A queue's base is written in OFF alone (R305). -/
theorem State.writeRing_base {n r : Nat} (hwf : s.wf = true) :
    (s.writeRing n r 0 v).ringAt r =
      if (s.ringAt r).st = .off then { s.ringAt r with sqbLo := putFields (s.ringAt r).sqbLo 0xFFFFF000 v } else s.ringAt r :=
  State.ringAt_updRing_same hwf

end Writes

/-- Settles the first part of O41, by the map of BAR0. -/
theorem registerWrites : Says.RegisterWrites := by
  intro s f g off be v r hwf
  dsimp only
  refine ⟨regWrite_ignored, fun hnew hrecovery habove => ?_, fun hstep hbe => ?_⟩
  · refine congrArg Host.Outcome.next ?_
    unfold State.regWrite
    split
    · rfl
    · rw [State.writeCommand_above habove]
      exact ite_id _
  · subst hbe
    refine ⟨fun hf hdenied => ?_, fun hf => ⟨fun hn => ?_, fun hn => ?_, fun hn => ?_, fun hn hgo => ?_, fun hn hgo => ?_, fun hn => ?_⟩,
      fun hf hn hopen => ?_, fun hn => ⟨fun hforeign => ?_, fun hheld hoff => ?_, fun hheld hon => ?_⟩⟩
    · by_cases haligned : off.toNat % 4 = 0
      · rw [exec_regWrite hstep haligned, State.writeBar0_denied hf hdenied]
      · exact regWrite_ignored (.inr haligned)
    · rw [exec_regWrite hstep (by omega), hn, hf, State.writeBar0_set g.isLt (by decide)]
      rfl
    · refine .of_exec ((exec_regWrite hstep (by omega)).trans (by rw [hn, hf, State.writeBar0_set g.isLt (by decide)])) ?_
      have hread := State.fnAt_updFn_same (k := g.val) (g := fun x => { x with cmtTol := v }) hwf
      exact ⟨(congrArg Fn.cmtTol hread :), (congrArg Fn.cmtTolF hread :)⟩
    · rw [exec_regWrite hstep (by omega), hn, hf, State.writeBar0_wafer (by decide)]
      rfl
    · rw [exec_regWrite hstep (by omega), hn, hf, State.writeBar0_wafer (by decide)]
      exact congrArg Host.Outcome.next (if_pos hgo)
    · refine .of_exec ((exec_regWrite hstep (by omega)).trans (by rw [hn, hf, State.writeBar0_wafer (by decide)])) ?_
      exact State.writeMgrCmd_starts hgo
    · rw [exec_regWrite hstep (by omega), hn, hf, State.writeBar0_wafer (by decide)]
      rfl
    · refine .of_exec ((exec_regWrite hstep (by omega)).trans (congrArg Host.Outcome.next
        ((congrArg (fun n => s.writeBar0 f.val n v) hn).trans (State.writeBar0_own (o := 0x34) hf (by decide) hopen)))) ?_
      have hread := State.fnAt_updFn_same (k := f.val) (g := fun x => { x with cmtTol := v }) hwf
      exact (congrArg Fn.cmtTol hread :)
    · rw [exec_regWrite hstep (by omega), hn, State.writeBar0_ring r.isLt, State.ringAccess_denied hstep hforeign]
    · refine .of_exec ((exec_regWrite hstep (by omega)).trans
        (by rw [hn, State.writeBar0_ring r.isLt, State.ringAccess_held hstep hheld])) ?_
      rw [State.writeRing_base hwf, if_pos hoff]
      rfl
    · refine .of_exec ((exec_regWrite hstep (by omega)).trans
        (by rw [hn, State.writeBar0_ring r.isLt, State.ringAccess_held hstep hheld])) ?_
      rw [State.writeRing_base hwf, if_neg hon]

/-! ### Reads -/

section Reads

variable {s : State} {f : Func}

theorem State.readWord_after (hstep : s.bru.step = 15) (n off : Nat) : s.readWord n off = s.readBar0 n off := if_pos hstep

theorem State.readBar0_denied {n off : Nat} (hn : n ≠ 0) (hoff : off < 0x1000 ∨ (0x2000 ≤ off ∧ off < 0x6000)) :
    s.readBar0 n off = 0 := by
  unfold State.readBar0
  obtain hwafer | ⟨hlo, hhi⟩ := hoff
  · rw [if_pos hwafer, if_neg hn]
  · rw [if_neg (by omega), if_neg (by omega), if_neg (by omega), if_pos hhi, if_neg hn]

theorem State.readBar0_own {n o : Nat} (hn : n ≠ 0) (ho : o < 0x100) : s.readBar0 n (0x1000 + o) = s.readOwn n o := by
  unfold State.readBar0
  rw [if_neg (by omega), if_pos (by omega), if_neg hn, Nat.add_sub_cancel_left]

theorem State.readBar0_foreignRing {n r : Nat} (hr : r < 4096) (hforeign : ¬ r ∈ (s.fnAt n).rings) :
    s.readBar0 n (0x10000 + 64 * r) = 0 := by
  have hring : (0x10000 + 64 * r - 0x10000) / 64 = r := by omega
  unfold State.readBar0
  rw [if_neg (by omega), if_neg (by omega), if_neg (by omega), if_neg (by omega), if_neg (by omega), if_pos (by omega), hring]
  exact if_neg (by simpa using hforeign)

/-- The doorbells are write-only (R307). -/
theorem State.doorRead_bell (n r : Nat) : s.doorRead n (0x1000 * r) = 0 := by
  have hoff : 0x1000 * r % 0x1000 = 0 := Nat.mul_mod_right _ _
  unfold State.doorRead Ring.readDoor
  rw [hoff]
  exact ite_id _

/-- The two halves of the tick number, the upper latched with the lower (R436). -/
theorem tick_halves (num : BitVec 48) :
    (BitVec.ofNat 16 (bits num.toNat 32 16)).toNat * 2 ^ 32 + (BitVec.ofNat 32 num.toNat).toNat = num.toNat := by
  have hlt := num.isLt
  simp only [bits, BitVec.toNat_ofNat]
  omega

end Reads

/-! ### The mash units in service (R440) -/

theorem popCount_le (v n : Nat) : popCount v n ≤ n := by
  induction n with
  | zero => exact le_rfl
  | succ n ih =>
    have hbit : b2n (bit v n) ≤ 1 := by cases bit v n <;> decide
    simp only [popCount]
    omega

/-- The least of a list and a bound is at most each of them. -/
theorem foldl_min_le (l : List Nat) (n : Nat) : l.foldl Nat.min n ≤ n ∧ ∀ m ∈ l, l.foldl Nat.min n ≤ m := by
  induction l generalizing n with
  | nil => exact ⟨le_rfl, by simp⟩
  | cons m l ih =>
    obtain ⟨hle, hall⟩ := ih (Nat.min n m)
    refine ⟨hle.trans (Nat.min_le_left n m), fun k hk => ?_⟩
    obtain rfl | hk := List.mem_cons.mp hk
    · exact hle.trans (Nat.min_le_right n k)
    · exact hall k hk

theorem State.mshStat_fields (s : State) :
    bits s.mshStat 0 8 = s.runits ∧ bits s.mshStat 8 8 = s.hmin ∧ bits s.mshStat 16 8 = s.hdeg := by
  have hroot : s.runits ≤ 32 := popCount_le _ _
  have hmin : s.hmin ≤ 8 := (foldl_min_le _ _).1
  have hdeg : s.hdeg ≤ 84 := by
    refine (List.length_filter_le _ _).trans ((List.length_filter_le _ _).trans ?_)
    exact List.length_range.le
  unfold State.mshStat bits
  omega

/-- Settles the second part of O41, by the map of BAR0 and of the doorbell pages. -/
theorem registerReads : Says.RegisterReads := by
  intro s f v off r hwf hstep
  refine ⟨fun hf hdenied => ?_, fun hf hopen => ?_, ?_, ?_, fun hforeign => ?_, State.doorRead_bell _ _⟩
  · rw [State.readWord_after hstep, State.readBar0_denied hf hdenied]
  · refine .of_exec ((exec_regWrite hstep (by decide)).trans
      (congrArg Host.Outcome.next (State.writeBar0_own (o := 0x34) hf (by decide) hopen))) ?_
    have hread := State.fnAt_updFn_same (k := f.val) (g := fun x => { x with cmtTol := v }) hwf
    rw [State.readWord_after (show (s.writeOwn f.val 0x34 v).bru.step = 15 from hstep)]
    exact (State.readBar0_own (o := 0x34) hf (by decide)).trans (congrArg (fun x : Fn => x.cmtTol.toNat) hread)
  · refine .of_exec (congrArg Host.Outcome.next (if_pos hstep)) ⟨BitVec.ofNat 32 s.tick.num.toNat, rfl, ?_⟩
    rw [State.readWord_after (show s.latchNow.bru.step = 15 from hstep)]
    exact tick_halves _
  · obtain ⟨hroot, hmin, hdeg⟩ := s.mshStat_fields
    have hread : s.readWord 0 0x0A0 = s.mshStat := State.readWord_after hstep 0 0x0A0
    dsimp only
    rw [hread, hroot, hmin, hdeg]
    exact ⟨rfl, fun h hh => (foldl_min_le _ _).2 _ (List.mem_map.mpr ⟨h, hh, rfl⟩), rfl⟩
  · rw [State.readWord_after hstep, State.readBar0_foreignRing r.isLt hforeign]

/-- Settles O41, by its two parts. -/
theorem registerAccess : Obligations.RegisterAccess := ⟨registerWrites, registerReads⟩

end Sys2Proof.Machine
end
